-- ==== Sys2Proof/Word.lean ====
section
/-! DEFINITION. Word types, and the shape of a register, of a register field and of a sparse map. -/

namespace Sys2Proof.Machine

abbrev Byte := BitVec 8
abbrev W32 := BitVec 32
abbrev W64 := BitVec 64

/-- A finite map by number, as plain data: a list of (key, value) in rising order of keys. -/
abbrev SMap (α : Type) := List (Nat × α)

/-- One register of the device, as its table in the spec gives it (R8, R10, R524). Instance (i, j) lies at the
configuration offset `base + s1*i + s2*j`, with i below `n1` and j below `n2`. -/
structure Reg where
  name : String
  base : Nat
  n1 : Nat
  s1 : Nat
  n2 : Nat
  s2 : Nat
  /-- the value after POR_N release -/
  rst : Nat
  /-- the bits a warm reset leaves unchanged (R424) -/
  keep : Nat
  /-- bits of RW fields -/
  rw : Nat
  /-- bits of W1C fields -/
  w1c : Nat
  /-- bits of WO fields -/
  wo : Nat
  deriving DecidableEq, Repr

/-- One field of a register: its lowest bit and its width. -/
structure Fld where
  reg : Reg
  lo : Nat
  w : Nat
  deriving DecidableEq, Repr

end Sys2Proof.Machine
end

