-- ==== Sys2Proof/Syntax.lean ====
section
/-! DEFINITION. The commands of the block: one constructor for each row of the opcode table, with what comes from
outside the block as its operands. Frames, host accesses, sensor readings and raw memory errors are operands, because
the surroundings make them (R3). -/

namespace Sys2Proof

/-- A Garine frame as it arrives at a port (R351 to R355): the decoded header fields, the payload as carried
(encrypted for every type but IDENT and KEYX), its tag and its CRC. -/
structure RxFrame where
  port : Nat
  /-- every RS codeword of the frame decoded (R349) -/
  fecOk : Bool
  /-- X of the header: extended layout -/
  ext : Bool
  type : Nat
  len : Nat
  lseq : Nat
  lack : Nat
  alive : Nat
  dst : Nat
  src : Nat
  eseq : Nat
  addr : Nat
  kep : Nat
  rpath : Nat
  path : Nat
  /-- the reserved bits of the header, as one number -/
  resv : Nat
  payload : List (BitVec 8)
  tag : List (BitVec 8)
  crc : List (BitVec 8)
  deriving DecidableEq, Repr

/-- A host access through a BAR: an offset, a width in bytes, and for a write its bytes. -/
structure HostAccess where
  write : Bool
  off : Nat
  width : Nat
  data : List (BitVec 8)
  deriving DecidableEq, Repr

/-- How a PCIe request to the host window ended (R373). -/
inductive HostReply where
  | done (data : List (BitVec 8))
  | timeout
  | unsupported
  | abort
  deriving DecidableEq, Repr

/-- A host configuration write to the endpoint (R370). -/
inductive PcieCfgWrite where
  | busMaster (on : Bool)
  | msixEnable (on : Bool)
  | msixMask (on : Bool)
  | powerState (d3hot : Bool)
  | bar0 (base : Nat)
  | bar2 (base : Nat)
  | maxPayload (code : Nat)
  | maxReadRequest (code : Nat)
  | aspmL1 (on : Bool)
  deriving DecidableEq, Repr

/-- The kinds of trough messages: contributions of the phases EMAX, ADD and ASEND, the exponent messages ESEND and
EFETCH, and those that end a stage (R201, R206, R207). -/
inductive TroughKind where
  | emax
  | add
  | asend
  | esend
  | efetch
  | prepare
  | commit
  | abort
  deriving DecidableEq, Repr

/-- A trough message, or the acknowledgement of one: from a pond's trough of one device to a pond's trough of another or
the same device, for the command that `dev`, `queue` and `seq` name. -/
structure TroughMsg where
  kind : TroughKind
  ack : Bool
  srcDev : Nat
  src : Nat
  dstDev : Nat
  dst : Nat
  dev : Nat
  queue : Nat
  seq : Nat
  /-- the key of R191 as one number -/
  key : Nat
  /-- a window exponent field, and NF -/
  e : Nat
  nf : Bool
  /-- FP32 codes of 32 elements (ADD), or 32 window values (ASEND) -/
  w : List Nat
  /-- contributions (ASEND: those added into the value; PREPARE: those sent to this home) -/
  count : Nat
  /-- acknowledgement: done, or refused -/
  ok : Bool
  deriving DecidableEq, Repr

/-- The erroneous symbols of a block's two codewords as a read meets them (R340): positions 0 to 127 are data symbols,
128 to 135 check symbols, and 136 to 140 the address symbols A4 to A0 (a block of another address was read); each with
its error value. -/
structure RawErrors where
  cw0 : List (Nat × Nat)
  cw1 : List (Nat × Nat)
  deriving DecidableEq, Repr

/-- A controller's read of one block (R341): who asks, the physical address, the errors met at the lane's centre, and
those met at a probe's sample point (R345; they count only while a probe phase runs). -/
structure MemRead where
  pond : Nat
  pa : Nat
  prefetch : Bool
  err : RawErrors
  sample : RawErrors
  deriving DecidableEq, Repr

/-- A write that reaches its controller (R325): a physical address and the bytes. -/
structure MemWrite where
  pa : Nat
  data : List (BitVec 8)
  deriving DecidableEq, Repr

/-- What a slab word holds (R337): the number of wrong bits in the word, and how many words of the rebuild sources
fail their inner code. -/
structure SlabErrors where
  bits : Nat
  badSources : Nat
  deriving DecidableEq, Repr

/-- What the boot finds (R460 to R474): the flash's density in MiB and, where the board has programmed it, its content
(unlisted bytes erased, 0xFF); whether the PUF's reconstruction and the entropy source's start-up tests pass; the
controllers whose stacks fail training (R468); and the slab banks that fail their power-on check (R339), as
(2 × pond + die, bank). -/
structure BootInput where
  density : Nat
  flash : Option (List (Nat × BitVec 8))
  pufOk : Bool
  rngOk : Bool
  badStacks : List Nat
  badBanks : List (Nat × Nat)
  deriving DecidableEq, Repr

/-- An SPDM or IDE_KM request as its bytes, and the path it came by: false DOE on PCIe, true MCTP on SMB0 (R477). -/
structure SpdmMsg where
  mctp : Bool
  session : Nat
  bytes : List (BitVec 8)
  deriving DecidableEq, Repr

/-- A register access from one of the paths of R525 to a configuration offset: its width in bytes and its value. -/
structure RegWrite where
  off : Nat
  width : Nat
  value : Nat
  deriving DecidableEq, Repr

/-- The TAP's instructions (R515); their codes are not given. -/
inductive TapInstr where
  | bypass
  | sample
  | extest
  | highz
  | clamp
  | extestPulse
  | extestTrain
  deriving DecidableEq, Repr

/-- Operations at the TAP (R515): load an instruction, shift bits through the register it selects, reset. -/
inductive TapOp where
  | instr (i : TapInstr)
  | shiftBoundary (bits : List Bool)
  | reset
  deriving DecidableEq, Repr

/-- The commands, one constructor for each row of the opcode table. Some rows without operands come last: Lean compiles
no constructor with arguments beyond the 244th. -/
inductive Instr where
  /-- R294. A producer writes QTAB_TAIL and the device accepts the posted entries, assigns each its SEQ, or refuses the doorbell and sets BAD_DB. -/
  | tailDoorbell (q value : Nat)
  /-- R289. A write to a queue-table entry sets up or enables a queue; setting EN accepts entries counted while EN was 0 and writes their SEQ. -/
  | qtabCfgWrite (q value : Nat)
  /-- R302. A QTAB_CTRL RESUME write lets a halted queue start its next entry. -/
  | resume (q : Nat)
  /-- R302. A QTAB_CTRL DISCARD write retires every accepted, unretired entry of a halted queue with status 0x3F, then resumes the queue. -/
  | discard (q : Nat)
  /-- R304. The reader advances CHEAD, freeing completion-ring space for a retirement that waits with CWAIT set. -/
  | qtabCheadWrite (q value : Nat)
  /-- R299. A queue's head command starts once order, FENCE, its wait and its consumer allow; its header and body are checked first. -/
  | commandStart (q : Nat)
  /-- R300. A finished command retires in queue order, committing retire-time effects, writing the journal, signalling SSEM and writing its completion record. -/
  | commandRetire (q : Nat)
  /-- R305. The control command NOP does nothing beyond retiring. -/
  | nop (q : Nat)
  /-- R305. The SIGNAL command signals a local or far semaphore by AMOUNT at retire. -/
  | signal (q : Nat)
  /-- R305. The WAITSEM command waits once at start until a semaphore reaches N and subtracts it. -/
  | waitsem (q : Nat)
  /-- R305. The DECSEM command decrements a semaphore at retire, or retires with status 0x12 if the value is too small. -/
  | decsem (q : Nat)
  /-- R311. A BARRIER command counts its participant's arrival into the current or next round, or completes as an overrun with status 0x13. -/
  | barrier (q : Nat)
  /-- R305. The BAR_INIT command sets a barrier's participant count at retire, or fails with status 0x10 if arrivals are pending. -/
  | barInit (q : Nat)
  /-- R305. The SEMSET command sets a semaphore's value at retire and serves its waiters. -/
  | semset (q : Nat)
  /-- R306. A register write to SEM_VAL sets a semaphore's value and serves its waiters, or is refused with SEM_RANGE for a local value above 0xFFFF. -/
  | semValWrite (off value : Nat)
  /-- R308. A host write to FSEM_SIGn signals far semaphore n by AMOUNT. -/
  | fsemSigWrite (n amount : Nat)
  /-- R285. GRUN loads a program image into a general core and runs it from ENTRY with its four arguments. -/
  | grun (q : Nat)
  /-- R267. The GC instruction ADD writes RA + RB into RD. -/
  | add (g : Nat)
  /-- R267. The GC instruction SUB writes RA − RB into RD. -/
  | sub (g : Nat)
  /-- R267. The GC instruction MUL writes the low 64 bits of RA × RB into RD. -/
  | mul (g : Nat)
  /-- R267. The GC instruction AND writes the bitwise AND of RA and RB into RD. -/
  | and_ (g : Nat)
  /-- R267. The GC instruction OR writes the bitwise OR of RA and RB into RD. -/
  | or_ (g : Nat)
  /-- R267. The GC instruction XOR writes the bitwise XOR of RA and RB into RD. -/
  | xor (g : Nat)
  /-- R267. The GC instruction SHL shifts RA left by RB[5:0]. -/
  | shl (g : Nat)
  /-- R267. The GC instruction SHR shifts RA right logically by RB[5:0]. -/
  | shr (g : Nat)
  /-- R267. The GC instruction CMPLU writes 1 if RA < RB unsigned, else 0. -/
  | cmplu (g : Nat)
  /-- R268. The GC instruction FADD adds two FP32 values with one rounding to nearest even. -/
  | fadd (g : Nat)
  /-- R268. The GC instruction FSUB subtracts two FP32 values with one rounding. -/
  | fsub (g : Nat)
  /-- R268. The GC instruction FMUL multiplies two FP32 values with one rounding. -/
  | fmul (g : Nat)
  /-- R268. The GC instruction FDIV divides two FP32 values with one rounding. -/
  | fdiv (g : Nat)
  /-- R268. The GC instruction FSQRT takes the FP32 square root of RA. -/
  | fsqrt (g : Nat)
  /-- R268. The GC instruction FCMPLT writes 1 if RA < RB as FP32, 0 otherwise or on NaN. -/
  | fcmplt (g : Nat)
  /-- R268. The GC instruction FCVTI converts FP32 to a saturated signed 64-bit integer, rounding to nearest even. -/
  | fcvti (g : Nat)
  /-- R268. The GC instruction ICVTF converts a signed 64-bit integer to FP32. -/
  | icvtf (g : Nat)
  /-- R271. The GC instruction FENCE waits until every earlier load, store and ISSUE has completed and any error has been reported. -/
  | fence (g : Nat)
  /-- R272. The GC instruction YIELD suspends the program until a semaphore signal, a retirement of the home core's engine or RA nanoseconds. -/
  | yield (g : Nat)
  /-- R272. The RA-nanosecond limit of a YIELD expires and the program continues. -/
  | yieldTimeout (g : Nat)
  /-- R283. The GC instruction HALT waits as FENCE does and ends the GRUN with status RA[7:0], or raises HALT_CODE. -/
  | halt (g : Nat)
  /-- R282. The GC instruction TRET returns from the owner handler to EPC in mode PMODE and clears INH. -/
  | tret (g : Nat)
  /-- R282. The GC instruction TRAP enters the owner handler with a service number. -/
  | trap (g : Nat)
  /-- R267. The GC instruction ADDK adds a sign-extended immediate to RA. -/
  | addk (g : Nat)
  /-- R267. The GC instruction ANDK ANDs RA with a zero-extended immediate. -/
  | andk (g : Nat)
  /-- R267. The GC instruction ORK ORs RA with a zero-extended immediate. -/
  | ork (g : Nat)
  /-- R267. The GC instruction SHLK shifts RA left by an immediate. -/
  | shlk (g : Nat)
  /-- R267. The GC instruction SHRK shifts RA right logically by an immediate. -/
  | shrk (g : Nat)
  /-- R267. The GC instruction SARK shifts RA right arithmetically by an immediate. -/
  | sark (g : Nat)
  /-- R267. The GC instruction HIK writes the sign-extended immediate shifted left by 16. -/
  | hik (g : Nat)
  /-- R267. The GC instruction LD8 loads a zero-extended byte. -/
  | ld8 (g : Nat)
  /-- R267. The GC instruction LD16 loads a zero-extended 16-bit value. -/
  | ld16 (g : Nat)
  /-- R267. The GC instruction LD32 loads a zero-extended 32-bit value. -/
  | ld32 (g : Nat)
  /-- R267. The GC instruction LD64 loads a 64-bit value. -/
  | ld64 (g : Nat)
  /-- R267. The GC instruction ST8 stores the low byte of RB. -/
  | st8 (g : Nat)
  /-- R267. The GC instruction ST16 stores the low 16 bits of RB. -/
  | st16 (g : Nat)
  /-- R267. The GC instruction ST32 stores the low 32 bits of RB. -/
  | st32 (g : Nat)
  /-- R267. The GC instruction ST64 stores RB. -/
  | st64 (g : Nat)
  /-- R267. The GC instruction BREQ branches if RA equals RB. -/
  | breq (g : Nat)
  /-- R267. The GC instruction BRNE branches if RA differs from RB. -/
  | brne (g : Nat)
  /-- R267. The GC instruction BRLT branches if RA < RB signed. -/
  | brlt (g : Nat)
  /-- R267. The GC instruction BRGE branches if RA ≥ RB signed. -/
  | brge (g : Nat)
  /-- R267. The GC instruction BRLTU branches if RA < RB unsigned. -/
  | brltu (g : Nat)
  /-- R267. The GC instruction BRGEU branches if RA ≥ RB unsigned. -/
  | brgeu (g : Nat)
  /-- R267. The GC instruction CALL saves pc + 4 and jumps by a signed 21-bit offset. -/
  | call (g : Nat)
  /-- R267. The GC instruction CALLR saves pc + 4 and jumps to RA plus an immediate. -/
  | callr (g : Nat)
  /-- R284. The GC instruction CRR reads a control register of the core's own page. -/
  | crr (g : Nat)
  /-- R284. The GC instruction CRW writes a control register in owner mode. -/
  | crw (g : Nat)
  /-- R273. The GC instruction ISSUE appends a 64-byte command to a queue and rings its doorbell, waiting or returning 0 on a full ring. -/
  | issue (g : Nat)
  /-- R274. The GC instruction SIG signals a local or far semaphore. -/
  | sig (g : Nat)
  /-- R274. The GC instruction WAIT blocks until a semaphore reaches RB and subtracts it. -/
  | wait (g : Nat)
  /-- R274. The GC instruction TRYWAIT subtracts RB if no waiter is queued and the value suffices, without blocking. -/
  | trywait (g : Nat)
  /-- R274. The GC instruction DEC decrements a semaphore or raises SEM_UNDER. -/
  | dec (g : Nat)
  /-- R275. The GC instruction SUMR returns a whole summary register. -/
  | sumr (g : Nat)
  /-- R79. SAMPLE expands a seed list hop by hop with the counter-based generator and writes sampled blocks. -/
  | sample (q : Nat)
  /-- R78. A sampling request has no reply within GSV_REMOTE.TIMEOUT; it is counted in RTO and the SAMPLE completes with status 0x3F. -/
  | samplingTimeout (id : Nat)
  /-- R86. GATHER binds its table version and reads the rows of an index list into a destination. -/
  | gather (q : Nat)
  /-- R89. TABLE_SWITCH moves a table's current version to old, installs the new one, and retires when the old version's in-flight count reaches zero. -/
  | tableSwitch (q : Nat)
  /-- R92. HOT_REFRESH builds the next hot-row replica set in each pond's shadow half. -/
  | hotRefresh (q : Nat)
  /-- R148. MLOAD loads B tiles into shadow weight planes and recodes them into signed digits. -/
  | mload (q : Nat)
  /-- R126. An array swaps its active and shadow weight planes once a load has ended and no earlier wave needs the active plane. -/
  | planeSwap (m array : Nat)
  /-- R149. MMUL streams A tiles through the active planes and accumulates partials into the accumulator store in K order. -/
  | mmul (q : Nat)
  /-- R150. MSTORE writes accumulators out as FP32 or BF16. -/
  | mstore (q : Nat)
  /-- R186. VPLOAD checks an element program image and makes it resident in a slot. -/
  | vpload (q : Nat)
  /-- R187. VEXEC runs a resident element program over COUNT elements with its streams and summaries. -/
  | vexec (q : Nat)
  /-- R188. VTRANS transposes a matrix of 1-, 2- or 4-byte elements. -/
  | vtrans (q : Nat)
  /-- R189. VMASK fills, combines, loads or stores mask registers. -/
  | vmask (q : Nat)
  /-- R210. TRESET clears a trough's committed slots and spill area and applies a changed trough size. -/
  | treset (q : Nat)
  /-- R201. TSCAT with OP EMAX raises each key's committed window exponent from its contributions. -/
  | tscatEmax (q : Nat)
  /-- R201. TSCAT with OP ADD adds contributions into staged slots under each key's exponent, committed at retire. -/
  | tscatAdd (q : Nat)
  /-- R201. TEXCH with OP ESEND sends each remote key's exponent and NF to its owner's home. -/
  | texchEsend (q : Nat)
  /-- R201. TEXCH with OP EFETCH fetches each remote key's exponent and NF from its owner's home. -/
  | texchEfetch (q : Nat)
  /-- R201. TEXCH with OP ASEND sends each remote key's window value to its owner as a staged contribution. -/
  | texchAsend (q : Nat)
  /-- R213. TMERGE converts each key owned here once and writes dense rows or a row gradient list. -/
  | tmerge (q : Nat)
  /-- R224. TCODEC compresses or expands A tiles. -/
  | tcodec (q : Nat)
  /-- R197. A scatter contribution reaches its home trough and is placed in a slot, evicting a victim if needed. -/
  | troughContribution (m : TroughMsg)
  /-- R201. An ESEND or EFETCH message reaches an owner's home, which applies or returns the key's exponent and NF. -/
  | troughExponentMessage (m : TroughMsg)
  /-- R206. A home receives PREPARE for a stage, checks the count and reserves spill records or refuses. -/
  | prepare (m : TroughMsg)
  /-- R206. A home receives COMMIT for a stage and adds it into committed contents. -/
  | commit (m : TroughMsg)
  /-- R207. A home receives ABORT for a stage, discards it and releases its reservation. -/
  | abort (m : TroughMsg)
  /-- R449. A trough evicts committed slots in the background while occupancy exceeds its threshold θ. -/
  | troughBackgroundEvict (p : Nat)
  /-- R449. After 65,536 placements a trough raises or lowers its spill threshold θ. -/
  | spillThresholdAdjust (p : Nat)
  /-- R219. PRUNE_MASK computes a new pruning mask half when t is a multiple of the period. -/
  | pruneMask (q : Nat)
  /-- R220. PRUNE_PACK packs the working copy into 2:4 or dense B tiles under the current mask. -/
  | prunePack (q : Nat)
  /-- R240. UPDATE applies the update rule to blocks of a dense tensor into the other buffer, or copies them on a skipped step. -/
  | update (q : Nat)
  /-- R242. ROW_UPDATE applies ADAPT lazily to each listed table row through the redo slot. -/
  | rowUpdate (q : Nat)
  /-- R246. FLAG_LOCAL sets SF to LNF and AGREED to 1 for a single-device job. -/
  | flagLocal (q : Nat)
  /-- R247. STEP_CLOSE closes the step at retire: advances counters, swaps buffers, updates the loss scale and writes the journal. -/
  | stepClose (q : Nat)
  /-- R250. PC_SWITCH marks a preconditioner switch pending for the next STEP_CLOSE. -/
  | pcSwitch (q : Nat)
  /-- R254. REPLAY_BEGIN loads a journal record into a replay context and sets REPLAY. -/
  | replayBegin (q : Nat)
  /-- R254. REPLAY_END folds both check logs, clears REPLAY and writes the result record. -/
  | replayEnd (q : Nat)
  /-- R389. XFER moves or checks bytes between two fabric addresses. -/
  | xfer (q : Nat)
  /-- R390. ALLREDUCE reduces a tensor exactly through window blocks and gives every member the result. -/
  | allreduce (q : Nat)
  /-- R390. REDUCE_SCATTER reduces a tensor exactly and leaves each shard on its owner. -/
  | reduceScatter (q : Nat)
  /-- R385. ALLGATHER gathers every rank's shard into the whole tensor on every member. -/
  | allgather (q : Nat)
  /-- R401. ALLTOALL exchanges variable segments among the group's members. -/
  | alltoall (q : Nat)
  /-- R385. BROADCAST copies a byte range from the root to every member. -/
  | broadcast (q : Nat)
  /-- R385. MAXREDUCE takes element-wise maxima across the group. -/
  | maxreduce (q : Nat)
  /-- R403. PERMUTE moves byte ranges among members by a checked permutation table. -/
  | permute (q : Nat)
  /-- R398. SEEDS_SET records a proposed seed count per device for the next step boundary. -/
  | seedsSet (q : Nat)
  /-- R391. A COLL data chunk arrives and is applied in ESEQ order to the collective's work or output. -/
  | collChunk (f : RxFrame)
  /-- R391. A COLL acknowledgement chunk frees the acknowledged frames of the reverse stream. -/
  | collAck (f : RxFrame)
  /-- R387. A DONE chunk records that a member has finished its part, with its flag and statistics. -/
  | collDone (f : RxFrame)
  /-- R386. An ABORT chunk makes the member complete the collective with status 0x3F. -/
  | collAbort (f : RxFrame)
  /-- R453. REST asks the device to enter the deepest allowed low-power state that fits the time to the next event. -/
  | rest (q : Nat)
  /-- R456. Every SAMPLE_MS in Drowse the Sheepdog compares thresholds and wakes the device on a crossing. -/
  | drowseSample (readings : List (Nat × Int))
  /-- R452. A pond idle for LULL_US enters lull. -/
  | pondLull (p : Nat)
  /-- R452. A doorbell, signal, scratch access, trough message, sampling request or Sheepdog action wakes a lulled pond. -/
  | pondWake (p : Nat)
  /-- R44. A write to TIME_EPOCH on the master sets the count at the next beacon and writes epoch markers. -/
  | timeEpochWrite (value : Nat)
  /-- R47. A TIME message arrives and the follower computes its offset and slews or steps its count. The frame crossed the
  PCS `rxAgo` ns ago, and what answers it crosses the PCS `txIn` ns from now. -/
  | timeFrame (f : RxFrame) (rxAgo txIn : Nat)
  /-- R31. A replica checker mismatching more than 4 times in 2²⁰ handshakes raises both trims one step. -/
  | trimRaise (p region : Nat)
  /-- R31. A replica checker with no mismatch in 2²⁴ handshakes lowers both trims one step, not below the boot value. -/
  | trimLower (p region : Nat)
  /-- R35. Pond voltage falls below 0.55 V and every handshake of the pond is held at its next stage boundary. -/
  | uvHold (p : Nat)
  /-- R35. Voltage stays above 0.58 V for 1 µs and the hold releases. -/
  | uvHoldRelease (p : Nat)
  /-- R35. A hold lasts 1 ms, or voltage falls below 0.45 V, and every core of the pond takes the core fault path. -/
  | uvHoldTimeout (p : Nat)
  /-- R355. A CTRL frame arrives carrying the expected LSEQ, a NAK and credit returns. -/
  | ctrlFrame (f : RxFrame)
  /-- R365. An IDENT frame arrives with the neighbour's device number, port and identity key. -/
  | ident (f : RxFrame)
  /-- R365. A KEYX frame arrives, its signature is verified and link keys are derived, or the port goes DOWN. -/
  | keyx (f : RxFrame)
  /-- R365. KEYX does not complete within 10 ms; the port returns to DOWN and sets AUTH_FAIL. -/
  | keyxTimeout (port : Nat)
  /-- R355. A WRITE frame arrives and its data are written at the destination, or refused. -/
  | writeFrame (f : RxFrame)
  /-- R355. A READ_REQ frame arrives and the destination reads and answers with READ_RSP. -/
  | readReq (f : RxFrame)
  /-- R308. A SIGNAL frame arrives and signals a far semaphore. -/
  | signalFrame (f : RxFrame)
  /-- R78. A sampling request arrives at the owner and a serving pond samples the node and replies. -/
  | sampleReq (f : RxFrame)
  /-- R363. A MGMT_WR frame writes a configuration register at its target, or is forwarded along its path. -/
  | mgmtWr (f : RxFrame)
  /-- R363. A MGMT_RD frame reads a configuration register at its target, or is forwarded along its path. -/
  | mgmtRd (f : RxFrame)
  /-- R375. An IRQ frame reaches the bellwether, which raises the MSI-X vector. -/
  | irqFrame (f : RxFrame)
  /-- R355. A WRITE_ACK arrives and completes a write, signal, MGMT write or IRQ request. -/
  | writeAck (f : RxFrame)
  /-- R355. A READ_RSP arrives with the data of a read request. -/
  | readRsp (f : RxFrame)
  /-- R77. A sampling reply arrives and is placed by destination in the sampled block. -/
  | sampleRsp (f : RxFrame)
  /-- R357. No outgoing frame carries an acknowledgement within 0.5 µs, so a CTRL frame is sent. -/
  | ackTimer (port : Nat)
  /-- R357. 1.2 µs pass without ack progress and every unacknowledged frame is resent; after 8 resends the port enters RETRAIN. -/
  | resendTimeout (port : Nat)
  /-- R358. Link training ends and the port returns to UP, enters KEYX, or goes to DOWN on too few lanes. -/
  | linkTrainingDone (port lanes : Nat) (full : Bool)
  /-- R358. RETRAIN lasts 1 ms and the port goes to DOWN, rerouting its traffic. -/
  | retrainTimeout (port : Nat)
  /-- R358. Once per second a dropped lane is checked; after 10 passes the port retrains to include it. -/
  | laneRecheck (port lane : Nat) (pass : Bool)
  /-- R363. A DOWN port with EN set enters TRAIN every 100 ms. -/
  | portTrainRetry (port : Nat)
  /-- R367. After 10⁶ codewords a lane's equaliser moves one step, or undoes a step that raised errors. -/
  | equaliserStep (port lane errs : Nat) (up : Bool) (height width : Nat)
  /-- R365. A direction's LSEQ passes 2³¹ and the ends run KEYX again to derive the next key pair. -/
  | rekey (port : Nat)
  /-- R360. A request has no response within E2E_US and is sent once more; a second expiry declares the destination lost.
  `seq`: the ESEQ, and above its 16 bits the virtual channel. -/
  | e2eTimeout (dst seq : Nat)
  /-- R363. A write to LNK_CFG sets the port's bounds and expectation and returns an ISOLATED port to DOWN. -/
  | lnkCfgWrite (port value : Nat)
  /-- R371. A host access through BAR0 reaches the bellwether's configuration space or MSI-X structures. -/
  | bar0Access (a : HostAccess)
  /-- R372. A host access through a BAR2 window reaches a device's memory or configuration space, locally or by frames. -/
  | bar2Access (a : HostAccess)
  /-- R373. A host-window PCIe request completes, or times out, and its requester is answered. -/
  | hostWindowCompletion (id : Nat) (r : HostReply)
  /-- R376. A poisoned TLP from the host is discarded, reported by AER and fails a reading command with 0x30. -/
  | poisonedTlp (id : Option Nat)
  /-- R369. The PCIe port does not reach L0 within 200 ms and is disabled until POR_N. -/
  | pcieTrainingTimeout
  /-- R341. A memory controller reads a block, decodes its codewords and delivers, corrects or poisons it. -/
  | memoryRead (r : MemRead)
  /-- R325. A write reaches its controller, which invalidates every pond copy, writes the memory and acknowledges. -/
  | memoryWrite (r : MemWrite)
  /-- R326. A pond hub receives an invalidation, drops the line or marks an outstanding fill stale, and acknowledges. -/
  | invalidation (p line : Nat)
  /-- R326. A fill returns to the pond hub and is delivered and installed unless stale. -/
  | pondCacheFill (p line : Nat)
  /-- R330. After a window of 4,096 prefetches a pond's prefetch depth rises or falls by one. -/
  | prefetchDepthAdjust (p : Nat)
  /-- R343. Patrol scrub reads a block, rewrites corrected blocks and adjusts the period at the end of a pass. -/
  | patrolScrub (chan block : Nat) (e sample : RawErrors) (last : Bool)
  /-- R343. The slab patrol reads a word and rebuilds it where needed. -/
  | slabScrub (p off : Nat) (e : SlabErrors)
  /-- R337. A slab read corrects single-bit errors and rebuilds double-bit errors from parity, or reports an uncorrectable error. -/
  | slabRead (p off : Nat) (e : SlabErrors)
  /-- R345. Every PERIOD_MS a channel starts a probe of its next DQ lane at +δ. -/
  | calibrationProbe (chan : Nat)
  /-- R347. A probe phase gathers WIN reads or aborts, and after both phases the lane's centre may move one step. -/
  | probePhaseEnd (chan : Nat)
  /-- R346. A phase that has not gathered WIN reads within 50 ms is abandoned. -/
  | probeAbandon (chan : Nat)
  /-- R333. A write to MEM_TLBINV purges matching TLB and walk-cache entries, or is ignored while BUSY. -/
  | tlbInvalidate (value : Nat)
  /-- R333. Every access translated by a purged entry has reached its controller and BUSY clears. -/
  | tlbInvalidateDone
  /-- R317. A pending slab partition change takes effect at a step boundary or when the pond becomes idle. -/
  | slabReconfigure (p : Nat)
  /-- R412. A region fails a built-in check or gets a neighbour report and is fenced, its queues rebound and rebuilt on a peer. -/
  | regionFence (handle cause : Nat)
  /-- R412. A started command makes no progress for STALL_US and its region is fenced. -/
  | stallLimit (q : Nat)
  /-- R413. Between commands a unit serving two contexts saves one context and loads or rebuilds the other. -/
  | contextSwitch (unit incoming : Nat)
  /-- R411. A fatal fault asserts FAULT_N, freezes the silt record and stops all work. -/
  | fatalFault (cause : Nat)
  /-- R424. A write of FLT_CTRL.WRST starts a warm reset that stops commands, commits stages and resets ponds and controllers. -/
  | warmReset
  /-- R512. A falling edge on WRST_N starts a warm reset. -/
  | wrstN
  /-- R425. Memory is retrained, rebuild logs have run and WRST_N is high, so queues resume and held doorbells are acknowledged. -/
  | warmResetDone (lost : List (Nat × Nat))
  /-- R426. A write of GO to SNAP_CTRL arms a snapshot for a data step, or sets LATE or BUSY_REJ. -/
  | snapshotArm (value : Nat)
  /-- R428. The last byte of a drained buffer is written and the buffer is released to a waiting UPDATE. -/
  | snapshotBufferRelease
  /-- R431. The drain writes its end section, sets DONE and raises its vector. -/
  | snapshotDone
  /-- R433. A write of GO to SNAP_RST applies every register pair and queue section of an image, or sets ERR. -/
  | snapshotRestore (value : Nat)
  /-- R435. A write of UNFREEZE to SILT_CTL resumes recording into the silt ring. -/
  | siltUnfreeze
  /-- R438. Every 100 µs the temperature sensors are sampled, sensors excluded and pond temperatures formed. -/
  | temperatureSample (temps : List (Nat × Int)) (rails : List Nat)
  /-- R444. Every 10 µs pond voltages and phase currents are sampled; failing phases are disabled and current ceilings step down. -/
  | currentSample (volts : List (Nat × Nat)) (phases : List (Nat × Nat)) (vinMa : Nat)
  /-- R507. A rail stays outside its range for 10 µs and RAIL_STAT records it, with loss of VDD_FAB fatal. -/
  | railOutOfRange (rail mv : Nat)
  /-- R445. Every millisecond the thermal and power terms of each pond's voltage ceiling fall or rise. -/
  | ceilingUpdate
  /-- R446. Every 100 µs each pond's voltage target moves with demand and the pond runs at the lower of target and ceiling. -/
  | voltageTargetUpdate (busy : List (Nat × Nat))
  /-- R443. A write to PWR_COOLANT sets the coolant temperature and restarts its age. -/
  | pwrCoolantWrite (value : Nat)
  /-- R443. 2 s pass without a coolant write and the limit becomes STALE_W with COOL_STALE set. -/
  | coolantStale
  /-- R441. Every PERIOD_MS the Sheepdog writes a 1,024-byte telemetry record. -/
  | telemetryRecord
  /-- R468. The release of POR_N starts the time base and the boot from the Spring image. -/
  | porNRelease (b : BootInput)
  /-- R509. POR_N falls and the device stops all work and releases its outputs within 100 µs. -/
  | porNAssert
  /-- R468. Memory and links are brought up and STAGE becomes READY, applying any held world description commit. -/
  | bootReady
  /-- R529. A write of COMMIT to WD_CTRL checks and applies WD_SELF in one step, holds it until READY, or sets REFUSED. -/
  | worldDescriptionCommit
  /-- R470. FLASH_OP read copies flash bytes to FLASH_BUF. -/
  | flashRead (value : Nat)
  /-- R470. FLASH_OP program writes FLASH_BUF into the non-booted slot, or is refused. -/
  | flashProgram (value : Nat)
  /-- R470. FLASH_OP erases a 4 KiB sector of the non-booted slot, or is refused. -/
  | flashErase4k (value : Nat)
  /-- R470. FLASH_OP erases a 64 KiB sector of the non-booted slot, or is refused. -/
  | flashErase64k (value : Nat)
  /-- R470. A flash operation finishes and BUSY clears, with ERR on failure. -/
  | flashOpDone (ok : Bool)
  /-- R479. SMBus command 0x20 sets the sideband access address. -/
  | smbusSetAddress (a : Nat)
  /-- R479. SMBus command 0x21 returns a status and the register at the access address, then advances it. -/
  | smbusRead (bus : Nat)
  /-- R479. SMBus command 0x22 writes the register at the access address on SMB0, then advances it. -/
  | smbusWrite (value : Nat) (bus : Nat)
  /-- R479. An MCTP transaction on SMB0 carries SPDM messages. -/
  | mctp (m : SpdmMsg)
  /-- R477. The SPDM responder answers GET_VERSION. -/
  | getVersion (m : SpdmMsg)
  /-- R477. The SPDM responder answers GET_CAPABILITIES. -/
  | getCapabilities (m : SpdmMsg)
  /-- R477. The SPDM responder answers NEGOTIATE_ALGORITHMS. -/
  | negotiateAlgorithms (m : SpdmMsg)
  /-- R477. The SPDM responder returns the digest of its certificate slot 0. -/
  | getDigests (m : SpdmMsg)
  /-- R477. The SPDM responder returns the DEV_CERT chain. -/
  | getCertificate (m : SpdmMsg)
  /-- R477. The SPDM responder answers a challenge signed by the identity key. -/
  | challenge (m : SpdmMsg)
  /-- R477. The SPDM responder returns measurements, including the signed attestation report. -/
  | getMeasurements (m : SpdmMsg)
  /-- R477. The SPDM responder starts a session key exchange. -/
  | keyExchange (m : SpdmMsg)
  /-- R477. The SPDM responder completes session establishment. -/
  | finish (m : SpdmMsg)
  /-- R477. The SPDM responder ends a session. -/
  | endSession (m : SpdmMsg)
  /-- R477. The SPDM responder answers a session heartbeat. -/
  | heartbeat (m : SpdmMsg)
  /-- R477. The IDE_KM QUERY message is answered over secured DOE. -/
  | query (m : SpdmMsg)
  /-- R477. The IDE_KM KEY_PROG message programs an IDE stream key. -/
  | keyProg (m : SpdmMsg)
  /-- R477. The IDE_KM K_SET_GO message activates an IDE key set. -/
  | kSetGo (m : SpdmMsg)
  /-- R477. The IDE_KM K_SET_STOP message stops an IDE key set. -/
  | kSetStop (m : SpdmMsg)
  /-- R474. The DRBG reseeds every 10 s or 2²⁰ requests, or halts after a health failure. -/
  | drbgReseed (healthy : Bool)
  /-- R474. A continuous entropy test fails and HEALTH_FAIL is set. -/
  | rngHealthFailure
  /-- R484. A write of GO to OBS_CAPTURE latches every always-on counter at the next beacon and writes the capture. -/
  | obsCapture (value : Nat)
  /-- R488. A read of PCC_TAG latches a counter set's eight counters and tag in one step. -/
  | pccSample (off : Nat)
  /-- R495. A new 10 µs window renews each fabric stop's trace budget. -/
  | traceBudgetWindow
  /-- R526. A write to a register with no behaviour of its own sets, clears or ignores its fields by their access types. -/
  | registerWrite (w : RegWrite)
  /-- R206. A home's acknowledgement of PREPARE, COMMIT or ABORT reaches the source trough or the Sheepdog, which then journals the retirement, writes the completion or reissues. -/
  | homeAcknowledgement (m : TroughMsg)
  /-- R429. The drain reads its next rows or tensor bytes, writes them at DEST within its share, sets map bits and frees drain-pool space. -/
  | snapshotDrain (n : Nat)
  /-- R451. Entry to Still, Drowse or Deep completes, with ports, PCIe and LPDDR5X in their low-power modes, and PWR_STAT.STATE leaves 4 for the state entered. -/
  | restStateReached
  /-- R52. A waking pond's supply becomes good and its regions start to wait for the next beacon. -/
  | pondSupplyGood (p : Nat) (bad : List Nat)
  /-- R369. The bellwether's PCIe link finishes training and reaches L0, setting HB_STAT width, speed and flit mode. -/
  | pcieL0Reached (width speed : Nat) (flit : Bool)
  /-- R370. A host configuration write to the endpoint changes Bus Master Enable, MSI-X enable, the power state D0 or D3hot, or similar endpoint settings. -/
  | pcieConfigWrite (w : PcieCfgWrite)
  /-- R391. 2 µs pass without 64 COLL frames of a stream and the receiver sends an ACK chunk. -/
  | collAckTimer (src : Nat)
  /-- R334. A memory controller's refresh interval expires, it refreshes a bank and sets its rate from the MR4 temperature,
  whose requirement is `mr4` times the base rate. -/
  | perBankRefresh (chan bank mr4 : Nat)
  /-- R515. The JTAG TAP, clocked by TCK, loads and executes an instruction such as EXTEST, HIGHZ or CLAMP while POR_N is low. -/
  | tapInstruction (t : TapOp)
  /-- R512. WRST_N rises and a warm reset held at its last step lets the queues resume. -/
  | wrstNRise
  /-- R454. At quiescence the device holds doorbells and enters the chosen power state, or retires REST with state 0. -/
  | restCommit
  /-- R454. Quiescence does not come within WAIT_US and REST retires with state 0, cause 7. -/
  | restQuiescenceTimeout
  /-- R455. The wake time before NEXT arrives and the device begins to wake with cause 0. -/
  | wakeTimer
  /-- R455. WAKE_N held low for 1 µs wakes the device from a REST state with cause 1. -/
  | wakeN
  /-- R455. A write of WAKE to PWR_CTRL wakes the device with cause 2. -/
  | pwrCtrlWake
  /-- R455. Rails, memory and regions are back, rebuild logs have run, doorbells are acknowledged, and REST retires with its wake record. -/
  | wakeComplete
  /-- R41. Every 64 ns the time base broadcasts the count and every local copy loads it, applying any epoch or step. -/
  | timeBeacon
  /-- R42. A local copy's interpolation stops 63 ns after the last beacon. -/
  | interpolationStop
  /-- R47. Every 1 ms a follower starts a time exchange with its upstream device. -/
  | timeExchange
  /-- R50. A rising edge on TIME_PPS_IN is captured in TIME_PPS_CAP and disciplines the master. -/
  | timePpsIn
  /-- R44. No PPS edge arrives for 1.5 s while PPS_IN_EN is set, and PPS_MISSING is set. -/
  | ppsMissing
  /-- R45. TIME_PPS_OUT rises when the count is a whole multiple of 10⁹. -/
  | timePpsOut
  /-- R45. TIME_PPS_OUT falls 100 µs after rising. -/
  | timePpsOutFall
  /-- R376. A function level reset clears the endpoint's configuration, MSI-X table and host bridge windows. -/
  | functionLevelReset
  /-- R512. PE_PERST_N low resets the bellwether's PCIe endpoint and link. -/
  | pePerstN
  deriving DecidableEq, Repr

end Sys2Proof
end

