-- ==== Sys2Proof/Config.lean ====
section
/-! DEFINITION. What the spec leaves open and the model leaves free: constants with no body, so that no proof can see
a value of them. -/

namespace Sys2Proof.Config

/-- A byte whose value the spec leaves unspecified (R317, R451), by the number of the event that left it so and by its
address. -/
opaque freeByte : Nat → Nat → BitVec 8

/-- A performance counter that measures time, retries or what the plan of a collective makes of it (R486): by the command's
64 bytes, the stamp of its start, and the counter. -/
opaque openCount : Nat → Nat → Nat → Nat

/-- A fresh unspecified value, by the state's counter of such values. -/
opaque freeNat : Nat → Nat

/-- The set of the pond cache a line falls in (R318: not part of the interface). -/
opaque cacheSet : Nat → Nat

/-- The set of a TLB an entry falls in (R333 gives 8 ways and no index function). -/
opaque tlbSet : Nat → Nat → Nat

/-- The hash h of a key's KIND, TGT and INDEX that names its home trough (R193: not part of the interface). -/
opaque troughHash : Nat → Nat

/-- The first slot position of a key in a trough, and the first record position in a spill area (R196, R197: not part
of the interface). -/
opaque slotStart : Nat → Nat
opaque spillStart : Nat → Nat

/-- The column of a row key in row i of a counting sketch (R91: not part of the interface). -/
opaque sketchHash : Nat → Nat → Nat

/-- The shape of the pruning mask at an address, as PRUNE_PACK knows it: K ÷ 64, and N (R218 gives PRUNE_PACK no K and
no N). -/
opaque pruneK : Nat → Nat
opaque pruneN : Nat → Nat

/-- The check-value configuration under which a restore checks an image (R433 names none). -/
opaque restoreCvu : Nat

/-- The die within its stack that serves a channel's range of 4 GiB raw, and the other channel of the stack that it
serves (R421 gives each die two channels and one range, and does not number them). -/
opaque dieOf : Nat → Nat → Nat
opaque dieMate : Nat → Nat

/-- HKDF's salt, and its info for a direction of a port: 0 from the end whose identity digest is lower (R365 names
neither). -/
opaque linkSalt : List (BitVec 8)
opaque linkInfo : Nat → List (BitVec 8)

/-- What the silicon gives (R471): the seed that the fuzzy extractor reconstructs with some helper data, and the helper
data that enrolment forms. -/
opaque pufSeed : List (BitVec 8) → List (BitVec 8)
opaque pufHelper : List (BitVec 8)

/-- The Svetlegar root key and the ROM's version, held in mask ROM (R463, R480). -/
opaque rootKey : List (BitVec 8)
opaque romVersion : Nat

/-- The trim code of a region, 7 × pond + region, that a TRIM record gives (R468 lists the record, and no layout of it). -/
opaque trimCode : List (BitVec 8) → Nat → Nat

/-- ROWS_LOCAL of a table on another device, as a gather's lookup knows it (R64 checks a row against its owner's figure,
and does not say how the requester learns it): by device and table. -/
opaque ownerRows : Nat → Nat → Nat

/-- The row maximum of an INT8 row with no active element: −Inf, which INT8 does not have (R173). -/
opaque emptyMaxI8 : Nat

/-- The entry of block `b` of row `r` of an 8-bit class's output where I0 has none for that row and block (R174). -/
opaque noEntry : Nat → Nat → Nat

/-- The maximum of FP32 values of which some are NaN, by the values in ascending order of their bits (R385). -/
opaque maxNan : List Nat → Nat

/-- A pond's temperature where it and its neighbours have too few good sensors (R438). -/
opaque blindTemp : Nat → Int

/-- A byte of the host's memory beside what a command wrote in the host window: this device holds none of it (R253). -/
opaque hostByte : Nat → BitVec 8

end Sys2Proof.Config
end

