-- ==== Sys2Proof/Machine/Bits.lean ====
section
/-! DEFINITION. Bit fields, byte order, signed numbers, sparse maps and byte stores: the helpers every other part of
the machine uses. Everything is little-endian (R7). -/

namespace Sys2Proof.Machine

/-! Bits of natural numbers. -/

/-- Bits [lo+w-1 : lo] of `x`. -/
def bits (x lo w : Nat) : Nat := (x >>> lo) % 2 ^ w

/-- Bit `i` of `x`. -/
def bitAt (x i : Nat) : Bool := x.testBit i

/-- `x` with bits [lo+w-1 : lo] replaced by the low `w` bits of `v`. -/
def setBits (x lo w v : Nat) : Nat :=
  x - (bits x lo w <<< lo) + ((v % 2 ^ w) <<< lo)

/-- The signed number a `w`-bit pattern stands for. -/
def toS (w x : Nat) : Int :=
  if x % 2 ^ w < 2 ^ (w - 1) then ((x % 2 ^ w : Nat) : Int) else ((x % 2 ^ w : Nat) : Int) - (2 ^ w : Nat)

/-- The `w`-bit pattern of a signed number, modulo 2^w. -/
def ofS (w : Nat) (i : Int) : Nat := (i % ((2 ^ w : Nat) : Int)).toNat

def satAdd (m a b : Nat) : Nat := min m (a + b)

def b2n (b : Bool) : Nat := if b then 1 else 0

/-- Clamp to [lo, hi]. -/
def clampN (lo hi x : Nat) : Nat := max lo (min hi x)

def clampI (lo hi x : Int) : Int := max lo (min hi x)

/-- Round up to a multiple of `m`. -/
def roundUp (m x : Nat) : Nat := if m = 0 then x else ((x + m - 1) / m) * m

/-! Fields of a register value. -/

def fget (f : Fld) (v : W64) : Nat := (v.toNat >>> f.lo) % 2 ^ f.w

def fset (f : Fld) (v : W64) (n : Nat) : W64 :=
  let m : W64 := BitVec.ofNat 64 (2 ^ f.w - 1) <<< f.lo
  (v &&& ~~~m) ||| ((BitVec.ofNat 64 n <<< f.lo) &&& m)

/-- The configuration offset of instance (i, j). -/
def Reg.off (r : Reg) (i : Nat := 0) (j : Nat := 0) : Nat := r.base + r.s1 * i + r.s2 * j

/-- The register and its value, as one 64-bit pattern, after reset. -/
def Reg.rstW (r : Reg) : W64 := BitVec.ofNat 64 r.rst

/-- The instance of `r` at configuration offset `o`, if `o` is one of its offsets. -/
def Reg.find (r : Reg) (o : Nat) : Option (Nat × Nat) :=
  if o < r.base then none
  else
    let d := o - r.base
    let i := if r.s1 = 0 then 0 else if r.s1 < r.s2 ∧ r.s2 ≠ 0 then (d % r.s2) / r.s1 else d / r.s1
    let rest := d - r.s1 * i
    let j := if r.s2 = 0 then 0 else rest / r.s2
    if i < r.n1 ∧ j < r.n2 ∧ r.off i j = o then some (i, j) else none

/-! Bytes. -/

def leNat : List Byte → Nat
  | [] => 0
  | b :: bs => b.toNat + 256 * leNat bs

def leBytes : Nat → Nat → List Byte
  | 0, _ => []
  | n + 1, v => BitVec.ofNat 8 v :: leBytes n (v / 256)

def beNat (bs : List Byte) : Nat := leNat bs.reverse

def beBytes (n v : Nat) : List Byte := (leBytes n v).reverse

def byteN (d : List Byte) (o n : Nat) : Nat := leNat ((d.drop o).take n)

/-- Two ranges of one space meet. -/
def meets (a n b m : Nat) : Bool := a < b + m && b < a + n

/-! Sparse maps. -/

def look {α : Type} : SMap α → Nat → Option α
  | [], _ => none
  | (k, v) :: m, x => if k = x then some v else look m x

def ins {α : Type} : SMap α → Nat → α → SMap α
  | [], x, v => [(x, v)]
  | (k, w) :: m, x, v =>
    if x < k then (x, v) :: (k, w) :: m else if x = k then (k, v) :: m else (k, w) :: ins m x v

def del {α : Type} : SMap α → Nat → SMap α
  | [], _ => []
  | (k, w) :: m, x => if k = x then del m x else (k, w) :: del m x

def lookD {α : Type} (m : SMap α) (x : Nat) (d : α) : α := (look m x).getD d

/-- Apply `f` to the value at `x` (or to `d` where nothing is listed). -/
def upd {α : Type} (m : SMap α) (x : Nat) (d : α) (f : α → α) : SMap α := ins m x (f (lookD m x d))

/-! Byte stores in canonical form: rising addresses, and no listed byte that an unlisted address would read as. -/

def cellGet : SMap Byte → Nat → Option Byte := look

def cellPut (m : SMap Byte) (a : Nat) (b dflt : Byte) : SMap Byte :=
  if b = dflt then del m a else ins m a b

/-- Keys strictly rising, all above `lo`. -/
def risingFrom {α : Type} : Nat → SMap α → Bool
  | _, [] => true
  | lo, (k, _) :: m => decide (lo ≤ k) && risingFrom (k + 1) m

/-! Lists. -/

def listGet {α : Type} (l : List α) (i : Nat) (d : α) : α := (l[i]?).getD d

def listSet {α : Type} (l : List α) (i : Nat) (v : α) : List α := l.set i v

/-- 0, 1, …, n-1. -/
def upto (n : Nat) : List Nat := List.range n

/-- The first index whose element meets `p`. -/
def idxOf {α : Type} (p : α → Bool) : List α → Option Nat
  | [] => none
  | x :: xs => if p x then some 0 else (idxOf p xs).map (· + 1)

def countOf {α : Type} (p : α → Bool) (l : List α) : Nat := (l.filter p).length

/-- Keep the first `n` (of a list ordered most recent first). -/
def keepN {α : Type} (n : Nat) (l : List α) : List α := l.take n

/-- Insertion sort by a key. -/
def insBy {α : Type} (key : α → Nat) (x : α) : List α → List α
  | [] => [x]
  | y :: ys => if key x ≤ key y then x :: y :: ys else y :: insBy key x ys

def sortBy {α : Type} (key : α → Nat) (l : List α) : List α := l.foldr (insBy key) []

/-- The elements of `l` without later repeats. -/
def nubN : List Nat → List Nat
  | [] => []
  | x :: xs => x :: (nubN xs).filter (· != x)

/-- Floor of the square root, by bisection on the bits from `b` down. -/
def isqrtAux (n : Nat) : Nat → Nat → Nat
  | 0, r => r
  | b + 1, r => let r' := r + 2 ^ b; if r' * r' ≤ n then isqrtAux n b r' else isqrtAux n b r

def isqrt (n : Nat) : Nat := isqrtAux n (Nat.log2 n / 2 + 1) 0

end Sys2Proof.Machine
end

