-- ==== Sys2Proof/Machine/Regs.lean ====
section
/-! DEFINITION. The register tables of the spec (chapters 02 to 19) as data: for every register its configuration
offset (R524), its instances, its value after reset (R8) and the masks of its bits kept over warm reset and of its
RW, W1C and WO fields; and for every field its place. Each entry follows its register table in the spec. -/

namespace Sys2Proof.Machine

/-! Registers of 02_pace_time_and_arbitration.md, the tables after R36. -/
def POND_PACE : Reg := ⟨"POND_PACE", 0x800300, 96, 0x10000, 1, 0, 0, 0xff02ffff0000, 0, 0x200000000, 0⟩
def POND_PACE_RATE : Fld := ⟨POND_PACE, 0, 16⟩
def POND_PACE_UV_HOLDS : Fld := ⟨POND_PACE, 16, 16⟩
def POND_PACE_UV_HELD : Fld := ⟨POND_PACE, 32, 1⟩
def POND_PACE_UV_STICKY : Fld := ⟨POND_PACE, 33, 1⟩
def POND_PACE_TRIM_MAX : Fld := ⟨POND_PACE, 40, 8⟩
/-! Registers of 02_pace_time_and_arbitration.md, the tables after R44. -/
def TIME_NOW : Reg := ⟨"TIME_NOW", 0x60000, 1, 0, 1, 0, 0, 0, 0, 0, 0⟩
def TIME_NOW_COUNT : Fld := ⟨TIME_NOW, 0, 64⟩
def TIME_EPOCH : Reg := ⟨"TIME_EPOCH", 0x60008, 1, 0, 1, 0, 0, 0, 0, 0, 0xffffffffffffffff⟩
def TIME_EPOCH_VALUE : Fld := ⟨TIME_EPOCH, 0, 64⟩
def TIME_CTRL : Reg := ⟨"TIME_CTRL", 0x60010, 1, 0, 1, 0, 0x6400f0, 0xffff00f7, 0xffff00f7, 0, 0⟩
def TIME_CTRL_MASTER : Fld := ⟨TIME_CTRL, 0, 1⟩
def TIME_CTRL_PPS_IN_EN : Fld := ⟨TIME_CTRL, 1, 1⟩
def TIME_CTRL_PPS_OUT_EN : Fld := ⟨TIME_CTRL, 2, 1⟩
def TIME_CTRL_UP_PORT : Fld := ⟨TIME_CTRL, 4, 4⟩
def TIME_CTRL_SLEW_PPM : Fld := ⟨TIME_CTRL, 16, 16⟩
def TIME_STAT : Reg := ⟨"TIME_STAT", 0x60018, 1, 0, 1, 0, 0, 0xffff0000001f, 0, 0x1c, 0⟩
def TIME_STAT_EPOCH_SET : Fld := ⟨TIME_STAT, 0, 1⟩
def TIME_STAT_LOCKED : Fld := ⟨TIME_STAT, 1, 1⟩
def TIME_STAT_LOCK_LOST : Fld := ⟨TIME_STAT, 2, 1⟩
def TIME_STAT_PPS_MISSING : Fld := ⟨TIME_STAT, 3, 1⟩
def TIME_STAT_STEPPED : Fld := ⟨TIME_STAT, 4, 1⟩
def TIME_STAT_OFFSET : Fld := ⟨TIME_STAT, 32, 16⟩
def TIME_PPS_CAP : Reg := ⟨"TIME_PPS_CAP", 0x60020, 1, 0, 1, 0, 0, 0, 0, 0, 0⟩
def TIME_PPS_CAP_COUNT : Fld := ⟨TIME_PPS_CAP, 0, 64⟩
/-! Registers of 03_graph_sampling_and_gather.md, the tables after R95. -/
def GSV_KEY : Reg := ⟨"GSV_KEY", 0xa0000, 16, 8, 1, 0, 0, 0xffffffffffffffff, 0xffffffffffffffff, 0, 0⟩
def GSV_KEY_KEY : Fld := ⟨GSV_KEY, 0, 64⟩
def GSV_GRAPH_BASE : Reg := ⟨"GSV_GRAPH_BASE", 0xa0100, 1, 0, 1, 0, 0, 0x7ffffffffc0, 0x7ffffffffc0, 0, 0⟩
def GSV_GRAPH_BASE_BASE : Fld := ⟨GSV_GRAPH_BASE, 6, 37⟩
def GSV_TDT_BASE : Reg := ⟨"GSV_TDT_BASE", 0xa0108, 1, 0, 1, 0, 0, 0x7ffffffffc0, 0x7ffffffffc0, 0, 0⟩
def GSV_TDT_BASE_BASE : Fld := ⟨GSV_TDT_BASE, 6, 37⟩
def GSV_SERVE0 : Reg := ⟨"GSV_SERVE0", 0xa0110, 1, 0, 1, 0, 0xffffffffffffffff, 0, 0xffffffffffffffff, 0, 0⟩
def GSV_SERVE0_PONDS : Fld := ⟨GSV_SERVE0, 0, 64⟩
def GSV_SERVE1 : Reg := ⟨"GSV_SERVE1", 0xa0118, 1, 0, 1, 0, 0xffffffff, 0, 0xffffffff, 0, 0⟩
def GSV_SERVE1_PONDS : Fld := ⟨GSV_SERVE1, 0, 32⟩
def GSV_REMOTE : Reg := ⟨"GSV_REMOTE", 0xa0120, 1, 0, 1, 0, 0x9002710, 0, 0xfffffff, 0, 0⟩
def GSV_REMOTE_TIMEOUT : Fld := ⟨GSV_REMOTE, 0, 16⟩
def GSV_REMOTE_OUTST : Fld := ⟨GSV_REMOTE, 16, 9⟩
def GSV_REMOTE_SPACE : Fld := ⟨GSV_REMOTE, 25, 2⟩
def GSV_REMOTE_T : Fld := ⟨GSV_REMOTE, 27, 1⟩
def HOT_CFG : Reg := ⟨"HOT_CFG", 0xa0200, 1, 0, 1, 0, 0x1000004002, 0, 0xfffffffff3, 0, 0⟩
def HOT_CFG_EN : Fld := ⟨HOT_CFG, 0, 1⟩
def HOT_CFG_DECAY : Fld := ⟨HOT_CFG, 1, 1⟩
def HOT_CFG_HOT_MIB : Fld := ⟨HOT_CFG, 4, 4⟩
def HOT_CFG_THRESH : Fld := ⟨HOT_CFG, 8, 16⟩
def HOT_CFG_MAX : Fld := ⟨HOT_CFG, 24, 16⟩
def HOT_STAT : Reg := ⟨"HOT_STAT", 0xa0208, 1, 0, 1, 0, 0, 0x3000000000000, 0, 0x3000000000000, 0⟩
def HOT_STAT_REFRESHES : Fld := ⟨HOT_STAT, 0, 32⟩
def HOT_STAT_ACTIVE : Fld := ⟨HOT_STAT, 32, 16⟩
def HOT_STAT_INVALIDATED : Fld := ⟨HOT_STAT, 48, 1⟩
def HOT_STAT_OVERFLOW : Fld := ⟨HOT_STAT, 49, 1⟩
def SMP_CNT : Reg := ⟨"SMP_CNT", 0x800400, 96, 0x10000, 1, 0, 0, 0xffffffffffffffff, 0, 0, 0⟩
def SMP_CNT_EDGES : Fld := ⟨SMP_CNT, 0, 32⟩
def SMP_CNT_BADW : Fld := ⟨SMP_CNT, 32, 16⟩
def SMP_CNT_RTO : Fld := ⟨SMP_CNT, 48, 16⟩
/-! Registers of 04_number_formats.md, the tables after R111. -/
def QNT_CFG : Reg := ⟨"QNT_CFG", 0xb0000, 1, 0, 1, 0, 0x10201, 0x73f01, 0x73f01, 0, 0⟩
def QNT_CFG_ESC_EN : Fld := ⟨QNT_CFG, 0, 1⟩
def QNT_CFG_ESC_THRESH : Fld := ⟨QNT_CFG, 8, 6⟩
def QNT_CFG_ESC_FROM : Fld := ⟨QNT_CFG, 16, 3⟩
/-! Registers of 04_number_formats.md, the tables after R121. -/
def NUM_STAT : Reg := ⟨"NUM_STAT", 0xb0008, 1, 0, 1, 0, 0, 0xffff0000000f, 0, 0xf, 0⟩
def NUM_STAT_BAD_CODE : Fld := ⟨NUM_STAT, 0, 1⟩
def NUM_STAT_WIN_EXCEED : Fld := ⟨NUM_STAT, 1, 1⟩
def NUM_STAT_WIN_NF : Fld := ⟨NUM_STAT, 2, 1⟩
def NUM_STAT_SCALE_NAN : Fld := ⟨NUM_STAT, 3, 1⟩
def NUM_STAT_EXCEED_CNT : Fld := ⟨NUM_STAT, 32, 16⟩
/-! Registers of 05_matrix_cores.md, the tables after R152. -/
def MC_CFG : Reg := ⟨"MC_CFG", 0x2000000, 192, 0x10000, 1, 0, 3, 0, 3, 0, 0⟩
def MC_CFG_SKIP_EN : Fld := ⟨MC_CFG, 0, 1⟩
def MC_CFG_PRED_EN : Fld := ⟨MC_CFG, 1, 1⟩
def MC_STEPS : Reg := ⟨"MC_STEPS", 0x2000008, 192, 0x10000, 1, 0, 0, 0, 0, 0, 0⟩
def MC_STAT : Reg := ⟨"MC_STAT", 0x2000010, 192, 0x10000, 1, 0, 0, 0xffff00000007, 0, 7, 0⟩
def MC_STAT_NF : Fld := ⟨MC_STAT, 0, 1⟩
def MC_STAT_WIN_TRUNC : Fld := ⟨MC_STAT, 1, 1⟩
def MC_STAT_ACC_INF : Fld := ⟨MC_STAT, 2, 1⟩
def MC_STAT_TRUNC_CNT : Fld := ⟨MC_STAT, 32, 16⟩
def MC_WAVES : Reg := ⟨"MC_WAVES", 0x2000018, 192, 0x10000, 1, 0, 0, 0xffffffffffffffff, 0, 0, 0⟩
def MC_WAVES_RUN : Fld := ⟨MC_WAVES, 0, 64⟩
def MC_SKIPS : Reg := ⟨"MC_SKIPS", 0x2000020, 192, 0x10000, 1, 0, 0, 0xffffffffffffffff, 0, 0, 0⟩
def MC_SKIPS_SKIPPED : Fld := ⟨MC_SKIPS, 0, 32⟩
def MC_SKIPS_MISSES : Fld := ⟨MC_SKIPS, 32, 32⟩
/-! Registers of 06_vector_engines.md, the tables after R189. -/
def VE_PROG : Reg := ⟨"VE_PROG", 0x6000000, 384, 0x10000, 1, 0, 0, 0, 0, 0, 0⟩
def VE_PROG_VALID : Fld := ⟨VE_PROG, 0, 16⟩
def VE_STAT : Reg := ⟨"VE_STAT", 0x6000008, 384, 0x10000, 1, 0, 0, 0xffff00000003, 0, 3, 0⟩
def VE_STAT_MFAULT : Fld := ⟨VE_STAT, 0, 1⟩
def VE_STAT_ESCALATED : Fld := ⟨VE_STAT, 1, 1⟩
def VE_STAT_MFAULT_CNT : Fld := ⟨VE_STAT, 32, 16⟩
def VE_CYCLES : Reg := ⟨"VE_CYCLES", 0x6000010, 384, 0x10000, 1, 0, 0, 0xffffffffffffffff, 0, 0, 0⟩
def VE_CYCLES_LANE_CYCLES : Fld := ⟨VE_CYCLES, 0, 64⟩
def VE_SUM : Reg := ⟨"VE_SUM", 0x6000100, 384, 0x10000, 16, 8, 0, 0xffffffffffffffff, 0, 0, 0⟩
def VE_SUM_SUM : Fld := ⟨VE_SUM, 0, 64⟩
/-! Registers of 07_scatter_exact_sums_and_sparse_rows.md, the tables after R224. -/
def TRG_CFG : Reg := ⟨"TRG_CFG", 0x1000000, 96, 0x10000, 1, 0, 4, 0xf, 0xf, 0, 0⟩
def TRG_CFG_SIZE_MIB : Fld := ⟨TRG_CFG, 0, 4⟩
def TRG_SPILL : Reg := ⟨"TRG_SPILL", 0x1000008, 96, 0x10000, 1, 0, 0, 0x1f07fffffffe00, 0x1f07fffffffe00, 0, 0⟩
def TRG_SPILL_BASE : Fld := ⟨TRG_SPILL, 9, 34⟩
def TRG_SPILL_LOG2N : Fld := ⟨TRG_SPILL, 48, 5⟩
def TRG_STAT : Reg := ⟨"TRG_STAT", 0x1000010, 96, 0x10000, 1, 0, 0, 0xffffffff0007, 0, 7, 0⟩
def TRG_STAT_SPILL_FULL : Fld := ⟨TRG_STAT, 0, 1⟩
def TRG_STAT_ABORTED : Fld := ⟨TRG_STAT, 1, 1⟩
def TRG_STAT_LIST_FULL : Fld := ⟨TRG_STAT, 2, 1⟩
def TRG_STAT_LIVE : Fld := ⟨TRG_STAT, 16, 16⟩
def TRG_STAT_SLOTS : Fld := ⟨TRG_STAT, 32, 16⟩
def TRG_CNT : Reg := ⟨"TRG_CNT", 0x1000018, 96, 0x10000, 1, 0, 0, 0xffffffffffffffff, 0, 0, 0⟩
def TRG_CNT_SEGS : Fld := ⟨TRG_CNT, 0, 32⟩
def TRG_CNT_SPILLS : Fld := ⟨TRG_CNT, 32, 32⟩
def TRG_HOME0 : Reg := ⟨"TRG_HOME0", 0xd0000, 1, 0, 1, 0, 0xffffffffffffffff, 0, 0xffffffffffffffff, 0, 0⟩
def TRG_HOME0_PONDS : Fld := ⟨TRG_HOME0, 0, 64⟩
def TRG_HOME1 : Reg := ⟨"TRG_HOME1", 0xd0008, 1, 0, 1, 0, 0xffffffff, 0, 0xffffffff, 0, 0⟩
def TRG_HOME1_PONDS : Fld := ⟨TRG_HOME1, 0, 32⟩
def PRUNE_CFG : Reg := ⟨"PRUNE_CFG", 0xb0010, 1, 0, 1, 0, 0x3e8, 0xffffffff, 0xffffffff, 0, 0⟩
def PRUNE_CFG_PERIOD : Fld := ⟨PRUNE_CFG, 0, 32⟩
/-! Registers of 08_parameter_update.md, the tables after R255. -/
def UPD_STEP : Reg := ⟨"UPD_STEP", 0xc0000, 1, 0, 1, 0, 0, 0xf, 0, 0, 0⟩
def UPD_STEP_CUR : Fld := ⟨UPD_STEP, 0, 1⟩
def UPD_STEP_LNF : Fld := ⟨UPD_STEP, 1, 1⟩
def UPD_STEP_SF : Fld := ⟨UPD_STEP, 2, 1⟩
def UPD_STEP_AGREED : Fld := ⟨UPD_STEP, 3, 1⟩
def UPD_OPT : Reg := ⟨"UPD_OPT", 0xc0008, 1, 0, 1, 0, 0xffffffffffffffff, 0xffffffffffffffff, 0xffffffffffffffff, 0, 0⟩
def UPD_OPT_OPT : Fld := ⟨UPD_OPT, 0, 64⟩
def UPD_DATA : Reg := ⟨"UPD_DATA", 0xc0010, 1, 0, 1, 0, 0, 0xffffffffffffffff, 0xffffffffffffffff, 0, 0⟩
def UPD_DATA_DATA : Fld := ⟨UPD_DATA, 0, 64⟩
def LS_STATE : Reg := ⟨"LS_STATE", 0xc0018, 1, 0, 1, 0, 0x10, 0xffffffffff3f, 0xffffff3f, 0, 0⟩
def LS_STATE_S : Fld := ⟨LS_STATE, 0, 6⟩
def LS_STATE_CLEAN : Fld := ⟨LS_STATE, 8, 24⟩
def LS_STATE_CONSEC : Fld := ⟨LS_STATE, 32, 16⟩
def UPD_SKIPS : Reg := ⟨"UPD_SKIPS", 0xc0020, 1, 0, 1, 0, 0, 0xffffffffffffffff, 0xffffffffffffffff, 0, 0⟩
def UPD_SKIPS_SKIPS : Fld := ⟨UPD_SKIPS, 0, 64⟩
def LS_CFG : Reg := ⟨"LS_CFG", 0xc0028, 1, 0, 1, 0, 0x80007d01800, 0xffffffffff3f3f, 0xffffffffff3f3f, 0, 0⟩
def LS_CFG_S_MIN : Fld := ⟨LS_CFG, 0, 6⟩
def LS_CFG_S_MAX : Fld := ⟨LS_CFG, 8, 6⟩
def LS_CFG_INTERVAL : Fld := ⟨LS_CFG, 16, 24⟩
def LS_CFG_SKIP_ALARM : Fld := ⟨LS_CFG, 40, 16⟩
def UPD_STAT : Reg := ⟨"UPD_STAT", 0xc0030, 1, 0, 1, 0, 0, 0xffff0000001f, 0, 0x1f, 0⟩
def UPD_STAT_NFR : Fld := ⟨UPD_STAT, 0, 1⟩
def UPD_STAT_FLOOR : Fld := ⟨UPD_STAT, 1, 1⟩
def UPD_STAT_SKIP_ALARM : Fld := ⟨UPD_STAT, 2, 1⟩
def UPD_STAT_REDO : Fld := ⟨UPD_STAT, 3, 1⟩
def UPD_STAT_CLOG_FULL : Fld := ⟨UPD_STAT, 4, 1⟩
def UPD_STAT_NFR_CNT : Fld := ⟨UPD_STAT, 32, 16⟩
def UPD_PDT_BASE : Reg := ⟨"UPD_PDT_BASE", 0xc0040, 1, 0, 1, 0, 0, 0x7ffffffffc0, 0x7ffffffffc0, 0, 0⟩
def UPD_PDT_BASE_BASE : Fld := ⟨UPD_PDT_BASE, 6, 37⟩
def UPD_PCT_BASE : Reg := ⟨"UPD_PCT_BASE", 0xc0048, 1, 0, 1, 0, 0, 0x7ffffffffc0, 0x7ffffffffc0, 0, 0⟩
def UPD_PCT_BASE_BASE : Fld := ⟨UPD_PCT_BASE, 6, 37⟩
def UPD_JRNL : Reg := ⟨"UPD_JRNL", 0xc0050, 1, 0, 1, 0, 0, 0x1f07ffffffff80, 0x1f07ffffffff80, 0, 0⟩
def UPD_JRNL_BASE : Fld := ⟨UPD_JRNL, 7, 36⟩
def UPD_JRNL_LOG2N : Fld := ⟨UPD_JRNL, 48, 5⟩
def UPD_CFG : Reg := ⟨"UPD_CFG", 0xc0058, 1, 0, 1, 0, 0x10000000, 0xffffff03, 0xffffff01, 0, 0⟩
def UPD_CFG_CHKLOG : Fld := ⟨UPD_CFG, 0, 1⟩
def UPD_CFG_REPLAY : Fld := ⟨UPD_CFG, 1, 1⟩
def UPD_CFG_CVU : Fld := ⟨UPD_CFG, 8, 4⟩
def UPD_CFG_CLOG_MAX : Fld := ⟨UPD_CFG, 12, 20⟩
def UPD_REDO : Reg := ⟨"UPD_REDO", 0x800500, 96, 0x10000, 1, 0, 0, 0xff07ffffffffc0, 0xff07ffffffffc0, 0, 0⟩
def UPD_REDO_BASE : Fld := ⟨UPD_REDO, 6, 37⟩
def UPD_REDO_SIZE : Fld := ⟨UPD_REDO, 48, 8⟩
/-! Registers of 09_general_cores.md, the tables after R286. -/
def GC_CFG : Reg := ⟨"GC_CFG", 0x4000000, 384, 0x10000, 1, 0, 0, 0x3f1f7fff, 0x3f1f7fff, 0, 0⟩
def GC_CFG_OWNER_Q : Fld := ⟨GC_CFG, 0, 14⟩
def GC_CFG_OWNER_V : Fld := ⟨GC_CFG, 14, 1⟩
def GC_CFG_OWN_IMEM : Fld := ⟨GC_CFG, 16, 5⟩
def GC_CFG_OWN_DMEM : Fld := ⟨GC_CFG, 24, 6⟩
def GC_ISSQ : Reg := ⟨"GC_ISSQ", 0x4000008, 384, 0x10000, 1, 0, 0, 0, 0x7fff3fff, 0, 0⟩
def GC_ISSQ_BASE : Fld := ⟨GC_ISSQ, 0, 14⟩
def GC_ISSQ_COUNT : Fld := ⟨GC_ISSQ, 16, 15⟩
def GC_STAT : Reg := ⟨"GC_STAT", 0x4000010, 384, 0x10000, 1, 0, 0, 0x3f, 0, 0x30, 0⟩
def GC_STAT_MODE : Fld := ⟨GC_STAT, 0, 1⟩
def GC_STAT_INH : Fld := ⟨GC_STAT, 1, 1⟩
def GC_STAT_RUNNING : Fld := ⟨GC_STAT, 2, 1⟩
def GC_STAT_BLOCKED : Fld := ⟨GC_STAT, 3, 1⟩
def GC_STAT_JOB_EXC : Fld := ⟨GC_STAT, 4, 1⟩
def GC_STAT_DOUBLE : Fld := ⟨GC_STAT, 5, 1⟩
def GC_EPC : Reg := ⟨"GC_EPC", 0x4000018, 384, 0x10000, 1, 0, 0, 0, 0xffffffffffffffff, 0, 0⟩
def GC_EPC_VALUE : Fld := ⟨GC_EPC, 0, 64⟩
def GC_EVAL : Reg := ⟨"GC_EVAL", 0x4000028, 384, 0x10000, 1, 0, 0, 0, 0xffffffffffffffff, 0, 0⟩
def GC_EVAL_VALUE : Fld := ⟨GC_EVAL, 0, 64⟩
def GC_ESAVE : Reg := ⟨"GC_ESAVE", 0x4000038, 384, 0x10000, 1, 0, 0, 0, 0xffffffffffffffff, 0, 0⟩
def GC_ESAVE_VALUE : Fld := ⟨GC_ESAVE, 0, 64⟩
def GC_ECAUSE : Reg := ⟨"GC_ECAUSE", 0x4000020, 384, 0x10000, 1, 0, 0, 0, 0x1ffffff, 0, 0⟩
def GC_ECAUSE_CODE : Fld := ⟨GC_ECAUSE, 0, 8⟩
def GC_ECAUSE_SERVICE : Fld := ⟨GC_ECAUSE, 8, 16⟩
def GC_ECAUSE_PMODE : Fld := ⟨GC_ECAUSE, 24, 1⟩
def GC_EVEC : Reg := ⟨"GC_EVEC", 0x4000030, 384, 0x10000, 1, 0, 0, 0xfffffffffffffffc, 0xfffffffffffffffc, 0, 0⟩
def GC_EVEC_VEC : Fld := ⟨GC_EVEC, 2, 62⟩
def GC_HANDLE : Reg := ⟨"GC_HANDLE", 0x4000040, 384, 0x10000, 1, 0, 0, 0, 0, 0, 0⟩
def GC_HANDLE_HANDLE : Fld := ⟨GC_HANDLE, 0, 12⟩
def GC_HANDLE_DEVICE : Fld := ⟨GC_HANDLE, 16, 13⟩
def GC_RUN : Reg := ⟨"GC_RUN", 0x4000048, 384, 0x10000, 1, 0, 0, 0, 0, 0, 0⟩
def GC_RUN_QUEUE : Fld := ⟨GC_RUN, 0, 14⟩
def GC_RUN_SEQ : Fld := ⟨GC_RUN, 16, 32⟩
def GC_RUN_ORDINAL : Fld := ⟨GC_RUN, 48, 15⟩
def GC_INSTR : Reg := ⟨"GC_INSTR", 0x4000050, 384, 0x10000, 1, 0, 0, 0xffffffffffffffff, 0, 0, 0⟩
def GC_INSTR_COUNT : Fld := ⟨GC_INSTR, 0, 64⟩
def GC_TIME : Reg := ⟨"GC_TIME", 0x4000058, 384, 0x10000, 1, 0, 0, 0, 0, 0, 0⟩
def GC_TIME_COUNT : Fld := ⟨GC_TIME, 0, 64⟩
def RGN_BASE : Reg := ⟨"RGN_BASE", 0x4000100, 384, 0x10000, 16, 0x10, 0, 0, 0x7fffffff000, 0, 0⟩
def RGN_BASE_BASE : Fld := ⟨RGN_BASE, 12, 31⟩
def RGN_LIM : Reg := ⟨"RGN_LIM", 0x4000108, 384, 0x10000, 16, 0x10, 0, 0, 0x7fffffff00f, 0, 0⟩
def RGN_LIM_V : Fld := ⟨RGN_LIM, 0, 1⟩
def RGN_LIM_R : Fld := ⟨RGN_LIM, 1, 1⟩
def RGN_LIM_W : Fld := ⟨RGN_LIM, 2, 1⟩
def RGN_LIM_X : Fld := ⟨RGN_LIM, 3, 1⟩
def RGN_LIM_LIMIT : Fld := ⟨RGN_LIM, 12, 31⟩
/-! Registers of 10_commands_queues_and_sync.md, the tables after R312. -/
def QTAB_CFG : Reg := ⟨"QTAB_CFG", 0x400000, 16, 0x10000, 1024, 0x40, 0x90000000, 0x7ffffffffff, 0x7ffffffffff, 0, 0⟩
def QTAB_CFG_EN : Fld := ⟨QTAB_CFG, 0, 1⟩
def QTAB_CFG_TE : Fld := ⟨QTAB_CFG, 1, 1⟩
def QTAB_CFG_CONSUMER : Fld := ⟨QTAB_CFG, 2, 12⟩
def QTAB_CFG_SEMCORE : Fld := ⟨QTAB_CFG, 14, 12⟩
def QTAB_CFG_LOG2SZ : Fld := ⟨QTAB_CFG, 26, 5⟩
def QTAB_CFG_IRQ_ERR : Fld := ⟨QTAB_CFG, 31, 1⟩
def QTAB_CFG_VECTOR : Fld := ⟨QTAB_CFG, 32, 11⟩
def QTAB_RING : Reg := ⟨"QTAB_RING", 0x400008, 16, 0x10000, 1024, 0x40, 0, 0x7ffffffffc0, 0x7ffffffffc0, 0, 0⟩
def QTAB_RING_BASE : Fld := ⟨QTAB_RING, 6, 37⟩
def QTAB_TAIL : Reg := ⟨"QTAB_TAIL", 0x400010, 16, 0x10000, 1024, 0x40, 0, 0xffffffff, 0xffffffff, 0, 0⟩
def QTAB_TAIL_TAIL : Fld := ⟨QTAB_TAIL, 0, 32⟩
def QTAB_HEAD : Reg := ⟨"QTAB_HEAD", 0x400018, 16, 0x10000, 1024, 0x40, 0xffffffff00000000, 0xffffffffffffffff, 0xffffffffffffffff, 0, 0⟩
def QTAB_HEAD_HEAD : Fld := ⟨QTAB_HEAD, 0, 32⟩
def QTAB_HEAD_LAST_SEQ : Fld := ⟨QTAB_HEAD, 32, 32⟩
def QTAB_CMPL : Reg := ⟨"QTAB_CMPL", 0x400020, 16, 0x10000, 1024, 0x40, 0, 0x1f07fffffffff0, 0x1f07fffffffff0, 0, 0⟩
def QTAB_CMPL_BASE : Fld := ⟨QTAB_CMPL, 4, 39⟩
def QTAB_CMPL_LOG2N : Fld := ⟨QTAB_CMPL, 48, 5⟩
def QTAB_CHEAD : Reg := ⟨"QTAB_CHEAD", 0x400028, 16, 0x10000, 1024, 0x40, 0, 0xffffffffffffffff, 0xffffffff00000000, 0, 0⟩
def QTAB_CHEAD_CTAIL : Fld := ⟨QTAB_CHEAD, 0, 32⟩
def QTAB_CHEAD_CHEAD : Fld := ⟨QTAB_CHEAD, 32, 32⟩
def QTAB_STAT : Reg := ⟨"QTAB_STAT", 0x400030, 16, 0x10000, 1024, 0x40, 0, 0xffffffff00ff3fff, 0, 0x3c00, 0⟩
def QTAB_STAT_STATE : Fld := ⟨QTAB_STAT, 0, 3⟩
def QTAB_STAT_WAIT_IDX : Fld := ⟨QTAB_STAT, 3, 6⟩
def QTAB_STAT_CWAIT : Fld := ⟨QTAB_STAT, 9, 1⟩
def QTAB_STAT_BAD_DB : Fld := ⟨QTAB_STAT, 10, 1⟩
def QTAB_STAT_CFG_LOCK : Fld := ⟨QTAB_STAT, 11, 1⟩
def QTAB_STAT_RING_ERR : Fld := ⟨QTAB_STAT, 12, 1⟩
def QTAB_STAT_CMPL_ERR : Fld := ⟨QTAB_STAT, 13, 1⟩
def QTAB_STAT_HALT_STATUS : Fld := ⟨QTAB_STAT, 16, 8⟩
def QTAB_STAT_HALT_SEQ : Fld := ⟨QTAB_STAT, 32, 32⟩
def QTAB_CTRL : Reg := ⟨"QTAB_CTRL", 0x400038, 16, 0x10000, 1024, 0x40, 0, 3, 0, 0, 3⟩
def QTAB_CTRL_RESUME : Fld := ⟨QTAB_CTRL, 0, 1⟩
def QTAB_CTRL_DISCARD : Fld := ⟨QTAB_CTRL, 1, 1⟩
def QBLK_ERR : Reg := ⟨"QBLK_ERR", 0x80000, 1, 0, 1, 0, 0, 0xf, 0, 0xf, 0⟩
def QBLK_ERR_DESC : Fld := ⟨QBLK_ERR, 0, 1⟩
def QBLK_ERR_SEM_OVF : Fld := ⟨QBLK_ERR, 1, 1⟩
def QBLK_ERR_SEM_UNDER : Fld := ⟨QBLK_ERR, 2, 1⟩
def QBLK_ERR_SEM_RANGE : Fld := ⟨QBLK_ERR, 3, 1⟩
def SEM_VAL : Reg := ⟨"SEM_VAL", 0x802000, 96, 0x10000, 288, 0x20, 0, 0x3ffffffffffff, 0xffffffff, 0x3000000000000, 0⟩
def SEM_VAL_VALUE : Fld := ⟨SEM_VAL, 0, 32⟩
def SEM_VAL_WAITERS : Fld := ⟨SEM_VAL, 32, 16⟩
def SEM_VAL_OVF : Fld := ⟨SEM_VAL, 48, 1⟩
def SEM_VAL_UNDER : Fld := ⟨SEM_VAL, 49, 1⟩
def FSEM_VAL : Reg := ⟨"FSEM_VAL", 0x81000, 256, 0x20, 1, 0, 0, 0x3ffffffffffff, 0xffffffff, 0x3000000000000, 0⟩
def FSEM_VAL_VALUE : Fld := ⟨FSEM_VAL, 0, 32⟩
def FSEM_VAL_WAITERS : Fld := ⟨FSEM_VAL, 32, 16⟩
def FSEM_VAL_OVF : Fld := ⟨FSEM_VAL, 48, 1⟩
def FSEM_VAL_UNDER : Fld := ⟨FSEM_VAL, 49, 1⟩
def SEM_WAITQ : Reg := ⟨"SEM_WAITQ", 0x802008, 96, 0x10000, 288, 0x20, 0, 0, 0, 0, 0⟩
def SEM_WAITQ_QUEUE0 : Fld := ⟨SEM_WAITQ, 0, 14⟩
def SEM_WAITQ_INSTR0 : Fld := ⟨SEM_WAITQ, 14, 1⟩
def SEM_WAITQ_VALID0 : Fld := ⟨SEM_WAITQ, 15, 1⟩
def FSEM_WAITQ : Reg := ⟨"FSEM_WAITQ", 0x81008, 256, 0x20, 1, 0, 0, 0, 0, 0, 0⟩
def FSEM_WAITQ_QUEUE0 : Fld := ⟨FSEM_WAITQ, 0, 14⟩
def FSEM_WAITQ_INSTR0 : Fld := ⟨FSEM_WAITQ, 14, 1⟩
def FSEM_WAITQ_VALID0 : Fld := ⟨FSEM_WAITQ, 15, 1⟩
def SEM_LAST : Reg := ⟨"SEM_LAST", 0x802010, 96, 0x10000, 288, 0x20, 0, 0x7ffffffffffffff, 0, 0, 0⟩
def SEM_LAST_SRC : Fld := ⟨SEM_LAST, 0, 2⟩
def SEM_LAST_HANDLE : Fld := ⟨SEM_LAST, 2, 12⟩
def SEM_LAST_DEVICE : Fld := ⟨SEM_LAST, 14, 13⟩
def SEM_LAST_SEQ : Fld := ⟨SEM_LAST, 27, 32⟩
def FSEM_LAST : Reg := ⟨"FSEM_LAST", 0x81010, 256, 0x20, 1, 0, 0, 0x7ffffffffffffff, 0, 0, 0⟩
def FSEM_LAST_SRC : Fld := ⟨FSEM_LAST, 0, 2⟩
def FSEM_LAST_HANDLE : Fld := ⟨FSEM_LAST, 2, 12⟩
def FSEM_LAST_DEVICE : Fld := ⟨FSEM_LAST, 14, 13⟩
def FSEM_LAST_SEQ : Fld := ⟨FSEM_LAST, 27, 32⟩
def FSEM_SIG : Reg := ⟨"FSEM_SIG", 0x83000, 256, 8, 1, 0, 0, 0, 0, 0, 0xffffffff⟩
def FSEM_SIG_AMOUNT : Fld := ⟨FSEM_SIG, 0, 32⟩
def BAR_STAT : Reg := ⟨"BAR_STAT", 0x801000, 96, 0x10000, 64, 0x10, 0, 0xff7f037f, 0, 0x80000000, 0⟩
def BAR_STAT_COUNT : Fld := ⟨BAR_STAT, 0, 7⟩
def BAR_STAT_GEN : Fld := ⟨BAR_STAT, 8, 2⟩
def BAR_STAT_ARRIVED : Fld := ⟨BAR_STAT, 16, 7⟩
def BAR_STAT_AHEAD : Fld := ⟨BAR_STAT, 24, 7⟩
def BAR_STAT_OVR : Fld := ⟨BAR_STAT, 31, 1⟩
def BAR_MASK : Reg := ⟨"BAR_MASK", 0x801008, 96, 0x10000, 64, 0x10, 0, 0xffffffffffffffff, 0, 0, 0⟩
def BAR_MASK_ARRIVED : Fld := ⟨BAR_MASK, 0, 64⟩
/-! Registers of 11_pond_memory_and_main_memory.md, the tables after R347. -/
def SLAB_CFG : Reg := ⟨"SLAB_CFG", 0x800600, 96, 0x10000, 1, 0, 0x3c00400108, 0xffffffff0f1f, 0xffffffff0f1f, 0, 0⟩
def SLAB_CFG_CACHE_MIB : Fld := ⟨SLAB_CFG, 0, 5⟩
def SLAB_CFG_TRACE_MIB : Fld := ⟨SLAB_CFG, 8, 4⟩
def SLAB_CFG_BANK_THRESH : Fld := ⟨SLAB_CFG, 16, 16⟩
def SLAB_CFG_SCRUB_MIN : Fld := ⟨SLAB_CFG, 32, 16⟩
def SLAB_STAT : Reg := ⟨"SLAB_STAT", 0x800608, 96, 0x10000, 1, 0, 0xff0, 0x3fffff0ff7, 0, 7, 0⟩
def SLAB_STAT_SHRUNK : Fld := ⟨SLAB_STAT, 0, 1⟩
def SLAB_STAT_REBUILT : Fld := ⟨SLAB_STAT, 1, 1⟩
def SLAB_STAT_UE : Fld := ⟨SLAB_STAT, 2, 1⟩
def SLAB_STAT_FENCED0 : Fld := ⟨SLAB_STAT, 4, 4⟩
def SLAB_STAT_FENCED1 : Fld := ⟨SLAB_STAT, 8, 4⟩
def SLAB_STAT_CACHE_NOW : Fld := ⟨SLAB_STAT, 16, 5⟩
def SLAB_STAT_USER_NOW : Fld := ⟨SLAB_STAT, 21, 5⟩
def SLAB_STAT_TRG_NOW : Fld := ⟨SLAB_STAT, 26, 4⟩
def SLAB_STAT_HOT_NOW : Fld := ⟨SLAB_STAT, 30, 4⟩
def SLAB_STAT_TRACE_NOW : Fld := ⟨SLAB_STAT, 34, 4⟩
def PC_CNT : Reg := ⟨"PC_CNT", 0x800610, 96, 0x10000, 1, 0, 0, 0xffffffffffffffff, 0, 0, 0⟩
def PC_CNT_HITS : Fld := ⟨PC_CNT, 0, 32⟩
def PC_CNT_MISSES : Fld := ⟨PC_CNT, 32, 32⟩
def PF_CNT : Reg := ⟨"PF_CNT", 0x800618, 96, 0x10000, 1, 0, 0, 0xffffffffffffff, 0, 0, 0⟩
def PF_CNT_ISSUED : Fld := ⟨PF_CNT, 0, 32⟩
def PF_CNT_DROPPED : Fld := ⟨PF_CNT, 32, 16⟩
def PF_CNT_DEPTH : Fld := ⟨PF_CNT, 48, 8⟩
def MEM_SPACE : Reg := ⟨"MEM_SPACE", 0x90000, 4, 8, 1, 0, 0, 0x7fffffff001, 0x7fffffff001, 0, 0⟩
def MEM_SPACE_V : Fld := ⟨MEM_SPACE, 0, 1⟩
def MEM_SPACE_ROOT : Fld := ⟨MEM_SPACE, 12, 31⟩
def MEM_TDT : Reg := ⟨"MEM_TDT", 0x90040, 4, 0x10, 1, 0, 0, 0x7ffffffffe0, 0x7ffffffffe0, 0, 0⟩
def MEM_TDT_BASE : Fld := ⟨MEM_TDT, 5, 38⟩
def MEM_TIDX : Reg := ⟨"MEM_TIDX", 0x90048, 4, 0x10, 1, 0, 0, 0x1fff7ffffffffff, 0x1fff7ffffffffff, 0, 0⟩
def MEM_TIDX_INDEX : Fld := ⟨MEM_TIDX, 0, 43⟩
def MEM_TIDX_COUNT : Fld := ⟨MEM_TIDX, 44, 13⟩
def MEM_QAS : Reg := ⟨"MEM_QAS", 0x91000, 1024, 8, 1, 0, 0x8888888888888888, 0xbbbbbbbbbbbbbbbb, 0xbbbbbbbbbbbbbbbb, 0, 0⟩
def MEM_QAS_SPACE0 : Fld := ⟨MEM_QAS, 0, 2⟩
def MEM_QAS_T0 : Fld := ⟨MEM_QAS, 3, 1⟩
def MEM_TLBINV : Reg := ⟨"MEM_TLBINV", 0x90080, 1, 0, 1, 0, 0, 0, 0, 0, 0x7ffffe0000e⟩
def MEM_TLBINV_BUSY : Fld := ⟨MEM_TLBINV, 0, 1⟩
def MEM_TLBINV_ALL : Fld := ⟨MEM_TLBINV, 1, 1⟩
def MEM_TLBINV_SPACE : Fld := ⟨MEM_TLBINV, 2, 2⟩
def MEM_TLBINV_VA : Fld := ⟨MEM_TLBINV, 21, 22⟩
def MEM_PF : Reg := ⟨"MEM_PF", 0x90088, 1, 0, 1, 0, 0x34004, 0x7ffff, 0x7ffff, 0, 0⟩
def MEM_PF_MIN_DEPTH : Fld := ⟨MEM_PF, 0, 8⟩
def MEM_PF_MAX_DEPTH : Fld := ⟨MEM_PF, 8, 8⟩
def MEM_PF_DEF_CLASS : Fld := ⟨MEM_PF, 16, 3⟩
def MEM_CFG : Reg := ⟨"MEM_CFG", 0x90090, 1, 0, 1, 0, 0, 0xf, 0xc, 0, 0⟩
def MEM_CFG_RATE : Fld := ⟨MEM_CFG, 0, 2⟩
def MEM_CFG_REF_MULT : Fld := ⟨MEM_CFG, 2, 2⟩
def MEM_ECC : Reg := ⟨"MEM_ECC", 0x90098, 1, 0, 1, 0, 4, 7, 7, 0, 0⟩
def MEM_ECC_RADIUS : Fld := ⟨MEM_ECC, 0, 3⟩
def MEM_SCRUB : Reg := ⟨"MEM_SCRUB", 0x900a0, 1, 0, 1, 0, 0x1804001806, 0xffffffffff, 0xffffffff, 0, 0⟩
def MEM_SCRUB_MIN_H : Fld := ⟨MEM_SCRUB, 0, 8⟩
def MEM_SCRUB_MAX_H : Fld := ⟨MEM_SCRUB, 8, 8⟩
def MEM_SCRUB_CE_HI : Fld := ⟨MEM_SCRUB, 16, 16⟩
def MEM_SCRUB_NOW_H : Fld := ⟨MEM_SCRUB, 32, 8⟩
def MEM_CAL : Reg := ⟨"MEM_CAL", 0x900a8, 1, 0, 1, 0, 0x8100026c801, 0xffffffffff01, 0xffffffffff01, 0, 0⟩
def MEM_CAL_EN : Fld := ⟨MEM_CAL, 0, 1⟩
def MEM_CAL_PERIOD_MS : Fld := ⟨MEM_CAL, 8, 8⟩
def MEM_CAL_DELTA : Fld := ⟨MEM_CAL, 16, 4⟩
def MEM_CAL_HYST : Fld := ⟨MEM_CAL, 20, 4⟩
def MEM_CAL_WIN : Fld := ⟨MEM_CAL, 24, 16⟩
def MEM_CAL_MAX_OFF : Fld := ⟨MEM_CAL, 40, 8⟩
def MEM_STAT : Reg := ⟨"MEM_STAT", 0x900b0, 1, 0, 1, 0, 0, 1, 0, 1, 0⟩
def MEM_STAT_TLBINV_LOST : Fld := ⟨MEM_STAT, 0, 1⟩
def MCTL_CNT : Reg := ⟨"MCTL_CNT", 0x200000, 12, 0x10000, 1, 0, 0, 0xffffffffffffffff, 0, 0, 0⟩
def MCTL_CNT_CE : Fld := ⟨MCTL_CNT, 0, 32⟩
def MCTL_CNT_UE : Fld := ⟨MCTL_CNT, 32, 16⟩
def MCTL_CNT_REREAD : Fld := ⟨MCTL_CNT, 48, 16⟩
def MCTL_UE : Reg := ⟨"MCTL_UE", 0x200008, 12, 0x10000, 1, 0, 0, 0x7ffffffffff, 0, 0x10000000000, 0⟩
def MCTL_UE_A : Fld := ⟨MCTL_UE, 0, 40⟩
def MCTL_UE_VALID : Fld := ⟨MCTL_UE, 40, 1⟩
def MCTL_UE_MISDIR : Fld := ⟨MCTL_UE, 41, 1⟩
def MCTL_UE_SCRUB : Fld := ⟨MCTL_UE, 42, 1⟩
def MCTL_CAL : Reg := ⟨"MCTL_CAL", 0x200010, 12, 0x10000, 1, 0, 0, 0x1ffffffff, 0, 0x100000000, 0⟩
def MCTL_CAL_ABORTS : Fld := ⟨MCTL_CAL, 0, 16⟩
def MCTL_CAL_MOVES : Fld := ⟨MCTL_CAL, 16, 16⟩
def MCTL_CAL_BOUND : Fld := ⟨MCTL_CAL, 32, 1⟩
/-! Registers of 12_links_and_host_bridge.md, the tables after R378. -/
def LNK_CFG : Reg := ⟨"LNK_CFG", 0x300000, 12, 0x10000, 1, 0, 0x12, 0x1f1fff001f, 0x1f1fff001f, 0, 0⟩
def LNK_CFG_EN : Fld := ⟨LNK_CFG, 0, 1⟩
def LNK_CFG_MIN_LANES : Fld := ⟨LNK_CFG, 1, 3⟩
def LNK_CFG_HALF_OK : Fld := ⟨LNK_CFG, 4, 1⟩
def LNK_CFG_PEER_DEV : Fld := ⟨LNK_CFG, 16, 13⟩
def LNK_CFG_PEER_PORT : Fld := ⟨LNK_CFG, 32, 4⟩
def LNK_CFG_PEER_V : Fld := ⟨LNK_CFG, 36, 1⟩
def LNK_PEERKEY : Reg := ⟨"LNK_PEERKEY", 0x300008, 12, 0x10000, 4, 8, 0, 0xffffffffffffffff, 0xffffffffffffffff, 0, 0⟩
def LNK_PEERKEY_DIGEST : Fld := ⟨LNK_PEERKEY, 0, 64⟩
def LNK_STAT : Reg := ⟨"LNK_STAT", 0x300028, 12, 0x10000, 1, 0, 0x1fff0000, 0xf1fff7ff7, 0, 0x5e00, 0⟩
def LNK_STAT_STATE : Fld := ⟨LNK_STAT, 0, 3⟩
def LNK_STAT_LANES : Fld := ⟨LNK_STAT, 4, 4⟩
def LNK_STAT_HALF : Fld := ⟨LNK_STAT, 8, 1⟩
def LNK_STAT_PEER_MISMATCH : Fld := ⟨LNK_STAT, 9, 1⟩
def LNK_STAT_AUTH_FAIL : Fld := ⟨LNK_STAT, 10, 1⟩
def LNK_STAT_DEGRADED : Fld := ⟨LNK_STAT, 11, 1⟩
def LNK_STAT_WENT_DOWN : Fld := ⟨LNK_STAT, 12, 1⟩
def LNK_STAT_UNVERIFIED : Fld := ⟨LNK_STAT, 13, 1⟩
def LNK_STAT_BOUND : Fld := ⟨LNK_STAT, 14, 1⟩
def LNK_STAT_NBR_DEV : Fld := ⟨LNK_STAT, 16, 13⟩
def LNK_STAT_NBR_PORT : Fld := ⟨LNK_STAT, 32, 4⟩
def LNK_NBRKEY : Reg := ⟨"LNK_NBRKEY", 0x300030, 12, 0x10000, 4, 8, 0, 0, 0, 0, 0⟩
def LNK_NBRKEY_DIGEST : Fld := ⟨LNK_NBRKEY, 0, 64⟩
def LNK_CNT : Reg := ⟨"LNK_CNT", 0x300050, 12, 0x10000, 1, 0, 0, 0xffffffffffffffff, 0, 0, 0⟩
def LNK_CNT_REPLAYS : Fld := ⟨LNK_CNT, 0, 16⟩
def LNK_CNT_CRC : Fld := ⟨LNK_CNT, 16, 16⟩
def LNK_CNT_AUTH : Fld := ⟨LNK_CNT, 32, 8⟩
def LNK_CNT_PROTO : Fld := ⟨LNK_CNT, 40, 8⟩
def LNK_CNT_RETRAINS : Fld := ⟨LNK_CNT, 48, 16⟩
def LNK_EYE : Reg := ⟨"LNK_EYE", 0x300058, 12, 0x10000, 1, 0, 0, 0, 0, 0, 0⟩
def LNK_GCFG : Reg := ⟨"LNK_GCFG", 0xf0000, 1, 0, 1, 0, 0x7d00001, 0xffff0003, 0xffff0003, 0, 0⟩
def LNK_GCFG_EXT : Fld := ⟨LNK_GCFG, 0, 1⟩
def LNK_GCFG_ROUTE_EN : Fld := ⟨LNK_GCFG, 1, 1⟩
def LNK_GCFG_E2E_US : Fld := ⟨LNK_GCFG, 16, 16⟩
def LNK_DLOST : Reg := ⟨"LNK_DLOST", 0xf0008, 1, 0, 1, 0, 0, 0x3fff, 0, 0x2000, 0⟩
def LNK_DLOST_DEV : Fld := ⟨LNK_DLOST, 0, 13⟩
def LNK_DLOST_VALID : Fld := ⟨LNK_DLOST, 13, 1⟩
def LNK_ROUTE : Reg := ⟨"LNK_ROUTE", 0xf1000, 2048, 8, 1, 0, 0xffffffffffffffff, 0xffffffffffffffff, 0xffffffffffffffff, 0, 0⟩
def LNK_ROUTE_P00 : Fld := ⟨LNK_ROUTE, 0, 4⟩
def LNK_ROUTE_P10 : Fld := ⟨LNK_ROUTE, 4, 4⟩
def LNK_ROUTE_P20 : Fld := ⟨LNK_ROUTE, 8, 4⟩
def LNK_ROUTE_P30 : Fld := ⟨LNK_ROUTE, 12, 4⟩
def HB_WIN : Reg := ⟨"HB_WIN", 0x100000, 16, 8, 1, 0, 0, 0, 0x7f000007fff, 0, 0⟩
def HB_WIN_DEVICE : Fld := ⟨HB_WIN, 0, 13⟩
def HB_WIN_V : Fld := ⟨HB_WIN, 13, 1⟩
def HB_WIN_PATH : Fld := ⟨HB_WIN, 14, 1⟩
def HB_WIN_BASE : Fld := ⟨HB_WIN, 36, 7⟩
def HB_PATH : Reg := ⟨"HB_PATH", 0x100080, 16, 8, 1, 0, 0xffffffffffff, 0, 0xffffffffffff, 0, 0⟩
def HB_PATH_PATH : Fld := ⟨HB_PATH, 0, 48⟩
def HB_HOSTWIN : Reg := ⟨"HB_HOSTWIN", 0x100100, 1, 0, 1, 0, 0, 0, 0xfffffffffffff001, 0, 0⟩
def HB_HOSTWIN_V : Fld := ⟨HB_HOSTWIN, 0, 1⟩
def HB_HOSTWIN_BASE : Fld := ⟨HB_HOSTWIN, 12, 52⟩
def HB_STAT : Reg := ⟨"HB_STAT", 0x100108, 1, 0, 1, 0, 0, 0x1f, 0, 0x1f, 0⟩
def HB_STAT_UNMAPPED : Fld := ⟨HB_STAT, 0, 1⟩
def HB_STAT_CPL_TO : Fld := ⟨HB_STAT, 1, 1⟩
def HB_STAT_UR : Fld := ⟨HB_STAT, 2, 1⟩
def HB_STAT_FLR : Fld := ⟨HB_STAT, 3, 1⟩
def HB_STAT_POISONED : Fld := ⟨HB_STAT, 4, 1⟩
def HB_STAT_WIDTH : Fld := ⟨HB_STAT, 8, 5⟩
def HB_STAT_SPEED : Fld := ⟨HB_STAT, 16, 3⟩
def HB_STAT_FLIT : Fld := ⟨HB_STAT, 19, 1⟩
def HB_FWD : Reg := ⟨"HB_FWD", 0x100110, 1, 0, 1, 0, 0, 0xffffffffffffffff, 0, 0, 0⟩
def HB_FWD_DOORBELLS : Fld := ⟨HB_FWD, 0, 32⟩
def HB_FWD_IRQS : Fld := ⟨HB_FWD, 32, 32⟩
def CVU_POLY : Reg := ⟨"CVU_POLY", 0x110000, 16, 0x20, 1, 0, 0x4c11db7, 0xffffffffffffffff, 0xffffffffffffffff, 0, 0⟩
def CVU_POLY_VALUE : Fld := ⟨CVU_POLY, 0, 64⟩
def CVU_INIT : Reg := ⟨"CVU_INIT", 0x110008, 16, 0x20, 1, 0, 0xffffffff, 0xffffffffffffffff, 0xffffffffffffffff, 0, 0⟩
def CVU_INIT_VALUE : Fld := ⟨CVU_INIT, 0, 64⟩
def CVU_XOR : Reg := ⟨"CVU_XOR", 0x110010, 16, 0x20, 1, 0, 0xffffffff, 0xffffffffffffffff, 0xffffffffffffffff, 0, 0⟩
def CVU_XOR_VALUE : Fld := ⟨CVU_XOR, 0, 64⟩
def CVU_CTL : Reg := ⟨"CVU_CTL", 0x110018, 16, 0x20, 1, 0, 0x1a0, 0x1ff, 0x1ff, 0, 0⟩
def CVU_CTL_WIDTH : Fld := ⟨CVU_CTL, 0, 7⟩
def CVU_CTL_REFIN : Fld := ⟨CVU_CTL, 7, 1⟩
def CVU_CTL_REFOUT : Fld := ⟨CVU_CTL, 8, 1⟩
/-! Registers of 13_collectives_and_job_mapping.md, the tables after R404. -/
def COL_GRP_BASE : Reg := ⟨"COL_GRP_BASE", 0xe0000, 1, 0, 1, 0, 0, 0x7ffffffffc0, 0x7ffffffffc0, 0, 0⟩
def COL_GRP_BASE_BASE : Fld := ⟨COL_GRP_BASE, 6, 37⟩
def NS_CFG : Reg := ⟨"NS_CFG", 0xe0008, 1, 0, 1, 0, 0, 0x7ffffffffe0, 0x7ffffffffe0, 0, 0⟩
def NS_CFG_BASE : Fld := ⟨NS_CFG, 5, 38⟩
def NS_ALPHA : Reg := ⟨"NS_ALPHA", 0xe0010, 1, 0, 1, 0, 0x3d4ccccd, 0xffffffff, 0xffffffff, 0, 0⟩
def NS_ALPHA_ALPHA : Fld := ⟨NS_ALPHA, 0, 32⟩
def BSC_CFG : Reg := ⟨"BSC_CFG", 0xe0018, 1, 0, 1, 0, 0x20100000000001, 0xff1fffff1fffff, 0xff1fffff1fffff, 0, 0⟩
def BSC_CFG_MIN : Fld := ⟨BSC_CFG, 0, 21⟩
def BSC_CFG_MAX : Fld := ⟨BSC_CFG, 24, 21⟩
def BSC_CFG_MAXCHG : Fld := ⟨BSC_CFG, 48, 8⟩
def BSC_REC : Reg := ⟨"BSC_REC", 0xe0020, 1, 0, 1, 0, 0, 0x7fffffffff8, 0x7fffffffff8, 0, 0⟩
def BSC_REC_REC : Fld := ⟨BSC_REC, 3, 40⟩
def BSC_STAT : Reg := ⟨"BSC_STAT", 0xe0028, 1, 0, 1, 0, 0x400, 0x1fffff007fffff, 0x1fffff, 0x400000, 0⟩
def BSC_STAT_CUR : Fld := ⟨BSC_STAT, 0, 21⟩
def BSC_STAT_PEND : Fld := ⟨BSC_STAT, 21, 1⟩
def BSC_STAT_CLAMP : Fld := ⟨BSC_STAT, 22, 1⟩
def BSC_STAT_PROP : Fld := ⟨BSC_STAT, 32, 21⟩
def COL_STAT : Reg := ⟨"COL_STAT", 0xe0030, 1, 0, 1, 0, 0, 7, 0, 7, 0⟩
def COL_STAT_MISMATCH : Fld := ⟨COL_STAT, 0, 1⟩
def COL_STAT_ABORTED : Fld := ⟨COL_STAT, 1, 1⟩
def COL_STAT_FLAG_TWICE : Fld := ⟨COL_STAT, 2, 1⟩
def COL_CNT : Reg := ⟨"COL_CNT", 0x300100, 12, 0x10000, 1, 0, 0, 0xffffffffffffffff, 0, 0, 0⟩
def COL_CNT_CHUNKS : Fld := ⟨COL_CNT, 0, 32⟩
def COL_CNT_LEADS : Fld := ⟨COL_CNT, 32, 32⟩
/-! Registers of 14_faults_recovery_and_snapshots.md, the tables after R436. -/
def FLT_CFG : Reg := ⟨"FLT_CFG", 0x30000, 1, 0, 1, 0, 0xffff004001f4, 0xffffffff03ff, 0xffffffff03ff, 0, 0⟩
def FLT_CFG_STALL_US : Fld := ⟨FLT_CFG, 0, 10⟩
def FLT_CFG_DIE_UE : Fld := ⟨FLT_CFG, 16, 16⟩
def FLT_CFG_ALERT_MASK : Fld := ⟨FLT_CFG, 32, 16⟩
def FLT_STAT : Reg := ⟨"FLT_STAT", 0x30008, 1, 0, 1, 0, 0, 0xfffff, 0, 0x7e, 0⟩
def FLT_STAT_RECOVERING : Fld := ⟨FLT_STAT, 0, 1⟩
def FLT_STAT_FENCED : Fld := ⟨FLT_STAT, 1, 1⟩
def FLT_STAT_RBLD_LOST : Fld := ⟨FLT_STAT, 2, 1⟩
def FLT_STAT_SECOND : Fld := ⟨FLT_STAT, 3, 1⟩
def FLT_STAT_DEVLOST : Fld := ⟨FLT_STAT, 4, 1⟩
def FLT_STAT_DIE_RET : Fld := ⟨FLT_STAT, 5, 1⟩
def FLT_STAT_WRST_DONE : Fld := ⟨FLT_STAT, 6, 1⟩
def FLT_STAT_FATAL : Fld := ⟨FLT_STAT, 7, 1⟩
def FLT_STAT_RBLD_UNIT : Fld := ⟨FLT_STAT, 8, 12⟩
def FLT_CTRL : Reg := ⟨"FLT_CTRL", 0x30010, 1, 0, 1, 0, 0, 0, 0, 0, 1⟩
def FLT_CTRL_WRST : Fld := ⟨FLT_CTRL, 0, 1⟩
def FLT_LAST : Reg := ⟨"FLT_LAST", 0x30018, 1, 0, 1, 0, 0, 0xffffffffffffffff, 0, 0, 0⟩
def FLT_LAST_HANDLE : Fld := ⟨FLT_LAST, 0, 12⟩
def FLT_LAST_CAUSE : Fld := ⟨FLT_LAST, 12, 4⟩
def FLT_LAST_STAMP : Fld := ⟨FLT_LAST, 16, 48⟩
def FLT_SAVE : Reg := ⟨"FLT_SAVE", 0x30020, 1, 0, 1, 0, 0, 0x7ffffe00001, 0x7ffffe00001, 0, 0⟩
def FLT_SAVE_V : Fld := ⟨FLT_SAVE, 0, 1⟩
def FLT_SAVE_BASE : Fld := ⟨FLT_SAVE, 21, 22⟩
def FLT_CAP : Reg := ⟨"FLT_CAP", 0x30028, 1, 0, 1, 0, 0x43860c00180, 0xffffffff01ff, 0, 0, 0⟩
def FLT_CAP_GC_UP : Fld := ⟨FLT_CAP, 0, 9⟩
def FLT_CAP_MC_UP : Fld := ⟨FLT_CAP, 16, 8⟩
def FLT_CAP_PONDS_UP : Fld := ⟨FLT_CAP, 24, 8⟩
def FLT_CAP_MEM_GIB : Fld := ⟨FLT_CAP, 32, 16⟩
def FLT_DIE : Reg := ⟨"FLT_DIE", 0x30030, 1, 0, 1, 0, 0, 0x1ff7f7fff, 0, 0x100000000, 0⟩
def FLT_DIE_CTRL : Fld := ⟨FLT_DIE, 0, 4⟩
def FLT_DIE_DIE : Fld := ⟨FLT_DIE, 4, 4⟩
def FLT_DIE_CH_A : Fld := ⟨FLT_DIE, 8, 7⟩
def FLT_DIE_CH_B : Fld := ⟨FLT_DIE, 16, 7⟩
def FLT_DIE_RAW_GIB : Fld := ⟨FLT_DIE, 24, 8⟩
def FLT_DIE_VALID : Fld := ⟨FLT_DIE, 32, 1⟩
def FLT_SUM : Reg := ⟨"FLT_SUM", 0x30038, 1, 0, 1, 0, 0, 0, 0, 0, 0⟩
def FLT_SUM_KINDS : Fld := ⟨FLT_SUM, 0, 16⟩
def FLT_FGC : Reg := ⟨"FLT_FGC", 0x30100, 6, 8, 1, 0, 0, 0xffffffffffffffff, 0, 0, 0⟩
def FLT_FGC_FENCED : Fld := ⟨FLT_FGC, 0, 64⟩
def FLT_FMC : Reg := ⟨"FLT_FMC", 0x30140, 3, 8, 1, 0, 0, 0xffffffffffffffff, 0, 0, 0⟩
def FLT_FMC_FENCED : Fld := ⟨FLT_FMC, 0, 64⟩
def FLT_FHUB : Reg := ⟨"FLT_FHUB", 0x30160, 2, 8, 1, 0, 0, 0xffffffffffffffff, 0, 0, 0⟩
def FLT_FHUB_FENCED : Fld := ⟨FLT_FHUB, 0, 64⟩
def SNAP_CTRL : Reg := ⟨"SNAP_CTRL", 0x50000, 1, 0, 1, 0, 0, 0, 0x7ffffffffc0, 0, 0x8000000000000000⟩
def SNAP_CTRL_DESC : Fld := ⟨SNAP_CTRL, 6, 37⟩
def SNAP_CTRL_GO : Fld := ⟨SNAP_CTRL, 63, 1⟩
def SNAP_CFG : Reg := ⟨"SNAP_CFG", 0x50008, 1, 0, 1, 0, 0xa, 0xfff003f, 0xfff003f, 0, 0⟩
def SNAP_CFG_SHARE : Fld := ⟨SNAP_CFG, 0, 6⟩
def SNAP_CFG_VECTOR : Fld := ⟨SNAP_CFG, 16, 11⟩
def SNAP_CFG_IRQ_EN : Fld := ⟨SNAP_CFG, 27, 1⟩
def SNAP_STAT : Reg := ⟨"SNAP_STAT", 0x50010, 1, 0, 1, 0, 0, 0xffffffff000000ff, 0, 0xfc, 0⟩
def SNAP_STAT_ARMED : Fld := ⟨SNAP_STAT, 0, 1⟩
def SNAP_STAT_DRAINING : Fld := ⟨SNAP_STAT, 1, 1⟩
def SNAP_STAT_DONE : Fld := ⟨SNAP_STAT, 2, 1⟩
def SNAP_STAT_STALLED : Fld := ⟨SNAP_STAT, 3, 1⟩
def SNAP_STAT_LATE : Fld := ⟨SNAP_STAT, 4, 1⟩
def SNAP_STAT_BUSY_REJ : Fld := ⟨SNAP_STAT, 5, 1⟩
def SNAP_STAT_POOL_FULL : Fld := ⟨SNAP_STAT, 6, 1⟩
def SNAP_STAT_DEST_ERR : Fld := ⟨SNAP_STAT, 7, 1⟩
def SNAP_STAT_STALL_US : Fld := ⟨SNAP_STAT, 32, 32⟩
def SNAP_RST : Reg := ⟨"SNAP_RST", 0x50018, 1, 0, 1, 0, 0, 2, 0x7ffffffffc0, 2, 0x8000000000000000⟩
def SNAP_RST_BUSY : Fld := ⟨SNAP_RST, 0, 1⟩
def SNAP_RST_ERR : Fld := ⟨SNAP_RST, 1, 1⟩
def SNAP_RST_ADDR : Fld := ⟨SNAP_RST, 6, 37⟩
def SNAP_RST_GO : Fld := ⟨SNAP_RST, 63, 1⟩
def SNAP_CURSOR : Reg := ⟨"SNAP_CURSOR", 0x50020, 4, 8, 1, 0, 0, 0xffffffffffffffff, 0xffffffffffffffff, 0, 0⟩
def SNAP_CURSOR_VALUE : Fld := ⟨SNAP_CURSOR, 0, 64⟩
def SILT_CTL : Reg := ⟨"SILT_CTL", 0x40000, 1, 0, 1, 0, 0, 0x3fff00031fff, 0x1fff, 0, 0x20000⟩
def SILT_CTL_IDX : Fld := ⟨SILT_CTL, 0, 13⟩
def SILT_CTL_FROZEN : Fld := ⟨SILT_CTL, 16, 1⟩
def SILT_CTL_UNFREEZE : Fld := ⟨SILT_CTL, 17, 1⟩
def SILT_CTL_COUNT : Fld := ⟨SILT_CTL, 32, 14⟩
def SILT_DATA : Reg := ⟨"SILT_DATA", 0x40100, 8, 8, 1, 0, 0, 0, 0, 0, 0⟩
def SILT_DATA_BYTES : Fld := ⟨SILT_DATA, 0, 64⟩
/-! Registers of 15_power_sensing_and_control.md, the tables after R458. -/
def PWR_LIMIT : Reg := ⟨"PWR_LIMIT", 0x20000, 1, 0, 1, 0, 0x25801c203b6, 0xffff01ffffff, 0xffff01ffffff, 0, 0⟩
def PWR_LIMIT_PKG_W : Fld := ⟨PWR_LIMIT, 0, 16⟩
def PWR_LIMIT_VIN_A : Fld := ⟨PWR_LIMIT, 16, 9⟩
def PWR_LIMIT_STALE_W : Fld := ⟨PWR_LIMIT, 32, 16⟩
def PWR_COOLANT : Reg := ⟨"PWR_COOLANT", 0x20008, 1, 0, 1, 0, 0xffffffff00000000, 0, 0xffff, 0, 0⟩
def PWR_COOLANT_TEMP : Fld := ⟨PWR_COOLANT, 0, 16⟩
def PWR_COOLANT_AGE_MS : Fld := ⟨PWR_COOLANT, 32, 32⟩
def PWR_POND : Reg := ⟨"PWR_POND", 0x20010, 1, 0, 1, 0, 0x1400030c026c, 0xff0103ff03ff, 0xff0103ff03ff, 0, 0⟩
def PWR_POND_V_MIN : Fld := ⟨PWR_POND, 0, 10⟩
def PWR_POND_V_MAX : Fld := ⟨PWR_POND, 16, 10⟩
def PWR_POND_MODE : Fld := ⟨PWR_POND, 32, 1⟩
def PWR_POND_LULL_US : Fld := ⟨PWR_POND, 40, 8⟩
def PWR_LOOP : Reg := ⟨"PWR_LOOP", 0x20018, 1, 0, 1, 0, 0, 0x3f3f, 0, 0x3f, 0⟩
def PWR_LOOP_CLAMP : Fld := ⟨PWR_LOOP, 0, 6⟩
def PWR_LOOP_UNMET : Fld := ⟨PWR_LOOP, 8, 6⟩
def PWR_STAT : Reg := ⟨"PWR_STAT", 0x20020, 1, 0, 1, 0, 0, 0xffffffffffffffff, 0, 0xf0, 0⟩
def PWR_STAT_STATE : Fld := ⟨PWR_STAT, 0, 3⟩
def PWR_STAT_THROTTLE : Fld := ⟨PWR_STAT, 3, 1⟩
def PWR_STAT_COOL_STALE : Fld := ⟨PWR_STAT, 4, 1⟩
def PWR_STAT_PHASE_FAIL : Fld := ⟨PWR_STAT, 5, 1⟩
def PWR_STAT_SENSOR_EXCL : Fld := ⟨PWR_STAT, 6, 1⟩
def PWR_STAT_TEL_ERR : Fld := ⟨PWR_STAT, 7, 1⟩
def PWR_STAT_LAST_CAUSE : Fld := ⟨PWR_STAT, 8, 8⟩
def PWR_STAT_LAST_THR : Fld := ⟨PWR_STAT, 16, 8⟩
def PWR_STAT_LAST_STATE : Fld := ⟨PWR_STAT, 24, 8⟩
def PWR_STAT_PKG_NOW : Fld := ⟨PWR_STAT, 32, 16⟩
def PWR_STAT_TJ_NOW : Fld := ⟨PWR_STAT, 48, 16⟩
def PWR_CTRL : Reg := ⟨"PWR_CTRL", 0x20028, 1, 0, 1, 0, 0, 0, 0, 0, 1⟩
def PWR_CTRL_WAKE : Fld := ⟨PWR_CTRL, 0, 1⟩
def LOOP_TRG : Reg := ⟨"LOOP_TRG", 0x20030, 1, 0, 1, 0, 0xe8, 0xff, 0xff, 0, 0⟩
def LOOP_TRG_MIN : Fld := ⟨LOOP_TRG, 0, 4⟩
def LOOP_TRG_MAX : Fld := ⟨LOOP_TRG, 4, 4⟩
def TEL_CFG : Reg := ⟨"TEL_CFG", 0x20040, 1, 0, 1, 0, 0x640008, 0x3ff001f, 0x3ff001f, 0, 0⟩
def TEL_CFG_EN : Fld := ⟨TEL_CFG, 0, 1⟩
def TEL_CFG_LOG2N : Fld := ⟨TEL_CFG, 1, 4⟩
def TEL_CFG_PERIOD_MS : Fld := ⟨TEL_CFG, 16, 10⟩
def TEL_BASE : Reg := ⟨"TEL_BASE", 0x20048, 1, 0, 1, 0, 0, 0xfffffffffffc00, 0xfffffffffffc00, 0, 0⟩
def TEL_BASE_BASE : Fld := ⟨TEL_BASE, 10, 46⟩
def TEL_HEAD : Reg := ⟨"TEL_HEAD", 0x20050, 1, 0, 1, 0, 0, 0xffffffff, 0, 0, 0⟩
def TEL_HEAD_SEQ : Fld := ⟨TEL_HEAD, 0, 32⟩
def PWR_THR : Reg := ⟨"PWR_THR", 0x20100, 32, 8, 1, 0, 0, 0xffffffff0003ffff, 0xffffffff0003ffff, 0, 0⟩
def PWR_THR_SOURCE : Fld := ⟨PWR_THR, 0, 16⟩
def PWR_THR_DIR : Fld := ⟨PWR_THR, 16, 1⟩
def PWR_THR_EN : Fld := ⟨PWR_THR, 17, 1⟩
def PWR_THR_VALUE : Fld := ⟨PWR_THR, 32, 32⟩
def POND_VREG : Reg := ⟨"POND_VREG", 0x800700, 96, 0x10000, 1, 0, 0x40ff035c0000, 0xff00000000, 0, 0, 0⟩
def POND_VREG_VNOW : Fld := ⟨POND_VREG, 0, 10⟩
def POND_VREG_CEIL : Fld := ⟨POND_VREG, 16, 10⟩
def POND_VREG_PHASE_OK : Fld := ⟨POND_VREG, 32, 8⟩
def POND_VREG_ILIM : Fld := ⟨POND_VREG, 40, 8⟩
def POND_VREG_UNMET : Fld := ⟨POND_VREG, 48, 1⟩
def POND_VREG_THROT : Fld := ⟨POND_VREG, 49, 1⟩
def POND_TEMP : Reg := ⟨"POND_TEMP", 0x800710, 96, 0x10000, 12, 8, 0, 0x10000, 0, 0, 0⟩
def POND_TEMP_TEMP : Fld := ⟨POND_TEMP, 0, 16⟩
def POND_TEMP_EXCL : Fld := ⟨POND_TEMP, 16, 1⟩
/-! Registers of 16_boot_identity_and_security.md, the tables after R480. -/
def BOOT_STAT : Reg := ⟨"BOOT_STAT", 0x10000, 1, 0, 1, 0, 0, 0xffffffff00ff1fff, 0, 0, 0⟩
def BOOT_STAT_STAGE : Fld := ⟨BOOT_STAT, 0, 4⟩
def BOOT_STAT_ERR : Fld := ⟨BOOT_STAT, 4, 4⟩
def BOOT_STAT_SLOT : Fld := ⟨BOOT_STAT, 8, 1⟩
def BOOT_STAT_FALLBACK : Fld := ⟨BOOT_STAT, 9, 1⟩
def BOOT_STAT_ENROLLED : Fld := ⟨BOOT_STAT, 10, 1⟩
def BOOT_STAT_CERT_MISMATCH : Fld := ⟨BOOT_STAT, 11, 1⟩
def BOOT_STAT_NO_CERT : Fld := ⟨BOOT_STAT, 12, 1⟩
def BOOT_STAT_SKIPPED : Fld := ⟨BOOT_STAT, 16, 8⟩
def BOOT_STAT_UPDATE_SEQ : Fld := ⟨BOOT_STAT, 32, 32⟩
def BOOT_VER : Reg := ⟨"BOOT_VER", 0x10008, 1, 0, 1, 0, 0, 0xffffffffffffffff, 0, 0, 0⟩
def BOOT_VER_ROM_VERSION : Fld := ⟨BOOT_VER, 0, 32⟩
def BOOT_VER_FW_VERSION : Fld := ⟨BOOT_VER, 32, 32⟩
def ID_PUBKEY : Reg := ⟨"ID_PUBKEY", 0x10040, 8, 8, 1, 0, 0, 0xffffffffffffffff, 0, 0, 0⟩
def ID_PUBKEY_BYTES : Fld := ⟨ID_PUBKEY, 0, 64⟩
def OWNER_DIG : Reg := ⟨"OWNER_DIG", 0x10080, 4, 8, 1, 0, 0, 0xffffffffffffffff, 0, 0, 0⟩
def OWNER_DIG_BYTES : Fld := ⟨OWNER_DIG, 0, 64⟩
def IMAGE_DIG : Reg := ⟨"IMAGE_DIG", 0x100a0, 4, 8, 1, 0, 0, 0xffffffffffffffff, 0, 0, 0⟩
def IMAGE_DIG_BYTES : Fld := ⟨IMAGE_DIG, 0, 64⟩
def CONFIG_DIG : Reg := ⟨"CONFIG_DIG", 0x100c0, 4, 8, 1, 0, 0, 0xffffffffffffffff, 0, 0, 0⟩
def CONFIG_DIG_BYTES : Fld := ⟨CONFIG_DIG, 0, 64⟩
def RNG_STAT : Reg := ⟨"RNG_STAT", 0x10100, 1, 0, 1, 0, 0, 0xffffffff00000007, 0, 1, 0⟩
def RNG_STAT_HEALTH_FAIL : Fld := ⟨RNG_STAT, 0, 1⟩
def RNG_STAT_SEEDED : Fld := ⟨RNG_STAT, 1, 1⟩
def RNG_STAT_HALTED : Fld := ⟨RNG_STAT, 2, 1⟩
def RNG_STAT_RESEEDS : Fld := ⟨RNG_STAT, 32, 32⟩
def FLASH_OP : Reg := ⟨"FLASH_OP", 0x10200, 1, 0, 1, 0, 0, 0x30, 0xffffffffffffff00, 0x30, 7⟩
def FLASH_OP_OP : Fld := ⟨FLASH_OP, 0, 3⟩
def FLASH_OP_BUSY : Fld := ⟨FLASH_OP, 3, 1⟩
def FLASH_OP_ERR : Fld := ⟨FLASH_OP, 4, 1⟩
def FLASH_OP_REFUSED : Fld := ⟨FLASH_OP, 5, 1⟩
def FLASH_OP_FADDR : Fld := ⟨FLASH_OP, 8, 32⟩
def FLASH_OP_LEN : Fld := ⟨FLASH_OP, 40, 24⟩
def FLASH_BUF : Reg := ⟨"FLASH_BUF", 0x10208, 1, 0, 1, 0, 0, 0, 0x7ffffffffff, 0, 0⟩
def FLASH_BUF_BUF : Fld := ⟨FLASH_BUF, 0, 43⟩
def FLASH_STAT : Reg := ⟨"FLASH_STAT", 0x10210, 1, 0, 1, 0, 0, 0xff01ffff, 0, 0, 0⟩
def FLASH_STAT_SIZE_MIB : Fld := ⟨FLASH_STAT, 0, 16⟩
def FLASH_STAT_BUS_8D : Fld := ⟨FLASH_STAT, 16, 1⟩
def FLASH_STAT_CLK_MHZ : Fld := ⟨FLASH_STAT, 24, 8⟩
/-- Kept over warm reset, for R472 keeps it readable until POR_N (DEDUCED, log 164). -/
def PUF_HELPER : Reg := ⟨"PUF_HELPER", 0x11000, 256, 8, 1, 0, 0, 0xffffffffffffffff, 0, 0, 0⟩
def PUF_HELPER_BYTES : Fld := ⟨PUF_HELPER, 0, 64⟩
/-! Registers of 17_observation.md, the tables after R496. -/
def OBS_CFG : Reg := ⟨"OBS_CFG", 0x70000, 1, 0, 1, 0, 0xa001e, 0x1f073f, 0x1f073f, 0, 0⟩
def OBS_CFG_SHARE : Fld := ⟨OBS_CFG, 0, 6⟩
def OBS_CFG_ALL_CMD : Fld := ⟨OBS_CFG, 8, 1⟩
def OBS_CFG_MEM_EN : Fld := ⟨OBS_CFG, 9, 1⟩
def OBS_CFG_LNK_EN : Fld := ⟨OBS_CFG, 10, 1⟩
def OBS_CFG_SAMPLE_LOG2 : Fld := ⟨OBS_CFG, 16, 5⟩
def OBS_CAPTURE : Reg := ⟨"OBS_CAPTURE", 0x70008, 1, 0, 1, 0, 0, 0, 0x7fffffffff0, 0, 0x8000000000000000⟩
def OBS_CAPTURE_BUSY : Fld := ⟨OBS_CAPTURE, 0, 1⟩
def OBS_CAPTURE_ADDR : Fld := ⟨OBS_CAPTURE, 4, 39⟩
def OBS_CAPTURE_GO : Fld := ⟨OBS_CAPTURE, 63, 1⟩
def OBS_STAT : Reg := ⟨"OBS_STAT", 0x70010, 1, 0, 1, 0, 0, 0xffffffff00000001, 0, 1, 0⟩
def OBS_STAT_DROPPED : Fld := ⟨OBS_STAT, 0, 1⟩
def OBS_STAT_DROPS : Fld := ⟨OBS_STAT, 32, 32⟩
def TRC_PTR : Reg := ⟨"TRC_PTR", 0x805900, 96, 0x10000, 1, 0, 0, 0xffffffffffffffff, 0xffffffff00000000, 0, 0⟩
def TRC_PTR_HEAD : Fld := ⟨TRC_PTR, 0, 32⟩
def TRC_PTR_TAIL : Fld := ⟨TRC_PTR, 32, 32⟩
def TRC_CFG : Reg := ⟨"TRC_CFG", 0x805908, 96, 0x10000, 1, 0, 0, 1, 1, 0, 0⟩
def TRC_CFG_WRAP : Fld := ⟨TRC_CFG, 0, 1⟩
def TRC_STAT : Reg := ⟨"TRC_STAT", 0x805910, 96, 0x10000, 1, 0, 0x400000000000, 0xffffffff01ffffff, 0, 0, 0⟩
def TRC_STAT_BASE : Fld := ⟨TRC_STAT, 0, 25⟩
def TRC_STAT_CAPACITY : Fld := ⟨TRC_STAT, 32, 18⟩
def TRC_STAT_DROPPED : Fld := ⟨TRC_STAT, 50, 14⟩
def OBS_BUSY : Reg := ⟨"OBS_BUSY", 0x805800, 96, 0x10000, 7, 8, 0, 0xffffffffffffffff, 0, 0, 0⟩
def OBS_BUSY_NS : Fld := ⟨OBS_BUSY, 0, 64⟩
def OBS_RET : Reg := ⟨"OBS_RET", 0x805838, 96, 0x10000, 1, 0, 0, 0xffffffffffffffff, 0, 0, 0⟩
def OBS_RET_COUNT : Fld := ⟨OBS_RET, 0, 64⟩
def PCC_TAG : Reg := ⟨"PCC_TAG", 0x805000, 96, 0x10000, 16, 0x80, 0, 0, 0, 0, 0⟩
def PCC_TAG_QUEUE : Fld := ⟨PCC_TAG, 0, 14⟩
def PCC_TAG_CLOSED : Fld := ⟨PCC_TAG, 14, 1⟩
def PCC_TAG_VALID : Fld := ⟨PCC_TAG, 15, 1⟩
def PCC_TAG_SEQ : Fld := ⟨PCC_TAG, 16, 32⟩
def PCC_TAG_OPC : Fld := ⟨PCC_TAG, 48, 8⟩
def PCC_TAG_REISSUED : Fld := ⟨PCC_TAG, 56, 1⟩
def TPCC_TAG : Reg := ⟨"TPCC_TAG", 0x300200, 12, 0x10000, 4, 0x80, 0, 0, 0, 0, 0⟩
def TPCC_TAG_QUEUE : Fld := ⟨TPCC_TAG, 0, 14⟩
def TPCC_TAG_CLOSED : Fld := ⟨TPCC_TAG, 14, 1⟩
def TPCC_TAG_VALID : Fld := ⟨TPCC_TAG, 15, 1⟩
def TPCC_TAG_SEQ : Fld := ⟨TPCC_TAG, 16, 32⟩
def TPCC_TAG_OPC : Fld := ⟨TPCC_TAG, 48, 8⟩
def TPCC_TAG_REISSUED : Fld := ⟨TPCC_TAG, 56, 1⟩
def PCC_V01 : Reg := ⟨"PCC_V01", 0x805008, 96, 0x10000, 16, 0x80, 0, 0, 0, 0, 0⟩
def PCC_V01_LOW : Fld := ⟨PCC_V01, 0, 32⟩
def PCC_V01_HIGH : Fld := ⟨PCC_V01, 32, 32⟩
def TPCC_V01 : Reg := ⟨"TPCC_V01", 0x300208, 12, 0x10000, 4, 0x80, 0, 0, 0, 0, 0⟩
def TPCC_V01_LOW : Fld := ⟨TPCC_V01, 0, 32⟩
def TPCC_V01_HIGH : Fld := ⟨TPCC_V01, 32, 32⟩
def PCC_V23 : Reg := ⟨"PCC_V23", 0x805010, 96, 0x10000, 16, 0x80, 0, 0, 0, 0, 0⟩
def PCC_V23_LOW : Fld := ⟨PCC_V23, 0, 32⟩
def PCC_V23_HIGH : Fld := ⟨PCC_V23, 32, 32⟩
def TPCC_V23 : Reg := ⟨"TPCC_V23", 0x300210, 12, 0x10000, 4, 0x80, 0, 0, 0, 0, 0⟩
def TPCC_V23_LOW : Fld := ⟨TPCC_V23, 0, 32⟩
def TPCC_V23_HIGH : Fld := ⟨TPCC_V23, 32, 32⟩
def PCC_V45 : Reg := ⟨"PCC_V45", 0x805018, 96, 0x10000, 16, 0x80, 0, 0, 0, 0, 0⟩
def PCC_V45_LOW : Fld := ⟨PCC_V45, 0, 32⟩
def PCC_V45_HIGH : Fld := ⟨PCC_V45, 32, 32⟩
def TPCC_V45 : Reg := ⟨"TPCC_V45", 0x300218, 12, 0x10000, 4, 0x80, 0, 0, 0, 0, 0⟩
def TPCC_V45_LOW : Fld := ⟨TPCC_V45, 0, 32⟩
def TPCC_V45_HIGH : Fld := ⟨TPCC_V45, 32, 32⟩
def PCC_V67 : Reg := ⟨"PCC_V67", 0x805020, 96, 0x10000, 16, 0x80, 0, 0, 0, 0, 0⟩
def PCC_V67_LOW : Fld := ⟨PCC_V67, 0, 32⟩
def PCC_V67_HIGH : Fld := ⟨PCC_V67, 32, 32⟩
def TPCC_V67 : Reg := ⟨"TPCC_V67", 0x300220, 12, 0x10000, 4, 0x80, 0, 0, 0, 0, 0⟩
def TPCC_V67_LOW : Fld := ⟨TPCC_V67, 0, 32⟩
def TPCC_V67_HIGH : Fld := ⟨TPCC_V67, 32, 32⟩
/-! Registers of 18_package_pins_and_electrical.md, the tables after R518. -/
def RAIL_STAT : Reg := ⟨"RAIL_STAT", 0x20060, 1, 0, 1, 0, 0, 0x1ff01ff01ff, 0, 0x1ff01ff, 0⟩
def RAIL_STAT_UV : Fld := ⟨RAIL_STAT, 0, 9⟩
def RAIL_STAT_OV : Fld := ⟨RAIL_STAT, 16, 9⟩
def RAIL_STAT_IN_RANGE : Fld := ⟨RAIL_STAT, 32, 9⟩
def PIN_STAT : Reg := ⟨"PIN_STAT", 0x20068, 1, 0, 1, 0, 0x77, 0, 0, 0, 0⟩
def PIN_STAT_WRST_N : Fld := ⟨PIN_STAT, 0, 1⟩
def PIN_STAT_WAKE_N : Fld := ⟨PIN_STAT, 1, 1⟩
def PIN_STAT_PE_PERST_N : Fld := ⟨PIN_STAT, 2, 1⟩
def PIN_STAT_TIME_PPS_IN : Fld := ⟨PIN_STAT, 3, 1⟩
def PIN_STAT_FAULT_N : Fld := ⟨PIN_STAT, 4, 1⟩
def PIN_STAT_ALERT_N : Fld := ⟨PIN_STAT, 5, 1⟩
def PIN_STAT_THERMTRIP_N : Fld := ⟨PIN_STAT, 6, 1⟩
/-! Registers of 19_address_and_register_map.md, the tables after R528. -/
def DEV_ID : Reg := ⟨"DEV_ID", 0, 1, 0, 1, 0, 0x1010c09, 0, 0, 0, 0⟩
def DEV_ID_PART : Fld := ⟨DEV_ID, 0, 16⟩
def DEV_ID_STEPPING : Fld := ⟨DEV_ID, 16, 8⟩
def DEV_ID_PKG : Fld := ⟨DEV_ID, 24, 8⟩
def DEV_CAP : Reg := ⟨"DEV_CAP", 8, 1, 0, 1, 0, 0x4000100c0c60, 0, 0, 0, 0⟩
def DEV_CAP_PONDS : Fld := ⟨DEV_CAP, 0, 8⟩
def DEV_CAP_PORTS : Fld := ⟨DEV_CAP, 8, 8⟩
def DEV_CAP_MCTL : Fld := ⟨DEV_CAP, 16, 8⟩
def DEV_CAP_FLOCK_MAX : Fld := ⟨DEV_CAP, 24, 8⟩
def DEV_CAP_QUEUES : Fld := ⟨DEV_CAP, 32, 15⟩
/-! Registers of 19_address_and_register_map.md, the tables after R529. -/
def WD_SELF : Reg := ⟨"WD_SELF", 0x100, 1, 0, 1, 0, 0, 0x11fff1fff1fff, 0x11fff1fff1fff, 0, 0⟩
def WD_SELF_DEVICE : Fld := ⟨WD_SELF, 0, 13⟩
def WD_SELF_FLOCK : Fld := ⟨WD_SELF, 16, 13⟩
def WD_SELF_BELL_DEV : Fld := ⟨WD_SELF, 32, 13⟩
def WD_SELF_IS_BELL : Fld := ⟨WD_SELF, 48, 1⟩
def WD_CTRL : Reg := ⟨"WD_CTRL", 0x108, 1, 0, 1, 0, 0, 0, 0, 0, 1⟩
def WD_CTRL_COMMIT : Fld := ⟨WD_CTRL, 0, 1⟩
def WD_STAT : Reg := ⟨"WD_STAT", 0x110, 1, 0, 1, 0, 0, 0xf, 0, 0xc, 0⟩
def WD_STAT_DONE : Fld := ⟨WD_STAT, 0, 1⟩
def WD_STAT_PENDING : Fld := ⟨WD_STAT, 1, 1⟩
def WD_STAT_REFUSED : Fld := ⟨WD_STAT, 2, 1⟩
def WD_STAT_EARLY : Fld := ⟨WD_STAT, 3, 1⟩
/-! Registers of 19_address_and_register_map.md, the tables after R530. -/
def DEV_ERR : Reg := ⟨"DEV_ERR", 0x200, 1, 0, 1, 0, 0, 7, 0, 7, 0⟩
def DEV_ERR_UNASSIGNED : Fld := ⟨DEV_ERR, 0, 1⟩
def DEV_ERR_WIDTH : Fld := ⟨DEV_ERR, 1, 1⟩
def DEV_ERR_OPERAND : Fld := ⟨DEV_ERR, 2, 1⟩
def DEV_ERRADDR : Reg := ⟨"DEV_ERRADDR", 0x208, 1, 0, 1, 0, 0, 0xfffffffffff, 0, 0, 0⟩
def DEV_ERRADDR_ADDR : Fld := ⟨DEV_ERRADDR, 0, 43⟩
def DEV_ERRADDR_WRITE : Fld := ⟨DEV_ERRADDR, 43, 1⟩
def ERR_POND0 : Reg := ⟨"ERR_POND0", 0x210, 1, 0, 1, 0, 0, 0, 0, 0, 0⟩
def ERR_POND0_PONDS : Fld := ⟨ERR_POND0, 0, 64⟩
def ERR_POND1 : Reg := ⟨"ERR_POND1", 0x218, 1, 0, 1, 0, 0, 0, 0, 0, 0⟩
def ERR_POND1_PONDS : Fld := ⟨ERR_POND1, 0, 32⟩
def ERR_EDGE : Reg := ⟨"ERR_EDGE", 0x220, 1, 0, 1, 0, 0, 0, 0, 0, 0⟩
def ERR_EDGE_CTRL : Fld := ⟨ERR_EDGE, 0, 12⟩
def ERR_EDGE_PORT : Fld := ⟨ERR_EDGE, 16, 12⟩

def regTable0 : List Reg := [POND_PACE, TIME_NOW, TIME_EPOCH, TIME_CTRL, TIME_STAT, TIME_PPS_CAP, GSV_KEY, GSV_GRAPH_BASE, GSV_TDT_BASE, GSV_SERVE0, GSV_SERVE1, GSV_REMOTE, HOT_CFG, HOT_STAT, SMP_CNT, QNT_CFG, NUM_STAT, MC_CFG, MC_STEPS, MC_STAT, MC_WAVES, MC_SKIPS, VE_PROG, VE_STAT, VE_CYCLES, VE_SUM, TRG_CFG, TRG_SPILL, TRG_STAT, TRG_CNT]
def regTable1 : List Reg := [TRG_HOME0, TRG_HOME1, PRUNE_CFG, UPD_STEP, UPD_OPT, UPD_DATA, LS_STATE, UPD_SKIPS, LS_CFG, UPD_STAT, UPD_PDT_BASE, UPD_PCT_BASE, UPD_JRNL, UPD_CFG, UPD_REDO, GC_CFG, GC_ISSQ, GC_STAT, GC_EPC, GC_EVAL, GC_ESAVE, GC_ECAUSE, GC_EVEC, GC_HANDLE, GC_RUN, GC_INSTR, GC_TIME, RGN_BASE, RGN_LIM, QTAB_CFG]
def regTable2 : List Reg := [QTAB_RING, QTAB_TAIL, QTAB_HEAD, QTAB_CMPL, QTAB_CHEAD, QTAB_STAT, QTAB_CTRL, QBLK_ERR, SEM_VAL, FSEM_VAL, SEM_WAITQ, FSEM_WAITQ, SEM_LAST, FSEM_LAST, FSEM_SIG, BAR_STAT, BAR_MASK, SLAB_CFG, SLAB_STAT, PC_CNT, PF_CNT, MEM_SPACE, MEM_TDT, MEM_TIDX, MEM_QAS, MEM_TLBINV, MEM_PF, MEM_CFG, MEM_ECC, MEM_SCRUB]
def regTable3 : List Reg := [MEM_CAL, MEM_STAT, MCTL_CNT, MCTL_UE, MCTL_CAL, LNK_CFG, LNK_PEERKEY, LNK_STAT, LNK_NBRKEY, LNK_CNT, LNK_EYE, LNK_GCFG, LNK_DLOST, LNK_ROUTE, HB_WIN, HB_PATH, HB_HOSTWIN, HB_STAT, HB_FWD, CVU_POLY, CVU_INIT, CVU_XOR, CVU_CTL, COL_GRP_BASE, NS_CFG, NS_ALPHA, BSC_CFG, BSC_REC, BSC_STAT, COL_STAT]
def regTable4 : List Reg := [COL_CNT, FLT_CFG, FLT_STAT, FLT_CTRL, FLT_LAST, FLT_SAVE, FLT_CAP, FLT_DIE, FLT_SUM, FLT_FGC, FLT_FMC, FLT_FHUB, SNAP_CTRL, SNAP_CFG, SNAP_STAT, SNAP_RST, SNAP_CURSOR, SILT_CTL, SILT_DATA, PWR_LIMIT, PWR_COOLANT, PWR_POND, PWR_LOOP, PWR_STAT, PWR_CTRL, LOOP_TRG, TEL_CFG, TEL_BASE, TEL_HEAD, PWR_THR]
def regTable5 : List Reg := [POND_VREG, POND_TEMP, BOOT_STAT, BOOT_VER, ID_PUBKEY, OWNER_DIG, IMAGE_DIG, CONFIG_DIG, RNG_STAT, FLASH_OP, FLASH_BUF, FLASH_STAT, PUF_HELPER, OBS_CFG, OBS_CAPTURE, OBS_STAT, TRC_PTR, TRC_CFG, TRC_STAT, OBS_BUSY, OBS_RET, PCC_TAG, TPCC_TAG, PCC_V01, TPCC_V01, PCC_V23, TPCC_V23, PCC_V45, TPCC_V45, PCC_V67]
def regTable6 : List Reg := [TPCC_V67, RAIL_STAT, PIN_STAT, DEV_ID, DEV_CAP, WD_SELF, WD_CTRL, WD_STAT, DEV_ERR, DEV_ERRADDR, ERR_POND0, ERR_POND1, ERR_EDGE]
/-- Every register of the device (R524): the list an access by offset is looked up in. -/
def regTable : List Reg := regTable0 ++ regTable1 ++ regTable2 ++ regTable3 ++ regTable4 ++ regTable5 ++ regTable6

end Sys2Proof.Machine
end

