-- ==== Sys2Proof/Machine/State.lean ====
section
/-! DEFINITION. The machine's state: one WGX9 device as plain data, and its state right after reset. -/

namespace Sys2Proof.Machine

open Sys2Proof

/-- Reasons the machine stops. -/
inductive Fault where
  /-- Raised by no meaning: the spec gives every failing access a status, an exception or an answer of its own
  (R302, R280, R355, R522). Kept so that the type of faults is closed and named. Safe. -/
  | none
  deriving DecidableEq, Repr

/-- Reasons a command is not executed. -/
inductive Refusal where
  /-- Raised by exec for a command the model gives no meaning yet. Safe. -/
  | notModelled (mnemonic : String)
  deriving DecidableEq, Repr

/-! Time (chapter 02). -/

/-- The time base and the local copies of the count (R40 to R50). -/
structure TimeSt where
  /-- the 64-bit count of nanoseconds -/
  count : Nat
  /-- the value every running local copy loaded from its last beacon -/
  base : Nat
  /-- nanoseconds the interpolators have run since -/
  since : Nat
  /-- the least value a copy may show (R42) -/
  floor : Nat
  /-- INTERPOLATION_STOP has come since the last beacon -/
  stopped : Bool
  /-- the count at the last beacon -/
  lastBeacon : Option Nat
  /-- a TIME_EPOCH value for the next beacon (R44) -/
  epoch : Option Nat
  /-- a follower's step for the next beacon (R47) -/
  step : Option Int
  /-- nanoseconds still to be taken out by slewing, signed -/
  slew : Int
  /-- millionths of a nanosecond of slew accumulated -/
  slewAcc : Nat
  /-- the count at the last captured PPS edge -/
  ppsLast : Option Nat
  /-- upstream side of exchanges (R47): t4 of the last reply from the follower at each port -/
  t4s : SMap Nat
  /-- the exchange in progress: t1 of the upstream device, t2 and t3 here -/
  exch : Option (Nat × Nat × Nat)
  /-- an exchange has been asked for and its reply has not come -/
  waiting : Bool
  /-- an offset has been measured since boot -/
  first : Bool
  /-- the last measured offsets in a row within 20 ns -/
  good : Nat
  /-- ponds whose regions wait for the next beacon (R52) -/
  resync : List Nat
  /-- stamp of the last event of a region: key 8*pond + region -/
  lastStamp : SMap Nat
  deriving DecidableEq, Repr

/-! Queues and synchronisation (chapter 10). -/

/-- An effect a command commits in its retirement step (R300). -/
inductive RetFx where
  /-- a summary register (R182): GC, index, value -/
  | summary (gc idx : Nat) (v : W64)
  /-- a mask register (R160): GC, index, bit i for element i, as one number -/
  | mask (gc idx v : Nat)
  /-- bytes at a local address -/
  | bytes (a : Nat) (d : List Byte)
  /-- a TABLE_SWITCH has drained the old version -/
  | tableDone (table : Nat)
  /-- a HOT_REFRESH has filled the shadow halves -/
  | hotReady
  /-- a flag-carrying reduction sets SF and AGREED (R393) -/
  | agree (sf : Bool)
  /-- a reduction's noise statistics enter the noise table (R395): layer group, SL, SG, group size -/
  | stats (lg sl sg n : Nat)
  /-- keys of a trough are freed -/
  | freeKeys (trough : Nat) (keys : List Nat)
  /-- an entry of a unit's rebuild log (R415): the unit, what the command wrote, what it wrote whole, and what of the
  unit's private state it read -/
  | log (unit : Nat) (covers whole reads : List Nat)
  deriving DecidableEq, Repr

/-- Where a started command stands. -/
inductive CPhase where
  /-- started: its unit has not worked on it yet -/
  | ready
  /-- its unit works on it, and it waits for something -/
  | running
  /-- finished with a status; it waits to retire -/
  | done (status : Nat)
  deriving DecidableEq, Repr

/-- What a command asks for before it can go on, each with the index of its answer in the command's buffer: a read of
`n` bytes at another device's local address, or at an address of the host window, or a sample drawn by another device
(R77). -/
inductive Ask where
  | sample (key dev : Nat) (req : List Byte)
  | remote (key dev addr n : Nat)
  | host (key addr n : Nat)
  deriving DecidableEq, Repr

/-- A started, unretired command (R299). -/
structure Cmd where
  seq : Nat
  /-- the 64 bytes, byte 0 least significant -/
  raw : BitVec 512
  phase : CPhase
  reissued : Bool
  /-- its ring slot could not be read (R299) -/
  ringErr : Bool
  fx : List RetFx
  /-- progress of a command that takes several events -/
  stage : Nat
  /-- data that answers brought, by index -/
  buf : SMap (List Byte)
  /-- answers outstanding -/
  waits : Nat
  /-- the status it finishes with when the answers have come; none: its unit goes on with them -/
  fin : Option Nat
  /-- numbers a command keeps between its events -/
  aux : List Nat
  /-- register values it bound when it started (R111, R228, R378, R393) -/
  bnd : List Nat
  /-- the configuration that its check-value unit bound when it started (R378) -/
  cvu : List Nat
  /-- what it still has to ask for when a tag of its unit is free (R77, R84) -/
  todo : List Ask
  /-- stamp of the start -/
  start : Nat
  /-- PCC0 to PCC6 (R485) -/
  pcc : List Nat
  /-- its counter set, if it has one: a key of `State.pcc` -/
  cset : Option Nat
  /-- tensors read, as space * 4096 + ID, at most 8 (R322) -/
  tensors : List Nat
  /-- for the check log (R253): the 64-byte units written, by address div 64, and the lowest address written -/
  wrote : SMap (List Byte)
  low : Option Nat
  deriving DecidableEq, Repr

/-- The queue journal's entry of a started, unretired command (R301, R277, R414, R417). -/
structure JEnt where
  seq : Nat
  /-- its header wait has been taken -/
  waitTaken : Bool
  /-- the wait of a WAITSEM has been taken -/
  semTaken : Bool
  /-- a BARRIER's counted arrival: the generation of its round -/
  arrival : Option Nat
  /-- the effect record of a GRUN: kind and RD result by ordinal -/
  effects : List (Nat × Nat)
  /-- the version a GATHER bound, or the start of a TABLE_SWITCH -/
  bound : Option Nat
  /-- the command was started before a fence or a warm reset -/
  reissue : Bool
  /-- the retirement of an accumulating command is on record, and its COMMITs are on their way (R206) -/
  retired : Bool
  deriving DecidableEq, Repr

/-- What a queue holds beside its queue-table registers. -/
structure QState where
  started : List Cmd
  journal : List JEnt
  /-- the head entry has joined its semaphore's waiters and is not served -/
  joined : Bool
  /-- a DISCARD waits for completion-ring space -/
  discarding : Bool
  /-- the fenced unit whose context the queue belongs to, once it is rebound to a peer (R413) -/
  home : Option Nat
  deriving DecidableEq, Repr

/-- Who waits on a semaphore (R307). -/
inductive WKind where
  | header
  | command
  | instr
  deriving DecidableEq, Repr

structure Waiter where
  kind : WKind
  queue : Nat
  seq : Nat
  n : Nat
  deriving DecidableEq, Repr

/-- A participant's arrival at a barrier (R310). -/
structure Arrival where
  part : Nat
  queue : Nat
  seq : Nat
  deriving DecidableEq, Repr

structure Barrier where
  cur : List Arrival
  nxt : List Arrival
  deriving DecidableEq, Repr

/-! General cores (chapter 09). -/

/-- Why a GRUN does not go on. -/
inductive Blocked where
  | no
  /-- in WAIT, as a waiter of a semaphore; the register its result goes to -/
  | wait (rd : Nat)
  /-- in YIELD; the count at which it ends -/
  | yield (until_ : Nat)
  /-- in ISSUE on a full ring -/
  | issue
  deriving DecidableEq, Repr

/-- The GRUN a core runs. -/
structure GcRun where
  queue : Nat
  seq : Nat
  /-- home core: the GC whose queue the GRUN was accepted in (R276) -/
  home : Nat
  /-- ordinal of the next effect instruction -/
  ord : Nat
  /-- the owner part sizes in force, in 4 KiB (GC_CFG at the start) -/
  ownImem : Nat
  ownDmem : Nat
  deriving DecidableEq, Repr

structure GcState where
  /-- g1 to g31; an unlisted register holds 0 -/
  g : SMap W64
  pc : Nat
  /-- instruction memory by offset; an unlisted byte holds 0 -/
  imem : SMap Byte
  /-- stores to instruction memory that the next FENCE makes fetchable (R263) -/
  ipend : List (Nat × Byte)
  /-- data memory by offset from 0x1_0000 -/
  dmem : SMap Byte
  /-- the last code load: IMAGE, IMAGE_ID, base -/
  image : Option (Nat × Nat × Nat)
  run : Option GcRun
  blocked : Blocked
  /-- the count at which it blocked (R486) -/
  since : Nat
  /-- the fetch buffer's lines of code in scratch, most recently filled first: line (address div 64) and its bytes
  (R259, R314) -/
  fbuf : List (Nat × List Byte)
  /-- an uncorrectable error of a buffered store, not yet reported: its address (R271) -/
  storeUe : Option Nat
  deriving DecidableEq, Repr

/-! Ponds and memory (chapter 11). -/

/-- A line of the pond cache (R318 to R323); lists of lines are ordered most recently used first. -/
structure CacheLine where
  line : Nat
  /-- space * 4096 + tensor ID; 0 untagged -/
  tag : Nat
  cls : Nat
  prefetched : Bool
  deriving DecidableEq, Repr

/-- An outstanding fill of a pond (R326). -/
structure Fill where
  line : Nat
  tag : Nat
  cls : Nat
  prefetch : Bool
  stale : Bool
  /-- the controller has served it, with these bytes; none: the block was poisoned -/
  served : Bool
  data : Option (List Byte)
  /-- a page translation that it came by has been purged (R333) -/
  purged : Bool
  deriving DecidableEq, Repr

/-- A prefetch stream (R328): a tensor, and the highest line demanded and prefetched. -/
structure Stream where
  tag : Nat
  high : Nat
  issued : Nat
  /-- pages (job address div 2 MiB) in which nothing more is issued (R329) -/
  stop : List Nat
  deriving DecidableEq, Repr

/-- A TLB entry (R333). -/
structure TlbEnt where
  space : Nat
  /-- job address div 2 MiB, or div 1 GiB with `big` -/
  page : Nat
  big : Bool
  base : Nat
  r : Bool
  w : Bool
  deriving DecidableEq, Repr

structure PondSt where
  lines : List CacheLine
  fills : List Fill
  streams : List Stream
  /-- run-ahead depth d; 0 until the first use (then MIN_DEPTH) -/
  depth : Nat
  /-- prefetches issued, and hit before eviction, in the present window -/
  pfIssued : Nat
  pfHit : Nat
  tlb : List TlbEnt
  /-- level-1 entries of the walk cache: space * 8192 + index, and the entry -/
  walk : List (Nat × Nat)
  /-- tensors of the range cache -/
  ranges : List Nat
  /-- rebuilds of the last second: 9 * die + bank, and the count at each -/
  rebuilds : List (Nat × Nat)
  /-- the sizes asked for that the sizes in force were set from (R317): TRG_CFG.SIZE_MIB as the last TRESET took it,
  HOT_MIB, TRACE_MIB and CACHE_MIB -/
  trgSize : Nat
  hotSize : Nat
  traceSize : Nat
  cacheSize : Nat
  lull : Bool
  /-- power is back and the regions wait for a beacon -/
  wakeWait : Bool
  /-- trim codes of the seven regions, and their boot values -/
  trims : List Nat
  trimBoot : List Nat
  deriving DecidableEq, Repr

/-- A calibration probe in progress on a channel (R345 to R347). -/
structure Probe where
  lane : Nat
  /-- false: phase +; true: phase − -/
  minus : Bool
  reads : Nat
  count : Nat
  plus : Nat
  aborted : Bool
  /-- δ, in steps of 1/64 UI, by which the probed lane's sample point is moved (R345) -/
  delta : Nat
  deriving DecidableEq, Repr

structure ChanSt where
  probe : Option Probe
  nextLane : Nat
  /-- centre offset of each lane from its trained value -/
  centres : SMap Int
  /-- failed codewords of the last second: their range of 4 GiB raw, and the count at each -/
  dieUe : List (Nat × Nat)
  /-- refresh rate in force, as a multiple of the base rate (R334), and the last bank refreshed -/
  rate : Nat
  bank : Nat
  /-- both ranges of a die retired: raw offsets in GiB that answer 0x30 -/
  retired : List Nat
  /-- corrected symbols that each DQ lane has carried (R341) -/
  laneCnt : SMap Nat
  deriving DecidableEq, Repr

/-! Observation (chapter 17). -/

/-- A counter set (R485): the tag and the eight counters of the last command, and the latched sample. -/
structure PccSet where
  valid : Bool
  closed : Bool
  queue : Nat
  seq : Nat
  opc : Nat
  reissued : Bool
  start : Nat
  counters : List Nat
  /-- latched values, as PCC_V01 to PCC_V67 return them -/
  sample : List Nat
  /-- latched tag -/
  tagLatch : Nat
  deriving DecidableEq, Repr

/-- A pond's trace writer beside TRC_PTR, TRC_CFG and TRC_STAT. -/
structure TraceSt where
  /-- records written in the present 10 µs window -/
  used : Nat
  /-- records dropped since the last DROP record, and the stamp of the first -/
  drops : Nat
  dropStamp : Nat
  /-- accesses counted for sampling, by source key -/
  sampled : SMap Nat
  deriving DecidableEq, Repr

/-- A record of the silt ring (R434). -/
structure SiltRec where
  stamp : Nat
  code : Nat
  handle : Nat
  queue : Nat
  seq : Nat
  serial : Nat
  data : List Nat
  deriving DecidableEq, Repr

/-! Vector engines (chapter 06). -/

/-- A vector engine's own state. -/
structure VeState where
  /-- the 64 KiB tile space, by byte; an unlisted byte holds 0 -/
  tiles : SMap Byte
  /-- mask registers M1 to M7, each as one number of 65,536 bits -/
  masks : SMap Nat
  /-- resident programs by slot: the 192 bytes of the checked image -/
  progs : SMap (List Byte)
  deriving DecidableEq, Repr

/-! Matrix cores (chapter 05). -/

/-- A K unit of one column of a B tile: the block's scale, whether it is non-finite and whether its scale is 0xFF, and
its elements as signed magnitude and exponent (R128); in 2:4 mode with the index of each kept value in its group. -/
structure BUnit where
  x : Nat
  nf : Bool
  snan : Bool
  elems : List (Int × Int)
  idx : List Nat
  deriving DecidableEq, Repr

/-- A tile in a weight plane, or a quad's. -/
structure BTile where
  /-- 0 block-scaled, 1 BF16, 2 a BF16x3 part -/
  cls : Nat
  /-- 1 to 3 for a BF16x3 part, else 0 -/
  part : Nat
  t : Nat
  k : Nat
  n : Nat
  kh : Nat
  steps : Nat
  cols : List BUnit
  /-- the second K-block of each column, in 2:4 mode -/
  cols2 : List BUnit
  deriving DecidableEq, Repr

/-- A weight plane's contents: the MLOAD that filled it, its mode, and one tile, or four in quad mode. -/
structure Plane where
  queue : Nat
  seq : Nat
  mode : Nat
  tiles : List (Option BTile)
  deriving DecidableEq, Repr

structure ArrSt where
  active : Option Plane
  shadow : Option Plane
  deriving DecidableEq, Repr

structure McSt where
  arrays : SMap ArrSt
  /-- FP32 accumulators by index; an unlisted one holds +0 -/
  acc : SMap Nat
  /-- predictor bits of up to 8 (LAYER_ID, OP_ID) pairs, most recently used first -/
  pred : List (Nat × Nat)
  deriving DecidableEq, Repr

/-! Graph services (chapter 03). -/

/-- The live fields of a table (R81, R88, R89). -/
structure TableSt where
  baseCur : Nat
  verCur : Nat
  baseOld : Nat
  verOld : Nat
  oldLive : Bool
  /-- gathers in flight on the current and on the old version -/
  flightCur : Nat
  flightOld : Nat
  deriving DecidableEq, Repr

/-- A replica of a row: table, version, row key, and the row's bytes (R92, R93). -/
structure HotRow where
  table : Nat
  ver : Nat
  key : Nat
  data : List Byte
  deriving DecidableEq, Repr

/-- The hot-row replicas: the active half, the shadow half, and whether a HOT_REFRESH has retired since the last step
boundary. Every pond holds the same rows. -/
structure HotSt where
  active : List HotRow
  shadow : List HotRow
  ready : Bool
  deriving DecidableEq, Repr

/-- A pond hub's sketch of gathered row keys (R91): counters by 4096 * row + column, and candidates (table, version,
row key). -/
structure Sketch where
  cnt : SMap Nat
  cands : List (Nat × Nat × Nat)
  deriving DecidableEq, Repr

/-- An outstanding sampling request (R77): its number, the command and the index of the answer, the neighbours in all,
and the parts of the reply that have come. -/
structure SampReq where
  id : Nat
  queue : Nat
  seq : Nat
  key : Nat
  dst : Nat
  total : Nat
  got : List (Nat × List Byte)
  deriving DecidableEq, Repr

/-! Troughs (chapter 07). -/

/-- A slot or spill record (R195): its key, the tag of its stage when it is staged, and a window block. -/
structure TEntry where
  key : Nat
  tag : Option Nat
  w : List Nat
  e : Nat
  nf : Bool
  count : Nat
  deriving DecidableEq, Repr

/-- A pond's trough. -/
structure TroughSt where
  /-- slots by position -/
  slots : SMap TEntry
  /-- spill records by position -/
  recs : SMap TEntry
  /-- spill records reserved by PREPARE, by tag -/
  resv : SMap Nat
  /-- contributions applied, by tag -/
  applied : SMap Nat
  /-- the spill threshold θ; 0 until first used -/
  theta : Nat
  /-- placements in the present window of 65,536, and those that found all 8 positions occupied -/
  placed : Nat
  crowded : Nat
  /-- the last window called for a fall of θ below LOOP_TRG.MIN (R449, R450) -/
  unmet : Bool
  deriving DecidableEq, Repr

/-! Check logs and replay (R252 to R254). -/

/-- A check log: where it begins, the address space in which that address lies, and the entries appended. -/
structure CLog where
  addr : Nat
  pond : Nat
  space : Nat
  t : Bool
  n : Nat
  deriving DecidableEq, Repr

/-- A replay context (R254): the journal record, the side area, and the replay's own check log and seed digest. -/
structure Replay where
  data : Nat
  t : Nat
  s : Nat
  skipped : Bool
  key : Nat
  digest : Nat
  /-- the version bound of each listed table -/
  tables : List (Nat × Nat)
  clog : Nat
  clogN : Nat
  side : Nat
  sideSize : Nat
  rlog : CLog
  seedDigest : Nat
  deriving DecidableEq, Repr

/-! Snapshots (R426 to R431). -/

/-- What the drain still has to write. -/
inductive SnapItem where
  /-- a section of captured bytes: TYPE, ID -/
  | fixed (type id : Nat) (d : List Byte)
  /-- a dense tensor's section, from the buffer bound -/
  | dense (tensor buf : Nat)
  /-- a table's rows from local row `row` on: its index in the snapshot descriptor, the version bound, bytes of the
  section written so far, and the running check value -/
  | rows (idx table ver base row pos crc : Nat)
  deriving DecidableEq, Repr

/-- A table named in a snapshot descriptor. -/
structure SnapTable where
  table : Nat
  mstride : Nat
  mom : Nat
  /-- where its row map begins -/
  map : Nat
  deriving DecidableEq, Repr

structure SnapSt where
  /-- the descriptor's fields -/
  data : Nat
  dest : Nat
  dsize : Nat
  pool : Nat
  poolSize : Nat
  cvu : Nat
  tables : List SnapTable
  jobst : List (Nat × Nat)
  items : List SnapItem
  /-- buffers bound and not yet released: tensor, buffer, and whether its last byte has been sent -/
  bufs : List (Nat × Nat × Bool)
  /-- versions of tables held: table, version -/
  held : List (Nat × Nat)
  /-- bytes written at DEST so far -/
  pos : Nat
  /-- writes to DEST under way -/
  out : Nat
  /-- copies in the drain pool: table, row, bytes -/
  copies : List (Nat × Nat × List Byte)
  /-- the optimizer step captured -/
  t : Nat
  endSent : Bool
  /-- when a command began to wait for the drain -/
  stall : Option Nat
  /-- the pond, the address space and its T bit in which descriptors' addresses lie: those of STEP_CLOSE's queue -/
  pond : Nat
  space : Nat
  tr : Bool
  /-- the check-value configuration that the drain bound when it started (R378) -/
  cv : List Nat
  deriving DecidableEq, Repr

/-! Collectives (chapter 13). -/

/-- A COLL chunk of a collective, from a member (R391): header fields and data. -/
structure ColMsg where
  group : Nat
  cseq : Nat
  chunk : Nat
  src : Nat
  opc : Nat
  flags : Nat
  e : Nat
  count : Nat
  val0 : Nat
  val1 : Nat
  data : List Byte
  deriving DecidableEq, Repr

/-! Faults and recovery (chapter 14). -/

/-- An entry of a rebuild log (R415): a retired command whose effect lives in a unit's private state. Items of that
state are numbered: arrays from 0, accumulator segments from 100, program slots from 1000, tile registers from 2000,
mask registers from 2100, summary registers from 2200. -/
structure LogEnt where
  queue : Nat
  raw : BitVec 512
  /-- items it still covers; none: released -/
  covers : List Nat
  writes : List Nat
  whole : List Nat
  reads : List Nat
  deriving DecidableEq, Repr

/-- A read of QTAB_TAIL that waits until the doorbells before it are judged (R374): the host's, or a frame's, with the
register's offset. -/
inductive HeldRead where
  | host (a : HostAccess) (o : Nat)
  | frame (f : RxFrame) (o : Nat)
  deriving DecidableEq, Repr

structure FaultSt where
  /-- a warm reset is running (R425) -/
  warm : Bool
  /-- doorbells that wait for the queues to resume: queue and value (R294, R425, R454) -/
  held : List (Nat × Nat)
  /-- reads of QTAB_TAIL that wait for them -/
  heldReads : List HeldRead
  /-- regions in recovery, by handle (R408) -/
  recovering : List Nat
  /-- rebuild logs, by the unit's handle -/
  logs : SMap (List LogEnt)
  /-- items whose entry a full log has dropped, by the unit's handle (R415) -/
  lost : SMap (List Nat)
  deriving DecidableEq, Repr

/-! Power (chapter 15). -/

/-- Where a REST stands (R453 to R455). -/
inductive RestPhase where
  | quiescing
  | entering
  | resting
  | waking
  deriving DecidableEq, Repr

structure RestSt where
  queue : Nat
  seq : Nat
  phase : RestPhase
  /-- the state chosen, 1 to 3 -/
  target : Nat
  cause : Nat
  thr : Nat
  deriving DecidableEq, Repr

structure PowerSt where
  rest : Option RestSt
  /-- thermal and pond-current ceiling terms of each pond, in mV; unlisted: 860 -/
  thermal : SMap Nat
  pondCur : SMap Nat
  /-- the common power and input-current terms, in mV -/
  powerTerm : Nat
  vinTerm : Nat
  /-- each pond's target, in mV; unlisted: V_MIN -/
  target : SMap Nat
  /-- windows in a row in which the demand called for more than the ceiling -/
  unmet : SMap Nat
  /-- sensors that read 115 °C or more at the last sample -/
  hot : List Nat
  /-- samples in a row in which a sensor differed from its pond's median by more than 6 °C -/
  differ : SMap Nat
  /-- samples in a row in which a phase (8 * pond + phase) differed by more than 40% -/
  phaseDiffer : SMap Nat
  /-- samples in a row in which a pond's monitor differed from its rail share by more than 20%, and the ponds whose
  monitor is excluded -/
  monDiffer : SMap Nat
  monExcl : List Nat
  /-- last pond voltages, mV, and pond currents, mA -/
  volts : SMap Nat
  amps : SMap Nat
  vinMa : Nat
  /-- rail powers, mW, rails 0 to 8, of the last 10 samples, latest first -/
  rails : List (List Nat)
  /-- a pond's current and the VIN_POND current at the last sample in which its monitor agreed (R439) -/
  share : SMap (Nat × Nat)
  /-- the count at the last write of the coolant temperature, and whether it is fresh (R443) -/
  coolant : Option Nat
  coolFresh : Bool
  /-- corrected errors by controller at the last telemetry record -/
  telCe : List Nat
  /-- ponds whose prefetch depth is held at a bound past which its rule pointed, and whether the patrol period is held
  at MIN_H after a pass above CE_HI (R448) -/
  pfHeld : List Nat
  scrubHeld : Bool
  /-- package power exceeds the limit in force with every pond at 0.62 V (R459) -/
  powerHeld : Bool
  /-- the next telemetry record carries RESUMED -/
  resumed : Bool
  deriving DecidableEq, Repr

/-! Links (chapter 12). -/

/-- A frame this device sends or passes on (R351 to R355), its payload in clear. -/
structure TxFrame where
  type : Nat
  ext : Bool
  len : Nat
  lseq : Nat
  lack : Nat
  alive : Nat
  dst : Nat
  src : Nat
  eseq : Nat
  addr : Nat
  kep : Nat
  rpath : Nat
  path : Nat
  payload : List Byte
  /-- the port in whose receive buffer a frame on its way through waits, and the 64-byte units it fills there (R356) -/
  via : Option (Nat × Nat)
  deriving DecidableEq, Repr

/-- For whom a request is outstanding, and what its answer does. -/
inductive Requester where
  /-- data or an acknowledgement for a command: queue, SEQ, index of the answer in the command's buffer -/
  | cmd (queue seq idx : Nat)
  /-- a signal, an interrupt or another request that nobody waits for -/
  | posted
  /-- a host access carried over the links: the access's number, and the number of its part -/
  | host (id part : Nat)
  /-- a snapshot drain write -/
  | drain
  /-- a telemetry record's write -/
  | telemetry
  /-- a sampling request: number -/
  | sampling (id : Nat)
  deriving DecidableEq, Repr

/-- A request of this device that has no response yet (R360). -/
structure Outstanding where
  who : Requester
  frame : TxFrame
  resent : Bool
  deriving DecidableEq, Repr

/-- A transmitting stream (R360, R361): next ESEQ and the port it keeps. -/
structure TxStream where
  next : Nat
  port : Option Nat
  /-- ESEQs of frames that moved to another port and must be answered before later ones go (R361) -/
  hold : List Nat
  deriving DecidableEq, Repr

structure PortSt where
  txLseq : Nat
  rxLseq : Nat
  txAlive : SMap Nat
  rxAlive : SMap Nat
  txCtl : Nat
  rxCtl : Nat
  replay : List TxFrame
  /-- resends in a row without ack progress -/
  resends : Nat
  /-- a NAK has been sent for the present episode -/
  nak : Bool
  /-- an acknowledgement is due -/
  ackDue : Bool
  /-- credits left to send, in 64-byte units, by VC -/
  credits : SMap Nat
  /-- buffer space freed and not yet returned, by VC -/
  freed : SMap Nat
  /-- 256-bit keys: transmit, receive; the next ones, and the receive key before the present one; the KEP values in
  force -/
  txKey : Nat
  rxKey : Nat
  nextTx : Option Nat
  nextRx : Option Nat
  oldRxKey : Option Nat
  kep : Nat
  rxKep : Nat
  /-- the transmit key before the present one, until every frame sent under it is acknowledged (R365) -/
  oldTxKey : Option Nat
  /-- this end's ephemeral private key and nonce of the KEYX in progress -/
  eph : Option (Nat × Nat)
  /-- the neighbour's IDENT payload -/
  peerIdent : List Byte
  peerKeyx : List Byte
  /-- the digest of the neighbour's identity key, in four words -/
  nbrKey : List Nat
  /-- the virtual channel, VC0 to VC2, whose frame was sent last (R356) -/
  lastVc : Nat
  /-- the counts at the tag failures of the last second -/
  authFails : List Nat
  /-- active lanes as a mask, at full rate or half -/
  lanes : Nat
  full : Bool
  /-- checks in a row a dropped lane has passed -/
  laneChecks : SMap Nat
  /-- the port entered RETRAIN from UP, not from DISCOVER -/
  wasUp : Bool
  /-- equaliser setting, last error count and last step of each lane -/
  eq : SMap (Int × Nat × Int)
  /-- the last two VC3 frames sent, the latest first -/
  ctlOut : List TxFrame
  deriving DecidableEq, Repr

structure LinkSt where
  ports : SMap PortSt
  /-- streams out: dst * 4 + VC; of another device's streams on their way through, with (src + 1) * 2^16 added -/
  tx : SMap TxStream
  /-- streams in: the next ESEQ, by src * 4 + VC; of path-routed requests, with (1 + return path) * 2^16 added -/
  rx : SMap Nat
  outst : List Outstanding
  /-- frames that wait for a port, for credit or for replay space -/
  waitq : List TxFrame
  deriving DecidableEq, Repr

/-! The host bridge (R369 to R376). -/

/-- A host-window request the bridge has passed to the host (R373): its number, whose it is, and for a read where its
data go. -/
structure HostReq where
  id : Nat
  who : Requester
  write : Bool
  /-- the host bus address -/
  addr : Nat
  len : Nat
  /-- what a write carries -/
  data : List Byte
  /-- the Garine request it answers: source device, ESEQ -/
  frame : Option (Nat × Nat)
  deriving DecidableEq, Repr

/-- A host read that waits for answers from another device: the parts it was split into, and the data that have come. -/
structure HostWait where
  id : Nat
  access : HostAccess
  parts : Nat
  got : SMap (List Byte)
  deriving DecidableEq, Repr

structure HostSt where
  /-- the identity the configuration registers show (R370): class code, Device ID, and from the PCIE_ID record the
  Vendor ID, the Subsystem Vendor ID, the Subsystem ID and the Revision ID -/
  classCode : Nat
  deviceId : Nat
  vendorId : Nat
  subVendorId : Nat
  subsystemId : Nat
  revisionId : Nat
  /-- the port is disabled until POR_N (R369) -/
  disabled : Bool
  /-- the link is in L0 -/
  l0 : Bool
  busMaster : Bool
  msixEn : Bool
  msixMask : Bool
  d3hot : Bool
  bar0 : Nat
  bar2 : Nat
  maxPayload : Nat
  maxRead : Nat
  aspmL1 : Bool
  /-- MSI-X table entries, 16 bytes each: key 4 * vector + word, 32-bit words -/
  msix : SMap Nat
  /-- pending bits -/
  pba : List Nat
  reqs : List HostReq
  waits : List HostWait
  nextId : Nat
  /-- poisoned TLPs and unsupported requests reported through AER -/
  aer : List Nat
  /-- the answer to the last host read: none for an unsupported request -/
  reply : Option (List Byte)
  deriving DecidableEq, Repr

/-! Boot, identity and the sideband (chapter 16). -/

/-- What the SPDM responder answers (R477). The numbers are those of DSP0274; a signature is 64 bytes. -/
inductive SpdmReply where
  | error (code : Nat)
  | version (versions : List Nat)
  | capabilities (flags : Nat)
  | algorithms (asym hash dhe aead : Nat)
  | digests (slot0 : List Byte)
  | certificate (portion : List Byte) (remainder : Nat)
  | challengeAuth (chainDigest nonce sig : List Byte)
  | measurements (blocks : List (Nat × List Byte)) (nonce sig : List Byte)
  | keyExchange (session : Nat) (ephKey sig : List Byte)
  | finish
  | endSession
  | heartbeat
  | queryResp (stream : Nat)
  | keyProgAck (status : Nat)
  | goStopAck
  deriving DecidableEq, Repr

/-- The responder's state on one transport. -/
structure SpdmSt where
  /-- GET_VERSION, GET_CAPABILITIES and NEGOTIATE_ALGORITHMS done: 0 to 3 -/
  phase : Nat
  /-- the session and whether FINISH has completed it -/
  session : Option Nat
  finished : Bool
  sessions : Nat
  deriving DecidableEq, Repr

structure BootSt where
  /-- the flash: unlisted bytes are erased, 0xFF -/
  flash : SMap Byte
  /-- the operation under way: OP, address, length -/
  flashOp : Option (Nat × Nat × Nat)
  /-- the identity key d (R471), once derived -/
  idKey : Option Nat
  /-- the DEV_CERT chain, where it is offered -/
  chain : List Byte
  /-- FW_VERSION and CODE_DIGEST of the booted firmware -/
  codeDig : List Byte
  /-- the PCIE_ID record -/
  pcieId : Nat
  /-- the LINK, MEM_SEED and TRIM records' bodies, as applied -/
  linkRec : List Byte
  seedRec : List Byte
  trimRec : List Byte
  /-- SMBus addresses and speed code -/
  smb0 : Nat
  smb1 : Nat
  smbSpeed : Nat
  /-- the sideband access address, the status kept for the next read, and the last read's answer -/
  smbAddr : Nat
  smbStat : Nat
  smbReply : Option (Nat × Nat)
  /-- transports: 0 DOE, 1 MCTP -/
  spdm : SMap SpdmSt
  spdmReply : Option SpdmReply
  /-- IDE stream keys: 16 * sub-stream + 2 * direction + key set; and the key sets in use -/
  ideKeys : SMap (List Byte)
  ideOn : List Nat
  /-- a continuous entropy test has failed since boot (R474) -/
  rngBad : Bool
  deriving DecidableEq, Repr

/-! Pins (chapter 18). -/

/-- Levels of the sideband lands, and the TAP (R511 to R515). -/
structure PinSt where
  /-- POR_N is high -/
  por : Bool
  wrst : Bool
  wake : Bool
  perst : Bool
  ppsIn : Bool
  ppsOut : Bool
  /-- the device drives FAULT_N low -/
  fault : Bool
  /-- the device drives THERMTRIP_N low -/
  thermtrip : Bool
  /-- the TAP holds the outputs in high impedance -/
  hiz : Bool
  /-- the TAP's instruction in effect, and the boundary register -/
  tapIr : TapInstr
  boundary : List Bool
  deriving DecidableEq, Repr

/-- The device. -/
structure State where
  /-- commands that wait, first in, first out -/
  pending : List Instr
  /-- every register, by configuration offset; an unlisted one holds its value after reset -/
  regs : SMap W64
  /-- main memory and scratch, by local address -/
  mem : List Host.Cell
  /-- ranges of unspecified bytes: first, end, number of the event (R317) -/
  stale : List (Nat × Nat × Nat)
  /-- poisoned 256-byte blocks of main memory (R342) -/
  poison : List Nat
  /-- scratch lines (local address div 64) that cannot be rebuilt (R338) -/
  badLines : List Nat
  time : TimeSt
  queues : SMap QState
  /-- the queue whose command a consumer's engine took last (R299, R54), by the engine's key -/
  turns : SMap Nat
  /-- waiters of each semaphore, by the offset of its SEM_VAL -/
  waiters : SMap (List Waiter)
  /-- arrivals of each barrier: 64 * pond + index -/
  bars : SMap Barrier
  gcs : SMap GcState
  ves : SMap VeState
  mcs : SMap McSt
  tables : SMap TableSt
  hot : HotSt
  sketches : SMap Sketch
  samps : List SampReq
  sampNext : Nat
  troughs : SMap TroughSt
  /-- trough messages on their way, oldest first; those to other devices until they are acknowledged -/
  tmsgs : List TroughMsg
  /-- those to other devices that have been sent once more (R212, R360) -/
  tresent : List TroughMsg
  /-- the last acknowledgement sent to another device -/
  treply : Option TroughMsg
  clog : Option CLog
  replay : Option Replay
  /-- versions of tables that the step's gathers have bound (R252) -/
  stepVers : SMap Nat
  /-- the two 256-bit keys of main memory, data key then tweak key (R344); empty until POR_N's first release -/
  memKey : List Byte
  snap : SnapSt
  /-- chunks that have come for collectives that have not ended here -/
  colIn : List ColMsg
  /-- by source device: COLL frames accepted since the last acknowledgement, and the ESEQ of the last -/
  colAck : SMap (Nat × Nat)
  /-- the context a unit holds, when it is not its own: by the unit's handle, the fenced unit's handle (R413) -/
  ctxs : SMap Nat
  ponds : SMap PondSt
  chans : SMap ChanSt
  /-- blocks corrected in the present patrol pass (R343) -/
  scrubbed : Nat
  /-- each controller's directory: line (PA div 128) to the ponds that may hold it (R324) -/
  dirs : SMap (SMap (List Nat))
  /-- remaining-use counts of tensors, by space * 4096 + ID (R322) -/
  rem : SMap Nat
  pcc : SMap PccSet
  /-- each set as its last retired command closed it (R487) -/
  pccLast : SMap PccSet
  traces : SMap TraceSt
  silt : List SiltRec
  siltSerial : Nat
  fault : FaultSt
  power : PowerSt
  link : LinkSt
  host : HostSt
  boot : BootSt
  pins : PinSt
  /-- MSI-X vectors sent to the host, oldest first -/
  irqs : List Nat
  /-- free values drawn so far -/
  free : Nat
  deriving DecidableEq, Repr

/-! Reset. -/

def TimeSt.reset : TimeSt := ⟨0, 0, 0, 0, false, none, none, none, 0, 0, none, [], none, false, false, 0, [], []⟩

def FaultSt.reset : FaultSt := ⟨false, [], [], [], [], []⟩

def SnapSt.reset : SnapSt :=
  { data := 0, dest := 0, dsize := 0, pool := 0, poolSize := 0, cvu := 0, tables := [], jobst := [], items := [],
    bufs := [], held := [], pos := 0, out := 0, copies := [], t := 0, endSent := false, stall := none, pond := 0, space := 0,
    tr := false, cv := [] }

def PowerSt.reset : PowerSt :=
  { rest := none, thermal := [], pondCur := [], powerTerm := 860, vinTerm := 860, target := [], unmet := [], hot := [],
    differ := [], phaseDiffer := [], monDiffer := [], monExcl := [], volts := [], amps := [], vinMa := 0, rails := [],
    share := [], coolant := none, coolFresh := false, telCe := [], pfHeld := [], scrubHeld := false, powerHeld := false, resumed := false }

def LinkSt.reset : LinkSt := ⟨[], [], [], [], []⟩

def HostSt.reset : HostSt :=
  { classCode := 0x120000, deviceId := 0x0C09, vendorId := 0xFFFF, subVendorId := 0xFFFF, subsystemId := 0xFFFF,
    revisionId := 0xFF, disabled := false, l0 := false, busMaster := false, msixEn := false, msixMask := false, d3hot := false, bar0 := 0,
    bar2 := 0, maxPayload := 0, maxRead := 2, aspmL1 := false, msix := [], pba := [], reqs := [], waits := [],
    nextId := 0, aer := [], reply := none }

def BootSt.reset : BootSt :=
  { flash := [], flashOp := none, idKey := none, chain := [], codeDig := [], pcieId := 0xFFFFFFFFFFFFFFFF, linkRec := [],
    seedRec := [], trimRec := [], smb0 := 0x4C, smb1 := 0x4D, smbSpeed := 0, smbAddr := 0x70000000000, smbStat := 0, smbReply := none,
    spdm := [], spdmReply := none, ideKeys := [], ideOn := [], rngBad := false }

/-- The lands while POR_N is low (R511, PIN_STAT). -/
def PinSt.reset : PinSt := ⟨false, true, true, true, false, false, false, false, false, .bypass, []⟩

/-- The registers whose value after reset differs from that of their table's other instances: check-value configuration
15, the fixed CRC-64 (the tables after R379). Configuration 14 is the others' CRC-32. -/
def resetRegs : SMap W64 :=
  [(0x1101E0, 0x42F0E1EBA9EA3693), (0x1101E8, 0xFFFFFFFFFFFFFFFF), (0x1101F0, 0xFFFFFFFFFFFFFFFF), (0x1101F8, 0x1C0)]

/-- The device with POR_N low: every register at the value after reset of its table. -/
def State.reset : State :=
  { pending := [], regs := resetRegs, mem := [], stale := [], poison := [], badLines := [], time := TimeSt.reset,
    queues := [], turns := [], waiters := [], bars := [], gcs := [], ves := [], mcs := [], tables := [], hot := ⟨[], [], false⟩, sketches := [], samps := [], sampNext := 0, troughs := [], tmsgs := [], tresent := [],
    treply := none, clog := none, replay := none, stepVers := [], memKey := [], snap := SnapSt.reset, colIn := [], colAck := [], ctxs := [], ponds := [], chans := [], scrubbed := 0,
    dirs := [], rem := [], pcc := [], pccLast := [], traces := [], silt := [], siltSerial := 0, fault := FaultSt.reset,
    power := PowerSt.reset, link := LinkSt.reset, host := HostSt.reset, boot := BootSt.reset, pins := PinSt.reset, irqs := [], free := 0 }

end Sys2Proof.Machine
end

