-- ==== Sys2Proof/Machine/Ops.lean ====
section
/-! DEFINITION. The operations every meaning uses: registers and their fields, memory, time stamps, silt and trace
records, and the answers of a step. -/

namespace Sys2Proof.Machine

open Sys2Proof

abbrev Res := Host.Outcome State Fault Refusal

/-! Registers. -/

/-- The stored value at a configuration offset, for a register with value `rst` after reset. -/
def State.regAt (s : State) (o : Nat) (rst : W64) : W64 := (look s.regs o).getD rst

def State.setRegAt (s : State) (o : Nat) (v : W64) : State := { s with regs := ins s.regs o v }

def State.rg (s : State) (r : Reg) (i : Nat := 0) (j : Nat := 0) : W64 := s.regAt (r.off i j) r.rstW

def State.setRg (s : State) (r : Reg) (v : W64) (i : Nat := 0) (j : Nat := 0) : State := s.setRegAt (r.off i j) v

/-- A field of a register. -/
def State.get (s : State) (f : Fld) (i : Nat := 0) (j : Nat := 0) : Nat := fget f (s.rg f.reg i j)

/-- Write a field of a register. -/
def State.set (s : State) (f : Fld) (n : Nat) (i : Nat := 0) (j : Nat := 0) : State :=
  s.setRg f.reg (fset f (s.rg f.reg i j) n) i j

/-- A one-bit field as a truth value. -/
def State.flag (s : State) (f : Fld) (i : Nat := 0) (j : Nat := 0) : Bool := s.get f i j == 1

/-- Add to a counter field that wraps. -/
def State.bump (s : State) (f : Fld) (n : Nat) (i : Nat := 0) (j : Nat := 0) : State :=
  s.set f ((s.get f i j + n) % 2 ^ f.w) i j

/-- Add to a counter field that saturates. -/
def State.sat (s : State) (f : Fld) (n : Nat) (i : Nat := 0) (j : Nat := 0) : State :=
  s.set f (satAdd (2 ^ f.w - 1) (s.get f i j) n) i j

/-- Set a sticky bit. -/
def State.stick (s : State) (f : Fld) (i : Nat := 0) (j : Nat := 0) : State := s.set f 1 i j

/-! Device-wide facts. -/

/-- This device's number (0 until the world description is committed, R274, R529). -/
def State.me (s : State) : Nat := if s.flag WD_STAT_DONE then s.get WD_SELF_DEVICE else 0

/-- The number that frames and keys' messages carry: 0x1FFF while the device has none (R354, R365). -/
def State.num (s : State) : Nat := if s.flag WD_STAT_DONE then s.get WD_SELF_DEVICE else 0x1FFF

def State.isBell (s : State) : Bool := s.flag WD_STAT_DONE && s.flag WD_SELF_IS_BELL

def State.fatal (s : State) : Bool := s.flag FLT_STAT_FATAL

/-! Core handles (R18 to R20). -/

def hKind (h : Nat) : Nat := bits h 10 2
def hPond (h : Nat) : Nat := bits h 2 8
def hIndex (h : Nat) : Nat := bits h 0 2

/-- A valid handle (R20). -/
def hValid (h : Nat) : Bool :=
  h < 4096 && hKind h != 3 && hPond h < 96 && !(hKind h == 1 && hIndex h ≥ 2)

def hGc (g : Nat) : Nat := g
def hMc (m : Nat) : Nat := 1024 + 4 * (m / 2) + m % 2
def hUnit (p i : Nat) : Nat := 2048 + 4 * p + i

/-- Global index of the core a GC or MC handle names. -/
def hGlobal (h : Nat) : Nat := if hKind h == 1 then 2 * hPond h + hIndex h else 4 * hPond h + hIndex h

/-- The region (0 to 6) of its pond a handle's unit works in (R15, R483). -/
def hRegion (h : Nat) : Nat := if hKind h == 0 then hIndex h else if hKind h == 1 then 4 + hIndex h else 6

/-- The pond whose fabric stop a Garine port enters (R17). -/
def portPond (p : Nat) : Nat := if p < 6 then 12 * (p + 1) else 12 * (p - 6) + 23

/-- The pond whose fabric stop a memory controller enters (R17). -/
def ctrlPond (c : Nat) : Nat := if c < 6 then 2 * c + 1 else 85 + 2 * (c - 6)

def gcFenced (s : State) (g : Nat) : Bool := s.rg FLT_FGC (g / 64) |>.getLsbD (g % 64)
def mcFenced (s : State) (m : Nat) : Bool := s.rg FLT_FMC (m / 64) |>.getLsbD (m % 64)
def hubFenced (s : State) (p : Nat) : Bool := s.rg FLT_FHUB (p / 64) |>.getLsbD (p % 64)

/-- The unit a handle names is fenced. -/
def hFenced (s : State) (h : Nat) : Bool :=
  if hKind h == 0 then gcFenced s (hGlobal h) else if hKind h == 1 then mcFenced s (hGlobal h) else hubFenced s (hPond h)

/-- A pond without power measures no pace, and its regulator is off (R36, R444). -/
def gatePond (s : State) (p : Nat) : State := (s.set POND_VREG_VNOW 0 p).set POND_PACE_RATE 0 p

/-! The host window (R373). -/

/-- The host window is open: the device is the bellwether, and HB_HOSTWIN.V and Bus Master Enable are 1. -/
def hostOpen (s : State) : Bool := s.isBell && s.flag HB_HOSTWIN_V && s.host.busMaster

/-- The host bus address of local address `a`. -/
def hostBus (s : State) (a : Nat) : Nat := s.get HB_HOSTWIN_BASE * 4096 + (a - 0x40000000000)

/-- A request to the host for `who`: a write of `d`, or a read of `n` bytes, at local address `a`. -/
def State.hostReq (s : State) (who : Requester) (write : Bool) (a n : Nat) (d : List Byte) (frame : Option (Nat × Nat)) : State :=
  let r : HostReq := ⟨s.host.nextId, who, write, hostBus s a, n, d, frame⟩
  { s with host := { s.host with reqs := s.host.reqs ++ [r], nextId := s.host.nextId + 1 } }

/-! Free values. -/

/-- A fresh unspecified natural number. -/
def State.fresh (s : State) : Nat × State := (Config.freeNat s.free, { s with free := s.free + 1 })

/-- Some bytes of the random source (R474). -/
def randomBytes (s : State) (n : Nat) : List Byte × State :=
  let (v, s) := s.fresh
  (leBytes n v, s)

/-! Time stamps (R41 to R43). -/

/-- What a running local copy shows. DESIGN CHOICE (log entry 131): R41 lets a copy lie up to 4 ns from the count, by a
compensation calibrated at boot; here every copy is exact, so that all regions and domains show one value. -/
def State.stamp (s : State) : Nat := max s.time.floor ((s.time.base + min s.time.since 63) % 2 ^ 64)

/-- The 48-bit stamp of a record. -/
def State.stamp48 (s : State) : Nat := s.stamp % 2 ^ 48

/-- Note an event of a region, for its resynchronisation marker (R52). -/
def State.noteEvent (s : State) (p r : Nat) : State :=
  { s with time := { s.time with lastStamp := ins s.time.lastStamp (8 * p + r) s.stamp } }

/-! The address map (R520 to R522). -/

inductive Area where
  | main
  | host
  | scratch (pond off : Nat)
  | config (off : Nat)
  | unassigned
  deriving DecidableEq, Repr

def areaOf (a : Nat) : Area :=
  if a < 0x10E00000000 then .main
  else if 0x40000000000 ≤ a ∧ a < 0x50000000000 then .host
  else if 0x60000000000 ≤ a ∧ a < 0x600C0000000 then
    .scratch ((a - 0x60000000000) / 0x2000000) ((a - 0x60000000000) % 0x2000000)
  else if 0x70000000000 ≤ a ∧ a < 0x70008000000 then .config (a - 0x70000000000)
  else .unassigned

def scratchBase (p : Nat) : Nat := 0x60000000000 + p * 0x2000000

/-- The register, and its instance, at a configuration offset. -/
def regOf (o : Nat) : Option (Reg × Nat × Nat) :=
  regTable.findSome? fun r => (r.find o).map fun ij => (r, ij.1, ij.2)

/-- The configuration offset lies in a page of the table of R524. -/
def pageListed (o : Nat) : Bool :=
  o < 0x120000 || (0x200000 ≤ o && o < 0x2C0000) || (0x300000 ≤ o && o < 0x3C0000) || (0x400000 ≤ o && o < 0x500000)
  || (0x800000 ≤ o && o < 0xE00000) || (0x1000000 ≤ o && o < 0x1600000) || (0x2000000 ≤ o && o < 0x2C00000)
  || (0x4000000 ≤ o && o < 0x5800000) || (0x6000000 ≤ o && o < 0x7800000)

/-- Record an access that sets a DEV_ERR bit (R522, R525, R526). -/
def State.devErr (s : State) (f : Fld) (a : Nat) (write : Bool) : State :=
  let s := s.stick f
  let s := s.set DEV_ERRADDR_ADDR a
  s.set DEV_ERRADDR_WRITE (b2n write)

/-! Bytes of memory. -/

/-- The event that left address `a` unspecified, if it is in such a range. -/
def staleAt : List (Nat × Nat × Nat) → Nat → Option Nat
  | [], _ => none
  | (lo, hi, n) :: l, a => if lo ≤ a ∧ a < hi then some n else staleAt l a

/-- What an unlisted address reads as: 0 in main memory, which the boot zeroes (R468), and in scratch; a free value
where the spec leaves the byte unspecified (R317). -/
def unlisted (st : List (Nat × Nat × Nat)) (a : Nat) : Byte :=
  match staleAt st a with
  | none => 0
  | some n => Config.freeByte n a

/-- The byte at a local address. -/
def State.rd8 (s : State) (a : Nat) : Byte := (look s.mem a).getD (unlisted s.stale a)

/-- The memory with one byte written, in canonical form: an entry that an unlisted address would read as is removed.
In a range of unspecified bytes every written byte is listed. -/
def memPut (st : List (Nat × Nat × Nat)) (m : List Host.Cell) (a : Nat) (b : Byte) : List Host.Cell :=
  if b = 0 ∧ (staleAt st a).isNone then del m a else ins m a b

def State.wr8 (s : State) (a : Nat) (b : Byte) : State := { s with mem := memPut s.stale s.mem a b }

/-- The canonical form of memory: rising addresses, no entry equal to what an unlisted address reads as. -/
abbrev Memory.wf (st : List (Nat × Nat × Nat)) (m : List Host.Cell) : Bool :=
  risingFrom 0 m && m.all fun c => !(c.2 == 0 && (staleAt st c.1).isNone)

def State.rdBytes (s : State) (a : Nat) : Nat → List Byte
  | 0 => []
  | n + 1 => s.rd8 a :: s.rdBytes (a + 1) n

def State.wrBytes (s : State) (a : Nat) : List Byte → State
  | [] => s
  | b :: bs => (s.wr8 a b).wrBytes (a + 1) bs

/-- Leave [lo, hi) unspecified. -/
def State.makeStale (s : State) (lo hi : Nat) : State :=
  { s with mem := s.mem.filter (fun c => !(lo ≤ c.1 && c.1 < hi)), stale := (lo, hi, s.free) :: s.stale, free := s.free + 1 }

def State.rdN (s : State) (a n : Nat) : Nat := leNat (s.rdBytes a n)

def State.wrN (s : State) (a n v : Nat) : State := s.wrBytes a (leBytes n v)

/-! Main memory behind its controllers: poison (R342), retired dies (R421), invalidation before a write (R325). -/

def granuleOf (pa : Nat) : Nat := pa / 2048

/-- The channel and its user offset of a physical address (R335). -/
def chanFold (q : Nat) : Nat → Nat
  | 0 => 0
  | n + 1 => chanFold q n ^^^ ((q >>> (5 * n)) % 32)

def chanOf (pa : Nat) : Nat :=
  let g := pa / 2048
  let q := g / 96
  let r := g % 96
  let f := chanFold q 8
  32 * ((r / 32 + q % 3) % 3) + ((r % 32) ^^^ f)

def userOff (pa : Nat) : Nat := (pa / 2048 / 96) * 2048 + pa % 2048

/-- The block number in its channel, and the raw offset of its first byte (R336). -/
def blockOf (pa : Nat) : Nat := userOff pa / 256

def rawOff (pa : Nat) : Nat :=
  let b := blockOf pa
  4096 * (b / 15) + 256 * (b % 15) + userOff pa % 256

/-- The raw offset of the block's check bytes. -/
def checkOff (pa : Nat) : Nat :=
  let b := blockOf pa
  4096 * (b / 15) + 3840 + 16 * (b % 15)

/-- The physical address of byte 0 of block `b` of channel `c`: the inverse of R335. -/
def paOfBlock (c b : Nat) : Nat :=
  let u := b * 256
  let q := u / 2048
  let f := chanFold q 8
  let grp := c / 32
  let rg := (grp + 3 - q % 3) % 3
  let r := 32 * rg + ((c % 32) ^^^ f)
  (q * 96 + r) * 2048 + u % 2048

/-- The address symbols A of R340. -/
def addrSym (pa : Nat) : Nat := chanOf pa * 2 ^ 32 + blockOf pa

def ChanSt.init : ChanSt := ⟨none, 0, [], [], 0, 0, [], []⟩

def State.chan (s : State) (c : Nat) : ChanSt := lookD s.chans c ChanSt.init

def State.setChan (s : State) (c : Nat) (x : ChanSt) : State := { s with chans := ins s.chans c x }

/-- The block lies in a range retired with its die (R421): each range is 4 GiB of raw offsets of the channel. -/
def retiredAt (s : State) (pa : Nat) : Bool :=
  (s.chan (chanOf pa)).retired.any fun g => g * 2 ^ 30 ≤ rawOff pa && rawOff pa < (g + 4) * 2 ^ 30

def poisonedAt (s : State) (pa : Nat) : Bool := s.poison.contains (pa / 256)

/-- Reading the byte at `a` meets an uncorrectable error. -/
def ueAt (s : State) (a : Nat) : Bool :=
  match areaOf a with
  | .main => poisonedAt s a || retiredAt s a
  | .scratch _ _ => s.badLines.contains (a / 64)
  | _ => false

/-- A range of `n` bytes meets an uncorrectable error: checked at its first byte, at every 64-byte boundary in it, and
at its last byte. -/
def ueRange (s : State) (a n : Nat) : Bool :=
  n != 0 && (ueAt s a || (upto (n / 64 + 1)).any (fun k => let b := (a / 64 + k + 1) * 64; b < a + n && ueAt s b))

def PondSt.init : PondSt := ⟨[], [], [], 0, 0, 0, [], [], [], [], 4, 0, 1, 8, false, false, [0, 0, 0, 0, 0, 0, 0], [0, 0, 0, 0, 0, 0, 0]⟩

def State.pond (s : State) (p : Nat) : PondSt := lookD s.ponds p PondSt.init

def State.setPond (s : State) (p : Nat) (x : PondSt) : State := { s with ponds := ins s.ponds p x }

/-- A hub drops a line, and marks an outstanding fill of it stale (R326). -/
def hubInvalidate (x : PondSt) (line : Nat) : PondSt :=
  { x with
    lines := x.lines.filter (fun l => l.line != line)
    fills := x.fills.map (fun f => if f.line == line then { f with stale := true } else f) }

/-- Every pond drops its copy of a line, before the line is written (R325); its directory entry ends. -/
def State.invalidateAll (s : State) (line : Nat) : State :=
  let c := chanOf (line * 128) / 8
  { s with ponds := s.ponds.map fun kx => (kx.1, hubInvalidate kx.2 line)
           dirs := s.dirs.map fun kd => if kd.1 == c then (kd.1, del kd.2 line) else kd }

/-- Blocks of [a, a+n) with, for each, its first byte and length inside the range. -/
def blockParts (sz : Nat) : Nat → Nat → Nat → List (Nat × Nat)
  | _, 0, _ => []
  | a, fuel + 1, n =>
    if n = 0 then []
    else
      let len := min n (sz - a % sz)
      (a, len) :: blockParts sz (a + len) fuel (n - len)

/-- A write of [a, a+n) that leaves a tensor descriptor with VALID = 0 ends the tensor's remaining-use count: it is loaded
again at the first use after the descriptor becomes valid (R322). -/
def State.dropRem (s : State) (a n : Nat) : State :=
  { s with rem := s.rem.filter fun (kv : Nat × Nat) =>
      let v := s.get MEM_TDT_BASE (kv.1 / 4096) * 32 + 32 * (kv.1 % 4096) + 24
      !(a ≤ v && v < a + n && !(s.rd8 v).getLsbD 0) }

/-- A write of main memory at its controllers (R325, R342, R421): every copy is invalidated first; a write that covers
part of a poisoned block writes none of its bytes there; a write of a whole block clears the poison; a retired range
takes nothing. Answers whether some block refused the write. -/
def State.wrMain (s : State) (pa : Nat) (bs : List Byte) : State × Bool :=
  let r := (blockParts 256 pa (bs.length / 256 + 2) bs.length).foldl
    (fun acc part =>
      let (s, bad) := acc
      let d := (bs.drop (part.1 - pa)).take part.2
      if retiredAt s part.1 then (s, true)
      else if poisonedAt s part.1 && part.2 < 256 then (s, true)
      else
        let s := s.invalidateAll (part.1 / 128)
        let s := if 128 < part.1 % 128 + part.2 then s.invalidateAll (part.1 / 128 + 1) else s
        let s := { s with poison := s.poison.filter (· != part.1 / 256) }
        (s.wrBytes part.1 d, bad))
    (s, false)
  (r.1.dropRem pa bs.length, r.2)

/-- What of a range [lo, hi) lies outside [a, b). -/
def cutRange (a b : Nat) (r : Nat × Nat × Nat) : List (Nat × Nat × Nat) :=
  (if r.1 < min r.2.1 a then [(r.1, min r.2.1 a, r.2.2)] else []) ++ (if max r.1 b < r.2.1 then [(max r.1 b, r.2.1, r.2.2)] else [])

/-- Main memory from `a` up to `b` is written with zeros at its controllers, blocks whole. -/
def State.clearMain (s : State) (a b : Nat) : State :=
  let inside (line : Nat) : Bool := a ≤ 128 * line && 128 * line < b
  { s with
    mem := s.mem.filter fun c => !(a ≤ c.1 && c.1 < b)
    stale := s.stale.flatMap (cutRange a b)
    poison := s.poison.filter fun k => !(a ≤ 256 * k && 256 * k + 256 ≤ b)
    ponds := s.ponds.map fun kx => (kx.1, ((kx.2.lines.map (·.line) ++ kx.2.fills.map (·.line)).filter inside).foldl hubInvalidate kx.2)
    dirs := s.dirs.map fun kd => (kd.1, kd.2.filter fun e => !inside e.1) }

/-- A write of scratch (R327, R338): a whole 64-byte line replaces a failing line; a part of a failing line cannot be
merged. Answers whether some line refused the write. -/
def State.wrScratch (s : State) (a : Nat) (bs : List Byte) : State × Bool :=
  let r := (blockParts 64 a (bs.length / 64 + 2) bs.length).foldl
    (fun acc part =>
      let (s, bad) := acc
      let d := (bs.drop (part.1 - a)).take part.2
      if s.badLines.contains (part.1 / 64) && part.2 < 64 then (s, true)
      else
        let s := { s with badLines := s.badLines.filter (· != part.1 / 64) }
        (s.wrBytes part.1 d, bad))
    (s, false)
  (r.1.dropRem a bs.length, r.2)

/-- A write to main memory or scratch at a local address. -/
def State.wrLocal (s : State) (a : Nat) (bs : List Byte) : State × Bool :=
  match areaOf a with
  | .main => s.wrMain a bs
  | .scratch _ _ => s.wrScratch a bs
  | _ => (s, true)

/-! The partitions of a slab (R316): MiB in force. -/

def cacheNow (s : State) (p : Nat) : Nat := s.get SLAB_STAT_CACHE_NOW p
def userNow (s : State) (p : Nat) : Nat := s.get SLAB_STAT_USER_NOW p
def trgNow (s : State) (p : Nat) : Nat := s.get SLAB_STAT_TRG_NOW p
def hotNow (s : State) (p : Nat) : Nat := s.get SLAB_STAT_HOT_NOW p
def traceNow (s : State) (p : Nat) : Nat := s.get SLAB_STAT_TRACE_NOW p
def scratchNow (s : State) (p : Nat) : Nat := 24 - cacheNow s p

/-- A window offset lies in job scratch (R316). -/
def inUser (s : State) (p o : Nat) : Bool := o < userNow s p * 2 ^ 20

/-- A window offset lies in populated scratch, partitions included. -/
def inScratch (s : State) (p o : Nat) : Bool := o < scratchNow s p * 2 ^ 20

/-- Slab offsets of the trough, hot and trace partitions: they are carved from the top of scratch down. -/
def trgBase (s : State) (p : Nat) : Nat := (scratchNow s p - trgNow s p) * 2 ^ 20
def hotBase (s : State) (p : Nat) : Nat := (scratchNow s p - trgNow s p - hotNow s p) * 2 ^ 20
def traceBase (s : State) (p : Nat) : Nat := (scratchNow s p - trgNow s p - hotNow s p - traceNow s p) * 2 ^ 20

/-! The silt ring (R434, R435). -/

def State.silt' (s : State) (code handle queue seq : Nat) (data : List Nat) : State :=
  if s.flag SILT_CTL_FROZEN then s
  else
    let r : SiltRec := ⟨s.stamp, code, handle, queue, seq, s.siltSerial % 2 ^ 32, data⟩
    let l := s.silt ++ [r]
    { s with silt := l.drop (l.length - 8192), siltSerial := s.siltSerial + 1 }

/-- A silt record of the Sheepdog or the device as a whole. -/
def State.siltDev (s : State) (code : Nat) (data : List Nat) : State := s.silt' code 0xFFF 0x3FFF 0 data

/-! Fatal faults, and faults that come together (R411, R435, R437). -/

/-- The fatal path: FAULT_N, the last record, and the frozen ring. -/
def fatalFault (s : State) (cause : Nat) : State :=
  if s.fatal then s
  else
    let s := { s with pins := { s.pins with fault := true } }
    let s := (s.siltDev 0x00FF [cause]).set SILT_CTL_FROZEN 1
    s.set FLT_STAT_FATAL 1

/-- A part of pond `p` is in recovery (R408). -/
def recoversIn (s : State) (p : Nat) : Bool := s.fault.recovering.any fun u => hPond u == p

/-- A single part has failed, in the pond named if it lies in one: while another part recovers, the fault is fatal in the
same pond and sets SECOND elsewhere (R407, R411, R437). -/
def singleFault (s : State) (pond : Option Nat) : State :=
  if s.fault.recovering.isEmpty then s
  else match pond with
    | some p => if recoversIn s p then fatalFault s 5 else s.stick FLT_STAT_SECOND
    | none => s.stick FLT_STAT_SECOND

/-! The deputy pond (R413, R418). -/

/-- Rows plus columns between two ponds (R16). -/
def pondDist (a b : Nat) : Nat :=
  (max (a / 12) (b / 12) - min (a / 12) (b / 12)) + (max (a % 12) (b % 12) - min (a % 12) (b % 12))

/-- The least of a list by a key; the first on a tie. -/
def leastBy (key : Nat → Nat) : List Nat → Option Nat
  | [] => none
  | x :: l => match leastBy key l with
    | none => some x
    | some y => if key x ≤ key y then some x else some y

/-- The deputy pond of `p`: the nearest unfenced one, the lower number on a tie. -/
def deputyOf (s : State) (p : Nat) : Option Nat :=
  leastBy (pondDist p) ((upto 96).filter fun k => k != p && !hubFenced s k)

/-- The pond whose hub serves the troughs of pond `p`: itself, or the deputy while it is fenced (R418). -/
def homePond (s : State) (p : Nat) : Option Nat := if hubFenced s p then deputyOf s p else some p

/-- The 64 bytes of a record, as SILT_DATAn shows them. -/
def SiltRec.bytes (r : SiltRec) : List Byte :=
  let b := leBytes 8 r.stamp ++ leBytes 2 r.code ++ leBytes 2 r.handle ++ leBytes 2 r.queue ++ leBytes 2 0
    ++ leBytes 4 r.seq ++ leBytes 4 r.serial ++ (r.data.flatMap (leBytes 8))
  (b ++ leBytes 64 0).take 64

/-! Trace records (R489 to R495). -/

def TraceSt.init : TraceSt := ⟨0, 0, 0, []⟩

def State.trace (s : State) (p : Nat) : TraceSt := lookD s.traces p TraceSt.init

def State.setTrace (s : State) (p : Nat) (t : TraceSt) : State := { s with traces := ins s.traces p t }

/-- Records per 10 µs window at a SHARE in tenths of a percent: 256 GB/s, 64-byte records (R495). -/
def traceCap (s : State) : Nat := s.get OBS_CFG_SHARE * 40

/-- Ring capacity of a pond's trace buffer, in records (R492). -/
def traceSlots (s : State) (p : Nat) : Nat := traceNow s p * 16384

/-- Put one record in the ring: slot HEAD mod capacity; with WRAP the oldest gives way (R492, R493). -/
def tracePut (s : State) (p : Nat) (type flags source skind stamp : Nat) (payload : List Byte) : State :=
  let head := s.get TRC_PTR_HEAD p
  let cap := traceSlots s p
  let a := scratchBase p + traceBase s p + 64 * (head % cap)
  let r := leBytes 8 stamp ++ leBytes 1 type ++ leBytes 1 flags ++ leBytes 2 (source % 4096 + 4096 * skind)
    ++ leBytes 4 head ++ ((payload ++ leBytes 48 0).take 48)
  let s := { s.wrBytes a r with badLines := s.badLines.filter (· != a / 64) }
  let s := s.set TRC_PTR_HEAD ((head + 1) % 2 ^ 32) p
  let used := (s.get TRC_PTR_HEAD p + 2 ^ 32 - s.get TRC_PTR_TAIL p) % 2 ^ 32
  if used > cap then s.set TRC_PTR_TAIL ((s.get TRC_PTR_HEAD p + 2 ^ 32 - cap) % 2 ^ 32) p else s

/-- The ring takes a record: an ordinary one leaves the last 64 slots free without WRAP (R493). -/
def traceRoom (s : State) (p : Nat) (marker : Bool) : Bool :=
  let used := (s.get TRC_PTR_HEAD p + 2 ^ 32 - s.get TRC_PTR_TAIL p) % 2 ^ 32
  let cap := traceSlots s p
  cap != 0 && (s.flag TRC_CFG_WRAP p || (if marker then used < cap else used + 64 < cap))

def traceDrop (s : State) (p stamp : Nat) : State :=
  let t := s.trace p
  let s := s.setTrace p { t with drops := t.drops + 1, dropStamp := if t.drops = 0 then stamp else t.dropStamp }
  let s := s.sat TRC_STAT_DROPPED 1 p
  let s := s.stick OBS_STAT_DROPPED
  s.sat OBS_STAT_DROPS 1

/-- Offer a record to a pond's buffer (R492 to R495). `marker`: RESYNC or EPOCH, exempt from the cap. A DROP record
goes before the next ordinary record accepted after drops, and after a marker, and counts against the cap; if only one record fits, the
DROP record is written and the other is dropped into the next count (R494, R497). -/
def State.traceRec (s : State) (p type flags source skind stamp : Nat) (payload : List Byte) (marker : Bool) : State :=
  let t := s.trace p
  let left := traceCap s - t.used
  let dropRec (s : State) : State :=
    tracePut s p 0x32 0 source skind stamp (leBytes 4 t.drops ++ leBytes 4 0 ++ leBytes 8 t.dropStamp)
  if !traceRoom s p marker then traceDrop s p stamp
  else if marker then
    let s := tracePut s p type flags source skind stamp payload
    if t.drops = 0 || left = 0 || !traceRoom s p true then s
    else (dropRec s).setTrace p { t with drops := 0, dropStamp := 0, used := t.used + 1 }
  else if left = 0 then traceDrop s p stamp
  else if t.drops = 0 then (tracePut s p type flags source skind stamp payload).setTrace p { t with used := t.used + 1 }
  else
    let s := dropRec s
    let t' := { t with drops := 0, dropStamp := 0, used := t.used + 1 }
    let s := s.setTrace p t'
    if !traceRoom s p false || left ≤ 1 then traceDrop s p stamp
    else (tracePut s p type flags source skind stamp payload).setTrace p { t' with used := t'.used + 1 }

end Sys2Proof.Machine
end

