-- ==== Sys2Proof/Machine/Cvu.lean ====
section
/-! DEFINITION. Check-value units (R377). -/

namespace Sys2Proof.Machine

open Sys2Proof

/-- A configuration of a check-value unit. -/
structure CvCfg where
  w : Nat
  poly : Nat
  init : Nat
  xor : Nat
  refin : Bool
  refout : Bool
  deriving DecidableEq, Repr

/-- Configuration 14: CRC-32. -/
def cv32 : CvCfg := ⟨32, 0x04C11DB7, 0xFFFFFFFF, 0xFFFFFFFF, true, true⟩

/-- Configuration 15: CRC-64. -/
def cv64 : CvCfg := ⟨64, 0x42F0E1EBA9EA3693, 2 ^ 64 - 1, 2 ^ 64 - 1, true, true⟩

/-- Configuration `n` as the registers hold it; 14 and 15 are fixed. -/
def cvCfg (s : State) (n : Nat) : CvCfg :=
  if n = 14 then cv32
  else if n = 15 then cv64
  else ⟨clampN 1 64 (s.get CVU_CTL_WIDTH n), s.get CVU_POLY_VALUE n, s.get CVU_INIT_VALUE n, s.get CVU_XOR_VALUE n,
    s.flag CVU_CTL_REFIN n, s.flag CVU_CTL_REFOUT n⟩

/-- A configuration as a unit keeps it from the start of its command or drain (R378). -/
def CvCfg.toList (c : CvCfg) : List Nat := [c.w, c.poly, c.init, c.xor, b2n c.refin, b2n c.refout]

def CvCfg.ofList (l : List Nat) : CvCfg :=
  ⟨listGet l 0 0, listGet l 1 0, listGet l 2 0, listGet l 3 0, listGet l 4 0 == 1, listGet l 5 0 == 1⟩

theorem CvCfg.ofList_toList (c : CvCfg) : CvCfg.ofList c.toList = c := by
  cases c with
  | mk w p i x a b => cases a <;> cases b <;> rfl

/-- Bit i becomes bit w − 1 − i. -/
def reflect (w x : Nat) : Nat := (upto w).foldl (fun r i => r + b2n (x.testBit i) * 2 ^ (w - 1 - i)) 0

def cvBit (c : CvCfg) (r : Nat) (b : Bool) : Nat :=
  let fb := r.testBit (c.w - 1) != b
  let r := (r * 2) % 2 ^ c.w
  if fb then r ^^^ (c.poly % 2 ^ c.w) else r

def cvByte (c : CvCfg) (r : Nat) (b : Byte) : Nat :=
  let x := if c.refin then reflect 8 b.toNat else b.toNat
  [7, 6, 5, 4, 3, 2, 1, 0].foldl (fun r i => cvBit c r (x.testBit i)) r

def cvStart (c : CvCfg) : Nat := c.init % 2 ^ c.w

def cvRun (c : CvCfg) (r : Nat) (d : List Byte) : Nat := d.foldl (cvByte c) r

def cvEnd (c : CvCfg) (r : Nat) : Nat := (if c.refout then reflect c.w r else r) ^^^ (c.xor % 2 ^ c.w)

/-- The check value of bytes. -/
def cv (c : CvCfg) (d : List Byte) : Nat := cvEnd c (cvRun c (cvStart c) d)

end Sys2Proof.Machine
end

