-- ==== Sys2Proof/Machine/Fp.lean ====
section
/-! DEFINITION. Floating-point numbers (R97, R99, R112, R113, R268): decoding, exact arithmetic, and the one rounding, to
nearest with ties to even, that R114 allows. A finite number is a sign, a natural significand and a power of two. -/

namespace Sys2Proof.Machine

/-- A number as a code holds it. -/
inductive Num where
  | nan
  | inf (neg : Bool)
  | fin (neg : Bool) (m : Nat) (e : Int)
  deriving DecidableEq, Repr

/-- An IEEE-like format: exponent bits, fraction bits, bias. -/
structure Fmt where
  eb : Nat
  mb : Nat
  bias : Nat
  deriving DecidableEq, Repr

def fp32 : Fmt := ⟨8, 23, 127⟩
def bf16 : Fmt := ⟨8, 7, 127⟩
def fp16 : Fmt := ⟨5, 10, 15⟩
def mw48 : Fmt := ⟨8, 39, 127⟩
def e4m3 : Fmt := ⟨4, 3, 7⟩
def e5m2 : Fmt := ⟨5, 2, 15⟩
def e2m3 : Fmt := ⟨2, 3, 1⟩
def e3m2 : Fmt := ⟨3, 2, 3⟩
def e2m1 : Fmt := ⟨2, 1, 1⟩

def Fmt.width (f : Fmt) : Nat := 1 + f.eb + f.mb
/-- The exponent of a subnormal's unit. -/
def Fmt.unit (f : Fmt) : Int := 1 - (f.bias : Int) - f.mb
/-- The magnitude code of infinity in an IEEE format. -/
def Fmt.infCode (f : Fmt) : Nat := (2 ^ f.eb - 1) * 2 ^ f.mb
/-- The canonical quiet NaN. -/
def Fmt.nan (f : Fmt) : Nat := if f == e4m3 then 0x7F else f.infCode + 2 ^ (f.mb - 1)
/-- IEEE infinities and NaNs exist. -/
def Fmt.ieee (f : Fmt) : Bool := f == fp32 || f == bf16 || f == fp16 || f == mw48 || f == e5m2

/-- The value of a magnitude code with no special meaning. -/
def Fmt.mag (f : Fmt) (neg : Bool) (k : Nat) : Num :=
  let e := k / 2 ^ f.mb
  let m := k % 2 ^ f.mb
  if e = 0 then .fin neg m f.unit else .fin neg (2 ^ f.mb + m) (f.unit + ((e : Int) - 1))

/-- Decode a code (R97, R98). -/
def Fmt.dec (f : Fmt) (c : Nat) : Num :=
  let neg := c.testBit (f.eb + f.mb)
  let k := c % 2 ^ (f.eb + f.mb)
  if f.ieee && k ≥ f.infCode then (if k = f.infCode then .inf neg else .nan)
  else if f == e4m3 && k = 0x7F then .nan
  else f.mag neg k

/-! Exact rationals n ÷ d × 2^e. -/

def pow2 (e : Int) : Nat := 2 ^ e.toNat

/-- n ÷ d × 2^e as a quotient of naturals. -/
def ratOf (n d : Nat) (e : Int) : Nat × Nat := (n * pow2 e, d * pow2 (-e))

/-- floor(log₂ (n ÷ d)) for positive n, d. -/
def floorLog2 (n d : Nat) : Int :=
  let k : Int := (Nat.log2 n : Int) - Nat.log2 d
  if n * pow2 (-k) ≥ d * pow2 k then k else k - 1

/-- n ÷ d rounded to an integer, to nearest, ties to even. -/
def divNE (n d : Nat) : Nat :=
  let q := n / d
  let r := n % d
  if 2 * r > d ∨ (2 * r = d ∧ q % 2 = 1) then q + 1 else q

/-- The magnitude code nearest to n ÷ d × 2^e (n may be 0), exponents unbounded above. -/
def roundMag (f : Fmt) (n d : Nat) (e : Int) : Nat :=
  if n = 0 then 0
  else
    let (a, b) := ratOf n d e
    let l := floorLog2 a b
    let emin : Int := 1 - (f.bias : Int)
    let x := max l emin
    let (u, v) := ratOf a b ((f.mb : Int) - x)
    (x - emin).toNat * 2 ^ f.mb + divNE u v

/-- A signed code from a sign and a magnitude code. -/
def Fmt.signed (f : Fmt) (neg : Bool) (k : Nat) : Nat := if neg then 2 ^ (f.eb + f.mb) + k else k

/-- Round to an IEEE format; overflow gives an infinity. -/
def Fmt.round (f : Fmt) (neg : Bool) (n d : Nat) (e : Int) : Nat := f.signed neg (min f.infCode (roundMag f n d e))

/-- Encode a number in an IEEE format. -/
def Fmt.enc (f : Fmt) : Num → Nat
  | .nan => f.nan
  | .inf neg => f.signed neg f.infCode
  | .fin neg m e => f.round neg m 1 e

def Num.isFin : Num → Bool
  | .fin _ _ _ => true
  | _ => false

def Num.isZero : Num → Bool
  | .fin _ m _ => m == 0
  | _ => false

def Num.neg : Num → Num
  | .nan => .nan
  | .inf s => .inf (!s)
  | .fin s m e => .fin (!s) m e

def Num.abs : Num → Num
  | .nan => .nan
  | .inf _ => .inf false
  | .fin _ m e => .fin false m e

/-- The sign bit of a number that is not NaN. -/
def Num.sgn : Num → Bool
  | .nan => false
  | .inf s => s
  | .fin s _ _ => s

/-! Signed dyadics: i × 2^e. -/

structure Dy where
  i : Int
  e : Int
  deriving DecidableEq, Repr

def Dy.zero : Dy := ⟨0, 0⟩

def Dy.add (a b : Dy) : Dy :=
  if a.i = 0 then b
  else if b.i = 0 then a
  else
    let e := min a.e b.e
    ⟨a.i * pow2 (a.e - e) + b.i * pow2 (b.e - e), e⟩

def Dy.neg (a : Dy) : Dy := ⟨-a.i, a.e⟩
def Dy.sub (a b : Dy) : Dy := a.add b.neg
def Dy.mul (a b : Dy) : Dy := ⟨a.i * b.i, a.e + b.e⟩
def Dy.ofInt (i : Int) : Dy := ⟨i, 0⟩

/-- a ≤ b. -/
def Dy.le (a b : Dy) : Bool := decide ((b.sub a).i ≥ 0)
def Dy.lt (a b : Dy) : Bool := decide ((b.sub a).i > 0)

/-- The dyadic of a finite number (0 otherwise). -/
def Num.dy : Num → Dy
  | .fin s m e => ⟨if s then -(m : Int) else m, e⟩
  | _ => Dy.zero

/-- A dyadic as a number; zero is +0. -/
def Dy.num (a : Dy) : Num := .fin (decide (a.i < 0)) a.i.natAbs a.e

/-! Arithmetic on numbers, exact before the one rounding. -/

/-- Exact sum; an exact zero from operands of unlike sign is +0. -/
def Num.add (a b : Num) : Num :=
  match a, b with
  | .nan, _ => .nan
  | _, .nan => .nan
  | .inf s, .inf t => if s == t then .inf s else .nan
  | .inf s, _ => .inf s
  | _, .inf t => .inf t
  | .fin s m _, .fin t n _ =>
    let d := a.dy.add b.dy
    if d.i = 0 then .fin (s && t && m == 0 && n == 0) 0 0 else d.num

def Num.sub (a b : Num) : Num := a.add b.neg

def Num.mul (a b : Num) : Num :=
  match a, b with
  | .nan, _ => .nan
  | _, .nan => .nan
  | .inf s, .inf t => .inf (s != t)
  | .inf s, .fin t n _ => if n = 0 then .nan else .inf (s != t)
  | .fin s m _, .inf t => if m = 0 then .nan else .inf (s != t)
  | .fin s m e, .fin t n g => .fin (s != t) (m * n) (e + g)

/-- a ÷ b rounded to an IEEE format. -/
def Fmt.div (f : Fmt) (a b : Num) : Nat :=
  match a, b with
  | .nan, _ => f.nan
  | _, .nan => f.nan
  | .inf _, .inf _ => f.nan
  | .inf s, .fin t _ _ => f.signed (s != t) f.infCode
  | .fin s _ _, .inf t => f.signed (s != t) 0
  | .fin s m e, .fin t n g =>
    if n = 0 then (if m = 0 then f.nan else f.signed (s != t) f.infCode)
    else f.round (s != t) m n (e - g)

/-- √a rounded to an IEEE format: the square root is taken to enough bits, with a sticky bit below them. -/
def Fmt.sqrt (f : Fmt) (a : Num) : Nat :=
  match a with
  | .nan => f.nan
  | .inf s => if s then f.nan else f.signed false f.infCode
  | .fin s m e =>
    if m = 0 then f.signed s 0
    else if s then f.nan
    else
      let k : Nat := 2 * (f.mb + 4)
      let odd := e % 2
      let n := m * pow2 odd * 2 ^ (2 * k)
      let r := isqrt n
      let sticky := if r * r = n then 0 else 1
      f.round false (2 * r + sticky) 1 ((e - odd) / 2 - k - 1)

/-- Compare: a < b; false with a NaN. -/
def Num.lt (a b : Num) : Bool :=
  match a, b with
  | .nan, _ => false
  | _, .nan => false
  | .inf s, .inf t => s && !t
  | .inf s, _ => s
  | _, .inf t => !t
  | _, _ => a.dy.lt b.dy

def Num.eq (a b : Num) : Bool :=
  match a, b with
  | .nan, _ => false
  | _, .nan => false
  | .inf s, .inf t => s == t
  | .inf _, _ => false
  | _, .inf _ => false
  | _, _ => (a.dy.sub b.dy).i == 0

def Num.le (a b : Num) : Bool := a.lt b || a.eq b

/-! Operations on codes. -/

def Fmt.addC (f : Fmt) (a b : Nat) : Nat := f.enc ((f.dec a).add (f.dec b))
def Fmt.subC (f : Fmt) (a b : Nat) : Nat := f.enc ((f.dec a).sub (f.dec b))
def Fmt.mulC (f : Fmt) (a b : Nat) : Nat := f.enc ((f.dec a).mul (f.dec b))
def Fmt.divC (f : Fmt) (a b : Nat) : Nat := f.div (f.dec a) (f.dec b)
def Fmt.sqrtC (f : Fmt) (a : Nat) : Nat := f.sqrt (f.dec a)
/-- a × b + c with one rounding. -/
def Fmt.fmaC (f : Fmt) (a b c : Nat) : Nat := f.enc (((f.dec a).mul (f.dec b)).add (f.dec c))
/-- Conversion between IEEE formats. -/
def Fmt.cvt (f g : Fmt) (c : Nat) : Nat := g.enc (f.dec c)

/-- 1.0 -/
def f32one : Nat := 0x3F800000
def f32nan : Nat := 0x7FC00000

def f32 (c : Nat) : Num := fp32.dec c
/-- A 32-bit code is finite. -/
def f32fin (c : Nat) : Bool := (f32 c).isFin

/-- An integer as FP32. -/
def f32ofInt (i : Int) : Nat := fp32.round (decide (i < 0)) i.natAbs 1 0

/-- A finite number rounded to an integer, to nearest even. -/
def Num.toIntNE (a : Num) : Int :=
  match a with
  | .fin s m e =>
    let (n, d) := ratOf m 1 e
    let k := divNE n d
    if s then -(k : Int) else k
  | _ => 0

/-- floor of a finite number. -/
def Num.floor (a : Num) : Int :=
  match a with
  | .fin s m e =>
    let (n, d) := ratOf m 1 e
    if s then -(((n + d - 1) / d : Nat) : Int) else ((n / d : Nat) : Int)
  | _ => 0

/-- Truncation of a finite number. -/
def Num.trunc (a : Num) : Int :=
  match a with
  | .fin s m e =>
    let (n, d) := ratOf m 1 e
    if s then -((n / d : Nat) : Int) else ((n / d : Nat) : Int)
  | _ => 0

/-- FCVTI (R268): nearest even, saturated to signed 64 bits, 0 for NaN. -/
def fcvti (c : Nat) : Int :=
  match f32 c with
  | .nan => 0
  | .inf s => if s then -(2 ^ 63) else 2 ^ 63 - 1
  | x => clampI (-(2 ^ 63)) (2 ^ 63 - 1) x.toIntNE

end Sys2Proof.Machine
end

