-- ==== Sys2Proof/Machine/Traces.lean ====
section
/-! DEFINITION. The trace records of memory controllers and Garine ports (R489, R491). -/

namespace Sys2Proof.Machine

open Sys2Proof

/-- Count an access or frame of a source, and say whether it is the one in 2^SAMPLE_LOG2 that is recorded. -/
def traceSample (s : State) (p key : Nat) : Bool × State :=
  let t := s.trace p
  let n := lookD t.sampled key 0 + 1
  let take := n % 2 ^ min 20 (s.get OBS_CFG_SAMPLE_LOG2) == 0
  (take, s.setTrace p { t with sampled := ins t.sampled key (if take then 0 else n) })

/-- MEM_ACCESS of the controller of `pa`: kind 0 read, 1 write, 2 scrub, 3 probe re-read, 4 prefetch. The latency is
not the spec's to give. -/
def traceAccess (s : State) (kind pa pond : Nat) : State :=
  if !s.flag OBS_CFG_MEM_EN then s
  else
    let c := chanOf pa / 8
    let p := ctrlPond c
    let (take, s) := traceSample s p (1000 + c)
    if !take then s
    else
      let (lat, s) := s.fresh
      s.traceRec p 0x10 0 c 2 s.stamp
        (leBytes 8 pa ++ leBytes 1 kind ++ leBytes 1 (chanOf pa) ++ leBytes 2 pond ++ leBytes 4 lat) false

/-- MEM_CE: codeword `w` of the block at `pa` had `n` symbols corrected, the first on DQ lane `lane`. -/
def traceCe (s : State) (pa w n lane : Nat) : State :=
  if !s.flag OBS_CFG_MEM_EN || n = 0 then s
  else
    let c := chanOf pa / 8
    s.traceRec (ctrlPond c) 0x11 0 c 2 s.stamp
      (leBytes 8 (pa / 256 * 256) ++ leBytes 1 (chanOf pa) ++ leBytes 1 w ++ leBytes 1 n ++ leBytes 1 lane) false

/-- LINK_FRAME at a port: `dir` 0 out, 1 in. -/
def traceFrame (s : State) (port type len dst src addr eseq dir : Nat) : State :=
  if !s.flag OBS_CFG_LNK_EN then s
  else
    let p := portPond port
    let (take, s) := traceSample s p (2000 + port)
    if !take then s
    else s.traceRec p 0x20 0 port 3 s.stamp
      (leBytes 1 port ++ leBytes 1 type ++ leBytes 2 len ++ leBytes 2 dst ++ leBytes 2 src ++ leBytes 8 addr ++ leBytes 2 eseq
        ++ leBytes 1 dir) false

/-- LINK_EVENT at a port: 0 NAK sent, 1 resend episode, 2 RETRAIN begun, 3 UP, 4 DOWN, 5 lane dropped. -/
def traceLink (s : State) (port event : Nat) : State :=
  if !s.flag OBS_CFG_LNK_EN then s
  else s.traceRec (portPond port) 0x21 0 port 3 s.stamp
    (leBytes 1 port ++ leBytes 1 event ++ leBytes 1 (s.get LNK_STAT_LANES port)) false

end Sys2Proof.Machine
end

