-- ==== Sys2Proof/Machine/LinkCore.lean ====
section
/-! DEFINITION. Sending over the Garine links: streams, ports, replay buffers and outstanding requests (R351 to R361),
and the delivery of an interrupt vector (R375). -/

namespace Sys2Proof.Machine

open Sys2Proof

/-- The virtual channel of a frame type (R355). -/
def vcOf (type : Nat) : Nat := if type < 4 then 3 else if type < 11 then 0 else if type < 14 then 1 else 2

def PortSt.init : PortSt :=
  ⟨0, 0, [], [], 0, 0, [], 0, false, false, [(0, 1024), (1, 1024), (2, 1024)], [], 0, 0, none, none, none, 0, 0, none, none, [],
    [], [], 2, [], 0, true, [], false, [], []⟩

def State.port (s : State) (p : Nat) : PortSt := lookD s.link.ports p PortSt.init

def State.setPort (s : State) (p : Nat) (x : PortSt) : State :=
  { s with link := { s.link with ports := ins s.link.ports p x } }

def portState (s : State) (p : Nat) : Nat := s.get LNK_STAT_STATE p

/-- Bytes of a frame on the link: header, payload and trailer (R352 to R354). -/
def TxFrame.size (f : TxFrame) : Nat := if f.ext then 56 + f.payload.length else 32 + f.payload.length

/-- Credit units of 64 bytes. -/
def TxFrame.units (f : TxFrame) : Nat := (f.size + 63) / 64

/-- The ports listed for a destination, in order of preference (R361). -/
def routePorts (s : State) (d : Nat) : List Nat :=
  let v := (s.rg LNK_ROUTE (d / 4)).toNat
  ((upto 4).map fun k => bits v (16 * (d % 4) + 4 * k) 4).filter (· < 12)

def streamKey (f : TxFrame) : Nat := f.dst * 4 + vcOf f.type

def TxStream.init : TxStream := ⟨0, none, []⟩

/-- Where a frame's stream is kept: this device's own, or another device's on its way through. -/
def txKeyOf (s : State) (f : TxFrame) : Nat := if f.src == s.num then streamKey f else (f.src + 1) * 2 ^ 16 + streamKey f

/-- The stream of a frame has unanswered frames here, or frames that the neighbour has not acknowledged (R361). -/
def streamBusy (s : State) (f : TxFrame) : Bool :=
  (f.src == s.num && s.link.outst.any fun o => streamKey o.frame == streamKey f)
    || s.link.ports.any (fun pp => pp.2.replay.any fun g => g.src == f.src && streamKey g == streamKey f)

/-- The frame is routed by its path, not by its destination (R363). -/
def TxFrame.byPath (f : TxFrame) : Bool := f.path != 2 ^ 48 - 1

/-- The port a frame leaves by: a path names it; otherwise the stream's port while it is kept and UP, else the first
listed port that is UP (R361, R363). -/
def pickPort (s : State) (f : TxFrame) : Option Nat :=
  if f.byPath then
    let p := f.path % 16
    if p < 12 && (portState s p == 4 || portState s p == 3) then some p else none
  else if !(s.flag LNK_GCFG_ROUTE_EN) then none
  else
    let kept := (lookD s.link.tx (txKeyOf s f) TxStream.init).port
    let first := (routePorts s f.dst).find? fun p => portState s p == 4
    match kept with
    | some p =>
      if !streamBusy s f then first
      else if portState s p == 4 then some p
      -- a port in RETRAIN keeps its frames and its streams (R358)
      else if portState s p == 5 then none
      else first
    | none => first

/-- At most 16,384 unanswered frames of a stream are sent, and 65,536 requests in all (R360). -/
def windowOk (s : State) (f : TxFrame) : Bool :=
  if f.src != s.num then true
  else
    let same := s.link.outst.filter fun o => streamKey o.frame == streamKey f
    let oldest := same.head?.map (fun o => o.frame.eseq)
    (match oldest with
      | some e => (f.eseq + 65536 - e) % 65536 < 16384
      | none => true)
    && (let hold := (lookD s.link.tx (streamKey f) TxStream.init).hold
        hold.contains f.eseq || !(same.any fun o => hold.contains o.frame.eseq))
    && (s.link.outst.findIdx fun o => o.frame.eseq == f.eseq && streamKey o.frame == streamKey f) < 65536

def replayBytes (x : PortSt) : Nat := x.replay.foldl (fun n f => n + f.size) 0

/-- The layout in use (R351): extended until ROUTE_EN is set, then as EXT selects. -/
def State.extLayout (s : State) : Bool := !(s.flag LNK_GCFG_ROUTE_EN) || s.flag LNK_GCFG_EXT

/-- A frame in the layout it is sent in: a path needs the extended header (R353). -/
def TxFrame.laid (f : TxFrame) (s : State) : TxFrame := { f with ext := f.byPath || s.extLayout }

/-- The port takes a data frame: credit for its VC, room in the 256 KiB replay buffer, and a key for its LSEQ
(R356, R357, R365). -/
def portTakes (x : PortSt) (f : TxFrame) : Bool :=
  f.units ≤ lookD x.credits (vcOf f.type) 0 && replayBytes x + f.size ≤ 262144
    && !(x.txLseq == 2 ^ 32 - 1 && x.nextTx.isNone)

/-- The receive buffer of the port a frame came by has its space free again (R356). -/
def freeVia (s : State) (f : TxFrame) : State :=
  match f.via with
  | none => s
  | some (q, n) =>
    let x := s.port q
    s.setPort q { x with freed := ins x.freed (vcOf f.type) (lookD x.freed (vcOf f.type) 0 + n), ackDue := true }

/-- Send a data frame on a port: LSEQ, LACK, ALIVE and KEP are filled in, and the frame enters the replay buffer. When
LSEQ wraps, the next key pair comes into force with the other KEP, and the old transmit key is kept for resends (R357,
R359, R365). -/
def sendOn (s : State) (p : Nat) (f : TxFrame) : State :=
  let f := f.laid s
  let s := freeVia s f
  let x := s.port p
  let vc := vcOf f.type
  let wrap := x.txLseq == 2 ^ 32 - 1
  -- a path-routed frame's first hop leaves PATH (R363)
  let f := if f.byPath then { f with path := f.path / 16 + 15 * 2 ^ 44 } else f
  let f := { f with via := none, lseq := x.txLseq, lack := (x.rxLseq + 2 ^ 32 - 1) % 2 ^ 32, kep := x.kep,
                    alive := lookD x.txAlive vc 0 % 256 }
  let x := { x with
    txLseq := (x.txLseq + 1) % 2 ^ 32
    txAlive := ins x.txAlive vc ((lookD x.txAlive vc 0 + 1) % 256)
    credits := ins x.credits vc (lookD x.credits vc 0 - f.units)
    replay := x.replay ++ [f]
    lastVc := vc
    ackDue := false }
  let x := if wrap then
      match x.nextTx with
      | some k => { x with txKey := k, oldTxKey := some x.txKey, nextTx := none, kep := 1 - x.kep }
      | none => x
    else x
  let s := traceFrame (s.setPort p x) p f.type f.len f.dst f.src f.addr f.eseq 0
  if f.dst != 0x1FFF then
    { s with link := { s.link with tx := upd s.link.tx (txKeyOf s f) TxStream.init fun t => { t with port := some p } } }
  else s

/-- The port that can take a frame now. -/
def portFor (s : State) (f : TxFrame) : Option Nat :=
  if !windowOk s f then none
  else (pickPort s f).filter fun p => portTakes (s.port p) (f.laid s)

/-- The frames that stand first in their streams and can go, each with its port, in the order they wait. -/
def sendable (s : State) : List TxFrame → List Nat → List (TxFrame × Nat)
  | [], _ => []
  | f :: fs, seen =>
    let k := f.src * 65536 + streamKey f
    if seen.contains k then sendable s fs seen
    else
      match portFor s f with
      | some p => (f, p) :: sendable s fs (k :: seen)
      | none => sendable s fs (k :: seen)

/-- How many turns a frame's virtual channel is from its turn at a port (R356). -/
def vcTurn (s : State) (f : TxFrame) (p : Nat) : Nat := (vcOf f.type + 2 - (s.port p).lastVc) % 3

/-- The next frame to go: at the port of the first that can, the one whose virtual channel has the turn. -/
def nextFrame (s : State) : Option (TxFrame × Nat) :=
  match sendable s s.link.waitq [] with
  | [] => none
  | fp :: l => some ((l.filter (·.2 == fp.2)).foldl (fun a b => if vcTurn s b.1 b.2 < vcTurn s a.1 a.2 then b else a) fp)

/-- Send what can be sent of the waiting frames, keeping the order of each stream. -/
def flushN : Nat → State → State
  | 0, s => s
  | n + 1, s =>
    match nextFrame s with
    | none => s
    | some (f, p) => flushN n (sendOn { s with link := { s.link with waitq := s.link.waitq.erase f } } p f)

def State.flushLinks (s : State) : State := flushN s.link.waitq.length s

/-- Send a frame, or let it wait behind the frames that wait. -/
def State.sendFrame (s : State) (f : TxFrame) : State :=
  { s with link := { s.link with waitq := s.link.waitq ++ [f] } }.flushLinks

/-- A frame of this device to `dst`, with the next ESEQ of its stream. -/
def State.newFrame (s : State) (type dst addr len : Nat) (payload : List Byte) : TxFrame × State :=
  let k := dst * 4 + vcOf type
  let t := lookD s.link.tx k TxStream.init
  (⟨type, s.extLayout, len, 0, 0, 0, dst, s.num, t.next, addr, 0, 2 ^ 48 - 1, 2 ^ 48 - 1, payload, none⟩,
    { s with link := { s.link with tx := ins s.link.tx k { t with next := (t.next + 1) % 65536 } } })

/-- Send a request to another device and keep it as outstanding (R360). -/
def State.request (s : State) (who : Requester) (type dst addr len : Nat) (payload : List Byte) : State :=
  let (f, s) := s.newFrame type dst addr len payload
  let s := { s with link := { s.link with outst := s.link.outst ++ [Outstanding.mk who f false] } }
  s.sendFrame f

/-- A path-routed request of the bellwether (R363, R372). -/
def State.requestPath (s : State) (who : Requester) (type path addr len : Nat) (payload : List Byte) : State :=
  let (f, s) := s.newFrame type 0x1FFF addr len payload
  let f := { f with ext := true, path := path }
  let s := { s with link := { s.link with outst := s.link.outst ++ [Outstanding.mk who f false] } }
  s.sendFrame f

/-- Send a VC3 frame on a port: it takes the control count and no LSEQ (R357). -/
def sendCtl (s : State) (p type : Nat) (payload : List Byte) : State :=
  let x := s.port p
  let f : TxFrame := ⟨type, s.extLayout, payload.length, x.txCtl, (x.rxLseq + 2 ^ 32 - 1) % 2 ^ 32, 0, s.get LNK_STAT_NBR_DEV p,
    s.num, 0, 0, x.kep, 2 ^ 48 - 1, 2 ^ 48 - 1, payload, none⟩
  let s := s.setPort p { x with txCtl := (x.txCtl + 1) % 2 ^ 32, ctlOut := (f :: x.ctlOut).take 2, ackDue := false }
  traceFrame s p type f.len f.dst f.src 0 0 0

/-- A CTRL frame: the expected LSEQ, NAK and the credit returns (R355). -/
def sendCtrl (s : State) (p : Nat) (nak : Bool) : State :=
  let x := s.port p
  let d := leBytes 2 x.rxLseq ++ leBytes 2 (b2n nak) ++ (upto 3).flatMap (fun v => leBytes 2 (min 65535 (lookD x.freed v 0)))
    ++ leBytes 6 0
  sendCtl (s.setPort p { x with freed := x.freed.map fun kv => (kv.1, kv.2 - min 65535 kv.2) }) p 0 d

/-! Answers to requests (R355, R363). -/

/-- A frame is path-routed (R363): the model's path-routed frames carry DST 0x1FFF. -/
def rxByPath (f : RxFrame) : Bool :=
  f.ext && (f.dst == 0x1FFF || f.path != 2 ^ 48 - 1 || f.rpath != 2 ^ 48 - 1)

/-- The nibbles of a path, from nibble 0 to the first free one. -/
def pathNibbles (v : Nat) : List Nat := ((upto 12).map fun k => bits v (4 * k) 4).takeWhile (· != 15)

def pathOf (l : List Nat) : Nat := ((l ++ List.replicate 12 15).take 12).foldr (fun n a => n + 16 * a) 0

/-- The path back to the sender of a path-routed frame. -/
def pathBack (f : RxFrame) : Nat := pathOf (f.port :: (pathNibbles f.rpath).reverse)

/-- The answer to a request: to its source's stream, or back along its path. -/
def answer (s : State) (f : RxFrame) (type status : Nat) (data : List Byte) : State :=
  let (g, s) := s.newFrame type (if rxByPath f then 0x1FFF else f.src) (f.eseq + 65536 * status) data.length data
  s.sendFrame (if rxByPath f then { g with ext := true, path := pathBack f } else g)

/-! Interrupts (R375). -/

/-- The endpoint's MSI-X logic: a masked or disabled vector stays pending, and raises of a pending vector merge. -/
def State.msixRaise (s : State) (v : Nat) : State :=
  let masked := !s.host.msixEn || s.host.msixMask || (lookD s.host.msix (4 * v + 3) 1) % 2 == 1
  if masked then
    if s.host.pba.contains v then s else { s with host := { s.host with pba := v :: s.host.pba } }
  else { s with irqs := s.irqs ++ [v] }

/-- Deliver an interrupt vector: on the bellwether by MSI-X, elsewhere by an IRQ frame to the flock's bellwether. -/
def State.raiseIrq (s : State) (v : Nat) : State :=
  if s.isBell then s.msixRaise v
  else if s.flag WD_STAT_DONE then s.request .posted 0xA (s.get WD_SELF_BELL_DEV) v 0 []
  else s

end Sys2Proof.Machine
end

