-- ==== Sys2Proof/Machine/Trans.lean ====
section
/-! DEFINITION. Address translation with its TLB and walk cache (R331 to R333), the tensor descriptors that tag reads
(R320 to R323), the pond cache's hits, fills and victims (R318, R323, R324), prefetch streams (R328 to R330), and the
checked accesses that commands make. -/

namespace Sys2Proof.Machine

open Sys2Proof

/-- Who accesses memory: the pond whose hub serves it, its address space, and whether its addresses are translated
(R331). `owner`: owner-mode code, debug reads and the Sheepdog, which reach every partition (R316). -/
structure Ctx where
  pond : Nat
  space : Nat
  t : Bool
  owner : Bool
  queue : Nat
  deriving DecidableEq, Repr

/-- How an access fails. -/
inductive AccErr where
  /-- unmapped, refused, or a partition of another unit -/
  | refused
  | unassigned (a : Nat)
  | config (a : Nat)
  | hostWin (a : Nat)
  | ue (a : Nat)
  deriving DecidableEq, Repr

/-- The page of a job address (R332): a leaf entry, or none. -/
def leafOk (e : Nat) (big : Bool) : Bool :=
  e.testBit 0 && bits e 4 8 == 0 && bits e 43 21 == 0
    && (if big then bits e 12 18 == 0 && (bits e 30 13 + 1) * 2 ^ 30 ≤ 0x10E00000000
        else e.testBit 1 && bits e 12 9 == 0 && (bits e 21 22 + 1) * 2 ^ 21 ≤ 0x10E00000000)

def leafEnt (space va e : Nat) (big : Bool) : TlbEnt :=
  ⟨space, if big then va / 2 ^ 30 else va / 2 ^ 21, big,
    if big then bits e 30 13 * 2 ^ 30 else bits e 21 22 * 2 ^ 21, e.testBit 2, e.testBit 3⟩

/-- Read a table entry at an untranslated address: it must lie in main memory. -/
def tableEntry (s : State) (a : Nat) : Except AccErr Nat :=
  if areaOf a != .main then .error .refused
  else if ueAt s a then .error (.ue a)
  else .ok (s.rdN a 8)

/-! Tensors (R320 to R322). -/

/-- A tensor descriptor: BASE, EXTENT, REUSE, PF, DEPTH, USES, LAST_LAYER, LAST_OP, VALID. -/
structure Tensor where
  base : Nat
  extent : Nat
  reuse : Nat
  pf : Bool
  depth : Nat
  uses : Nat
  lastLayer : Nat
  lastOp : Nat
  valid : Bool
  deriving DecidableEq, Repr

def tensorAt (s : State) (space t : Nat) : Tensor :=
  let a := s.get MEM_TDT_BASE space * 32 + 32 * t
  let c := s.rdN (a + 16) 1
  ⟨s.rdN a 8 % 2 ^ 43, s.rdN (a + 8) 8 % 2 ^ 40, c % 8, c.testBit 3, s.rdN (a + 17) 1, s.rdN (a + 18) 2, s.rdN (a + 20) 2,
    s.rdN (a + 22) 2, s.rdN (a + 24) 1 % 2 == 1⟩

/-! The pond cache. -/

/-- Ways of the set a new line would share (R318: 512 sets of 16 ways per MiB). -/
def cacheWays (s : State) (p : Nat) : Nat := if cacheNow s p = 0 then 0 else 16

def setOf (s : State) (p line : Nat) : Nat := Config.cacheSet line % (512 * cacheNow s p)

/-- A tensor is dead: its remaining use is 0 and its USES or LAST marking is set (R322). `rem` holds the counts. -/
def tensorDead (s : State) (rem : SMap Nat) (tag : Nat) : Bool :=
  let t := tensorAt s (tag / 4096) (tag % 4096)
  tag % 4096 != 0 && (t.uses != 0 || t.lastLayer != 0 || t.lastOp != 0) && look rem tag == some 0

/-- The victim among the ways of a full set (R323): dead tensors first, then the lowest reuse class, least recently
used first; `ways` is most recent first. -/
def victim (s : State) (rem : SMap Nat) (ways : List CacheLine) : Option CacheLine :=
  match (ways.filter fun l => tensorDead s rem l.tag).getLast? with
  | some l => some l
  | none =>
    let m := ways.foldl (fun a l => min a l.cls) 8
    (ways.filter fun l => l.cls == m).getLast?

/-- Install a line as most recently used. -/
def installLine (s : State) (rem : SMap Nat) (p : Nat) (l : CacheLine) : State :=
  if cacheNow s p = 0 then s
  else
    let x := s.pond p
    let others := x.lines.filter fun m => m.line != l.line
    let ways := others.filter fun m => setOf s p m.line == setOf s p l.line
    let kept := if ways.length < 16 then others
      else match victim s rem ways with
        | some v => others.erase v
        | none => others
    s.setPond p { x with lines := l :: kept }

/-- A controller marks pond `p` in the directory entry of a line (R324). A full directory first evicts an entry and
invalidates its line in every pond it names. -/
def State.dirMark (s : State) (p line : Nat) : State :=
  let c := chanOf (line * 128) / 8
  let d := lookD s.dirs c []
  match look d line with
  | some ps => { s with dirs := ins s.dirs c (ins d line (if ps.contains p then ps else p :: ps)) }
  | none =>
    if d.length < 1048576 then { s with dirs := ins s.dirs c (ins d line [p]) }
    else
      match d[Config.freeNat s.free % d.length]? with
      | some (v, _) =>
        let s := { s with free := s.free + 1 }.invalidateAll v
        { s with dirs := ins s.dirs c (ins (del d v) line [p]) }
      | none => s

/-- A phase of a probe gathers reads (R345, R346). -/
def gathers (s : State) (p : Probe) : Bool := !p.aborted && p.reads < max 256 (s.get MEM_CAL_WIN)

/-- A controller's read of the block at `pa` for a unit of the device counts as a read of its channel in a probe's phase
(R345). Raw errors are operands of the controllers' own rows; here the sample is clean, unless the block is poisoned,
which shows a nonzero syndrome, is read again and aborts the phase (R346). -/
def State.chanRead (s : State) (pa : Nat) : State :=
  let x := s.chan (chanOf pa)
  match x.probe with
  | none => s
  | some p =>
    if !gathers s p then s
    else if poisonedAt s pa then
      ((s.setChan (chanOf pa) { x with probe := some { p with reads := p.reads + 1, aborted := true } }).sat MCTL_CAL_ABORTS 1
        (chanOf pa / 8)).bump MCTL_CNT_REREAD 1 (chanOf pa / 8)
    else s.setChan (chanOf pa) { x with probe := some { p with reads := p.reads + 1 } }

/-- A walk reads a table entry of main memory through the pond cache, untagged (R318, R333). -/
def walkRead (s : State) (p a : Nat) : State :=
  let line := a / 128
  let x := s.pond p
  if cacheNow s p = 0 then ((s.bump PC_CNT_MISSES 1 p).dirMark p line).chanRead a
  else
    match x.lines.find? fun l => l.line == line with
    | some l =>
      (s.setPond p { x with
        lines := { l with prefetched := false } :: x.lines.erase l
        pfHit := if l.prefetched then x.pfHit + 1 else x.pfHit }).bump PC_CNT_HITS 1 p
    | none =>
      let s := ((s.bump PC_CNT_MISSES 1 p).dirMark p line).chanRead a
      if ueAt s a then s else installLine s s.rem p ⟨line, 0, s.get MEM_PF_DEF_CLASS, false⟩

/-- Read a table entry in a walk: the entry, and the pond after the read. -/
def walkEntry (s : State) (p a : Nat) : Except AccErr Nat × State :=
  match tableEntry s a with
  | .ok e => (.ok e, walkRead s p a)
  | .error er => (.error er, s)

/-- The level-2 entry of a walk, and what it maps. -/
def walkLeaf (s : State) (p space va e1 : Nat) : Except AccErr (TlbEnt × Nat) × State :=
  if bits e1 4 8 != 0 || bits e1 43 21 != 0 then (.error .refused, s)
  else
    match walkEntry s p (bits e1 12 31 * 4096 + 8 * ((va / 2 ^ 21) % 512)) with
    | (.error er, s) => (.error er, s)
    | (.ok e2, s) => (if leafOk e2 false then .ok (leafEnt space va e2 false, e1) else .error .refused, s)

/-- Walk the page tables of a space (R332). The level-1 entry comes from the walk cache when it is there. -/
def walkTable (s : State) (p space va : Nat) : Except AccErr (TlbEnt × Nat) × State :=
  let i1 := va / 2 ^ 30
  if i1 ≥ 6144 then (.error .refused, s)
  else
    let r1 : Except AccErr Nat × State := match (s.pond p).walk.find? (fun w => w.1 == space * 8192 + i1) with
      | some w => (.ok w.2, s)
      | none => walkEntry s p (s.get MEM_SPACE_ROOT space * 4096 + 8 * i1)
    match r1 with
    | (.error er, s) => (.error er, s)
    | (.ok e1, s) =>
      if !e1.testBit 0 then (.error .refused, s)
      else if e1.testBit 1 then
        (if leafOk e1 true then .ok (leafEnt space va e1 true, e1) else .error .refused, s)
      else walkLeaf s p space va e1

def TlbEnt.covers (e : TlbEnt) (space va : Nat) : Bool :=
  e.space == space && e.page == (if e.big then va / 2 ^ 30 else va / 2 ^ 21)

/-- Install an entry: 128 sets of 8 ways hold 1,024 entries; the oldest of a full set leaves (R333). -/
def tlbInstall (x : PondSt) (e : TlbEnt) : PondSt :=
  let set := x.tlb.filter fun t => Config.tlbSet t.space t.page % 128 == Config.tlbSet e.space e.page % 128
  if set.length < 8 then { x with tlb := e :: x.tlb }
  else
    match set.getLast? with
    | some v => { x with tlb := e :: x.tlb.erase v }
    | none => { x with tlb := e :: x.tlb }

/-- Translate a job address in a space, through pond `p`'s TLB. -/
def translate (s : State) (p space va : Nat) (wr : Bool) : Except AccErr Nat × State :=
  if !(s.flag MEM_SPACE_V space) then (.error .refused, s)
  else
    let x := s.pond p
    let found := x.tlb.find? fun e => e.covers space va
    let res : Except AccErr TlbEnt × State :=
      match found with
      | some e => (.ok e, s)
      | none =>
        match walkTable s p space va with
        | (.error er, s) => (.error er, s)
        | (.ok (e, e1), s) =>
          let x := tlbInstall (s.pond p) e
          let k := space * 8192 + va / 2 ^ 30
          let x := if e.big || x.walk.any (fun w => w.1 == k) then x
            else { x with walk := keepN 64 ((k, e1) :: x.walk) }
          (.ok e, s.setPond p x)
    match res with
    | (.error er, s) => (.error er, s)
    | (.ok e, s) =>
      if (if wr then e.w else e.r) then (.ok (e.base + va % (if e.big then 2 ^ 30 else 2 ^ 21)), s)
      else (.error .refused, s)

/-- The untranslated local address an access reaches (R331), by one address. -/
def resolve1 (s : State) (c : Ctx) (a : Nat) (wr : Bool) : Except AccErr Nat × State :=
  if c.t && a ≤ 0x5FFFFFFFFFF then translate s c.pond c.space a wr else (.ok a, s)

/-- Whether an agent may access local address `a` (R316, R522, R525, R373). -/
def allowed (s : State) (c : Ctx) (a : Nat) : Except AccErr Unit :=
  match areaOf a with
  | .main => .ok ()
  | .scratch p o => if inUser s p o || (c.owner && inScratch s p o) then .ok () else .error .refused
  | .host => .error (.hostWin a)
  | .config _ => if c.owner then .ok () else .error (.config a)
  | .unassigned => .error (.unassigned a)

/-- Split [a, a+n) at 2 MiB boundaries, translate each part and check it: the local ranges reached. -/
def resolveParts (s : State) (c : Ctx) (wr : Bool) : List (Nat × Nat) → Except AccErr (List (Nat × Nat)) × State
  | [] => (.ok [], s)
  | (a, n) :: ps =>
    match resolve1 s c a wr with
    | (.error e, s) => (.error e, s)
    | (.ok pa, s) =>
      match allowed s c pa, allowed s c (pa + n - 1) with
      | .error e, _ => (.error e, s)
      | _, .error e => (.error e, s)
      | .ok _, .ok _ =>
        match resolveParts s c wr ps with
        | (.error e, s) => (.error e, s)
        | (.ok l, s) => (.ok ((pa, n) :: l), s)

def resolve (s : State) (c : Ctx) (a n : Nat) (wr : Bool) : Except AccErr (List (Nat × Nat)) × State :=
  resolveParts s c wr (blockParts (2 ^ 21) a (n / 2 ^ 21 + 2) n)

/-! The tensor of an address (R321). -/

/-- Binary search of the sorted index in the manner of R64: the last entry whose BASE does not exceed `a`. -/
def tensorSearch (s : State) (space a : Nat) : Nat → Nat → Nat → Nat
  | 0, lo, _ => lo
  | f + 1, lo, hi =>
    if hi ≤ lo then lo
    else
      let mid := (lo + hi) / 2
      let t := s.rdN (s.get MEM_TIDX_INDEX space + 2 * mid) 2 % 4096
      if (tensorAt s space t).base ≤ a then tensorSearch s space a f (mid + 1) hi else tensorSearch s space a f lo mid

/-- The tensor of a job address: first from the range cache, then from the index; 0 untagged (R321). -/
def tensorOf (s : State) (p space a : Nat) : Nat × State :=
  let x := s.pond p
  let hit (t : Nat) : Bool :=
    let d := tensorAt s space t
    d.valid && d.base ≤ a && a < d.base + d.extent
  match x.ranges.find? fun r => r / 4096 == space && hit (r % 4096) with
  | some r => (r % 4096, s)
  | none =>
    let n := s.get MEM_TIDX_COUNT space
    let i := tensorSearch s space a 13 0 n
    if i = 0 then (0, s)
    else
      let t := s.rdN (s.get MEM_TIDX_INDEX space + 2 * (i - 1)) 2 % 4096
      if t != 0 && hit t then (t, s.setPond p { x with ranges := keepN 64 ((space * 4096 + t) :: x.ranges) })
      else (0, s)


end Sys2Proof.Machine
end

