-- ==== Sys2Proof/Machine/Cache.lean ====
section
/-! DEFINITION. Demand reads through the pond cache, the directory, and run-ahead prefetch (R318 to R330). -/

namespace Sys2Proof.Machine

open Sys2Proof

/-- The reuse class of a tag: the tensor's, or MEM_PF.DEF_CLASS for an untagged line (R321). -/
def classOf (s : State) (tag : Nat) : Nat :=
  if tag % 4096 == 0 then s.get MEM_PF_DEF_CLASS else (tensorAt s (tag / 4096) (tag % 4096)).reuse

/-- The pond's present depth d, within the host's bounds (R330). -/
def minDepth (s : State) : Nat := s.get MEM_PF_MIN_DEPTH
def maxDepth (s : State) : Nat := max (s.get MEM_PF_MAX_DEPTH) (minDepth s)
def depthOf (s : State) (p : Nat) : Nat := clampN (minDepth s) (maxDepth s) ((s.pond p).depth)

/-- Issue one prefetch of the line at job address `a` (R328, R329): dropped and counted where it cannot be translated
for reading in main memory; the stream then issues nothing more in that page. -/
def issuePrefetch (s : State) (c : Ctx) (tag a : Nat) (st : Stream) : Stream × State :=
  let page := a / 2 ^ 21
  if st.stop.contains page then ({ st with issued := a / 128 }, s)
  else
    let (r, s) := resolve1 s c a false
    match r with
    | .ok pa =>
      if areaOf pa == .main then
        let x := s.pond c.pond
        let line := pa / 128
        let s := s.bump PF_CNT_ISSUED 1 c.pond
        let known := x.lines.any (fun l => l.line == line) || x.fills.any (fun f => f.line == line)
        let fills := if known then x.fills else x.fills ++ [⟨line, tag, classOf s tag, true, false, false, none, false⟩]
        let x := s.pond c.pond
        ({ st with issued := a / 128 }, s.setPond c.pond { x with fills := fills, pfIssued := x.pfIssued + 1 })
      else ({ st with issued := a / 128, stop := page :: st.stop }, s.sat PF_CNT_DROPPED 1 c.pond)
    | .error _ => ({ st with issued := a / 128, stop := page :: st.stop }, s.sat PF_CNT_DROPPED 1 c.pond)

/-- Issue prefetches in ascending order up to line `last`. -/
def runAhead (s : State) (c : Ctx) (tag last : Nat) (t : Tensor) : Nat → Stream → Stream × State
  | 0, st => (st, s)
  | f + 1, st =>
    let line := st.issued + 1
    let a := line * 128
    if line > last || a ≥ t.base + t.extent then (st, s)
    else if a < t.base then (st, s)
    else if a / 2 ^ 21 != st.issued * 128 / 2 ^ 21 && a / 2 ^ 21 * 2 ^ 21 ≥ t.base + t.extent then (st, s)
    else
      let (st, s) := issuePrefetch s c tag a st
      runAhead s c tag last t f st

/-- Advance the tensor's stream in the pond after a demand read at job address `a`; 16 streams, least recently used
replaced (R328). -/
def advanceStream (s : State) (c : Ctx) (tag a : Nat) : State :=
  let t := tensorAt s (tag / 4096) (tag % 4096)
  if tag % 4096 == 0 || !t.pf || t.depth == 0 then s
  else
    let x := s.pond c.pond
    let line := a / 128
    let st := (x.streams.find? fun st => st.tag == tag).getD ⟨tag, line, line, []⟩
    let high := max st.high line
    let st := { st with high := high, issued := max st.issued high }
    let d := min (depthOf s c.pond) t.depth
    let (st, s) := runAhead s c tag (high + d) t 256 { st with issued := max st.issued high }
    let x := s.pond c.pond
    s.setPond c.pond { x with streams := keepN 16 (st :: x.streams.filter fun u => u.tag != tag) }

/-- One demand read of a line of main memory by a unit of the pond: `a` its job address, `pa` its physical address
(R318, R321, R323, R324). Answers the tensor's tag. -/
def demandLine (s : State) (c : Ctx) (a pa : Nat) : Nat × State :=
  let line := pa / 128
  let (tag, s) := if c.t && a ≤ 0x5FFFFFFFFFF then
      let (t, s) := tensorOf s c.pond c.space a
      (if t = 0 then 0 else c.space * 4096 + t, s)
    else (0, s)
  let s := if tag != 0 && (look s.rem tag).isNone then
      { s with rem := ins s.rem tag (tensorAt s (tag / 4096) (tag % 4096)).uses } else s
  let x := s.pond c.pond
  let s :=
    if cacheNow s c.pond = 0 then ((s.bump PC_CNT_MISSES 1 c.pond).dirMark c.pond line).chanRead pa
    else
      match x.lines.find? fun l => l.line == line with
      | some l =>
        let x := { x with
          lines := { l with prefetched := false } :: x.lines.erase l
          pfHit := if l.prefetched then x.pfHit + 1 else x.pfHit }
        (s.setPond c.pond x).bump PC_CNT_HITS 1 c.pond
      | none =>
        let s := ((s.bump PC_CNT_MISSES 1 c.pond).dirMark c.pond line).chanRead pa
        if ueAt s pa then s else installLine s s.rem c.pond ⟨line, tag, classOf s tag, false⟩
  (tag, advanceStream s c tag a)

/-- The demand reads of a job range [a, a+n) whose parts lie at `parts`: one per 128-byte line of main memory. Answers
the tags read. -/
def demandParts (s : State) (c : Ctx) : Nat → List (Nat × Nat) → List Nat × State
  | _, [] => ([], s)
  | a, (pa, n) :: ps =>
    let lines := if areaOf pa == .main && n != 0 then upto ((pa + n - 1) / 128 - pa / 128 + 1) else []
    let (tags, s) := lines.foldl
      (fun acc k =>
        let la := if k = 0 then a else a - pa % 128 + 128 * k
        let (t, s) := demandLine acc.2 c la (pa - pa % 128 + 128 * k)
        (if t = 0 || acc.1.contains t then acc.1 else t :: acc.1, s))
      (([] : List Nat), s)
    let (more, s) := demandParts s c (a + n) ps
    (more.foldl (fun l t => if l.contains t then l else t :: l) tags, s)

/-- The demand reads of an untranslated range by a unit of pond `p` (R318). -/
def demandPlain (s : State) (p a n : Nat) : State := (demandParts s ⟨p, 0, false, false, 0⟩ a [(a, n)]).2

/-- Reads of local ranges by an agent that is no unit of a pond: no cache serves them (R318). -/
def directParts (s : State) (parts : List (Nat × Nat)) : State :=
  parts.foldl
    (fun s r =>
      if areaOf r.1 == .main && r.2 != 0 then
        (upto ((r.1 + r.2 - 1) / 128 - r.1 / 128 + 1)).foldl (fun s k => s.chanRead (r.1 / 128 * 128 + 128 * k)) s
      else s)
    s

end Sys2Proof.Machine
end

