-- ==== Sys2Proof/Machine/Checks.lean ====
section
/-! DEFINITION. The checks a command passes before it has any effect: its header (R296, R298), the opcode classes and
what each consumer takes (R290, R297), and the body fields of every opcode with their reserved bits, alignments and
ranges (R9 and the body tables of the chapters). A command is one number of 512 bits, byte 0 least significant. -/

namespace Sys2Proof.Machine

open Sys2Proof

/-- The field at byte `byte`, bits [lo+w-1 : lo] of it, of a 64-byte command. -/
def cf (raw byte lo w : Nat) : Nat := bits raw (8 * byte + lo) w

def opcOf (raw : Nat) : Nat := cf raw 0 0 8

/-- Body fields, as (byte, low bit, width), of an opcode; every other body bit is reserved. `none`: not defined. -/
def bodyFields (opc : Nat) : Option (List (Nat × Nat × Nat)) :=
  match opc with
  | 0x00 => some []
  | 0x01 | 0x02 | 0x03 | 0x06 => some [(16, 0, 64), (24, 0, 32)]
  | 0x04 => some [(16, 0, 8), (17, 0, 6), (18, 0, 6), (18, 7, 1)]
  | 0x05 => some [(16, 0, 8), (17, 0, 6), (18, 0, 7)]
  | 0x08 => some [(16, 0, 43), (24, 0, 256)]
  | 0x20 => some [(16, 0, 16), (18, 0, 3), (20, 0, 32), (24, 0, 43), (32, 0, 48)]
  | 0x21 => some [(16, 0, 16), (18, 0, 2), (20, 0, 32), (24, 0, 43), (32, 0, 48), (40, 0, 64)]
  | 0x22 => some [(16, 0, 1), (20, 0, 48), (28, 0, 96), (40, 0, 43)]
  | 0x40 => some [(16, 0, 4), (24, 0, 43)]
  | 0x41 => some [(16, 0, 7), (18, 0, 32), (24, 0, 43), (32, 0, 192)]
  | 0x42 => some [(16, 0, 2), (18, 0, 32), (24, 0, 192)]
  | 0x43 => some [(16, 0, 3), (17, 0, 3), (18, 0, 3), (19, 0, 3), (20, 0, 32), (24, 0, 43)]
  | 0x60 => some [(16, 0, 11), (18, 0, 4), (19, 0, 6), (20, 0, 32), (24, 0, 43), (32, 0, 64), (40, 0, 43), (48, 0, 64)]
  | 0x68 => some [(16, 0, 12), (18, 0, 2), (19, 0, 2), (20, 0, 32), (24, 0, 43), (32, 0, 43), (40, 0, 43), (48, 0, 32)]
  | 0x70 => some [(16, 0, 12), (18, 0, 16), (24, 0, 43)]
  | 0x71 => some [(16, 0, 1)]
  | 0x80 => some []
  | 0x81 => some [(16, 0, 5), (17, 0, 8), (18, 0, 12), (20, 0, 16), (24, 0, 43), (32, 0, 64), (40, 0, 43)]
  | 0x82 => some [(16, 0, 2), (18, 0, 12)]
  | 0x83 => some [(16, 0, 4), (18, 0, 12), (20, 0, 16), (24, 0, 43), (32, 0, 64), (40, 0, 43)]
  | 0x90 => some [(16, 0, 1), (20, 0, 32), (24, 0, 43), (32, 0, 64), (40, 0, 43)]
  | 0xA0 => some [(16, 0, 12), (18, 0, 4), (20, 0, 96), (32, 0, 43), (40, 0, 43)]
  | 0xA1 => some [(16, 0, 12), (20, 0, 32), (24, 0, 43), (32, 0, 43), (40, 0, 64), (48, 0, 43)]
  | 0xA2 => some []
  | 0xA3 => some [(16, 0, 128), (32, 0, 43), (40, 0, 5), (41, 0, 4), (48, 0, 43)]
  | 0xA4 => some [(16, 0, 12), (18, 0, 1)]
  | 0xA5 => some [(16, 0, 64), (24, 0, 43), (32, 0, 64), (40, 0, 43), (48, 0, 64)]
  | 0xA6 => some [(24, 0, 43)]
  | 0xB0 => some [(16, 0, 2), (20, 0, 96), (32, 0, 43), (40, 0, 43), (48, 0, 64)]
  | 0xB1 => some [(16, 0, 2), (20, 0, 32), (24, 0, 43), (32, 0, 64), (40, 0, 43), (48, 0, 43), (56, 0, 64)]
  | 0xC0 => some [(16, 0, 6), (24, 0, 56), (32, 0, 56), (40, 0, 40), (48, 0, 43)]
  | 0xC1 | 0xC2 | 0xC3 | 0xC5 | 0xC6 =>
    some [(16, 0, 6), (17, 0, 6), (18, 0, 8), (19, 0, 5), (20, 0, 64), (28, 0, 13), (30, 0, 8), (32, 0, 43), (40, 0, 43),
      (48, 0, 43)]
  | 0xC4 => some [(16, 0, 6), (24, 0, 43), (32, 0, 43), (40, 0, 43), (48, 0, 32), (56, 0, 43)]
  | 0xC7 => some [(16, 0, 6), (24, 0, 43), (32, 0, 32)]
  | 0xC8 => some [(16, 0, 21)]
  | 0xE0 => some [(16, 0, 64), (24, 0, 3), (26, 0, 48), (32, 0, 24), (36, 0, 8), (40, 0, 43)]
  | _ => none

/-- The reserved body bits of an opcode are all zero (R9). -/
def reservedOk (raw : Nat) (l : List (Nat × Nat × Nat)) : Bool :=
  l.foldl (fun r f => setBits r (8 * f.1 + f.2.1) f.2.2 0) (raw >>> 128 <<< 128) == 0

/-- Alignments and ranges that the body tables state as checks of the body alone (R9, R305, R148, R149, R150, R186 to
R189, R79, R86, R211 to R213, R224, R240, R242, R219, R220, R385, R389, R453). -/
def bodyValues (raw : Nat) : Bool :=
  let b := cf raw
  match opcOf raw with
  | 0x08 => b 16 0 43 % 64 == 0
  | 0x20 => b 16 0 16 != 0 && b 18 0 2 != 3 && (b 18 2 1 == 0 || (b 18 0 2 == 0 && countOf (fun i => (b 16 0 16).testBit i) (upto 16) % 3 == 0))
      && b 20 0 32 % 16 == 0 && b 24 0 43 % 16 == 0 && b 32 0 16 != 0
  | 0x21 => b 16 0 16 != 0 && 1 ≤ b 20 0 32 && b 20 0 32 ≤ 1048576 && b 24 0 43 % 16 == 0
  | 0x22 => 1 ≤ b 20 0 32 && b 20 0 32 ≤ 196608 && 1 ≤ b 24 0 16 && b 24 0 16 ≤ 4096
      && b 40 0 43 % (if b 16 0 1 == 1 then 2 else 4) == 0
  | 0x40 => b 24 0 43 % 64 == 0
  | 0x41 => b 18 0 16 != 0 && b 24 0 43 % 32 == 0
  | 0x42 => b 16 0 2 != 3 && 1 ≤ b 18 0 16 && b 18 0 16 ≤ 4096 && 1 ≤ b 20 0 16 && b 20 0 16 ≤ 4096
      && (if (b 24 0 64).testBit 63 then b 24 5 58 == 0 else b 24 43 20 == 0)
      && (if (b 40 0 64).testBit 63 then b 40 5 58 == 0 else b 40 43 20 == 0)
  | 0x43 => b 16 0 3 < 6 && (b 16 0 3 == 5 || b 17 0 3 != 0) && (b 16 0 3 != 0 || b 20 0 32 ≤ 65536)
  | 0x60 => 1 ≤ b 17 0 3 && b 17 0 3 ≤ 4 && 1 ≤ b 32 0 32 && b 32 0 32 ≤ 1048576 && b 36 0 32 % 64 == 0
      && b 40 0 43 % 64 == 0
  | 0x68 => b 18 0 2 != 3 && (b 19 0 1 == 1 || b 20 0 32 != 0) && (b 18 0 2 == 2 || b 48 0 32 % 16 == 0)
  | 0x81 => (b 16 1 2 == 1 || b 16 1 2 == 2) && b 16 3 2 != 3 && b 17 0 8 ≤ 2 && b 20 0 16 != 0
      && (b 16 3 2 != 0 || b 36 0 32 != 0)
  | 0x82 => b 16 0 2 != 3
  | 0x83 => (b 16 0 2 == 1 || b 16 0 2 == 2) && (b 16 0 2 == 1 || (b 16 2 1 == 0 && b 32 0 32 == 0))
  | 0x90 => b 20 0 32 != 0
  | 0xA0 => b 24 0 32 != 0 && b 28 31 1 == 0 && b 28 0 31 != 0 && b 28 23 8 != 255
  | 0xA1 => b 44 31 1 == 0 && b 44 0 31 != 0 && b 44 23 8 != 255
  | 0xA3 => b 40 0 5 ≤ 16
  | 0xB0 => b 16 0 2 != 3 && b 20 0 32 % 64 == 0
  | 0xB1 => b 16 0 2 != 3
  | 0xC0 => b 40 0 40 != 0
  | 0xC4 => b 32 0 43 % 16 == 0
  | 0xC1 | 0xC2 =>
      let n := b 24 0 32 + 2 ^ 32 * b 30 0 8
      1 ≤ n && n ≤ 2 ^ 26 && b 17 0 2 != 3 && b 17 2 2 != 3
  | 0xC6 => let n := b 24 0 32 + 2 ^ 32 * b 30 0 8
      1 ≤ n && n ≤ 2 ^ 26 && b 17 0 2 ≤ 1 && b 17 4 2 == 0
  | 0xC3 | 0xC5 => b 24 0 32 + 2 ^ 32 * b 30 0 8 != 0 && b 17 4 2 == 0
  | 0xE0 => b 24 0 3 != 0 && (b 24 1 1 == 0 || (1 ≤ b 28 0 32 && b 28 0 32 ≤ 10000))
  | _ => true

/-- The body of a command is well formed. PERMUTE's reserved bits are its own to find: it sends ABORT chunks (R403). -/
def bodyOk (raw : Nat) : Bool :=
  match bodyFields (opcOf raw) with
  | none => false
  | some l => (opcOf raw == 0xC7 || reservedOk raw l) && bodyValues raw

/-- What a queue's consumer takes: a transfer engine, or a unit by its handle (R290). -/
inductive Consumer where
  | unit (h : Nat)
  | te (port : Nat)
  deriving DecidableEq, Repr

/-- The consumer takes the opcode's class (R290, R297). -/
def takesClass (c : Consumer) (opc : Nat) : Bool :=
  let isGc := match c with | .unit h => hKind h == 0 | .te _ => false
  if opc < 0x20 then opc != 0x08 || isGc
  else
    match c with
    | .te _ => 0xC0 ≤ opc && opc < 0xE0
    | .unit h =>
      if hKind h == 0 then 0x40 ≤ opc && opc < 0x60
      else if hKind h == 1 then 0x20 ≤ opc && opc < 0x40
      else if hIndex h == 0 then opc == 0x60
      else if hIndex h == 1 then opc == 0x68 || opc == 0x70 || opc == 0x71
      else if hIndex h == 2 then 0x80 ≤ opc && opc < 0xA0
      else (0xA0 ≤ opc && opc < 0xC0) || 0xE0 ≤ opc

/-- The header check of R298. -/
def headerOk (raw : Nat) (c : Consumer) : Bool :=
  let h := cf raw
  h 0 12 4 == 0 && h 0 48 16 == 0 && h 8 38 1 == 0 && h 8 46 1 == 0 && h 8 56 8 == 0
    && !(h 8 39 1 == 1 && h 8 32 6 > 47) && !(h 8 47 1 == 1 && h 8 40 6 > 47)
    && (bodyFields (opcOf raw)).isSome && takesClass c (opcOf raw)

/-- A semaphore reference (R274). -/
structure SemRef where
  far : Bool
  idx : Nat
  handle : Nat
  dev : Nat
  deriving DecidableEq, Repr

/-- Decode a reference; none where it breaks R274. -/
def semRef (v : Nat) : Option SemRef :=
  let far := v.testBit 20
  let r : SemRef := ⟨far, bits v 0 8, bits v 8 12, bits v 21 13⟩
  if bits v 34 30 != 0 then none
  else if far then some r
  else if r.idx < 48 && hValid r.handle && hKind r.handle ≤ 1 then some r
  else none

/-- A reference for a signal: any local semaphore of this device, or a far semaphore of any device. -/
def semRefSig (v n : Nat) : Option SemRef :=
  match semRef v with
  | some r => if r.far || n ≤ 0xFFFF then some r else none
  | none => none

/-- A reference for a wait, decrement or set: a local semaphore of `core`, or a far semaphore of this device. -/
def semRefOwn (v n core me : Nat) : Option SemRef :=
  match semRef v with
  | some r => if r.far then (if r.dev == me then some r else none)
      else if r.handle == core && n ≤ 0xFFFF then some r else none
  | none => none

end Sys2Proof.Machine
end

