-- ==== Sys2Proof/Machine/Sync.lean ====
section
/-! DEFINITION. Queues' and general cores' state accessors, semaphores and their waiters (R306 to R308), and barriers
(R310, R311). -/

namespace Sys2Proof.Machine

open Sys2Proof

/-! Accessors. -/

def QState.init : QState := ⟨[], [], false, false, none⟩

def State.q (s : State) (q : Nat) : QState := lookD s.queues q QState.init

def State.setQ (s : State) (q : Nat) (x : QState) : State := { s with queues := ins s.queues q x }

/-- Change the started command `seq` of queue `q`. -/
def State.updCmd (s : State) (q seq : Nat) (f : Cmd → Cmd) : State :=
  let x := s.q q
  s.setQ q { x with started := x.started.map fun c => if c.seq == seq then f c else c }

def State.findCmd (s : State) (q seq : Nat) : Option Cmd := (s.q q).started.find? fun c => c.seq == seq

/-- The journal entry of a command, made if it is missing. -/
def JEnt.init (seq : Nat) : JEnt := ⟨seq, false, false, none, [], none, false, false⟩

def State.jent (s : State) (q seq : Nat) : JEnt := ((s.q q).journal.find? fun j => j.seq == seq).getD (JEnt.init seq)

def State.setJent (s : State) (q : Nat) (j : JEnt) : State :=
  let x := s.q q
  if x.journal.any fun k => k.seq == j.seq then
    s.setQ q { x with journal := x.journal.map fun k => if k.seq == j.seq then j else k }
  else s.setQ q { x with journal := x.journal ++ [j] }

def qtI (q : Nat) : Nat := q / 1024
def qtJ (q : Nat) : Nat := q % 1024

/-- A field of a queue-table register. -/
def State.qget (s : State) (f : Fld) (q : Nat) : Nat := s.get f (qtI q) (qtJ q)

def State.qset (s : State) (f : Fld) (v q : Nat) : State := s.set f v (qtI q) (qtJ q)

def State.qflag (s : State) (f : Fld) (q : Nat) : Bool := s.qget f q == 1

/-- The consumer a queue is bound to (R289, R290). -/
def consumerOf (s : State) (q : Nat) : Consumer :=
  if s.qflag QTAB_CFG_TE q then .te (s.qget QTAB_CFG_CONSUMER q % 16) else .unit (s.qget QTAB_CFG_CONSUMER q)

/-- The pond whose hub serves a queue's accesses. -/
def pondOfQ (s : State) (q : Nat) : Nat :=
  match consumerOf s q with
  | .unit h => hPond h
  | .te p => portPond p

/-- The unit whose own state a queue's commands use: the fenced unit where the queue was rebound (R276, R413). -/
def homeOfQ (s : State) (q : Nat) : Nat :=
  match (s.q q).home with
  | some h => h
  | none => s.qget QTAB_CFG_CONSUMER q

/-- The address space and T bit of a queue (R331). -/
def spaceOfQ (s : State) (q : Nat) : Nat := bits (s.rg MEM_QAS (q / 16)).toNat (4 * (q % 16)) 2
def transOfQ (s : State) (q : Nat) : Bool := (s.rg MEM_QAS (q / 16)).toNat.testBit (4 * (q % 16) + 3)

def ctxOfQ (s : State) (q : Nat) : Ctx := ⟨pondOfQ s q, spaceOfQ s q, transOfQ s q, false, q⟩

/-! General cores. -/

def GcState.init : GcState := ⟨[], 0, [], [], [], none, none, .no, 0, [], none⟩

def State.gc (s : State) (g : Nat) : GcState := lookD s.gcs g GcState.init

def State.setGc (s : State) (g : Nat) (x : GcState) : State := { s with gcs := ins s.gcs g x }

/-- A register of a core: g0 reads as zero (R260). -/
def GcState.rd (x : GcState) (r : Nat) : W64 := if r = 0 then 0 else lookD x.g r 0

/-- Write a register: writes to g0 are discarded (R260). -/
def GcState.wr (x : GcState) (r : Nat) (v : W64) : GcState := if r = 0 then x else { x with g := ins x.g r v }

/-- Kinds of effect instructions, by their OP codes (R277). -/
def effIssue : Nat := 0x30
def effSig : Nat := 0x31
def effWait : Nat := 0x32
def effTry : Nat := 0x33
def effDec : Nat := 0x34

/-- Add to counter `i` of a command. -/
def Cmd.count (c : Cmd) (i n : Nat) : Cmd :=
  let l := (c.pcc ++ [0, 0, 0, 0, 0, 0, 0]).take 7
  { c with pcc := l.set i (listGet l i 0 + n) }

/-- Add to counter `i` of the GRUN that core `g` runs (R486). -/
def State.gcCount (s : State) (g i n : Nat) : State :=
  match (s.gc g).run with
  | none => s
  | some r => s.updCmd r.queue r.seq fun c => c.count i n

/-- Core `g` blocks (GC_STAT.BLOCKED). -/
def State.gcBlock (s : State) (g : Nat) (b : Blocked) : State :=
  (s.setGc g { s.gc g with blocked := b, since := s.stamp }).set GC_STAT_BLOCKED 1 g

/-- Core `g` is blocked no longer. -/
def State.gcUnblock (s : State) (g : Nat) : State :=
  if (s.gc g).blocked == .no then s
  else
    let s := s.gcCount g 6 (s.stamp - (s.gc g).since)
    (s.setGc g { s.gc g with blocked := .no }).set GC_STAT_BLOCKED 0 g

/-- An instruction of core `g` retires and the core goes on at `pc`. -/
def State.gcAdvance (s : State) (g pc : Nat) : State :=
  if (s.gc g).run.isNone then s
  else
    let s := (s.gcUnblock g).gcCount g 0 1
    (s.setGc g { s.gc g with pc := pc % 2 ^ 64 }).bump GC_INSTR_COUNT 1 g

/-- An effect instruction of core `g` takes effect: its result is recorded in the same step, written to RD, and the
core goes on (R277). -/
def State.effectDone (s : State) (g kind rd result : Nat) : State :=
  let x := s.gc g
  match x.run with
  | none => s
  | some r =>
    let j := s.jent r.queue r.seq
    let s := s.setJent r.queue { j with effects := j.effects ++ [(kind, result)] }
    let s := s.setGc g { (x.wr rd (BitVec.ofNat 64 result)) with run := some { r with ord := r.ord + 1 } }
    let s := s.set GC_RUN_ORDINAL (j.effects.length + 1) g
    (s.gcCount g 1 1).gcAdvance g (x.pc + 4)

/-! Semaphores. A semaphore is named by the configuration offset of its SEM_VAL register. -/

def semOffLocal (h n : Nat) : Nat := SEM_VAL.off (hPond h) (48 * (if hKind h == 1 then 4 + hIndex h else hIndex h) + n)

def semOffFar (n : Nat) : Nat := FSEM_VAL.off n

def SemRef.off (r : SemRef) : Nat := if r.far then semOffFar r.idx else semOffLocal r.handle r.idx

/-- The offset is that of a far semaphore. -/
def semIsFar (off : Nat) : Bool := off < 0x100000

def semMax (off : Nat) : Nat := if semIsFar off then 0xFFFFFFFF else 0xFFFF

/-- The GC whose local semaphore lies at this offset, if it is a GC's. -/
def semOwnerGc (off : Nat) : Option Nat :=
  if semIsFar off then none
  else
    let p := (off - 0x802000) / 0x10000
    let c := (off - 0x802000) % 0x10000 / 32 / 48
    if c < 4 then some (4 * p + c) else none

def semValue (s : State) (off : Nat) : Nat := bits (s.regAt off 0).toNat 0 32

def semPut (s : State) (off v : Nat) : State :=
  s.setRegAt off (BitVec.ofNat 64 (setBits (s.regAt off 0).toNat 0 32 v))

def semOr (s : State) (off bit : Nat) : State := s.setRegAt off (s.regAt off 0 ||| BitVec.ofNat 64 (2 ^ bit))

def State.waitersOf (s : State) (off : Nat) : List Waiter := lookD s.waiters off []

def State.setWaiters (s : State) (off : Nat) (l : List Waiter) : State :=
  { s with waiters := if l.isEmpty then del s.waiters off else ins s.waiters off l }

/-- The core that runs the GRUN (queue, SEQ). -/
def runnerOf (s : State) (queue seq : Nat) : Option Nat :=
  (s.gcs.find? fun kx => match kx.2.run with | some r => r.queue == queue && r.seq == seq | none => false).map (·.1)

/-- A waiter is served: its wait is taken once and for all (R299, R301, R305, R274). -/
def serveOne (s : State) (w : Waiter) : State :=
  match w.kind with
  | .header =>
    let s := s.setQ w.queue { s.q w.queue with joined := false }
    let j := s.jent w.queue w.seq
    s.setJent w.queue { j with waitTaken := true }
  | .command =>
    let j := s.jent w.queue w.seq
    let s := s.setJent w.queue { j with semTaken := true }
    s.updCmd w.queue w.seq fun c => { c with phase := .done 0 }
  | .instr =>
    match runnerOf s w.queue w.seq with
    | none => s
    | some g =>
      match (s.gc g).blocked with
      | .wait rd => s.effectDone g effWait rd 0
      | _ => s

/-- Serve waiters from the front while the front's n does not exceed the value (R307). -/
def serveWaiters : Nat → State → Nat → State
  | 0, s, _ => s
  | f + 1, s, off =>
    match s.waitersOf off with
    | [] => s
    | w :: ws =>
      if semValue s off < w.n then s
      else
        let s := semPut s off (semValue s off - w.n)
        serveWaiters f (serveOne (s.setWaiters off ws) w) off

def State.serve (s : State) (off : Nat) : State := serveWaiters (s.waitersOf off).length s off

/-- Who signals, as SEM_LAST shows it. -/
structure SigSrc where
  src : Nat
  handle : Nat
  dev : Nat
  seq : Nat
  deriving DecidableEq, Repr

def SigSrc.word (x : SigSrc) : Nat :=
  x.src % 4 + 4 * (x.handle % 4096) + 2 ^ 14 * (x.dev % 8192) + 2 ^ 27 * (x.seq % 2 ^ 32)

/-- A YIELD of a program whose home core's local semaphore is signalled ends (R272). -/
def wakeYields (s : State) (home : Nat) : State :=
  s.gcs.foldl
    (fun s kx =>
      match kx.2.run, kx.2.blocked with
      | some r, .yield _ =>
        if r.home == home then s.gcAdvance kx.1 (kx.2.pc + 4) else s
      | _, _ => s)
    s

/-- Signal by n (R306): saturates with OVF; then the waiters are served. -/
def State.semSignal (s : State) (off n : Nat) (who : SigSrc) : State :=
  let v := semValue s off
  let s := if v + n > semMax off then (semOr s off 48).stick QBLK_ERR_SEM_OVF else s
  let s := semPut s off (min (semMax off) (v + n))
  let s := s.setRegAt (off + 16) (BitVec.ofNat 64 who.word)
  let s := s.serve off
  match semOwnerGc off with
  | some g => wakeYields s g
  | none => s

/-- Join the waiters, and be served at once if the turn and the value allow (R306, R307). -/
def State.semJoin (s : State) (off : Nat) (w : Waiter) : State :=
  (s.setWaiters off (s.waitersOf off ++ [w])).serve off

/-- Try-wait for n: succeeds only with no waiter queued and value ≥ n (R306). -/
def State.semTry (s : State) (off n : Nat) : Option State :=
  if (s.waitersOf off).isEmpty && n ≤ semValue s off then some (semPut s off (semValue s off - n)) else none

/-- Decrement by n: a failing one leaves the value and sets UNDER (R306). The Boolean says whether it succeeded. -/
def State.semDec (s : State) (off n : Nat) : State × Bool :=
  let v := semValue s off
  if n ≤ v then ((semPut s off (v - n)).serve off, true)
  else ((semOr s off 49).stick QBLK_ERR_SEM_UNDER, false)

/-- Set to v, then serve the waiters (R306). -/
def State.semSet (s : State) (off v : Nat) : State := (semPut s off v).serve off

/-- Signal by a command or instruction of this device: a local or far semaphore here, or a far semaphore of another
device by a SIGNAL frame (R308). -/
def State.signalRef (s : State) (r : SemRef) (n : Nat) (who : SigSrc) : State :=
  if r.far && r.dev != s.me then s.request .posted 6 r.dev r.idx 4 (leBytes 4 n)
  else s.semSignal r.off n who

/-! Barriers. -/

def Barrier.init : Barrier := ⟨[], []⟩

def State.bar (s : State) (p i : Nat) : Barrier := lookD s.bars (64 * p + i) Barrier.init

/-- Store a barrier's arrivals, and what BAR_STAT and BAR_MASK show of them. -/
def State.setBar (s : State) (p i : Nat) (b : Barrier) : State :=
  let s := { s with bars := ins s.bars (64 * p + i) b }
  let s := s.set BAR_STAT_ARRIVED b.cur.length p i
  let s := s.set BAR_STAT_AHEAD b.nxt.length p i
  s.setRg BAR_MASK (BitVec.ofNat 64 (b.cur.foldl (fun m a => m ||| 2 ^ a.part) 0)) p i

/-- What a BARRIER command does at its start (R311). -/
inductive Arrive where
  /-- counted, or a repeat of a counted arrival: the generation of its round -/
  | counted (gen : Nat)
  /-- a journaled arrival whose round has completed -/
  | past
  | overrun
  deriving DecidableEq, Repr

/-- The arrivals of the participant decide where it arrives (R311). -/
def arriveAt (b : Barrier) (gen : Nat) (a : Arrival) (journaled : Option Nat) : Arrive × Barrier :=
  let rep (l : List Arrival) := l.any fun x => x.part == a.part && x.queue == a.queue && x.seq == a.seq
  match journaled with
  | some g =>
    if g == gen || g == (gen + 1) % 4 then (.counted g, b) else (.past, b)
  | none =>
    if rep b.cur then (.counted gen, b)
    else if rep b.nxt then (.counted ((gen + 1) % 4), b)
    else if !(b.cur.any fun x => x.part == a.part) then (.counted gen, { b with cur := b.cur ++ [a] })
    else if !(b.nxt.any fun x => x.part == a.part) then (.counted ((gen + 1) % 4), { b with nxt := b.nxt ++ [a] })
    else (.overrun, b)

/-- Complete the current round when all have arrived (R311): GEN advances, the next round's arrivals become current,
and the BARRIER commands of the round that wait for it finish. -/
def barComplete (s : State) (p i : Nat) : State :=
  let b := s.bar p i
  let count := s.get BAR_STAT_COUNT p i
  if count != 0 && b.cur.length == count then
    let s := s.set BAR_STAT_GEN ((s.get BAR_STAT_GEN p i + 1) % 4) p i
    let s := s.setBar p i ⟨b.nxt, []⟩
    b.cur.foldl
      (fun s a => s.updCmd a.queue a.seq fun c =>
        if c.phase == .running && opcOf c.raw.toNat == 4 then { c with phase := .done 0 } else c)
      s
  else s

end Sys2Proof.Machine
end

