-- ==== Sys2Proof/Machine/Queue.lean ====
section
/-! DEFINITION. The life of a command: acceptance (R293 to R295), the head of its queue and its start (R298, R299), its
end, its retirement (R300 to R304), with the counter sets and the trace records of commands (R485, R489, R491). -/

namespace Sys2Proof.Machine

open Sys2Proof

/-! Rings. -/

def qTail (s : State) (q : Nat) : Nat := s.qget QTAB_TAIL_TAIL q
def qHead (s : State) (q : Nat) : Nat := s.qget QTAB_HEAD_HEAD q
def qLog2 (s : State) (q : Nat) : Nat := s.qget QTAB_CFG_LOG2SZ q
def qSize (s : State) (q : Nat) : Nat := 2 ^ qLog2 s q
def qEn (s : State) (q : Nat) : Bool := s.qflag QTAB_CFG_EN q
/-- accepted, unretired entries -/
def qUsed (s : State) (q : Nat) : Nat := (qTail s q + 2 ^ 32 - qHead s q) % 2 ^ 32
def qFree (s : State) (q : Nat) : Nat := qSize s q - qUsed s q

/-- The local address of the ring slot of entry `c` (R293). -/
def slotAddr (s : State) (q c : Nat) : Nat := s.qget QTAB_RING_BASE q * 64 + 64 * (c % qSize s q)

/-- Rings, completion rings and tables named by registers are used untranslated (R331), in main memory or scratch. -/
def plainOk (s : State) (a n : Nat) : Bool :=
  let ok (b : Nat) : Bool := match areaOf b with
    | .main => true
    | .scratch p o => inUser s p o
    | _ => false
  ok a && ok (a + n - 1)

/-- A halted queue: QTAB_STAT.STATE 7. The STATE field keeps 7 while the queue is halted; its other values are
computed when it is read. -/
def qHalted (s : State) (q : Nat) : Bool := s.qget QTAB_STAT_STATE q == 7

/-- Write SEQ c into the ring slots of entries [c, c+n) (R294). -/
def writeSeqs (s : State) (q : Nat) : Nat → Nat → State
  | _, 0 => s
  | c, n + 1 => writeSeqs (s.wrLocal (slotAddr s q c + 8) (leBytes 4 c)).1 q ((c + 1) % 2 ^ 32) n

/-- Writing a SEQ into the slots of entries [c, c+n) meets no error. -/
def seqsOk (s : State) (q : Nat) : Nat → Nat → Bool
  | _, 0 => true
  | c, n + 1 => plainOk s (slotAddr s q c) 64 && !ueRange s (slotAddr s q c) 64 && seqsOk s q ((c + 1) % 2 ^ 32) n

/-- Judge a tail doorbell (R294): the entries up to the new TAIL are accepted, or nothing is and BAD_DB is set. -/
def doorbell (s : State) (q v : Nat) : State :=
  let t := qTail s q
  let m := (v + 2 ^ 32 - t) % 2 ^ 32
  if !qEn s q then s.qset QTAB_STAT_BAD_DB 1 q
  else if m > qFree s q then s.qset QTAB_STAT_BAD_DB 1 q
  else if !seqsOk s q t m then (s.qset QTAB_STAT_BAD_DB 1 q).qset QTAB_STAT_RING_ERR 1 q
  else (writeSeqs s q t m).qset QTAB_TAIL_TAIL v q

/-- Doorbells are held while a warm reset or a committed REST keeps the queues (R425, R454). -/
def queuesHeld (s : State) : Bool :=
  s.fault.warm || (match s.power.rest with | some r => r.phase != .quiescing | none => false)

/-- The device runs commands: no fatal fault, no warm reset, no committed REST (R411, R425, R454). -/
def running (s : State) : Bool := !s.fatal && !queuesHeld s

/-- Begin to wake from a REST state, or note the cause while the device enters one; the lowest cause is recorded (R455).
Each state allows its own sources. -/
def wakeBegin (s : State) (cause thr : Nat) : State :=
  match s.power.rest with
  | none => s
  | some r =>
    let allowed := cause ≤ 2 || (cause == 3 && r.target == 2) || (4 ≤ cause && r.target == 1)
    let note : State := { s with power := { s.power with rest := some (if cause < r.cause then { r with cause := cause, thr := thr } else r) } }
    if !allowed then s
    else
      match r.phase with
      | .entering => note
      | .resting =>
        { s.set PWR_STAT_STATE 5 with power := { s.power with rest := some { r with phase := .waking, cause := cause, thr := thr } } }
      | _ => s

/-- A write of QTAB_TAIL: a doorbell while EN = 1; it sets TAIL while EN = 0. Held doorbells are judged later. -/
def tailWrite (s : State) (q v : Nat) : State :=
  if q ≥ 16384 then s
  else if !qEn s q then s.qset QTAB_TAIL_TAIL v q
  else if queuesHeld s then
    wakeBegin { s with fault := { s.fault with held := s.fault.held ++ [(q, v % 2 ^ 32)] } } 6 0
  else doorbell s q (v % 2 ^ 32)

/-- A read of QTAB_TAIL at configuration offset `o` waits for a doorbell that is held (R374). -/
def tailHeld (s : State) (o : Nat) : Bool :=
  match QTAB_TAIL.find (o / 8 * 8) with
  | some (i, j) => s.fault.held.any fun qv => qv.1 == 1024 * i + j
  | none => false

/-- Answer a read that waited: what QTAB_TAIL shows now. -/
def answerHeld (s : State) (r : HeldRead) : State :=
  let shows (o : Nat) : Nat := (s.regAt (o / 8 * 8) 0).toNat
  match r with
  | .host a o =>
    let d := leBytes a.width (if o % 8 = 0 then shows o else shows o / 2 ^ 32)
    { s with host := { s.host with reply := some d } }
  | .frame f o => answer s f 0xC 0 (leBytes 8 (shows o))

/-- Judge the held doorbells, in order, when the queues resume (R294, R425); then the reads behind them are answered
(R374). -/
def judgeHeld (s : State) : State :=
  let reads := s.fault.heldReads
  let s := s.fault.held.foldl (fun s qv => doorbell s qv.1 qv.2) { s with fault := { s.fault with held := [], heldReads := [] } }
  reads.foldl answerHeld s

/-! Counter sets (R485). -/

/-- The counter set of an opcode at a consumer: pond sets are 16 * pond + set; a transfer engine's four sets are
10000 + 4 * port + slot, the lowest free one. -/
def psetOf (s : State) (c : Consumer) (opc : Nat) : Option Nat :=
  match c with
  | .te p =>
    if opc < 0xC0 || 0xE0 ≤ opc then none
    else
      let inUse := s.queues.flatMap fun kx => kx.2.started.filterMap fun d => d.cset
      ((upto 4).map fun k => 10000 + 4 * p + k).find? fun k => !inUse.contains k
  | .unit h =>
    let p := hPond h
    if opc == 0x08 then some (16 * p + hIndex h)
    else if 0x40 ≤ opc && opc < 0x60 then some (16 * p + 4 + hIndex h)
    else if opc == 0x21 || opc == 0x22 then some (16 * p + 8 + hIndex h)
    else if opc == 0x20 then some (16 * p + 10 + hIndex h)
    else if opc == 0x60 then some (16 * p + 12)
    else if opc == 0x68 || opc == 0x70 || opc == 0x71 then some (16 * p + 13)
    else if 0x80 ≤ opc && opc < 0xA0 then some (16 * p + 14)
    else if 0xA0 ≤ opc && opc < 0xC0 then some (16 * p + 15)
    else none

def PccSet.init : PccSet := ⟨false, false, 0, 0, 0, false, 0, [], [], 0⟩

def State.pccSet (s : State) (k : Nat) : PccSet := lookD s.pcc k PccSet.init

/-- Reset the set at a start: it counts this command alone (R485). -/
def pccStart (s : State) (k : Option Nat) (q seq opc : Nat) (re : Bool) : State :=
  match k with
  | none => s
  | some k =>
    let x := s.pccSet k
    { s with pcc := ins s.pcc k { x with valid := true, closed := false, queue := q, seq := seq, opc := opc, reissued := re,
                                         start := s.stamp, counters := [] } }

/-- The counters of an opcode's engine that the model leaves open (R486): those that measure waiting, retries or the path
of reads, and what a collective's plan sends. -/
def openCounters (opc : Nat) : List Nat :=
  if opc == 0x20 then [3]
  else if opc == 0x21 || opc == 0x22 || opc == 0x60 || (0xA0 ≤ opc && opc < 0xC0) then [6]
  else if opc == 0x68 || opc == 0x70 || opc == 0x71 then [4, 6]
  else if 0x80 ≤ opc && opc < 0xA0 then [2, 6]
  else if opc == 0xC0 then [4, 6]
  else if 0xC1 ≤ opc && opc < 0xE0 then [0, 1, 2, 3, 4, 6]
  else []

/-- The eight counters of a command at its retirement: PCC7 is the time from start to retire (R486). -/
def pccValues (s : State) (c : Cmd) : List Nat :=
  let l := (c.pcc ++ [0, 0, 0, 0, 0, 0, 0]).take 7
  let raw := c.raw.toNat
  let free := if c.cset.isSome then openCounters (opcOf raw) else []
  ((upto 7).map fun i => min 0xFFFFFFFF (if free.contains i then Config.openCount raw c.start i else listGet l i 0))
    ++ [min 0xFFFFFFFF (s.stamp - c.start)]

def pccClose (s : State) (c : Cmd) : State :=
  match c.cset with
  | none => s
  | some k =>
    let x := { s.pccSet k with closed := true, counters := pccValues s c }
    { s with pcc := ins s.pcc k x, pccLast := ins s.pccLast k x }

/-! Trace records of commands (R489, R491). -/

def cmdTraced (s : State) (raw : Nat) : Bool := cf raw 0 11 1 == 1 || s.flag OBS_CFG_ALL_CMD

/-- LAYER_ID and OP_ID are carried by the classes of R489. -/
def carriesIds (opc : Nat) : Bool := opc == 8 || (0x20 ≤ opc && opc < 0xC0)

def traceCmd (s : State) (q : Nat) (c : Cmd) (retire : Bool) (status : Nat) : State :=
  let raw := c.raw.toNat
  if !cmdTraced s raw then s
  else
    let p := pondOfQ s q
    let (src, kind) := match consumerOf s q with | .unit h => (h, 0) | .te t => (t, 1)
    let ids := if carriesIds (opcOf raw) then leBytes 2 (cf raw 0 16 16) ++ leBytes 2 (cf raw 0 32 16) else leBytes 4 0
    let head := leBytes 2 q ++ leBytes 1 (opcOf raw) ++ leBytes 1 (if retire then status else 0) ++ leBytes 4 c.seq ++ ids
    let counted := c.cset.isSome || !(0xC0 ≤ opcOf raw && opcOf raw < 0xE0)
    let flags := b2n c.reissued + 2 * b2n (retire && !counted)
    let pcc := if retire then leBytes 4 0 ++ (pccValues s c).flatMap (leBytes 4) else []
    s.traceRec p (if retire then 2 else 1) flags src kind s.stamp (head ++ pcc) false

/-! Start (R298, R299). -/

/-- The queue's head entry that has not started: its SEQ. -/
def nextSeq (s : State) (q : Nat) : Nat := (qHead s q + (s.q q).started.length) % 2 ^ 32

/-- The consumer can take a command now: not fenced, its pond awake and powered, its context loaded (R412, R413, R452). -/
def consumerReady (s : State) (q : Nat) : Bool :=
  match consumerOf s q with
  | .te _ => true
  | .unit h =>
    let p := s.pond (hPond h)
    !hFenced s h && !p.lull && !p.wakeWait && !s.flag POND_PACE_UV_HELD (hPond h)
      && look s.ctxs h == (s.q q).home

/-- The unit can work: its region is not fenced, held or without power, and the device runs (R35, R411, R412). -/
def unitUp (s : State) (q : Nat) : Bool := running s && consumerReady s q

/-- The pond of a queue's consumer is held: none of its handshakes completes (R35). -/
def heldPond (s : State) (q : Nat) : Bool :=
  match consumerOf s q with
  | .te _ => false
  | .unit h => s.flag POND_PACE_UV_HELD (hPond h)

/-- t, s, CUR, SF and AGREED as a command binds them at its start, and whether a replay is active then (R227, R228,
R254). -/
def stepBinding (s : State) : List Nat :=
  match s.replay with
  | some r => [r.t, r.s, s.get UPD_STEP_CUR, b2n r.skipped, 1, 1]
  | none => [(s.get UPD_OPT_OPT + 1) % 2 ^ 64, s.get LS_STATE_S, s.get UPD_STEP_CUR, s.get UPD_STEP_SF, s.get UPD_STEP_AGREED, 0]

/-- What a command binds when it starts: an update-class command the step's values (R228), a reduction LNF and AGREED
(R393), a VEXEC QNT_CFG (R111). -/
def startBinding (s : State) (opc : Nat) : List Nat :=
  if 0xA0 ≤ opc && opc < 0xC0 then stepBinding s
  else if opc == 0x41 then [s.get QNT_CFG_ESC_EN, s.get QNT_CFG_ESC_THRESH, s.get QNT_CFG_ESC_FROM]
  else if opc == 0xC1 || opc == 0xC2 then [s.get UPD_STEP_LNF, b2n (s.flag UPD_STEP_AGREED || s.replay.isSome)]
  else []

/-- The check-value configuration that a command's unit binds at its start (R378): the one that a transfer or collective
command names, and UPD_CFG.CVU for what a pond's unit writes. -/
def startCvu (s : State) (raw : Nat) : List Nat :=
  let opc := opcOf raw
  (cvCfg s (if opc == 0xC0 then cf raw 16 0 4 else if 0xC0 < opc && opc < 0xE0 then cf raw 19 0 4 else s.get UPD_CFG_CVU)).toList

/-- The consumer's read of a ring slot: a pond's unit reads main memory through the pond cache (R318). -/
def ringRead (s : State) (q seq : Nat) : State :=
  match consumerOf s q with
  | .unit h => demandPlain s (hPond h) (slotAddr s q seq) 64
  | .te _ => directParts s [(slotAddr s q seq, 64)]

/-- Add a started command. -/
def startCmd (s : State) (q : Nat) (raw : BitVec 512) (seq : Nat) (phase : CPhase) (ringErr : Bool) : State :=
  let s := if ringErr then s else ringRead s q seq
  let opc := opcOf raw.toNat
  let j := s.jent q seq
  let cs := if phase == .ready then psetOf s (consumerOf s q) opc else none
  let c : Cmd := ⟨seq, raw, phase, j.reissue, ringErr, [], 0, [], 0, none, [], startBinding s opc, startCvu s raw.toNat, [], s.stamp, [], cs, [], [], none⟩
  let s := s.setJent q j
  let x := s.q q
  let s := s.setQ q { x with started := x.started ++ [c], joined := false }
  let s := pccStart s cs q seq opc j.reissue
  let s := if ringErr then s else traceCmd s q c false 0
  let s := if j.reissue then s.silt' 0x4 (match consumerOf s q with | .unit h => h | .te _ => 0xFFF) q seq [] else s
  match consumerOf s q with
  | .unit h => s.noteEvent (hPond h) (hRegion h)
  | .te _ => s

/-! Engines, and the turns in which they take commands (R54, R151, R154, R209, R226, R258, R299). -/

/-- The engine of a consumer that executes an opcode (R485): scalar and vector sides of a GC, load and compute sides of
an MC, the queue logic and the Sheepdog for the control and management classes (R290, R305), one engine for every other
unit, and one per command for a transfer engine, whose commands interleave (R380). -/
def engineOf (c : Consumer) (opc : Nat) : Nat :=
  match c with
  | .te p => 100000 + p
  | .unit h => 4 * h + (if hKind h == 1 && opc == 0x20 then 1 else if opc == 8 then 2 else if opc < 0x20 || 0xE0 ≤ opc then 3 else 0)

/-- The command accumulates: TSCAT with OP = ADD, or TEXCH with OP = ASEND (R206). -/
def accumulates (raw : Nat) : Bool :=
  (opcOf raw == 0x81 && cf raw 16 0 1 == 1) || (opcOf raw == 0x82 && cf raw 16 0 2 == 2)

/-- The engine has done with a command. A trough runs its commands one at a time (R209), and each ends at its retirement:
what a stage or a merge holds takes effect there (R206, R213). -/
def engineDone (c : Cmd) : Bool :=
  match c.phase with
  | .done _ => !(0x80 ≤ opcOf c.raw.toNat && opcOf c.raw.toNat < 0xA0)
  | _ => false

/-- A command of queue `k` is under way on its engine: it works, or its prepared stage is still to be committed (R206). -/
def underWay (s : State) (k : Nat) (c : Cmd) : Bool :=
  c.phase == .running || (c.phase == .done 0 && c.stage == 3 && accumulates c.raw.toNat && !qHalted s k)

/-- An engine is free for a command of `opc` of queue `q`: it has done with every command that has started there. The
queue logic, the Sheepdog and the transfer engines take several at a time (R299, R305, R380). -/
def engineFree (s : State) (q opc : Nat) : Bool :=
  let con := consumerOf s q
  match con with
  | .te _ => true
  | .unit _ =>
    engineOf con opc % 4 == 3 || !(s.queues.any fun kx => consumerOf s kx.1 == con && kx.2.started.any fun d =>
      engineOf con (opcOf d.raw.toNat) == engineOf con opc
        && (if kx.1 == q then !engineDone d else d.phase == .ready || underWay s kx.1 d))

/-- Where the turns of an opcode are kept: an MC has one rotation for its loads and its computing (R151). -/
def turnKey (c : Consumer) (opc : Nat) : Nat :=
  match c with
  | .te p => 100000 + p
  | .unit h => if hKind h == 1 && opc == 0x20 then 4 * h else engineOf c opc

/-- Queues with TAIL or HEAD moved from its reset value: no other holds an accepted entry. -/
def liveQueues (s : State) : List Nat :=
  s.regs.filterMap fun ox =>
    match QTAB_TAIL.find ox.1 with
    | some (i, j) => some (1024 * i + j)
    | none => (QTAB_HEAD.find ox.1).map fun ij => 1024 * ij.1 + ij.2

/-- Queue `q` has the next turn at the engine `key` of its consumer among the queues whose head could start there:
priority rotates past the queue that was taken last (R54). -/
def hasTurn (s : State) (q key : Nat) (wants : Nat → Bool) : Bool :=
  let last := lookD s.turns key 16383
  let dist (r : Nat) : Nat := (r + 16383 - last) % 16384
  !((liveQueues s).any fun r => dist r < dist q && consumerOf s r == consumerOf s q && wants r)

/-- Some started command is a REST (R453). -/
def restStarted (s : State) : Bool :=
  s.queues.any fun kx => kx.2.started.any fun c => opcOf c.raw.toNat == 0xE0 && c.phase != .done 0x10

/-- A queue's scalar side is free for a GRUN: no other GRUN runs on the core (R258). -/
def scalarFree (s : State) (q : Nat) : Bool :=
  match consumerOf s q with
  | .unit h => (s.gc (hGlobal h)).run.isNone && !(s.queues.any fun kx =>
      consumerOf s kx.1 == .unit h && kx.2.started.any fun c => opcOf c.raw.toNat == 8 && c.phase == .ready)
  | .te _ => false

/-- A barrier command names a barrier that exists and a participant of it (R305). -/
def barrierBad (s : State) (raw : Nat) : Bool :=
  cf raw 16 0 8 > 95 || cf raw 18 0 6 ≥ s.get BAR_STAT_COUNT (cf raw 16 0 8) (cf raw 17 0 6)

/-- Body checks of the control commands that need the queue's semaphore core or a barrier (R305). -/
def controlBad (s : State) (q raw : Nat) : Bool :=
  let ref := cf raw 16 0 64
  let n := cf raw 24 0 32
  let core := s.qget QTAB_CFG_SEMCORE q
  match opcOf raw with
  | 1 => n == 0 || (semRefSig ref n).isNone
  | 2 | 3 => n == 0 || (semRefOwn ref n core s.me).isNone
  | 6 => (semRefOwn ref n core s.me).isNone
  | 4 => barrierBad s raw
  | 5 => cf raw 16 0 8 > 95 || cf raw 18 0 7 == 0 || cf raw 18 0 7 > 64
  | _ => false

/-- The command of queue `q`'s head can be taken by its engine at once (R258, R299). -/
def canTake (s : State) (q raw : Nat) : Bool :=
  if opcOf raw == 8 then scalarFree s q else engineFree s q (opcOf raw)

/-- The head command starts when its engine takes it. -/
def headStart (s : State) (q seq raw : Nat) (wants : Nat → Bool) : State :=
  let rb := BitVec.ofNat 512 raw
  let key := turnKey (consumerOf s q) (opcOf raw)
  if !canTake s q raw || !hasTurn s q key wants then s
  else
    let s : State := { s with turns := ins s.turns key q }
    if !bodyOk raw || controlBad s q raw then startCmd s q rb seq (.done 0x10) false
    else if opcOf raw == 0xE0 && restStarted s then startCmd s q rb seq (.done 0x10) false
    else startCmd s q rb seq .ready false

/-- The header wait of the head command: it joins the semaphore's waiters once (R299, R306). -/
def headWait (s : State) (q seq raw : Nat) : State :=
  let x := s.q q
  if cf raw 8 39 1 == 0 || (s.jent q seq).waitTaken || x.joined then s
  else
    let n := if cf raw 8 48 8 == 0 then 256 else cf raw 8 48 8
    (s.setQ q { x with joined := true }).semJoin
      (semOffLocal (s.qget QTAB_CFG_SEMCORE q) (cf raw 8 32 6)) ⟨.header, q, seq, n⟩

/-- A home has still to acknowledge the ABORT of a stage of the queue (R207). -/
def abortPending (s : State) (q : Nat) : Bool :=
  s.tmsgs.any fun m => m.kind == .abort && m.dev == s.me && m.queue == q

/-- The queue and its consumer let its next command come to its start. -/
def headReady (s : State) (q : Nat) : Bool :=
  let x := s.q q
  running s && q < 16384 && qEn s q && !qHalted s q && x.started.length < qUsed s q && x.started.length < 8
    && !(x.started.any fun c => opcOf c.raw.toNat == 0xE0 && c.phase != .done 0x10) && consumerReady s q
    && !abortPending s q

/-- The head command of queue `r` could start now at the engine `key`. -/
def wantsTurn (s : State) (key r : Nat) : Bool :=
  let seq := nextSeq s r
  let a := slotAddr s r seq
  headReady s r && plainOk s a 64 && !ueRange s a 64
    && (let raw := s.rdN a 64
        headerOk raw (consumerOf s r) && turnKey (consumerOf s r) (opcOf raw) == key
          && !(cf raw 0 9 1 == 1 && !(s.q r).started.isEmpty)
          && (cf raw 8 39 1 == 0 || (s.jent r seq).waitTaken) && canTake s r raw)

/-- The head command of queue `q` starts, or comes nearer to its start (R298, R299). -/
def commandStart (s : State) (q : Nat) : State :=
  let seq := nextSeq s q
  if !headReady s q then s
  else
    let a := slotAddr s q seq
    if !plainOk s a 64 then startCmd s q 0 seq (.done 0x11) true
    else if ueRange s a 64 then startCmd s q 0 seq (.done 0x30) true
    else
      let raw := s.rdN a 64
      if !headerOk raw (consumerOf s q) then startCmd s q (BitVec.ofNat 512 raw) seq (.done 0x10) false
      else if cf raw 0 9 1 == 1 && !(s.q q).started.isEmpty then s
      else
        let s := headWait s q seq raw
        if cf raw 8 39 1 == 1 && !(s.jent q seq).waitTaken then s
        else headStart s q seq raw (wantsTurn s (turnKey (consumerOf s q) (opcOf raw)))

/-! Retirement (R300 to R304). -/

def signals (status : Nat) : Bool := status == 0 || status == 1 || status == 0x20

def VeState.init : VeState := ⟨[], [], []⟩

def State.ve (s : State) (g : Nat) : VeState := lookD s.ves g VeState.init

def State.setVe (s : State) (g : Nat) (x : VeState) : State := { s with ves := ins s.ves g x }

/-- Keep the entries that are not released, and the released ones that a kept later entry still needs for its result
(R416: a rebuild gives the state after the last retirement); the list is newest first, `need` the items read so far. -/
def keepLive : List LogEnt → List Nat → List LogEnt
  | [], _ => []
  | e :: l, need =>
    if !e.covers.isEmpty || e.writes.any need.contains then
      e :: keepLive l (e.reads ++ need.filter fun i => !e.whole.contains i)
    else keepLive l need

/-- Enter a retired command in its unit's rebuild log (R415): items that it writes whole are released from the entries
before it; a 513th unreleased entry drops the oldest and sets RBLD_LOST. -/
def logRetired (s : State) (unit q : Nat) (raw : BitVec 512) (covers whole reads : List Nat) : State :=
  let l := (lookD s.fault.logs unit []).map fun e => { e with covers := e.covers.filter fun i => !whole.contains i }
  let gone := (lookD s.fault.lost unit []).filter fun i => !whole.contains i
  let l := if covers.isEmpty then l else l ++ [⟨q, raw, covers, covers, whole, reads⟩]
  let full := countOf (fun e => !e.covers.isEmpty) l > 512
  let old := if full then l.find? fun e => !e.covers.isEmpty else none
  let l := match old with | some e => l.erase e | none => l
  let gone := match old with | some e => nubN (gone ++ e.covers) | none => gone
  let l := (keepLive l.reverse []).reverse
  let s := { s with fault := { s.fault with logs := ins s.fault.logs unit l, lost := ins s.fault.lost unit gone } }
  if full then (s.stick FLT_STAT_RBLD_LOST).set FLT_STAT_RBLD_UNIT unit else s

/-- Where a table's descriptor lies (R81), untranslated. -/
def tableAddr (s : State) (t : Nat) : Nat := s.get GSV_TDT_BASE_BASE * 64 + 64 * t

/-- Keep the memory copy of a table's live fields current (R81). -/
def syncTable (s : State) (t : Nat) : State :=
  match look s.tables t with
  | none => s
  | some x =>
    let a := tableAddr s t
    let s := (s.wrLocal a (leBytes 8 x.baseCur ++ leBytes 8 x.baseOld ++ leBytes 2 x.verCur ++ leBytes 2 x.verOld)).1
    (s.wrLocal (a + 21) (leBytes 1 (setBits (s.rdN (a + 21) 1) 1 1 (b2n x.oldLive)))).1

/-- A TABLE_SWITCH retires: the old version is live no longer (R89). -/
def tableDrained (s : State) (t : Nat) : State :=
  match look s.tables t with
  | none => s
  | some x => syncTable { s with tables := ins s.tables t { x with oldLive := false } } t

/-- A version moved to old is live no longer once its gathers have drained and no TABLE_SWITCH waits to say so, as
after a DISCARD (R89, R302). -/
def settleTable (s : State) (t : Nat) : State :=
  match look s.tables t with
  | none => s
  | some x =>
    if x.oldLive && x.flightOld == 0 && !(s.queues.any fun kx => kx.2.started.any fun c =>
        opcOf c.raw.toNat == 0x70 && cf c.raw.toNat 16 0 12 == t) then tableDrained s t
    else s

/-- A gather's in-flight count on the version it bound falls when it retires (R88). A version that has moved to old
counts there. -/
def unbindTable (s : State) (t ver : Nat) : State :=
  match look s.tables t with
  | none => s
  | some x =>
    let x := if x.verCur == ver then { x with flightCur := x.flightCur - 1 } else { x with flightOld := x.flightOld - 1 }
    settleTable { s with tables := ins s.tables t x } t

/-- What the retirement of a command, in whatever way, ends: a GATHER's binding, a discarded TABLE_SWITCH's drain. -/
def endBinding (s : State) (raw : Nat) (j : JEnt) : State :=
  let t := cf raw 16 0 12
  if opcOf raw == 0x68 then (match j.bound with | some v => unbindTable s t v | none => s)
  else if opcOf raw == 0x70 then settleTable s t
  else s

def TroughSt.init : TroughSt := ⟨[], [], [], [], 0, 0, 0, false⟩

def State.trough (s : State) (p : Nat) : TroughSt := lookD s.troughs p TroughSt.init

/-- Where a slot and a spill record lie (R195, R196). -/
def slotPa (s : State) (p i : Nat) : Nat := scratchBase p + trgBase s p + 512 * i
def recPa (s : State) (p i : Nat) : Nat := s.get TRG_SPILL_BASE p * 512 + 512 * i

/-- The bytes of a slot or record that the interface gives (R195). -/
def TEntry.bytes (x : TEntry) : List Byte :=
  leBytes 16 x.key ++ (upto 32).flatMap (fun i => leBytes 12 (listGet x.w i 0)) ++ leBytes 2 x.e ++ leBytes 2 (b2n x.nf + 2 * b2n x.tag.isSome)
    ++ leBytes 4 x.count ++ leBytes 8 (x.tag.getD 0)

/-- Keep a trough, its counts in TRG_STAT, and the bytes of the slots and records that changed. -/
def State.setTrough (s : State) (p : Nat) (x : TroughSt) : State :=
  let old := s.trough p
  let put (pa : Nat → Nat) (a b : SMap TEntry) (s : State) : State :=
    let s := b.foldl (fun s ke => if look a ke.1 == some ke.2 then s else (s.wrLocal (pa ke.1) ke.2.bytes).1) s
    a.foldl (fun s ke => if (look b ke.1).isSome then s else (s.wrLocal (pa ke.1) (leBytes 16 0)).1) s
  let s := put (slotPa s p) old.slots x.slots s
  let s := put (recPa s p) old.recs x.recs s
  let tags := nubN ((x.slots.filterMap fun ke => ke.2.tag) ++ (x.recs.filterMap fun ke => ke.2.tag) ++ x.applied.map (·.1))
  let s := (s.set TRG_STAT_LIVE (min 0xFFFF tags.length) p).set TRG_STAT_SLOTS (min 0xFFFF x.slots.length) p
  { s with troughs := ins s.troughs p x }

/-- Free the committed slots and records of keys (R201, R213). -/
def freeKeys (s : State) (p : Nat) (ks : List Nat) : State :=
  let x := s.trough p
  let keep (ke : Nat × TEntry) : Bool := ke.2.tag.isSome || !ks.contains ke.2.key
  s.setTrough p { x with slots := x.slots.filter keep, recs := x.recs.filter keep }

/-- A reduction's statistics enter entry `lg` of the noise table (R394, R395): pending sums of groups of two sizes do not
mix. A NS_CFG.BASE of 0 ignores them. -/
def addStats (s : State) (lg sl sg n : Nat) : State :=
  let base := s.get NS_CFG_BASE * 32
  if base = 0 then s
  else
    let a := base + 32 * lg
    let pn := s.rdN (a + 24) 2
    if pn != 0 && pn != n then (s.wrLocal (a + 26) (leBytes 1 (setBits (s.rdN (a + 26) 1) 1 1 1))).1
    else
      let d := leBytes 4 (fp32.addC (s.rdN a 4) sl) ++ leBytes 4 (fp32.addC (s.rdN (a + 4) 4) sg)
      ((s.wrLocal a d).1.wrLocal (a + 24) (leBytes 2 n)).1

/-- Commit one retire-time effect of command `c` of queue `q`. -/
def commitFx (q : Nat) (c : Cmd) (s : State) : RetFx → State
  | .summary gc i v => s.setRg VE_SUM v gc i
  | .mask gc i v => let x := s.ve gc; s.setVe gc { x with masks := ins x.masks i v }
  | .bytes a d => (s.wrLocal a d).1
  | .tableDone t => tableDrained s t
  | .hotReady => { s with hot := { s.hot with ready := true } }
  | .agree sf => (s.set UPD_STEP_SF (b2n sf)).set UPD_STEP_AGREED 1
  | .stats lg sl sg n => addStats s lg sl sg n
  | .freeKeys p ks => freeKeys s p ks
  | .log u cv wh rd => logRetired s u q c.raw cv wh rd

/-- The completion ring's size; 0: no ring (R304). -/
def cmplN (s : State) (q : Nat) : Nat :=
  let n := s.qget QTAB_CMPL_LOG2N q
  if n = 0 then 0 else 2 ^ (clampN 4 20 n)

/-- A retirement must write a record and the ring is full (R304). -/
def cmplFull (s : State) (q : Nat) : Bool :=
  cmplN s q != 0
    && (s.qget QTAB_CHEAD_CTAIL q + 2 ^ 32 - s.qget QTAB_CHEAD_CHEAD q) % 2 ^ 32 ≥ cmplN s q

/-- The completion record (R303). -/
def cmplRecord (s : State) (q seq status layer op : Nat) : Nat :=
  q % 2 ^ 14 + 2 ^ 14 * (status % 64) + 2 ^ 20 * (seq % 2 ^ 28) + 2 ^ 48 * (layer % 2 ^ 16) + 2 ^ 64 * (op % 2 ^ 16)
    + 2 ^ 80 * s.stamp48

/-- Write a completion record and advance CTAIL; an error loses the record and sets CMPL_ERR (R303). -/
def writeCmpl (s : State) (q seq status layer op : Nat) : State :=
  if cmplN s q = 0 then s
  else
    let t := s.qget QTAB_CHEAD_CTAIL q
    let a := s.qget QTAB_CMPL_BASE q * 16 + 16 * (t % cmplN s q)
    let s := if plainOk s a 16 then
        let r := s.wrLocal a (leBytes 16 (cmplRecord s q seq status layer op))
        if r.2 then s.qset QTAB_STAT_CMPL_ERR 1 q else r.1
      else s.qset QTAB_STAT_CMPL_ERR 1 q
    s.qset QTAB_CHEAD_CTAIL ((t + 1) % 2 ^ 32) q

/-- The command is the tensor's last reader in the step (R322). -/
def lastReader (s : State) (c : Cmd) (tag : Nat) : Bool :=
  let t := tensorAt s (tag / 4096) (tag % 4096)
  (t.lastLayer != 0 || t.lastOp != 0) && t.lastLayer == cf c.raw.toNat 0 16 16 && t.lastOp == cf c.raw.toNat 0 32 16

/-- Tensors' remaining uses at the retirement of a command: those it read fall by 1, and those whose last reader it is
are 0, read or not (R322). -/
def dropUses (s : State) (c : Cmd) : State :=
  { s with rem := s.rem.map fun (kv : Nat × Nat) =>
      (kv.1, if lastReader s c kv.1 then 0 else if c.tensors.contains kv.1 then kv.2 - 1 else kv.2) }

/-! Check logs (R253). -/

/-- A command has a check-log entry: the matrix, vector, sample-and-gather, scatter and update classes, with an OP_ID. -/
def checkLogged (s : State) (raw : Nat) : Bool :=
  s.flag UPD_CFG_CHKLOG && 0x20 ≤ opcOf raw && opcOf raw < 0xC0 && cf raw 0 32 16 != 0

/-- The check value of what a command wrote: over every 64-byte unit, the unit's offset from the lowest address written
and its bytes. -/
def wroteCheck (c : Cmd) : Nat :=
  let cfg := CvCfg.ofList c.cvu
  let lo := c.low.getD 0
  c.wrote.foldl (fun x ud => x ^^^ cv cfg (leBytes 8 ((64 * ud.1 + 2 ^ 64 - lo) % 2 ^ 64) ++ ud.2)) 0

/-- Append an entry to a check log: its bytes where it has room and its address is reached. -/
def clogAppend (s : State) (l : CLog) (d : List Byte) : State × CLog :=
  let l' := { l with n := min (2 ^ 32 - 1) (l.n + 1) }
  if l.n ≥ s.get UPD_CFG_CLOG_MAX then (s.stick UPD_STAT_CLOG_FULL, l')
  else
    match resolve s ⟨l.pond, l.space, l.t, false, 0⟩ (l.addr + 16 * l.n) 16 true with
    | (.ok parts, s) =>
      ((parts.foldl (fun (acc : State × List Byte) r => ((acc.1.wrLocal r.1 (acc.2.take r.2)).1, acc.2.drop r.2)) (s, d)).1, l')
    | (.error _, s) => (s.stick UPD_STAT_CLOG_FULL, l')

/-- The entry of a retiring command, in the step's log or the replay's. -/
def checkLog (s : State) (c : Cmd) : State :=
  let raw := c.raw.toNat
  if c.ringErr || !checkLogged s raw then s
  else
    let d := leBytes 2 (cf raw 0 16 16) ++ leBytes 2 (cf raw 0 32 16) ++ leBytes 4 0 ++ leBytes 8 (wroteCheck c)
    match s.replay, s.clog with
    | some r, _ => let x := clogAppend s r.rlog d; { x.1 with replay := some { r with rlog := x.2 } }
    | none, some l => let x := clogAppend s l d; { x.1 with clog := some x.2 }
    | none, none => s

/-- A YIELD ends when a command of its home core's vector engine retires (R272). -/
def engineYields (s : State) (q opc : Nat) : State :=
  match consumerOf s q with
  | .unit h => if hKind h == 0 && 0x40 ≤ opc && opc < 0x60 then wakeYields s (hGlobal (homeOfQ s q)) else s
  | .te _ => s

/-- The retirement step of the oldest started command `c` of queue `q` with `status` (R300 to R304): the retire-time
effects when the status signals; HEAD and LAST_SEQ; SSEM; the completion record, the interrupt and the halt. `extra`
is the effect of a command that acts at retire. -/
def retireStep (s : State) (q : Nat) (c : Cmd) (status : Nat) (extra : State → State) : State :=
  let raw := c.raw.toNat
  let status := if status == 0 && c.reissued then 1 else status
  let ok := signals status
  let s := checkLog s c
  let s := if ok then extra (c.fx.foldl (commitFx q c) s) else s
  -- the journal
  let s := s.qset QTAB_HEAD_HEAD ((qHead s q + 1) % 2 ^ 32) q
  let s := s.qset QTAB_HEAD_LAST_SEQ c.seq q
  let x := s.q q
  let j := s.jent q c.seq
  let s := s.setQ q { x with started := x.started.drop 1, journal := x.journal.filter fun j => j.seq != c.seq }
  let s := endBinding s raw j
  let s := dropUses s c
  let s := pccClose s c
  let s := if c.ringErr then s else traceCmd s q c true status
  let s := match consumerOf s q with
    | .unit h => (s.bump OBS_RET_COUNT 1 (hPond h)).noteEvent (hPond h) (hRegion h)
    | .te _ => s
  -- the signal
  let (src, h) := match consumerOf s q with | .unit h => (0, h) | .te t => (1, t)
  let s := if ok && !c.ringErr && cf raw 8 47 1 == 1 then
      s.semSignal (semOffLocal (s.qget QTAB_CFG_SEMCORE q) (cf raw 8 40 6)) 1 ⟨src, h, s.me, c.seq⟩
    else s
  let s := engineYields s q (opcOf raw)
  -- the completion record and the halt
  let halts := !ok
  let s := if halts || (!c.ringErr && cf raw 0 8 1 == 1) then
      writeCmpl s q c.seq status (if c.ringErr then 0 else cf raw 0 16 16) (if c.ringErr then 0 else cf raw 0 32 16)
    else s
  let s := s.qset QTAB_STAT_CWAIT 0 q
  let s := if (!c.ringErr && cf raw 0 10 1 == 1) || (halts && s.qflag QTAB_CFG_IRQ_ERR q) then
      s.raiseIrq (s.qget QTAB_CFG_VECTOR q)
    else s
  let s := if halts then
      ((s.qset QTAB_STAT_STATE 7 q).qset QTAB_STAT_HALT_STATUS status q).qset QTAB_STAT_HALT_SEQ c.seq q
    else s
  if c.ringErr then s.qset QTAB_STAT_RING_ERR 1 q else s

/-- The oldest command's retirement must wait for completion-ring space (R304). -/
def mustRecord (c : Cmd) (status : Nat) : Bool := !signals status || cf c.raw.toNat 0 8 1 == 1

/-- Retire the oldest started command with `status` and `extra`, or wait with CWAIT. A halted queue retires nothing
until RESUME or DISCARD (R302, R313). -/
def retireOldest (s : State) (q : Nat) (c : Cmd) (status : Nat) (extra : State → State) : State :=
  if mustRecord c status && cmplFull s q then s.qset QTAB_STAT_CWAIT 1 q
  else retireStep s q c status extra

/-- The oldest started command of `q`, when the queue may retire (R35, R300, R302). -/
def oldest (s : State) (q : Nat) : Option Cmd :=
  if !running s || heldPond s q || qHalted s q then none else (s.q q).started.head?

/-- A control command that acts at retire and is the oldest, ready one of its queue (R305). -/
def atRetire (s : State) (q opc : Nat) : Option Cmd :=
  match oldest s q with
  | some c => if c.phase == .ready && opcOf c.raw.toNat == opc then some c else none
  | none => none

/-- Apply a control command that acts at retire: `act` gives its status and its effect, judged in the retirement
step. -/
def controlRetire (s : State) (q opc : Nat) (act : State → Cmd → Nat × (State → State)) : State :=
  match atRetire s q opc with
  | none => s
  | some c =>
    let r := act s c
    retireOldest s q c r.1 r.2

/-! DISCARD (R302): every accepted, unretired entry retires without effect with status 0x3F and a completion record. -/

/-- Take the waiters of a queue's started and head commands out of every semaphore. A waiter that then stands in front
is served if the value allows (R306, R307). -/
def dropWaiters (s : State) (q : Nat) : State :=
  s.waiters.foldl
    (fun s kx =>
      if kx.2.any fun w => w.queue == q then (s.setWaiters kx.1 ((s.waitersOf kx.1).filter fun w => w.queue != q)).serve kx.1
      else s)
    s

/-- The tag of a command's stage (R205). -/
def stageTag (dev q seq : Nat) : Nat := dev + 2 ^ 13 * q + 2 ^ 27 * seq

/-- The homes that an accumulating command has reached, with the contributions each took: `aux` holds
(128 × device + pond) × 2^32 + count. -/
def homesOf (c : Cmd) : List (Nat × Nat × Nat) := c.aux.map fun a => (a / 2 ^ 39, a / 2 ^ 32 % 128, a % 2 ^ 32)

/-- A message of a command's source trough to a home. -/
def stageMsg (s : State) (q : Nat) (c : Cmd) (kind : TroughKind) (h : Nat × Nat × Nat) : TroughMsg :=
  ⟨kind, false, s.me, hPond (homeOfQ s q), h.1, h.2.1, s.me, q, c.seq, 0, 0, false, [], h.2.2, false⟩

/-- Take a command's contributions and requests that are still on their way out of the fabric, and abort its stage at
every home it may have reached (R207). An ABORT to pond 127 of a device is for every home there. -/
def abortStage (s : State) (q : Nat) (c : Cmd) : State × Nat :=
  let mine (m : TroughMsg) : Bool := m.dev == s.me && m.queue == q && m.seq == c.seq
  let owners := nubN ((s.tmsgs.filter fun m => mine m && m.dstDev != s.me).map (·.dstDev))
  let gone := { s with tmsgs := s.tmsgs.filter fun m => !mine m }
  if !accumulates c.raw.toNat then (gone, 0)
  else
    let l := (homesOf c).map (stageMsg s q c .abort) ++ owners.map fun d => stageMsg s q c .abort (d, 127, 0)
    ({ gone with tmsgs := gone.tmsgs ++ l }, l.length)

def discardOne (s : State) (q : Nat) : State :=
  let x := s.q q
  let seq := qHead s q
  let s := match x.started.head? with
    | some c =>
      let s := if 0x81 ≤ opcOf c.raw.toNat && opcOf c.raw.toNat ≤ 0x82 then (abortStage s q c).1 else s
      let s := pccClose s c
      if c.ringErr then s else traceCmd s q c true 0x3F
    | none => s
  let a := slotAddr s q seq
  let raw := if plainOk s a 64 && !ueRange s a 64 then s.rdN a 64 else 0
  -- a GRUN still running is stopped
  let s := match runnerOf s q seq with
    | some g => ((s.setGc g { s.gc g with run := none, blocked := .no }).set GC_STAT_RUNNING 0 g).set GC_STAT_BLOCKED 0 g
    | none => s
  let s := s.qset QTAB_HEAD_HEAD ((seq + 1) % 2 ^ 32) q
  let s := s.qset QTAB_HEAD_LAST_SEQ seq q
  let j := s.jent q seq
  let s := s.setQ q { x with started := x.started.drop 1, journal := x.journal.filter (fun j => j.seq != seq), joined := false }
  let s := engineYields (endBinding s raw j) q (opcOf raw)
  let s := match consumerOf s q with
    | .unit h => s.bump OBS_RET_COUNT 1 (hPond h)
    | .te _ => s
  let s := writeCmpl s q seq 0x3F (cf raw 0 16 16) (cf raw 0 32 16)
  if cf raw 0 10 1 == 1 then s.raiseIrq (s.qget QTAB_CFG_VECTOR q) else s

/-- Discard entries while the completion ring takes their records; then the queue resumes. -/
def discardLoop : Nat → State → Nat → State
  | 0, s, _ => s
  | f + 1, s, q =>
    if qUsed s q = 0 then
      (s.setQ q { s.q q with discarding := false }).qset QTAB_STAT_STATE 0 q
    else if cmplFull s q then
      (s.setQ q { s.q q with discarding := true }).qset QTAB_STAT_CWAIT 1 q
    else discardLoop f ((discardOne s q).qset QTAB_STAT_CWAIT 0 q) q

def discard (s : State) (q : Nat) : State := discardLoop (qUsed s q + 1) (dropWaiters s q) q

/-! Control commands and queue registers. -/

/-- QTAB_CTRL on a halted queue (R302). -/
def resumeQueue (s : State) (q : Nat) : State :=
  if qHalted s q && !(s.q q).discarding then s.qset QTAB_STAT_STATE 0 q else s

def discardQueue (s : State) (q : Nat) : State := if qHalted s q then discard s q else s

/-- CHEAD advances; a DISCARD that waited for space goes on (R304). -/
def cheadWrite (s : State) (q v : Nat) : State :=
  let s := s.qset QTAB_CHEAD_CHEAD v q
  if (s.q q).discarding then discard s q else s

/-- A write of QTAB_CFG is refused by R292 or by the range of LOG2SZ (R20). -/
def qcfgBad (v : Nat) : Bool :=
  let te := v.testBit 1
  let cons := bits v 2 12
  let core := bits v 14 12
  let k := bits v 26 5
  (if te then cons ≥ 16 || cons % 16 > 11 else !hValid cons) || !hValid core || hKind core == 2 || k < 4 || k > 20

/-- A write of QTAB_CFG (R289, R292, R294): refused, locked, or taken; setting EN accepts the entries counted by TAIL. -/
def qcfgWrite (s : State) (q v : Nat) : State :=
  if q ≥ 16384 then s
  else
    let old := (s.rg QTAB_CFG (qtI q) (qtJ q)).toNat
    let v := v % 2 ^ 43
    let en := v.testBit 0
    let others := v / 2 != old / 2
    if qcfgBad v then s.stick QBLK_ERR_DESC
    else if (others && (old.testBit 0 || qTail s q != qHead s q)) || (old.testBit 0 && !en && qTail s q != qHead s q) then
      s.qset QTAB_STAT_CFG_LOCK 1 q
    else
      let s := s.setRg QTAB_CFG (BitVec.ofNat 64 v) (qtI q) (qtJ q)
      let s := if others then s.setQ q { s.q q with home := none } else s
      if en && !old.testBit 0 then writeSeqs s q (qHead s q) (qUsed s q) else s

end Sys2Proof.Machine
end

