-- ==== Sys2Proof/Machine/Control.lean ====
section
/-! DEFINITION. The commands of queues and of synchronisation (chapter 10): doorbells, queue registers, starts, and the
control class of R305. -/

namespace Sys2Proof.Machine

open Sys2Proof

/-- TAIL_DOORBELL (R294). -/
def execTailDoorbell (q value : Nat) (s : State) : Res := .next (tailWrite s q value)

/-- QTAB_CFG_WRITE (R289, R292, R294). -/
def execQtabCfgWrite (q value : Nat) (s : State) : Res := .next (qcfgWrite s q value)

/-- RESUME (R302). -/
def execResume (q : Nat) (s : State) : Res := .next (if q < 16384 then resumeQueue s q else s)

/-- DISCARD (R302). -/
def execDiscard (q : Nat) (s : State) : Res := .next (if q < 16384 then discardQueue s q else s)

/-- QTAB_CHEAD_WRITE (R304). -/
def execQtabCheadWrite (q value : Nat) (s : State) : Res :=
  .next (if q < 16384 then cheadWrite s q (value % 2 ^ 32) else s)

/-! Control commands that act at retire. -/

/-- Who signals for a command of queue `q` (SEM_LAST). -/
def cmdSrc (s : State) (q seq : Nat) : SigSrc :=
  match consumerOf s q with
  | .unit h => ⟨0, h, s.me, seq⟩
  | .te t => ⟨1, t, s.me, seq⟩

/-- SIGNAL's effect. -/
def signalAct (q : Nat) (_ : State) (c : Cmd) : Nat × (State → State) :=
  let raw := c.raw.toNat
  match semRef (cf raw 16 0 64) with
  | some r => (0, fun s => s.signalRef r (cf raw 24 0 32) (cmdSrc s q c.seq))
  | none => (0x10, id)

/-- DECSEM's effect, judged against the value at that instant. A failing decrement still sets UNDER. -/
def decsemAct (s : State) (c : Cmd) : Nat × (State → State) :=
  let raw := c.raw.toNat
  match semRef (cf raw 16 0 64) with
  | some r => if cf raw 24 0 32 ≤ semValue s r.off then (0, fun s => (s.semDec r.off (cf raw 24 0 32)).1) else (0x12, id)
  | none => (0x10, id)

/-- SEMSET's effect. -/
def semsetAct (_ : State) (c : Cmd) : Nat × (State → State) :=
  let raw := c.raw.toNat
  match semRef (cf raw 16 0 64) with
  | some r => (0, fun s => s.semSet r.off (cf raw 24 0 32))
  | none => (0x10, id)

/-- BAR_INIT's effect: refused with arrivals pending in either round. -/
def barInitAct (s : State) (c : Cmd) : Nat × (State → State) :=
  let raw := c.raw.toNat
  let p := cf raw 16 0 8
  let i := cf raw 17 0 6
  let b := s.bar p i
  if b.cur.isEmpty && b.nxt.isEmpty then (0, fun s => s.set BAR_STAT_COUNT (cf raw 18 0 7) p i) else (0x10, id)

/-- NOP (R305): retires. -/
def execNop (q : Nat) (s : State) : Res := .next (controlRetire s q 0 fun _ _ => (0, id))

/-- SIGNAL (R305, R306, R308). -/
def execSignal (q : Nat) (s : State) : Res := .next (controlRetire s q 1 (signalAct q))

/-- DECSEM (R305, R306). -/
def execDecsem (q : Nat) (s : State) : Res :=
  .next (
    let t := controlRetire s q 3 decsemAct
    match atRetire s q 3 with
    | some c =>
      match semRef (cf c.raw.toNat 16 0 64) with
      | some r => if (decsemAct s c).1 = 0x12 ∧ (atRetire t q 3).isNone then (semOr t r.off 49).stick QBLK_ERR_SEM_UNDER else t
      | none => t
    | none => t)

/-- SEMSET (R305, R306). -/
def execSemset (q : Nat) (s : State) : Res := .next (controlRetire s q 6 semsetAct)

/-- BAR_INIT (R305, R310). -/
def execBarInit (q : Nat) (s : State) : Res := .next (controlRetire s q 5 barInitAct)

/-! Control commands that act at their start. -/

/-- The first started, ready command of `q` with this opcode. -/
def readyCmd (s : State) (q opc : Nat) : Option Cmd :=
  if !unitUp s q then none
  else (s.q q).started.find? fun c => c.phase == .ready && opcOf c.raw.toNat == opc

/-- WAITSEM (R305, R306): it joins the waiters once; a recorded wait is not taken again (R301). -/
def execWaitsem (q : Nat) (s : State) : Res :=
  .next (
    match readyCmd s q 2 with
    | none => s
    | some c =>
      if (s.jent q c.seq).semTaken then s.updCmd q c.seq fun c => { c with phase := .done 0 }
      else
        match semRef (cf c.raw.toNat 16 0 64) with
        | none => s
        | some r =>
          (s.updCmd q c.seq fun c => { c with phase := .running }).semJoin r.off
            ⟨.command, q, c.seq, cf c.raw.toNat 24 0 32⟩)

/-- A BARRIER's arrival, and the round's completion (R311). -/
def barrierArrive (s : State) (q : Nat) (c : Cmd) : State :=
  let raw := c.raw.toNat
  let p := cf raw 16 0 8
  let i := cf raw 17 0 6
  let gen := s.get BAR_STAT_GEN p i
  let j := s.jent q c.seq
  let (a, b) := arriveAt (s.bar p i) gen ⟨cf raw 18 0 6, q, c.seq⟩ j.arrival
  let done (st : Nat) (s : State) := s.updCmd q c.seq fun c => { c with phase := .done st }
  match a with
  | .overrun => done 0x13 (s.stick BAR_STAT_OVR p i)
  | .past => done 0 s
  | .counted g =>
    let s := (s.setBar p i b).setJent q { j with arrival := some g }
    let s := if cf raw 18 7 1 == 1 then done 0 s else s.updCmd q c.seq fun c => { c with phase := .running }
    barComplete s p i

/-- BARRIER (R311). -/
def execBarrier (q : Nat) (s : State) : Res :=
  .next (match readyCmd s q 4 with | none => s | some c => barrierArrive s q c)

/-! Register writes of semaphores. -/

/-- A write of VALUE of the SEM_VAL register at `off` (R306): set, or refused with SEM_RANGE. -/
def semValWrite (s : State) (off v : Nat) : State :=
  if v > semMax off then s.stick QBLK_ERR_SEM_RANGE else s.semSet off v

/-- The offset is that of a SEM_VAL register. -/
def isSemVal (off : Nat) : Bool := (SEM_VAL.find off).isSome || (FSEM_VAL.find off).isSome

def execSemValWrite (off value : Nat) (s : State) : Res :=
  .next (if isSemVal off then semValWrite s off (value % 2 ^ 32) else s)

/-- FSEM_SIG_WRITE (R308): the host signals far semaphore n. -/
def fsemSigWrite (s : State) (n amount : Nat) : State :=
  if amount % 2 ^ 32 = 0 then s else s.semSignal (semOffFar n) (amount % 2 ^ 32) ⟨2, 0, s.me, 0⟩

def execFsemSigWrite (n amount : Nat) (s : State) : Res := .next (if n < 256 then fsemSigWrite s n amount else s)

end Sys2Proof.Machine
end

