-- ==== Sys2Proof/Machine/Engine.lean ====
section
/-! DEFINITION. How a unit runs a command: its checked loads and stores of job memory (R331, R341, R342, R522, R525),
data of other devices and of the host (R355, R373), its counters, its waits and its end. -/

namespace Sys2Proof.Machine

open Sys2Proof

/-- Why a command stops before its end. -/
inductive Stop where
  /-- it ends with a status -/
  | status (n : Nat)
  /-- it waits for answers, and its unit runs it again with them -/
  | wait (asks : List Ask)
  /-- it waits for something else; the state to go on from -/
  | hold (s : State)

/-- What a unit works on. `bad`: some write met an uncorrectable error (R342, R421). -/
structure Eng where
  s : State
  cmd : Cmd
  ctx : Ctx
  bad : Bool

abbrev EM := ExceptT Stop (StateM Eng)

def emStop {α : Type} (n : Nat) : EM α := throw (.status n)

/-- Stop with a status unless the condition holds. -/
def need (b : Bool) (n : Nat) : EM Unit := if b then pure () else emStop n

def gets {α : Type} (f : State → α) : EM α := do return f (← get).s

def onS (f : State → State) : EM Unit := modify fun e => { e with s := f e.s }

def onC (f : Cmd → Cmd) : EM Unit := modify fun e => { e with cmd := f e.cmd }

/-- Run a state-and-value step. -/
def stepS {α : Type} (f : State → α × State) : EM α := do
  let e ← get
  let r := f e.s
  set { e with s := r.2 }
  return r.1

/-- Body and header fields of the command. -/
def fld (byte lo w : Nat) : EM Nat := do return cf (← get).cmd.raw.toNat byte lo w

/-- Add to counter `i` (R486). -/
def countC (i n : Nat) : EM Unit := onC fun c => c.count i n

/-- Note tensors that a command read, at most 8 (R322). -/
def Cmd.noteTags (c : Cmd) (l : List Nat) : Cmd :=
  { c with tensors := l.foldl (fun k t => if k.contains t || k.length ≥ 8 then k else k ++ [t]) c.tensors }

def noteTensors (l : List Nat) : EM Unit := onC (·.noteTags l)

/-- An access failure, as a command sees it (R332, R341, R522, R525). -/
def accStop {α : Type} (wr : Bool) : AccErr → EM α
  | .refused => emStop 0x11
  | .unassigned a => do onS (·.devErr DEV_ERR_UNASSIGNED a wr); emStop 0x11
  | .config a => do onS (·.devErr DEV_ERR_OPERAND a wr); emStop 0x11
  | .hostWin a => do onS (·.devErr DEV_ERR_UNASSIGNED a wr); emStop 0x11
  | .ue _ => emStop 0x30

/-- A scratch access of a lulled pond wakes it (R452). -/
def wakePond (s : State) (p : Nat) : State :=
  let x := s.pond p
  if x.lull then s.setPond p { x with lull := false, wakeWait := true } else s

def touch (s : State) (pa : Nat) : State :=
  match areaOf pa with
  | .scratch p _ => wakePond s p
  | _ => s

/-- Data of the host window: one answer per address and length. -/
def hostKey (a n : Nat) : Nat := 2 ^ 60 * (a + 1) + n

/-- The local ranges of an access, or the host-window address it names on the bellwether. -/
def place (a n : Nat) (wr : Bool) : EM (List (Nat × Nat) ⊕ Nat) := do
  let e ← get
  let (r, s) := resolve e.s e.ctx a n wr
  set { e with s := s }
  match r with
  | .ok parts => return .inl parts
  | .error (.hostWin h) => if hostOpen s then return .inr h else if s.isBell then emStop 0x11 else accStop wr (.hostWin h)
  | .error er => accStop wr er

/-- An operand that the command's table places in scratch or main memory does not lie in the host window (R9). -/
def notHost (a : Nat) : EM Unit := do
  let e ← get
  let (r, s) := resolve e.s e.ctx a 1 false
  set { e with s := s }
  match r with
  | .error (.hostWin _) => emStop 0x10
  | _ => pure ()

/-- Load `n` bytes at job address `a`: a unit of a pond reads main memory through the pond cache, a transfer engine at the
controllers (R318). -/
def ld (a n : Nat) : EM (List Byte) := do
  if n = 0 then return []
  match ← place a n false with
  | .inr h =>
    let key := hostKey h n
    match look (← get).cmd.buf key with
    | some d => return d
    | none => throw (.wait [.host key h n])
  | .inl parts =>
    let e ← get
    if parts.any fun p => ueRange e.s p.1 p.2 then emStop 0x30
    let s := parts.foldl (fun s p => touch s p.1) e.s
    let (tags, s) := match consumerOf s e.ctx.queue with
      | .unit _ => demandParts s e.ctx a parts
      | .te _ => ([], directParts s parts)
    set { e with s := s }
    noteTensors tags
    return parts.flatMap fun p => s.rdBytes p.1 p.2

/-- Load a little-endian number. -/
def ldN (a n : Nat) : EM Nat := do return leNat (← ld a n)

/-- Load at an untranslated local address, as units do with the addresses that registers name (R331). -/
def ldLocal (a n : Nat) : EM (List Byte) := do
  let e ← get
  set { e with ctx := { e.ctx with t := false } }
  let d ← ld a n
  modify fun e' => { e' with ctx := e.ctx }
  return d

def ldLocalN (a n : Nat) : EM Nat := do return leNat (← ldLocal a n)

/-- Store bytes at the local ranges of an access. -/
def putParts : List (Nat × Nat) → List Byte → EM Unit
  | [], _ => pure ()
  | (pa, n) :: ps, d => do
    modify fun e =>
      let r := (touch e.s pa).wrLocal pa (d.take n)
      { e with s := r.1, bad := e.bad || r.2 }
    putParts ps (d.drop n)

/-- A posted host-window write of this device's own command (R373). -/
def hostStore (h : Nat) (d : List Byte) : EM Unit :=
  modify fun e =>
    { e with s := e.s.hostReq (.cmd e.ctx.queue e.cmd.seq 0) true h d.length d none
             cmd := { e.cmd with waits := e.cmd.waits + 1 } }

/-- The 64-byte unit at `pa` with the bytes of a write of `d` at `base` in it. -/
def unitWith (s : State) (pa base : Nat) (d : List Byte) : List Byte :=
  (upto 64).map fun i => if base ≤ pa + i then (d[pa + i - base]?).getD (s.rd8 (pa + i)) else s.rd8 (pa + i)

/-- Note the 64-byte units that a write of `d` at job address `a`, reaching `parts`, touches (R253). -/
def noteWrite (a : Nat) : List (Nat × Nat) → List Byte → EM Unit
  | [], _ => pure ()
  | (pa, n) :: ps, d => do
    modify fun e =>
      if !checkLogged e.s e.cmd.raw.toNat then e
      else
        let units := upto ((pa % 64 + n + 63) / 64)
        let w := units.foldl
          (fun m k => ins m (a / 64 + k) (unitWith e.s (pa / 64 * 64 + 64 * k) pa (d.take n))) e.cmd.wrote
        { e with cmd := { e.cmd with wrote := w, low := some (min a (e.cmd.low.getD a)) } }
    noteWrite (a + n) ps (d.drop n)

/-- Note the units of a write of `d` at job address `a` that lies in the host window. Bytes of a unit that the command
has not written are the host's and free (R253, log 150). -/
def noteHost (a : Nat) (d : List Byte) : EM Unit :=
  modify fun e =>
    if !checkLogged e.s e.cmd.raw.toNat then e
    else
      let unit (m : SMap (List Byte)) (u : Nat) : List Byte :=
        (upto 64).map fun i =>
          let x := 64 * u + i
          if a ≤ x ∧ x < a + d.length then listGet d (x - a) 0
          else (match look m u with | some o => listGet o i 0 | none => Config.hostByte x)
      let w := (upto ((a % 64 + d.length + 63) / 64)).foldl (fun m k => ins m (a / 64 + k) (unit m (a / 64 + k))) e.cmd.wrote
      { e with cmd := { e.cmd with wrote := w, low := some (min a (e.cmd.low.getD a)) } }

/-- While a replay is active, update-class commands, TMERGE and TABLE_SWITCH write only in the side area (R254). -/
def sideOk (a n : Nat) : EM Unit := do
  let e ← get
  match e.s.replay with
  | none => pure ()
  | some r =>
    let opc := opcOf e.cmd.raw.toNat
    let held := (0xA0 ≤ opc && opc < 0xC0) || opc == 0x83 || opc == 0x70
    need (!held || (r.side ≤ a && a + n ≤ r.side + r.sideSize)) 0x10

/-- Store bytes at job address `a`. -/
def st (a : Nat) (d : List Byte) : EM Unit := do
  if d.isEmpty then return ()
  sideOk a d.length
  match ← place a d.length true with
  | .inr h => do
    noteHost a d
    hostStore h d
  | .inl parts => do
    noteWrite a parts d
    putParts parts d

/-- Check that a store of `n` bytes at `a` would be allowed. -/
def canStore (a n : Nat) : EM Unit := do
  if n = 0 then return ()
  let _ ← place a n true
  return ()

def stN (a n v : Nat) : EM Unit := st a (leBytes n v)

/-- Store at an untranslated local address. -/
def stLocal (a : Nat) (d : List Byte) : EM Unit := do
  if d.isEmpty then return ()
  let e ← get
  set { e with ctx := { e.ctx with t := false } }
  let r ← place a d.length true
  match r with
  | .inr h => do
    noteHost a d
    hostStore h d
  | .inl parts => do
    noteWrite a parts d
    putParts parts d
  modify fun e' => { e' with ctx := e.ctx }

/-- An exact window converted back has NF: WIN_NF and the step's LNF, which a replay leaves as it is (R120, R245, R254). -/
def noteNF (s : State) : State :=
  let s := s.stick NUM_STAT_WIN_NF
  if s.replay.isSome then s else s.stick UPD_STEP_LNF

/-! Other devices (R355, R360, R523). -/

/-- Chunks of at most 512 bytes. -/
def chunks (a n : Nat) : List (Nat × Nat) :=
  (upto ((n + 511) / 512)).map fun k => (a + 512 * k, min 512 (n - 512 * k))

def remoteKey (key k : Nat) : Nat := 2 ^ 24 * key + k

/-- Data of another device: `key` names this read among the command's. -/
def rdRemote? (c : Cmd) (key addr n : Nat) : Option (List Byte) :=
  let parts := (upto (chunks addr n).length).map fun k => look c.buf (remoteKey key k)
  if parts.all (·.isSome) then some (parts.flatMap (·.getD [])) else none

/-- What is still to be asked for. -/
def asksFor (c : Cmd) (key dev addr n : Nat) : List Ask :=
  ((chunks addr n).zipIdx).filterMap fun ck =>
    if (look c.buf (remoteKey key ck.2)).isSome then none else some (.remote (remoteKey key ck.2) dev ck.1.1 ck.1.2)

/-- Wait unless every asked-for part is there. -/
def needAll (asks : List Ask) : EM Unit := if asks.isEmpty then pure () else throw (.wait asks)

def rdRemote (key dev addr n : Nat) : EM (List Byte) := do
  let c := (← get).cmd
  match rdRemote? c key addr n with
  | some d => return d
  | none => throw (.wait (asksFor c key dev addr n))

/-- Write to another device: WRITE frames of at most 512 bytes; the command ends when all are acknowledged. -/
def wrRemote (dev addr : Nat) (d : List Byte) : EM Unit :=
  (chunks addr d.length).forM fun c =>
    modify fun e =>
      { e with
        s := e.s.request (.cmd e.ctx.queue e.cmd.seq 0) 4 dev c.1 c.2 ((d.drop (c.1 - addr)).take c.2)
        cmd := { e.cmd with waits := e.cmd.waits + 1 } }

/-- A read at a fabric address: the local part of this device's own is a job address, another device's is used there as
it stands (R331, R523). -/
def ldFab (key fa n : Nat) : EM (List Byte) := do
  let me ← gets State.me
  if fa / 2 ^ 43 = me then ld (fa % 2 ^ 43) n else rdRemote key (fa / 2 ^ 43) (fa % 2 ^ 43) n

def stFab (fa : Nat) (d : List Byte) : EM Unit := do
  let me ← gets State.me
  if fa / 2 ^ 43 = me then st (fa % 2 ^ 43) d else wrRemote (fa / 2 ^ 43) (fa % 2 ^ 43) d

/-! Engines. -/

/-- The command of opcode `opc` in queue `q` that its engine takes next: started and ready, every earlier command of
its queue on the same engine finished, and no command of another queue under way on the engine. -/
def unitCmd (s : State) (q opc : Nat) : Option Cmd :=
  if !unitUp s q then none
  else
    let con := consumerOf s q
    let e := engineOf con opc
    let l := (s.q q).started
    match l.find? fun c => c.phase == .ready && opcOf c.raw.toNat == opc with
    | none => none
    | some c =>
      let blocked : Bool := match con with
        | .te _ => false
        | .unit _ =>
          (l.takeWhile fun d => d.seq != c.seq).any (fun d => !engineDone d && engineOf con (opcOf d.raw.toNat) == e)
          || s.queues.any fun kx => kx.1 != q && consumerOf s kx.1 == con && kx.2.started.any fun d =>
              underWay s kx.1 d && engineOf con (opcOf d.raw.toNat) == e
      if blocked then none else some c

/-- Send one thing that a command asks for. -/
def sendAsk (s : State) (q seq : Nat) (a : Ask) : State :=
  match a with
  | .remote key dev addr n => s.request (.cmd q seq key) 5 dev addr n []
  | .sample key dev req =>
    let id := s.sampNext
    let s := { s with samps := s.samps ++ [SampReq.mk id q seq key dev 0 []], sampNext := id + 1 }
    s.request (.sampling id) 7 dev 0 (req.length + 4) (req ++ leBytes 4 id)
  | .host key addr n => s.hostReq (.cmd q seq key) false addr n [] none

/-- A unit may have one more request outstanding: a sampler GSV_REMOTE.OUTST sampling requests (R78), a gather unit one
segment for each of its 512 tags (R84). -/
def askRoom (s : State) (q opc : Nat) (a : Ask) : Bool :=
  let con := consumerOf s q
  match a with
  | .sample _ _ _ => (countOf (fun x : SampReq => consumerOf s x.queue == con) s.samps) < s.get GSV_REMOTE_OUTST
  | .remote _ _ _ _ =>
    opc != 0x68 || (countOf (fun o : Outstanding => match o.who with
      | .cmd k _ _ => o.frame.type == 5 && consumerOf s k == con
      | _ => false) s.link.outst) < 512
  | .host _ _ _ => true

/-- Send the next things that a command asks for, as far as its unit may. -/
def sendAsks : Nat → State → Nat → Nat → State
  | 0, s, _, _ => s
  | f + 1, s, q, seq =>
    match s.findCmd q seq with
    | none => s
    | some c =>
      match c.todo with
      | [] => s
      | a :: l =>
        if askRoom s q (opcOf c.raw.toNat) a then
          sendAsks f (sendAsk (s.updCmd q seq fun c => { c with todo := l }) q seq a) q seq
        else s

/-- Commands that still have something to ask for go on asking. -/
def moreAsks (s : State) : State :=
  s.queues.foldl (fun s kx => kx.2.started.foldl (fun s c => sendAsks c.todo.length s kx.1 c.seq) s) s

/-- Store back the command a unit worked on. -/
def putCmd (s : State) (q : Nat) (c : Cmd) : State := s.updCmd q c.seq fun _ => c

/-- Finish a run. -/
def finish (q : Nat) (e : Eng) (status : Nat) : State :=
  let status := if e.bad && signals status then 0x30 else status
  let c := e.cmd
  let c := if c.waits = 0 then { c with phase := .done status } else { c with phase := .running, fin := some status }
  putCmd e.s q c

/-- Run a unit's command: `body` is what it does. Asking for data undoes what the run did; the unit runs the command
again with the answers. -/
def runBody (s : State) (q : Nat) (c : Cmd) (body : EM Unit) : State :=
  let (r, e) := body.run ⟨s, c, ctxOfQ s q, false⟩
  match r with
  | .ok _ => finish q e 0
  | .error (.status n) => finish q e n
  | .error (.hold s') => s'
  | .error (.wait asks) =>
    sendAsks asks.length (putCmd s q { c with phase := .running, waits := asks.length, fin := none, todo := asks }) q c.seq

def runUnit (s : State) (q opc : Nat) (body : EM Unit) : State :=
  match unitCmd s q opc with
  | none => s
  | some c => runBody s q c body

/-! Answers. -/

/-- An answer for a command: data for its buffer, or the status it ends with (R355, R373, R422). -/
def answerCmd (s : State) (q seq key : Nat) (status : Nat) (data : List Byte) : State :=
  moreAsks <| s.updCmd q seq fun c =>
    if c.phase != .running then c
    else
      -- a GATHER goes on past a poisoned row: an empty answer stands for it (R87)
      let poison := status == 0x30 && opcOf c.raw.toNat == 0x68 && c.fin.isNone
      if status != 0 && !poison then { c with phase := .done status, todo := [] }
      else
      let c := { c with buf := if data.isEmpty && !poison then c.buf else ins c.buf key data, waits := c.waits - 1 }
      if c.waits != 0 then c
      else
        match c.fin with
        | some st => { c with phase := .done st }
        | none => { c with phase := .ready }

/-- The status of a command for the STATUS of its answer (R355). -/
def statusOf (n : Nat) : Nat := if n = 0 then 0 else if n = 1 then 0x11 else if n = 2 then 0x30 else 0x10

end Sys2Proof.Machine
end

