-- ==== Sys2Proof/Machine/Quant.lean ====
section
/-! DEFINITION. Format codes, block-scaled numbers with their two-pass encoding and stochastic rounding (R97 to R116),
and exact windows (R117 to R121). -/

namespace Sys2Proof.Machine

/-! Format codes (R100). -/

def fmtBase (c : Nat) : Nat := c % 32
def fmtFS (c : Nat) : Bool := c.testBit 5
def fmtMixed (c : Nat) : Bool := c.testBit 6

/-- A block-scaled base: element width in bits, and its grid. Integers use `fp = none`. -/
structure Base where
  w : Nat
  fp : Option Fmt
  /-- largest magnitude code of a finite value that is written -/
  maxCode : Nat
  emax : Int
  deriving DecidableEq, Repr

def baseOf (b : Nat) : Option Base :=
  match b with
  | 0x08 => some ⟨8, some e4m3, 0x7E, 8⟩
  | 0x09 => some ⟨8, some e5m2, 0x7B, 15⟩
  | 0x0A => some ⟨6, some e2m3, 0x1F, 2⟩
  | 0x0B => some ⟨6, some e3m2, 0x1F, 4⟩
  | 0x0C => some ⟨4, some e2m1, 7, 2⟩
  | 0x10 => some ⟨8, none, 127, 6⟩
  | 0x11 => some ⟨4, none, 7, 2⟩
  | 0x12 => some ⟨2, none, 1, 0⟩
  | 0x13 => some ⟨2, none, 1, 0⟩
  | 0x14 => some ⟨1, none, 1, 0⟩
  | _ => none

/-- The base format of a block code (R101); none: a zero block. -/
def baseOfBlock (k : Nat) : Option Nat :=
  match k with
  | 0 => some 0x0C | 1 => some 0x0A | 2 => some 0x0B | 3 => some 0x08 | 4 => some 0x09 | 5 => some 0x11 | 6 => some 0x10
  | _ => none

/-- The block code of a base format. -/
def blockOfBase (b : Nat) : Nat :=
  match b with
  | 0x0C => 0 | 0x0A => 1 | 0x0B => 2 | 0x08 => 3 | 0x09 => 4 | 0x11 => 5 | 0x10 => 6
  | _ => 7

/-- Digit count of a base format (R101; the same digits serve the unmixed formats). -/
def unscaledFmt (b : Nat) : Option Fmt :=
  match b with
  | 0 => some fp32 | 1 => some bf16 | 2 => some fp16 | 3 => some mw48
  | _ => none

/-- A format code that R100 admits. -/
def fmtOk (c : Nat) (mw : Bool) : Bool :=
  let b := fmtBase c
  c < 128 && (match unscaledFmt b with
    | some _ => !fmtFS c && !fmtMixed c && (b != 3 || mw)
    | none => (baseOf b).isSome && (!fmtMixed c || b < 0x12))

/-- The format is block-scaled. -/
def fmtScaled (c : Nat) : Bool := (baseOf (fmtBase c)).isSome

/-- Bytes of an element of an unscaled format. -/
def fmtBytes (c : Nat) : Nat :=
  match fmtBase c with
  | 0 => 4 | 1 => 2 | 2 => 2 | 3 => 6
  | _ => 0

/-- Slot size of a block (R106). -/
def slotBytes (c : Nat) : Nat :=
  if fmtMixed c then 32
  else match baseOf (fmtBase c) with
    | some b => 4 * b.w
    | none => 0

/-- Bytes of the layout of a vector of `n` elements: entries' part, and the whole (R107). -/
def vecLayout (fmt n : Nat) : Nat × Nat :=
  if fmtScaled fmt then
    let nb := (n + 31) / 32
    let e := roundUp 16 (4 * nb)
    (e, e + nb * slotBytes fmt)
  else (0, n * fmtBytes fmt)

/-- Dense tile size (R143). -/
def tileSize (fmt : Nat) : Nat :=
  if fmtScaled fmt then 144 + 32 * slotBytes fmt else 16 + 1024 * fmtBytes fmt

/-- A tensor scale that R104 admits: positive, finite, normal. -/
def scaleOk (t : Nat) : Bool := t / 2 ^ 23 != 0 && t / 2 ^ 23 < 255

/-! Block entries (R105). -/

structure BlockEntry where
  x : Nat
  fs : List Nat
  bcode : Nat
  esc : Bool
  deriving DecidableEq, Repr

def BlockEntry.ofNat (v : Nat) : BlockEntry :=
  ⟨bits v 0 8, (upto 4).map fun i => bits v (8 + 2 * i) 2, bits v 16 3, v.testBit 19⟩

def BlockEntry.toNat (b : BlockEntry) : Nat :=
  b.x + ((b.fs.zipIdx).foldl (fun a fi => a + (fi.1 % 4) * 2 ^ (8 + 2 * fi.2)) 0) + 2 ^ 16 * b.bcode + 2 ^ 19 * b2n b.esc

/-! Decoding (R98, R102 to R104). -/

/-- The value of an element code, with whether it is the bad ternary code. -/
def elemVal (b : Nat) (code : Nat) : Num × Bool :=
  match baseOf b with
  | none => (.nan, false)
  | some bb =>
    match bb.fp with
    | some f => (f.dec code, false)
    | none =>
      if b = 0x13 then
        if code = 1 then (.fin false 1 0, false) else if code = 3 then (.fin true 1 0, false)
        else (.fin false 0 0, code == 2)
      else if b = 0x14 then (.fin (code == 1) 1 0, false)
      else
        let i := toS bb.w code
        (.fin (decide (i < 0)) i.natAbs 0, false)

/-- The exact value T × 2^(X − 127 − f) × e of an element (R104). -/
def scaledVal (t : Nat) (x : Nat) (f : Nat) (e : Num) : Num :=
  if x = 0xFF then .nan
  else e.mul ((f32 t).mul (.fin false 1 ((x : Int) - 127 - f)))

/-- Element `i` of a block: its base format (none in a zero block) and code. -/
def blockElem (fmt : Nat) (be : BlockEntry) (slot : List Byte) (i : Nat) : Option (Nat × Nat) :=
  let b := if fmtMixed fmt then baseOfBlock be.bcode else some (fmtBase fmt)
  match b with
  | none => none
  | some b =>
    match baseOf b with
    | none => none
    | some bb => some (b, bits (leNat slot) (bb.w * i) bb.w)

/-- The exact values of a block's 32 elements, with whether a bad ternary code or a block scale 0xFF was met. -/
def blockVals (fmt t : Nat) (be : BlockEntry) (slot : List Byte) : List Num × Bool × Bool :=
  let sl := leNat slot
  let b := if fmtMixed fmt then baseOfBlock be.bcode else some (fmtBase fmt)
  let one (i : Nat) : Num × Bool :=
    if be.x = 0xFF then (.nan, false)
    else
      match b with
      | none => (.fin false 0 0, false)
      | some b =>
        match baseOf b with
        | none => (.nan, false)
        | some bb =>
          let (v, bad) := elemVal b (bits sl (bb.w * i) bb.w)
          let f := if fmtFS fmt then listGet be.fs (i / 8) 0 else 0
          (scaledVal t be.x f v, bad)
  let l := (upto 32).map one
  (l.map (·.1), l.any (·.2), be.x == 0xFF)

/-! Choosing scales (R108, R109). -/

/-- floor(log₂ (a ÷ T)) for a nonzero finite magnitude. -/
def quotLog (a : Num) (t : Nat) : Int :=
  match a, f32 t with
  | .fin _ m e, .fin _ n g => let (p, q) := ratOf m n (e - g); floorLog2 p q
  | _, _ => 0

/-- The largest magnitude of the finite elements. -/
def amaxOf (l : List Num) : Num :=
  l.foldl (fun a x => if x.isFin && a.lt x.abs then x.abs else a) (.fin false 0 0)

/-- X and the subscales for a block with magnitudes `l` (32 elements) and A = `a` (R109). -/
def chooseX (emax : Int) (t : Nat) (a : Num) : Nat :=
  if a.isZero then 0 else (clampI 0 254 (quotLog a t - emax + 127)).toNat

def chooseF (emax : Int) (t x : Nat) (fs : Bool) (l : List Num) : List Nat :=
  (upto 4).map fun i =>
    let a := amaxOf ((l.drop (8 * i)).take 8)
    if !fs || a.isZero then 0 else (clampI 0 3 ((x : Int) - 127 + emax - quotLog a t)).toNat

/-- x ÷ (T × 2^(X − 127 − f)) as a quotient of naturals (its magnitude). -/
def scaledQuot (v : Num) (t x f : Nat) : Nat × Nat :=
  match v, f32 t with
  | .fin _ m e, .fin _ n g => ratOf m n (e - g - ((x : Int) - 127 - f))
  | _, _ => (0, 1)

/-- The largest finite value of a base, as m × 2^e. -/
def baseMax (b : Base) : Nat × Int :=
  match b.fp with
  | some f => match f.mag false b.maxCode with
    | .fin _ m e => (m, e)
    | _ => (0, 0)
  | none => (b.maxCode, 0)

/-- p ÷ q exceeds the base's largest finite value. -/
def exceeds (b : Base) (p q : Nat) : Bool :=
  let (m, e) := baseMax b
  decide (p * pow2 (-e) > m * pow2 e * q)

/-- The magnitude code nearest to p ÷ q, not above the largest finite one. -/
def nearCode (b : Base) (p q : Nat) : Nat :=
  match b.fp with
  | some f => min b.maxCode (roundMag f p q 0)
  | none => min b.maxCode (divNE p q)

/-- The code of a sign and magnitude code; zero is the all-zero code (R98). -/
def baseCode (bn : Nat) (b : Base) (neg : Bool) (k : Nat) : Nat :=
  if k = 0 then 0
  else
    match b.fp with
    | some f => f.signed neg k
    | none => if bn = 0x13 then (if neg then 3 else 1) else if neg then 2 ^ b.w - k else k

/-- Encode an element: its code, and whether it saturates or underflows (R109). -/
def encElem (bn : Nat) (v : Num) (t x f : Nat) : Nat × Bool × Bool :=
  match baseOf bn with
  | none => (0, false, false)
  | some b =>
    if bn = 0x14 then (b2n (v.lt (.fin false 0 0)), false, false)
    else
      let (p, q) := scaledQuot v t x f
      let k := nearCode b p q
      (baseCode bn b v.sgn k, exceeds b p q, k == 0 && !v.isZero)

/-- An encoded block: entry, codes, SAT, UNF. -/
structure Enc where
  be : BlockEntry
  codes : List Nat
  sat : Nat
  unf : Nat
  deriving DecidableEq, Repr

/-- Encode 32 elements in base `bn` under given scales. -/
def encWith (bn : Nat) (t x : Nat) (fs : List Nat) (bcode : Nat) (esc : Bool) (l : List Num) : Enc :=
  let es := (l.zipIdx).map fun vi => encElem bn vi.1 t x (listGet fs (vi.2 / 8) 0)
  ⟨⟨x, fs, bcode, esc⟩, es.map (·.1), countOf (·.2.1) es, countOf (·.2.2) es⟩

def zeros4 : List Nat := [0, 0, 0, 0]

/-- A block marked non-finite. -/
def encNF (fmt : Nat) : Enc :=
  ⟨⟨0xFF, zeros4, if fmtMixed fmt then blockOfBase (fmtBase fmt) else 0, false⟩, List.replicate 32 0, 0, 0⟩

/-- A zero block, every element 0; `l` may hold nonzero elements, which then underflow, binary ones apart (R109,
R111). -/
def encZero (fmt : Nat) (l : List Num) : Enc :=
  ⟨⟨0, zeros4, if fmtMixed fmt then 7 else 0, false⟩, List.replicate 32 0, 0,
    if fmtBase fmt == 0x14 then 0 else countOf (fun v => v.isFin && !v.isZero) l⟩

/-- Encode a block with scales from its own magnitudes, without escalation (R109, R231). -/
def encBlock (fmt t : Nat) (l : List Num) : Enc :=
  if l.any fun v => !v.isFin then encNF fmt
  else
    let a := amaxOf l
    if a.isZero then encZero fmt l
    else
      match baseOf (fmtBase fmt) with
      | none => encZero fmt l
      | some b =>
        let x := chooseX b.emax t a
        encWith (fmtBase fmt) t x (chooseF b.emax t x (fmtFS fmt) l)
          (if fmtMixed fmt then blockOfBase (fmtBase fmt) else 0) false l

/-- The first pass's summary of a block (R108): AMAX [31:0], SAT [37:32], UNF [45:40], NF [47]. The second pass counts
nothing in a non-finite block (R111), and so does the summary of one. -/
def blockSummary (fmt t : Nat) (l : List Num) : Nat :=
  let fin := l.map fun v => if v.isFin then v else .fin false 0 0
  let nf := l.any fun v => !v.isFin
  let e := encBlock fmt t fin
  fp32.enc (amaxOf fin) + (if nf then 2 ^ 47 else 2 ^ 32 * e.sat + 2 ^ 40 * e.unf)

/-- The host's escalation settings, bound at a command's start (R110, R111). -/
structure EscCfg where
  en : Bool
  thresh : Nat
  from_ : Nat
  deriving DecidableEq, Repr

/-- The settings as a command keeps them. -/
def EscCfg.bound (l : List Nat) : EscCfg := ⟨listGet l 0 0 == 1, listGet l 1 0, listGet l 2 0⟩

/-- A block escalates (R110). -/
def escalates (cfg : EscCfg) (fmt sum : Nat) (dataNF : Bool) : Bool :=
  let b := fmtBase fmt
  let marked := (b == 0x0C && cfg.from_.testBit 0) || (b == 0x0A && cfg.from_.testBit 1) || (b == 0x0B && cfg.from_.testBit 2)
  fmtMixed fmt && cfg.en && marked && !sum.testBit 47 && !dataNF && bits sum 32 6 + bits sum 40 6 > cfg.thresh

/-- Subscales from the first pass's deltas (R178), byte i for subblock i. -/
def deltaF (emax lg : Int) (x : Nat) (deltas : Nat) : List Nat :=
  (upto 4).map fun i =>
    let d := bits deltas (8 * i) 8
    if d = 0xFF then 0 else (clampI 0 3 ((d : Int) + ((x : Int) - 127 + emax - lg))).toNat

/-- Encode a block from the first pass's summary and delta entry (R111, R178). -/
def encSecond (cfg : EscCfg) (fmt t sum deltas : Nat) (l : List Num) : Enc :=
  let amax := f32 (bits sum 0 32)
  let dataNF := l.any fun v => !v.isFin
  if sum.testBit 47 || dataNF then encNF fmt
  else if amax.isZero then encZero fmt l
  else
    let esc := escalates cfg fmt sum dataNF
    let bn := if esc then 0x08 else fmtBase fmt
    match baseOf bn with
    | none => encZero fmt l
    | some b =>
      let x := chooseX b.emax t amax
      let fs := if fmtFS fmt then deltaF b.emax (quotLog amax t) x deltas else zeros4
      encWith bn t x fs (if fmtMixed fmt then blockOfBase bn else 0) esc l

/-- The first pass's delta entry (R177). -/
def deltaEntry (t : Nat) (l : List Num) : Nat :=
  let a := amaxOf l
  if a.isZero || l.any (fun v => !v.isFin) then 0xFFFFFFFF
  else
    (upto 4).foldl
      (fun n i =>
        let ai := amaxOf ((l.drop (8 * i)).take 8)
        let d := if ai.isZero then 0xFF else min 254 (quotLog a t - quotLog ai t).toNat
        n + d * 2 ^ (8 * i))
      0

/-- The slot's bytes of encoded elements (R106); `bn`: the block's base. -/
def packSlot (fmt bn : Nat) (codes : List Nat) : List Byte :=
  let w := match baseOf bn with | some b => b.w | none => 0
  leBytes (slotBytes fmt) ((codes.zipIdx).foldl (fun a ci => a + (ci.1 % 2 ^ w) * 2 ^ (w * ci.2)) 0)

/-- The slot bytes of an encoded block. -/
def Enc.slot (fmt : Nat) (e : Enc) : List Byte :=
  packSlot fmt (if fmtMixed fmt then (baseOfBlock e.be.bcode).getD 0x0C else fmtBase fmt) e.codes

def Enc.entry (e : Enc) : List Byte := leBytes 4 e.be.toNat

/-! Stochastic rounding (R116). -/

/-- A magnitude code's value as m × 2^e. -/
def baseMag (b : Base) (k : Nat) : Nat × Int :=
  match b.fp with
  | some f => match f.mag false k with
    | .fin _ m e => (m, e)
    | _ => (0, 0)
  | none => (k, 0)

/-- The greatest code whose value does not exceed p ÷ q (not above the base's largest). -/
def floorCode (b : Base) (p q : Nat) : Nat :=
  let k := nearCode b p q
  let (m, e) := baseMag b k
  if m * pow2 e * q > p * pow2 (-e) then k - 1 else k

/-- Round p ÷ q up or down by the 32-bit random value r. -/
def stochCode (b : Base) (p q r : Nat) : Nat :=
  let k := floorCode b p q
  if k ≥ b.maxCode then b.maxCode
  else
    let lo : Dy := ⟨(baseMag b k).1, (baseMag b k).2⟩
    let hi : Dy := ⟨(baseMag b (k + 1)).1, (baseMag b (k + 1)).2⟩
    -- (p/q − lo) × 2³² ÷ (hi − lo), floored
    let d := hi.sub lo
    let (dn, dd) := ratOf d.i.natAbs 1 d.e
    let (ln, ld) := ratOf lo.i.natAbs 1 lo.e
    let num := p * ld - ln * q
    if num = 0 then k
    else if (num * 2 ^ 32 * dd) / (q * ld * dn) > r then k + 1 else k

/-- The grid of an unscaled 16-bit target: largest finite code. -/
def gridOf (f : Fmt) : Base := ⟨f.width, some f, f.infCode - 1, 0⟩

/-- Stochastic rounding to BF16 or FP16 (scale 1); a non-finite value is encoded as it is. -/
def stoch16 (f : Fmt) (v : Num) (r : Nat) : Nat :=
  match v with
  | .fin s m e =>
    let (p, q) := ratOf m 1 e
    f.signed s (stochCode (gridOf f) p q r)
  | _ => f.enc v

/-- Stochastic rounding of a block's masters to a block-scaled working copy. -/
def stochBlock (fmt t : Nat) (l : List Num) (rs : List Nat) : Enc :=
  if l.any fun v => !v.isFin then encNF fmt
  else
    let a := amaxOf l
    if a.isZero then encZero fmt l
    else
      match baseOf (fmtBase fmt) with
      | none => encZero fmt l
      | some b =>
        let x := chooseX b.emax t a
        let fs := chooseF b.emax t x (fmtFS fmt) l
        let bn := fmtBase fmt
        let codes := (l.zipIdx).map fun vi =>
          let (p, q) := scaledQuot vi.1 t x (listGet fs (vi.2 / 8) 0)
          if bn = 0x14 then b2n (vi.1.lt (.fin false 0 0)) else baseCode bn b vi.1.sgn (stochCode b p q (listGet rs vi.2 0))
        ⟨⟨x, fs, if fmtMixed fmt then blockOfBase bn else 0, false⟩, codes, 0, 0⟩

/-! Exact windows (R117 to R121). -/

/-- The exponent field that means ZERO. -/
def winZero : Nat := 0x8000

/-- floor(log₂ |x|) of a finite nonzero value, as a 16-bit field; ZERO otherwise. -/
def expOf (v : Num) : Nat :=
  match v with
  | .fin _ m e => if m = 0 then winZero else ofS 16 (floorLog2 m 1 + e)
  | _ => winZero

/-- The greater of two exponent fields; ZERO is below every exponent. -/
def expMax (a b : Nat) : Nat :=
  if a = winZero then b else if b = winZero then a else if toS 16 a < toS 16 b then b else a

/-- How a contribution enters a window (R119). -/
inductive WinIn where
  | add (c : Int)
  | nonfinite
  | exceeds
  deriving DecidableEq, Repr

def winContrib (e : Nat) (v : Num) : WinIn :=
  match v with
  | .fin s m x =>
    if m = 0 then .add 0
    else if e = winZero then .exceeds
    else
      let (n, d) := ratOf m 1 (x + 71 - toS 16 e)
      let k := n / d
      if k ≥ 2 ^ 72 then .exceeds else .add (if s then -(k : Int) else k)
  | _ => .nonfinite

/-- Add to a 96-bit window value. -/
def winAdd (w : Nat) (c : Int) : Nat := ofS 96 ((w : Int) + c)

/-- W × 2^(E − 71). -/
def winVal (e w : Nat) : Dy := if e = winZero then Dy.zero else ⟨toS 96 w, toS 16 e - 71⟩

/-- A window element in a target format (R120): its code, and whether it overflowed. -/
def winOut (f : Fmt) (e w : Nat) (nf : Bool) : Nat × Bool :=
  if nf then (f.nan, false)
  else
    let d := winVal e w
    if d.i = 0 then (0, false)
    else
      let c := f.enc d.num
      (c, c % 2 ^ (f.eb + f.mb) == f.infCode)

end Sys2Proof.Machine
end

