-- ==== Sys2Proof/Machine/Tiles.lean ====
section
/-! DEFINITION. Operand tiles of the matrix cores (R142, R143), 2:4 tiles (R221) and the tile codec (R222, R223). -/

namespace Sys2Proof.Machine

open Sys2Proof

/-- A tile descriptor (R142). -/
structure Desc where
  fmt : Nat
  dense : Bool
  sp : Bool
  qh : Bool
  kh : Nat
  vec : Nat
  t : Nat
  ok : Bool
  deriving DecidableEq, Repr

/-- Decode and check a descriptor: reserved bits, KH, VEC, the format, the tensor scale. FP32 is left to the command. -/
def descOf (v : Nat) : Desc :=
  let fmt := bits v 0 8
  let d : Desc := ⟨fmt, v.testBit 8, v.testBit 9, v.testBit 10, bits v 11 1, bits v 16 6, bits v 32 32, false⟩
  let ok := fmtOk fmt false && fmtBase fmt != 2 && bits v 12 4 == 0 && bits v 22 10 == 0 && bits v 64 64 == 0
    && (d.qh || d.kh == 0) && 1 ≤ d.vec && d.vec ≤ (if d.qh then 16 else 32) && (d.dense || !d.sp)
    && (!fmtScaled fmt || scaleOk d.t)
  { d with ok := ok }

/-- Vectors of a tile, and elements of a vector. -/
def Desc.nv (d : Desc) : Nat := if d.qh then 16 else 32
/-- Bytes of one vector's elements. -/
def Desc.slot (d : Desc) : Nat :=
  let full := if fmtScaled d.fmt then slotBytes d.fmt else 32 * fmtBytes d.fmt
  if d.qh then full / 2 else full
def Desc.entries (d : Desc) : Nat := if fmtScaled d.fmt then 4 * d.nv else 0
/-- Size of the dense form (R143). -/
def Desc.size (d : Desc) : Nat := 16 + d.entries + d.nv * d.slot

/-- The element width in bits in a block with this entry; 0 in a zero block. -/
def elemW (fmt : Nat) (be : BlockEntry) : Nat :=
  if fmtScaled fmt then
    match (if fmtMixed fmt then baseOfBlock be.bcode else some (fmtBase fmt)) with
    | some b => match baseOf b with | some bb => bb.w | none => 0
    | none => 0
  else 8 * fmtBytes fmt

/-- A tile's contents: its entries and codes by vector; what lies beyond VEC reads as zero. -/
structure RawTile where
  d : Desc
  ents : List BlockEntry
  codes : List (List Nat)
  deriving DecidableEq, Repr

def BlockEntry.zero : BlockEntry := ⟨0, zeros4, 0, false⟩

/-- Split a vector's bytes into element codes of `w` bits. -/
def splitCodes (n w : Nat) (v : Nat) : List Nat := (upto n).map fun i => if w = 0 then 0 else bits v (w * i) w

/-- Unpack present codes (R222): vectors in order, elements in order. -/
def unpackVec (w : Nat) (n bm stream pos : Nat) : List Nat × Nat :=
  (upto n).foldl
    (fun acc i => if bm.testBit i then (acc.1 ++ [if w = 0 then 0 else bits stream acc.2 w], acc.2 + w) else (acc.1 ++ [0], acc.2))
    (([] : List Nat), pos)

def unpackAll (fmt n : Nat) (stream : Nat) : Nat → List (BlockEntry × Nat) → List (List Nat)
  | _, [] => []
  | pos, (be, bm) :: l =>
    let r := unpackVec (elemW fmt be) n bm stream pos
    r.1 :: unpackAll fmt n stream r.2 l

/-- Read and check a descriptor. -/
def ldDesc (a : Nat) : EM Desc := do return descOf (← ldN a 16)

/-- Entries of a tile, from VEC on zero. -/
def ldEntries (d : Desc) (a : Nat) : EM (List BlockEntry) := do
  if !fmtScaled d.fmt then return List.replicate d.nv BlockEntry.zero
  let b ← ld (a + 16) (4 * d.vec)
  return (upto d.nv).map fun v => if v < d.vec then BlockEntry.ofNat (leNat ((b.drop (4 * v)).take 4)) else BlockEntry.zero

/-- Read a tile, dense or compressed. -/
def ldTile (d : Desc) (a : Nat) : EM RawTile := do
  let ents ← ldEntries d a
  if d.dense then
    let b ← ld (a + 16 + d.entries) (d.vec * d.slot)
    let codes := (ents.zipIdx).map fun ev =>
      if ev.2 < d.vec then splitCodes d.nv (elemW d.fmt ev.1) (leNat ((b.drop (d.slot * ev.2)).take d.slot))
      else List.replicate d.nv 0
    return ⟨d, ents, codes⟩
  else
    let bw := d.nv / 8
    let bm ← ld (a + 16 + d.entries) (d.nv * bw)
    let maps := (upto d.nv).map fun v => if v < d.vec then leNat ((bm.drop (bw * v)).take bw) else 0
    let l := ents.zip maps
    let nbits := l.foldl (fun n eb => n + elemW d.fmt eb.1 * countOf (fun i => eb.2.testBit i) (upto d.nv)) 0
    let stream ← ldN (a + 16 + d.entries + d.nv * bw) (roundUp 16 ((nbits + 7) / 8))
    return ⟨d, ents, unpackAll d.fmt d.nv stream 0 l⟩

/-- The descriptor's bytes, with D as given. -/
def descBytes (d : Desc) (dense : Bool) : List Byte :=
  leBytes 16 (d.fmt + 2 ^ 8 * b2n dense + 2 ^ 9 * b2n d.sp + 2 ^ 10 * b2n d.qh + 2 ^ 11 * d.kh + 2 ^ 16 * d.vec + 2 ^ 32 * d.t)

/-- Pack codes of `w` bits into a number. -/
def packCodes (w : Nat) (l : List Nat) : Nat := (l.zipIdx).foldl (fun a ci => a + (ci.1 % 2 ^ w) * 2 ^ (w * ci.2)) 0

def entryBytes (d : Desc) (ents : List BlockEntry) : List Byte :=
  if fmtScaled d.fmt then ents.flatMap fun e => leBytes 4 e.toNat else []

/-- The dense form (R143). -/
def denseBytes (r : RawTile) : List Byte :=
  descBytes r.d true ++ entryBytes r.d r.ents
    ++ (r.ents.zip r.codes).flatMap fun ec => leBytes r.d.slot (packCodes (elemW r.d.fmt ec.1) ec.2)

/-- The compressed form, or the dense one where it is no larger (R222, R223). -/
def compressBytes (r : RawTile) : List Byte :=
  let vs := (r.ents.zip r.codes).zipIdx
  let pres (ec : (BlockEntry × List Nat) × Nat) : List Bool :=
    ec.1.2.map fun c => c != 0 && ec.2 < r.d.vec && elemW r.d.fmt ec.1.1 != 0
  let bm := vs.flatMap fun ec => leBytes (r.d.nv / 8) ((pres ec).zipIdx.foldl (fun a bi => a + b2n bi.1 * 2 ^ bi.2) 0)
  let fin := vs.foldl
    (fun (acc : Nat × Nat) ec =>
      let w := elemW r.d.fmt ec.1.1
      ((ec.1.2.zip (pres ec)).foldl (fun (x : Nat × Nat) cp => if cp.2 then (x.1 + cp.1 * 2 ^ x.2, x.2 + w) else x) acc))
    ((0, 0) : Nat × Nat)
  let body := leBytes (roundUp 16 ((fin.2 + 7) / 8)) fin.1
  let c := descBytes r.d false ++ entryBytes r.d r.ents ++ bm ++ body
  if c.length ≥ r.d.size then denseBytes r else c

end Sys2Proof.Machine
end

