-- ==== Sys2Proof/Machine/Matrix.lean ====
section
/-! DEFINITION. The matrix cores (chapter 05): recoding into signed digits, the column window, partials and their order,
MLOAD, plane swaps, MMUL and MSTORE. -/

namespace Sys2Proof.Machine

open Sys2Proof

/-! Elements (R128) and digits (R129). -/

/-- An element code of a format as signed magnitude and exponent, with the subscale `f`; none if it is not finite. -/
def elemMQ (fmt : Nat) (be : BlockEntry) (f : Nat) (code : Nat) : Option (Int × Int) :=
  let num (v : Num) (g : Int) : Option (Int × Int) :=
    match v with
    | .fin s m e => some (if s then -(m : Int) else m, e - g)
    | _ => none
  if fmtScaled fmt then
    match (if fmtMixed fmt then baseOfBlock be.bcode else some (fmtBase fmt)) with
    | some b => num (elemVal b code).1 f
    | none => some (0, 0)
  else num (bf16.dec code) 0

/-- A digit list in non-adjacent form, ascending shift: (sign, position). -/
def naf : Nat → Nat → Nat → List (Int × Nat)
  | 0, _, _ => []
  | f + 1, m, j =>
    if m = 0 then []
    else if m % 2 = 1 then
      if m % 4 = 1 then (1, j) :: naf f ((m - 1) / 2) (j + 1) else (-1, j) :: naf f ((m + 1) / 2) (j + 1)
    else naf f (m / 2) (j + 1)

/-- The recoding of an element (R129): digits (σ, s). Magnitudes do not exceed 255. -/
def recode (m : Int) (q : Int) : List (Int × Int) :=
  (naf 10 m.natAbs 0).map fun d => (if m < 0 then -d.1 else d.1, q + d.2)

def digitCount (m : Int) : Nat := (naf 10 m.natAbs 0).length

/-- floor(log₂) of the largest |m × 2^q|; 0 when all are zero (R132). -/
def unitT (l : List (Int × Int)) : Int :=
  match l.filterMap fun mq => if mq.1 = 0 then none else some ((Nat.log2 mq.1.natAbs : Int) + mq.2) with
  | [] => 0
  | x :: xs => xs.foldl max x

/-- BF16 alignment of a K unit (R134). -/
def alignBf (l : List (Int × Int)) : List (Int × Int) :=
  let t := unitT l
  l.map fun mq =>
    if mq.1 ≠ 0 ∧ mq.2 < t - 23 then
      let m : Nat := mq.1.natAbs / 2 ^ (t - 23 - mq.2).toNat
      (if m = 0 then (0, 0) else (if mq.1 < 0 then -(m : Int) else m, t - 23))
    else mq

/-- A K unit from codes: `off` is the position of the first element in its block (16 in the upper half). -/
def unitOf (fmt : Nat) (be : BlockEntry) (off : Nat) (codes : List Nat) (idx : List Nat) : BUnit :=
  let scaled := fmtScaled fmt
  let es := (codes.zipIdx).map fun ci =>
    elemMQ fmt be (if fmtFS fmt then listGet be.fs ((off + ci.2) / 8) 0 else 0) ci.1
  let snan := scaled && be.x == 0xFF
  let nf := snan || es.any (·.isNone)
  let l := es.map fun e => e.getD (0, 0)
  ⟨be.x, nf, snan, if nf then l.map fun _ => (0, 0) else if scaled then l else alignBf l, idx⟩

/-- A K unit of a part of a BF16x3 split. -/
def unitBf (codes : List Nat) : BUnit := unitOf 1 BlockEntry.zero 0 codes []

/-- A vector at or beyond VEC reads as zero (R142). -/
def zeroUnit (n : Nat) (idx : List Nat) : BUnit := ⟨0, false, false, List.replicate n (0, 0), idx⟩

/-- The BF16x3 split of an FP32 code (R141). -/
def split3 (c : Nat) : Nat × Nat × Nat :=
  let b1 := fp32.cvt bf16 c
  let r1 := (fp32.dec c).sub (bf16.dec b1)
  let b2 := bf16.enc r1
  let b3 := bf16.enc (r1.sub (bf16.dec b2))
  (b1, b2, b3)

def part3 (p c : Nat) : Nat :=
  let s := split3 c
  if p = 1 then s.1 else if p = 2 then s.2.1 else s.2.2

/-- The step count of a tile's units (R131). -/
def stepsOf (us : List BUnit) : Nat :=
  us.foldl (fun n u => if u.nf then n else u.elems.foldl (fun n mq => max n (digitCount mq.1)) n) 1

/-- A bad ternary code is decoded somewhere in the tile (R98). DESIGN CHOICE (log 143): every code that the tile loads
counts, those of a block of scale 0xFF and of elements past the tensor's end among them. -/
def badTernary (fmt : Nat) (codes : List (List Nat)) : Bool := fmtBase fmt == 0x13 && codes.any fun l => l.contains 2

/-! The column window (R132, R133, R135). -/

/-- The column sum of a wave: W modulo 2⁴⁸ as a signed number, L, and whether a nonzero bit was dropped. `a`: the A
elements that drive the rows; `ta`: the A block's exponent. -/
def columnSum (ta : Int) (a b : List (Int × Int)) : Int × Int × Bool :=
  let tb := unitT b
  let l := ta + tb - 40
  let acc := (a.zip b).foldl
    (fun (acc : Int × Bool) ab =>
      (recode ab.2.1 ab.2.2).foldl
        (fun (acc : Int × Bool) d =>
          let sh := ab.1.2 + d.2 - l
          let m := ab.1.1.natAbs
          let v := m * pow2 sh / pow2 (-sh)
          let drop := decide (m * pow2 sh % pow2 (-sh) ≠ 0)
          let neg := (decide (ab.1.1 < 0)) != (decide (d.1 < 0))
          (acc.1 + (if neg then -(v : Int) else v), acc.2 || drop))
        acc)
    ((0, false) : Int × Bool)
  (toS 48 (ofS 48 acc.1), l, acc.2)

/-- A partial (R135, R137): an FP32 code, whether it overflowed, whether bits were dropped. `sc`: block-scaled. -/
def partialOf (sc : Bool) (tA tB : Nat) (a : BUnit) (aRows : List (Int × Int)) (b : BUnit) : Nat × Bool × Bool :=
  if a.nf || b.nf then (f32nan, false, false)
  else
    let (w, l, drop) := columnSum (unitT a.elems) aRows b.elems
    if w = 0 then (0, false, drop)
    else
      let v : Num := .fin (decide (w < 0)) w.natAbs l
      let v := if sc then
          (v.mul (.fin false 1 ((a.x : Int) - 127 + b.x - 127))).mul ((f32 tA).mul (f32 tB))
        else v
      let c := fp32.enc v
      (c, !f32fin c, drop)

/-! State of a matrix core. -/

def McSt.init : McSt := ⟨[], [], []⟩

def State.mc (s : State) (m : Nat) : McSt := lookD s.mcs m McSt.init

def State.setMc (s : State) (m : Nat) (x : McSt) : State := { s with mcs := ins s.mcs m x }

def McSt.arr (x : McSt) (a : Nat) : ArrSt := lookD x.arrays a ⟨none, none⟩

/-- The matrix core whose state a queue's commands use, and the core that runs them. -/
def mcHome (s : State) (q : Nat) : Nat := hGlobal (homeOfQ s q)
def mcUnit (s : State) (q : Nat) : Nat := hGlobal (s.qget QTAB_CFG_CONSUMER q)

/-- Set bits of a 16-bit mask, ascending. -/
def maskBits (v : Nat) : List Nat := (upto 16).filter fun i => v.testBit i

/-- Command `b` comes after command `a` of one queue. -/
def seqAfter (a b : Nat) : Bool :=
  let d := (b + 2 ^ 32 - a) % 2 ^ 32
  0 < d && d < 2 ^ 31

/-! MLOAD (R148). -/

/-- What a tile becomes in a plane. -/
def tileOf (r : RawTile) (k n : Nat) : BTile :=
  let cols := ((r.ents.zip r.codes).zipIdx).map fun ecv =>
    if ecv.2 < r.d.vec then unitOf r.d.fmt ecv.1.1 (16 * r.d.kh) ecv.1.2 [] else zeroUnit ecv.1.2.length []
  ⟨if fmtScaled r.d.fmt then 0 else 1, 0, r.d.t, k, n, r.d.kh, stepsOf cols, cols, []⟩

/-- One part of an FP32 tile. -/
def tilePart (r : RawTile) (k n p : Nat) : BTile :=
  let cols := r.codes.map fun l => unitBf (l.map (part3 p))
  ⟨2, p, f32one, k, n, 0, stepsOf cols, cols, []⟩

/-- Read a 2:4 tile (R221). -/
def ldSparse (d : Desc) (a k n : Nat) : EM (BTile × Bool) := do
  let sl := d.slot
  let eb ← ld (a + 16) (8 * d.vec)
  let sb ← ld (a + 16 + 256) (d.vec * sl)
  let ib ← ld (a + 16 + 256 + 32 * sl) (8 * d.vec)
  let ent (v h : Nat) : BlockEntry :=
    if v < d.vec then BlockEntry.ofNat (leNat ((eb.drop (8 * v + 4 * h)).take 4)) else BlockEntry.zero
  let codes (v h : Nat) : List Nat :=
    let be := ent v h
    let half := leNat (((sb.drop (sl * v)).drop (h * (sl / 2))).take (sl / 2))
    if v < d.vec then splitCodes 16 (elemW d.fmt be) half else List.replicate 16 0
  let idx (v h : Nat) : List Nat :=
    let w := leNat ((ib.drop (8 * v)).take 8)
    (upto 16).map fun m => if v < d.vec then bits w (2 * (16 * h + m)) 2 else m % 2
  -- a kept value's place in its block decides its subscale: 4 × group + index
  let unit (v h : Nat) : BUnit :=
    let be := ent v h
    let ix := idx v h
    let es := ((codes v h).zip ix).zipIdx.map fun ci =>
      let pos := 4 * (ci.2 / 2) + ci.1.2
      elemMQ d.fmt be (if fmtFS d.fmt then listGet be.fs (pos / 8) 0 else 0) ci.1.1
    let snan := be.x == 0xFF
    let nf := snan || es.any (·.isNone)
    if v < d.vec then ⟨be.x, nf, snan, es.map fun e => if nf then (0, 0) else e.getD (0, 0), ix⟩ else zeroUnit 16 ix
  let c1 := (upto 32).map fun v => unit v 0
  let c2 := (upto 32).map fun v => unit v 1
  let bad := badTernary d.fmt ((upto 32).map fun v => codes v 0 ++ codes v 1)
  return (⟨0, 0, d.t, k, n, 0, max (stepsOf c1) (stepsOf c2), c1, c2⟩, bad)

/-- The tiles an MLOAD reads: number, and the arrays per tile. -/
def mloadTiles (mode x3 : Nat) (arrs : List Nat) : Nat :=
  if mode = 1 then 4 * arrs.length else if x3 = 1 then arrs.length / 3 else arrs.length

/-- A descriptor suits an MLOAD of this mode (R148). -/
def mloadDescOk (mode x3 : Nat) (d : Desc) : Bool :=
  d.ok && d.dense && d.sp == (mode == 2) && d.qh == (mode == 1)
    && (if x3 = 1 then fmtBase d.fmt == 0 else fmtBase d.fmt != 0) && (mode != 2 || fmtScaled d.fmt)

/-- Load one tile into its arrays: (array, quad, tile) list and bytes read. -/
def mloadOne (mode x3 : Nat) (arrs : List Nat) (t : Nat) (d : Desc) (a k n : Nat) : EM (List (Nat × Nat × BTile)) := do
  if mode = 2 then
    let (b, bad) ← ldSparse d a k n
    if bad then onS (·.stick NUM_STAT_BAD_CODE)
    return [(listGet arrs t 0, 0, b)]
  let r ← ldTile d a
  if badTernary d.fmt r.codes then onS (·.stick NUM_STAT_BAD_CODE)
  if mode = 1 then return [(listGet arrs (t / 4) 0, t % 4, tileOf r k n)]
  if x3 = 1 then
    return (upto 3).map fun p => (listGet arrs (3 * t + p) 0, 0, tilePart r k n (p + 1))
  return [(listGet arrs t 0, 0, tileOf r k n)]

/-- Some targeted array's shadow plane still holds a tile that has not been swapped in (R148, R153). -/
def shadowBusy (s : State) (q raw : Nat) : Bool :=
  (maskBits (cf raw 16 0 16)).any fun a => ((s.mc (mcHome s q)).arr a).shadow.isSome

def mloadBody (q : Nat) : EM Unit := do
  let mask ← fld 16 0 16
  let mode ← fld 18 0 2
  let x3 ← fld 18 2 1
  let stride ← fld 20 0 32
  let src ← fld 24 0 43
  let kt ← fld 32 0 16
  let kb ← fld 34 0 16
  let nb ← fld 36 0 16
  let arrs := maskBits mask
  let n := mloadTiles mode x3 arrs
  let descs ← (upto n).mapM fun t => do
    notHost (src + t * stride)
    let d ← ldDesc (src + t * stride)
    need (mloadDescOk mode x3 d) 0x10
    return d
  let parts ← ((descs.zipIdx).mapM fun dt =>
    mloadOne mode x3 arrs dt.2 dt.1 (src + dt.2 * stride) (kb + dt.2 % kt) (nb + dt.2 / kt))
  let all := parts.flatten
  let seq := (← get).cmd.seq
  let h ← gets (mcHome · q)
  let planes := arrs.map fun a =>
    (a, (⟨q, seq, mode,
      (upto (if mode = 1 then 4 else 1)).map fun i => (all.find? fun e => e.1 == a && e.2.1 == i).map (·.2.2)⟩ : Plane))
  onS fun s =>
    let x := s.mc h
    s.setMc h { x with arrays := planes.foldl (fun m ap => upd m ap.1 ⟨none, none⟩ fun st => { st with shadow := some ap.2 }) x.arrays }
  countC 0 n
  countC 1 (all.foldl (fun c e => c + e.2.2.steps) 0)
  countC 2 (descs.foldl (fun c d => c + (if mode = 2 then 16 + 256 + 32 * d.slot + 256 else d.size)) 0)
  let unit := homeOfQ (← get).s q
  onC fun c => { c with fx := c.fx ++ [.log unit arrs arrs []] }

/-- MLOAD: it waits while a targeted shadow plane is not free. -/
def execMload (q : Nat) (s : State) : Res :=
  .next (match unitCmd s q 0x20 with
    | some c => if shadowBusy s q c.raw.toNat then s else runBody s q c (mloadBody q)
    | none => s)

/-! Plane swaps (R126, R151). -/

/-- An MMUL that came before the MLOAD in its queue still needs the array's active plane. -/
def planeNeeded (s : State) (a : Nat) (p : Plane) : Bool :=
  (s.q p.queue).started.any fun c =>
    opcOf c.raw.toNat == 0x21 && (cf c.raw.toNat 16 0 16).testBit a && seqAfter c.seq p.seq
      && (match c.phase with | .done _ => false | _ => true)

/-- The steps of a plane, as MC_STEPS shows them. -/
def Plane.steps (p : Plane) : Nat := p.tiles.foldl (fun n t => match t with | some b => max n b.steps | none => n) 0

/-- PLANE_SWAP: array `array` of the context of core `m` swaps its planes. -/
def execPlaneSwap (m array : Nat) (s : State) : Res :=
  let x := s.mc m
  let ar := x.arr array
  .next (match ar.shadow with
    | none => s
    | some p =>
      if planeNeeded s array p then s else s.setMc m { x with arrays := ins x.arrays array ⟨some p, none⟩ })

/-! MMUL (R149). -/

/-- One stream of A vectors through a plane or part of one: the array and its K index, the K index of the A tiles (one
more for the second block of a 2:4 array), the place within the K index, the first column offset, the A part of BF16x3
(0: none), and the units. `sel`: the group selection of a 2:4 block. -/
structure Feed where
  arr : Nat
  ko : Nat
  k : Nat
  sub : Nat
  quad : Bool
  kh : Nat
  cls : Nat
  apart : Nat
  t : Nat
  col0 : Nat
  cols : List BUnit
  sel : Bool
  /-- waves counted by this stream, with its steps; the A tiles whose vectors make the wave -/
  steps : Nat
  wave : List Nat
  deriving DecidableEq, Repr

/-- The (a part, b part) passes of BF16x3 in their order (R141). -/
def x3Passes : List (Nat × Nat) := [(3, 1), (2, 2), (1, 3), (2, 1), (1, 2), (1, 1)]

/-- The streams of an array. -/
def feedsOf (a : Nat) (p : Plane) : List Feed :=
  match p.mode, p.tiles with
  | 1, ts => ts.filterMap fun t => t.map fun b =>
      ⟨a, b.k, b.k, b.kh, true, b.kh, b.cls, 0, b.t, 16 * b.n, b.cols, false, b.steps, [b.k]⟩
  | 2, [some b] => [⟨a, b.k, b.k, 0, false, 0, b.cls, 0, b.t, 32 * b.n, b.cols, true, b.steps, [b.k, b.k + 1]⟩,
      ⟨a, b.k, b.k + 1, 0, false, 0, b.cls, 0, b.t, 32 * b.n, b.cols2, true, b.steps, []⟩]
  | _, [some b] =>
    if b.cls = 2 then
      ((x3Passes.zipIdx).filter fun pi => pi.1.2 == b.part).map fun pi =>
        ⟨a, b.k, b.k, pi.2, false, 0, 2, pi.1.1, b.t, 32 * b.n, b.cols, false, b.steps, [b.k]⟩
    else [⟨a, b.k, b.k, 0, false, 0, b.cls, 0, b.t, 32 * b.n, b.cols, false, b.steps, [b.k]⟩]
  | _, _ => []

/-- K order (R138): the array's K index, then the place within it, then the array; the second block of a 2:4 array comes
right after its first. -/
def feedKey (f : Feed) : Nat := ((f.ko * 16 + f.sub) * 16 + f.arr) * 2 + (f.k - f.ko)

/-- Rows of an A tile. -/
def Feed.nv (f : Feed) : Nat := if f.quad then 16 else 32

/-- The A tiles a stream of `rows` rows reads, as (row tile, K tile). -/
def feedTiles (rows : Nat) (f : Feed) : List (Nat × Nat) := (upto ((rows + f.nv - 1) / f.nv)).map fun i => (i, f.k)

/-- An A tile suits its stream (R149). -/
def aTileOk (f : Feed) (d : Desc) : Bool :=
  d.ok && !d.sp && d.qh == f.quad && (!f.quad || d.kh == f.kh)
    && (if f.cls = 0 then fmtScaled d.fmt else if f.cls = 1 then fmtBase d.fmt == 1 else fmtBase d.fmt == 0)

/-- Key of a loaded A tile. -/
def aKey (quad : Bool) (i k : Nat) : Nat := (i * 65536 + k) * 2 + b2n quad

/-- Vector `v` of an A tile as a K unit, or a part of one. -/
def aUnit (r : RawTile) (v apart : Nat) : BUnit :=
  let codes := listGet r.codes v []
  if v ≥ r.d.vec then zeroUnit codes.length []
  else if apart = 0 then unitOf r.d.fmt (listGet r.ents v BlockEntry.zero) (16 * r.d.kh) codes []
  else unitBf (codes.map (part3 apart))

/-- A vector is zero (R145): every element decodes to 0 and its scale is not 0xFF. -/
def BUnit.isZero (u : BUnit) : Bool := !u.nf && u.elems.all fun mq => mq.1 == 0

/-- The A elements that drive the rows of column `b`. -/
def rowsFor (f : Feed) (a b : BUnit) : List (Int × Int) :=
  if f.sel then (b.idx.zipIdx).map fun ij => listGet a.elems (4 * (ij.2 / 2) + ij.1) (0, 0) else a.elems

/-- What an MMUL gathers: accumulators, those set so far, flags, counts, and the waves that dropped bits. -/
structure MmAcc where
  acc : SMap Nat
  setN : List Nat
  nan : Nat
  snan : Bool
  inf : Bool
  drops : List Nat

/-- A wave of an array, by its row: the two blocks of a 2:4 array make one (R133, R140). -/
def Feed.waveOf (f : Feed) (m : Nat) : Nat := f.arr * 2 ^ 20 + m

/-- One row of one stream: its columns' partials enter the accumulators (R136). -/
def mmRow (f : Feed) (keep : Bool) (base wave : Nat) (tA : Nat) (a : BUnit) (x : MmAcc) : MmAcc :=
  let r := (f.cols.zipIdx).foldl
    (fun (st : MmAcc × Bool) bc =>
      let x := st.1
      let (p, inf, drop) := partialOf (f.cls == 0) tA f.t a (rowsFor f a bc.1) bc.1
      let i := base + f.col0 + bc.2
      let old := lookD x.acc i 0
      let fresh := !keep && !x.setN.contains i
      let v := if fresh then p else fp32.addC old p
      let ovf := !fresh && f32fin old && f32fin p && !f32fin v
      let nf := a.nf || bc.1.nf
      ({ x with
          acc := ins x.acc i v
          setN := if fresh then i :: x.setN else x.setN
          nan := x.nan + b2n nf
          snan := x.snan || a.snan || bc.1.snan
          inf := x.inf || inf || ovf }, st.2 || drop))
    (x, false)
  if r.2 && !(f.sel && x.drops.contains wave) then { r.1 with drops := wave :: x.drops } else r.1

/-- Indices an MMUL writes. -/
def mmRegion (fs : List Feed) (rows base ld : Nat) : List Nat :=
  fs.flatMap fun f => (upto rows).flatMap fun m => (upto f.cols.length).map fun c => base + m * ld + f.col0 + c

/-- The greatest index a stream writes. -/
def feedMax (rows base ld : Nat) (f : Feed) : Nat := base + (rows - 1) * ld + f.col0 + (f.cols.length - 1)

/-- A pending swap, or an unfinished MLOAD of the queue ahead of the MMUL, for an array it uses: the MMUL uses the tile
of the last MLOAD ahead of it, so it waits (R151). -/
def mmWaits (s : State) (q : Nat) (c : Cmd) : Bool :=
  (maskBits (cf c.raw.toNat 16 0 16)).any fun a =>
    (match ((s.mc (mcHome s q)).arr a).shadow with
      | some p => p.queue == q && seqAfter p.seq c.seq
      | none => false)
    || (s.q q).started.any fun d =>
      opcOf d.raw.toNat == 0x20 && (cf d.raw.toNat 16 0 16).testBit a && seqAfter d.seq c.seq
        && (match d.phase with | .done _ => false | _ => true)

/-- The predictor after a stream of rows (R146): hits are counted, and bits rewritten from what was observed. -/
def predict (x : McSt) (key rows : Nat) (nonzero : List Bool) : McSt × Nat :=
  let old := ((x.pred.find? fun p => p.1 == key).map (·.2)).getD 0
  let n := min rows 65536
  let misses := countOf (fun bi : Bool × Nat => bi.1 && !old.testBit bi.2) ((nonzero.take n).zipIdx)
  let new := ((nonzero.take n).zipIdx).foldl (fun v bi => setBits v bi.2 1 (b2n bi.1)) old
  ({ x with pred := keepN 8 ((key, new) :: x.pred.filter fun p => p.1 != key) }, misses)

/-- Leave a region's accumulators unspecified (R149). -/
def scramble (s : State) (m : Nat) (region : List Nat) : State :=
  let x := s.mc m
  let acc := (nubN region).foldl (fun (st : SMap Nat × Nat) i => (ins st.1 i (Config.freeNat st.2 % 2 ^ 32), st.2 + 1)) (x.acc, s.free)
  { s.setMc m { x with acc := acc.1 } with free := acc.2 }

/-- Load the A tiles of all streams, each once. -/
def ldATiles (a stride akt : Nat) (rows : Nat) (fs : List Feed) : EM (SMap RawTile) := do
  let wants := fs.flatMap fun f => (feedTiles rows f).map fun ik => (f, ik)
  -- every descriptor first
  let mut ds : SMap Desc := []
  for w in wants do
    let key := aKey w.1.quad w.2.1 w.2.2
    let d ← match look ds key with
      | some d => pure d
      | none => ldDesc (a + (w.2.1 * akt + w.2.2) * stride)
    need (aTileOk w.1 d) 0x10
    ds := ins ds key d
  let mut ts : SMap RawTile := []
  for w in wants do
    let key := aKey w.1.quad w.2.1 w.2.2
    match look ts key, look ds key with
    | none, some d =>
      let r ← ldTile d (a + (w.2.1 * akt + w.2.2) * stride)
      if badTernary d.fmt r.codes then onS (·.stick NUM_STAT_BAD_CODE)
      ts := ins ts key r
    | _, _ => pure ()
  return ts

def rowUnit (ts : SMap RawTile) (f : Feed) (k m : Nat) : BUnit × Nat :=
  match look ts (aKey f.quad (m / f.nv) k) with
  | some r => (aUnit r (m % f.nv) f.apart, r.d.t)
  | none => (unitBf [], f32one)

def mmulBody (q : Nat) : EM Unit := do
  let mask ← fld 16 0 16
  let accB ← fld 18 0 1
  let pred ← fld 18 1 1
  let rows ← fld 20 0 32
  let a ← fld 24 0 43
  let stride ← fld 32 0 32
  let akt ← fld 36 0 16
  let base ← fld 40 0 32
  let ldi ← fld 44 0 32
  let h ← gets (mcHome · q)
  let u ← gets (mcUnit · q)
  let x ← gets (·.mc h)
  let planes := (maskBits mask).map fun i => (i, (x.arr i).active)
  need (planes.all fun ip => ip.2.isSome) 0x10
  let fs := sortBy feedKey (planes.flatMap fun ip => match ip.2 with | some p => feedsOf ip.1 p | none => [])
  need (fs.all fun f => f.k < akt) 0x10
  need (fs.all fun f => feedMax rows base ldi f < 196608) 0x10
  let region := mmRegion fs rows base ldi
  let ts ← tryCatch (ldATiles a stride akt rows fs) fun e => do
    match e with
    | .status 0x30 => onS fun s => scramble s h region
    | _ => pure ()
    throw e
  let x0 : MmAcc := ⟨x.acc, [], 0, false, false, []⟩
  let r := fs.foldl
    (fun r f => (upto rows).foldl
      (fun r m => let (au, tA) := rowUnit ts f f.k m; mmRow f (accB == 1) (base + m * ldi) (f.waveOf m) tA au r) r) x0
  -- waves (R145)
  let skipEn ← gets (·.flag MC_CFG_SKIP_EN u)
  let predEn ← gets (·.flag MC_CFG_PRED_EN u)
  let waves := fs.filter fun f => !f.wave.isEmpty
  let zeroAt (f : Feed) (m : Nat) : Bool := f.wave.all fun k => (rowUnit ts f k m).1.isZero
  let perFeed := waves.map fun f => (f.steps, countOf (zeroAt f) (upto rows))
  let skipped := if skipEn then perFeed.foldl (fun n p => n + p.2) 0 else 0
  let run := waves.length * rows - skipped
  let steps := perFeed.foldl (fun n p => n + (rows - (if skipEn then p.2 else 0)) * p.1) 0
  let layer ← fld 0 16 16
  let op ← fld 0 32 16
  let usePred := pred == 1 && predEn
  let (x', misses) := if usePred then
      predict { x with acc := r.acc } (layer + 65536 * op) rows ((upto rows).map fun m => waves.any fun f => !zeroAt f m)
    else ({ x with acc := r.acc }, 0)
  onS fun s =>
    let s := s.setMc h x'
    let s := s.bump MC_WAVES_RUN run u
    let s := s.bump MC_SKIPS_SKIPPED skipped u
    let s := s.bump MC_SKIPS_MISSES misses u
    let s := if r.nan > 0 then s.stick MC_STAT_NF u else s
    let s := if r.snan then s.stick NUM_STAT_SCALE_NAN else s
    let s := if r.inf then s.stick MC_STAT_ACC_INF u else s
    if r.drops.length > 0 then (s.stick MC_STAT_WIN_TRUNC u).sat MC_STAT_TRUNC_CNT r.drops.length u else s
  countC 0 run
  countC 1 skipped
  countC 2 misses
  countC 3 steps
  countC 4 r.drops.length
  countC 5 r.nan
  let unit := homeOfQ (← get).s q
  let segs := nubN (region.map fun i => i / 1024)
  let rset := nubN region
  let whole := if accB == 1 then [] else segs.filter fun g => countOf (fun i => i / 1024 == g) rset == 1024
  onC fun c => { c with fx := c.fx ++ [.log unit (segs.map (100 + ·)) (whole.map (100 + ·))
    (maskBits mask ++ (if accB == 1 then segs.map (100 + ·) else []))] }

/-- MMUL. -/
def execMmul (q : Nat) (s : State) : Res :=
  .next (match unitCmd s q 0x21 with
    | some c => if mmWaits s q c then s else runBody s q c (mmulBody q)
    | none => s)

/-! MSTORE (R150). -/

def mstoreBody (q : Nat) : EM Unit := do
  let bf ← fld 16 0 1
  let rows ← fld 20 0 32
  let cols ← fld 24 0 16
  let base ← fld 28 0 32
  let ldi ← fld 32 0 32
  let stride ← fld 36 0 32
  let dest ← fld 40 0 43
  need (base + (rows - 1) * ldi + (cols - 1) < 196608) 0x10
  let h ← gets (mcHome · q)
  let x ← gets (·.mc h)
  let w := if bf = 1 then 2 else 4
  let pitch := if stride = 0 then w * cols else stride
  (upto rows).forM fun r =>
    st (dest + r * pitch) ((upto cols).flatMap fun c =>
      let v := lookD x.acc (base + r * ldi + c) 0
      leBytes w (if bf = 1 then fp32.cvt bf16 v else v))

/-- MSTORE. -/
def execMstore (q : Nat) (s : State) : Res := .next (runUnit s q 0x22 (mstoreBody q))

end Sys2Proof.Machine
end

