-- ==== Sys2Proof/Machine/Crypto.lean ====
section
/-! DEFINITION. The algorithms that R344, R364, R365, R461 and R471 name: SHA-256 (FIPS 180-4), HKDF-SHA-256 (RFC 5869),
ECDSA and ECDH on P-256 (FIPS 186-5, SEC 1), and AES-256-GCM (FIPS 197, SP 800-38D). -/

namespace Sys2Proof.Machine

/-! SHA-256. Its constants are the first 32 bits of the fractions of roots of the first primes, and its working variables
are the last four values of two sequences, latest first. -/

/-- The largest number of `b` bits above `r` whose `k`-th power is at most `n`. -/
def rootBits (k n : Nat) : Nat → Nat → Nat
  | 0, r => r
  | b + 1, r => rootBits k n b (if (r + 2 ^ b) ^ k ≤ n then r + 2 ^ b else r)

def rootFraction (k p : Nat) : Nat := rootBits k (p * 2 ^ (32 * k)) 36 0 % 2 ^ 32

/-- The primes up to the 64th, 311. -/
def primes64 : List Nat := (upto 312).filter fun p => 1 < p && (upto p).all fun d => d < 2 || p % d != 0

def shaConsts : List Nat := primes64.map (rootFraction 3)
def shaStart : List Nat := (primes64.take 8).map (rootFraction 2)

/-- A 32-bit word turned right by `n`. -/
def turn32 (x n : Nat) : Nat := x / 2 ^ n + x % 2 ^ n * 2 ^ (32 - n)

structure ShaRun where
  a : List Nat
  e : List Nat
  /-- the next 16 words of the message schedule -/
  w : List Nat

def shaStep (h : ShaRun) (k : Nat) : ShaRun :=
  let a (i : Nat) := listGet h.a i 0
  let e (i : Nat) := listGet h.e i 0
  let w (i : Nat) := listGet h.w i 0
  let mix (x p q r : Nat) := turn32 x p ^^^ turn32 x q ^^^ turn32 x r
  let t := e 3 + mix (e 0) 6 11 25 + ((e 0 &&& e 1) ||| ((2 ^ 32 - 1 - e 0) &&& e 2)) + k + w 0
  let next := w 0 + (turn32 (w 1) 7 ^^^ turn32 (w 1) 18 ^^^ w 1 / 2 ^ 3) + w 9
    + (turn32 (w 14) 17 ^^^ turn32 (w 14) 19 ^^^ w 14 / 2 ^ 10)
  ⟨(t + mix (a 0) 2 13 22 + ((a 0 &&& a 1) ||| (a 2 &&& (a 0 ||| a 1)))) % 2 ^ 32 :: h.a.take 3,
    (a 3 + t) % 2 ^ 32 :: h.e.take 3, h.w.drop 1 ++ [next % 2 ^ 32]⟩

/-- The hash of a message of whole 64-byte blocks, from the value `h`. -/
def shaBlocks : Nat → List Nat → List Byte → List Nat
  | 0, h, _ => h
  | n + 1, h, d =>
    let r := shaConsts.foldl shaStep ⟨h.take 4, h.drop 4, (upto 16).map fun i => beNat ((d.drop (4 * i)).take 4)⟩
    shaBlocks n ((h.zip (r.a ++ r.e)).map fun xy => (xy.1 + xy.2) % 2 ^ 32) (d.drop 64)

/-- SHA-256: 32 bytes. -/
def sha256 (d : List Byte) : List Byte :=
  let n := d.length
  let pad := (119 - n % 64) % 64
  let m := d ++ [0x80] ++ List.replicate pad 0 ++ beBytes 8 (8 * n)
  (shaBlocks (m.length / 64) shaStart m).flatMap (beBytes 4)

def xorBytes (a b : List Byte) : List Byte := (a.zip b).map fun p => p.1 ^^^ p.2

def hmac (key d : List Byte) : List Byte :=
  let k := if key.length > 64 then sha256 key else key
  let k := k ++ List.replicate (64 - k.length) 0
  sha256 (k.map (· ^^^ 0x5C) ++ sha256 (k.map (· ^^^ 0x36) ++ d))

def hkdfExpand (prk info : List Byte) : Nat → Nat → List Byte → List Byte
  | 0, _, _ => []
  | n + 1, i, t =>
    let t := hmac prk (t ++ info ++ [BitVec.ofNat 8 i])
    t ++ hkdfExpand prk info n (i + 1) t

/-- HKDF-SHA-256: extract and expand to `len` bytes. -/
def hkdf (secret salt info : List Byte) (len : Nat) : List Byte :=
  (hkdfExpand (hmac salt secret) info ((len + 31) / 32) 1 []).take len

/-! P-256. -/

def p256 : Nat := 2 ^ 256 - 2 ^ 224 + 2 ^ 192 + 2 ^ 96 - 1
def n256 : Nat := 0xFFFFFFFF00000000FFFFFFFFFFFFFFFFBCE6FAADA7179E84F3B9CAC2FC632551
def b256 : Nat := 0x5AC635D8AA3A93E7B3EBBD55769886BC651D06B0CC53B0F63BCE3C3E27D2604B
def g256 : Nat × Nat :=
  (0x6B17D1F2E12C4247F8BCE6E563A440F277037D812DEB33A0F4A13945D898C296,
   0x4FE342E2FE1A7F9B8EE7EB4A7C0F9E162BCE33576B315ECECBB6406837BF51F5)

/-- x^e mod m, from the top of `b` bits of the exponent down. -/
def powMod (x e m : Nat) : Nat → Nat
  | 0 => 1 % m
  | b + 1 =>
    let r := powMod x (e / 2) m b
    if e % 2 = 1 then r * r % m * x % m else r * r % m

def invMod (x m : Nat) : Nat := powMod (x % m) (m - 2) m 256

/-- A point; none: the point at infinity. -/
abbrev EcPoint := Option (Nat × Nat)

def ecAdd (a b : EcPoint) : EcPoint :=
  match a, b with
  | none, b => b
  | a, none => a
  | some (x1, y1), some (x2, y2) =>
    if x1 = x2 ∧ (y1 + y2) % p256 = 0 then none
    else
      let l := if x1 = x2 then (3 * x1 * x1 + p256 - 3) * invMod (2 * y1) p256 % p256
        else (y2 + p256 - y1) * invMod (x2 + p256 - x1) p256 % p256
      let x := (l * l + 2 * p256 - x1 - x2) % p256
      some (x, (l * (x1 + p256 - x) + p256 - y1) % p256)

def ecMulAux (a : EcPoint) (k : Nat) : Nat → EcPoint
  | 0 => none
  | b + 1 =>
    let r := ecMulAux a (k / 2) b
    let d := ecAdd r r
    if k % 2 = 1 then ecAdd d a else d

def ecMul (k : Nat) (a : EcPoint) : EcPoint := ecMulAux a k 256

/-- X then Y, 32 bytes each, big-endian (R461). -/
def ecBytes : EcPoint → List Byte
  | none => List.replicate 64 0
  | some (x, y) => beBytes 32 x ++ beBytes 32 y

/-- The point of 64 bytes, if it lies on the curve. -/
def ecPoint (d : List Byte) : EcPoint :=
  let x := beNat (d.take 32)
  let y := beNat ((d.drop 32).take 32)
  if d.length = 64 ∧ x < p256 ∧ y < p256 ∧ y * y % p256 = (x * x * x + (p256 - 3) * x + b256) % p256 then some (x, y) else none

def pubKey (d : Nat) : List Byte := ecBytes (ecMul d (some g256))

/-- ECDSA over a 32-byte digest with the per-signature number `k`: r then s (R461). -/
def ecdsaSign (d k : Nat) (digest : List Byte) : List Byte :=
  match ecMul k (some g256) with
  | none => List.replicate 64 0
  | some (x, _) =>
    let r := x % n256
    let s := invMod k n256 * (beNat digest + r * d) % n256
    beBytes 32 r ++ beBytes 32 s

def ecdsaVerify (key digest sig : List Byte) : Bool :=
  let r := beNat (sig.take 32)
  let s := beNat ((sig.drop 32).take 32)
  match ecPoint key with
  | none => false
  | some q =>
    if sig.length != 64 || r == 0 || n256 ≤ r || s == 0 || n256 ≤ s then false
    else
      let w := invMod s n256
      match ecAdd (ecMul (beNat digest * w % n256) (some g256)) (ecMul (r * w % n256) (some q)) with
      | none => false
      | some (x, _) => x % n256 == r

/-- The ECDH secret: the shared point's X, 32 bytes; none where the other key is no point. -/
def ecdh (d : Nat) (key : List Byte) : Option (List Byte) :=
  match ecPoint key with
  | none => none
  | some q => (ecMul d (some q)).map fun xy => beBytes 32 xy.1

/-! AES-256. -/

def aesDouble (a : Nat) : Nat := if a < 128 then 2 * a else (2 * a) ^^^ 0x11B

def aesMulAux : Nat → Nat → Nat → Nat → Nat
  | 0, _, _, r => r
  | n + 1, a, b, r => aesMulAux n (aesDouble a) (b / 2) (if b % 2 = 1 then r ^^^ a else r)

def aesMul (a b : Nat) : Nat := aesMulAux 8 a b 0

def aesPow (a : Nat) : Nat → Nat
  | 0 => 1
  | n + 1 => aesMul a (aesPow a n)

/-- The S-box: the inverse in GF(2^8), then the affine map. -/
def aesSbox (x : Nat) : Nat :=
  let i := if x = 0 then 0 else aesPow x 254
  let rot (n : Nat) := ((i <<< n) ||| (i >>> (8 - n))) % 256
  i ^^^ rot 1 ^^^ rot 2 ^^^ rot 3 ^^^ rot 4 ^^^ 0x63

/-- The next word of the key schedule, from the words so far, latest first; `i` is its number. -/
def aesKeyWord (i : Nat) (w : List (List Nat)) : List Nat :=
  let t := listGet w 0 []
  let t := if i % 8 = 0 then
      let r := (t.drop 1 ++ t.take 1).map aesSbox
      r.set 0 (listGet r 0 0 ^^^ aesPow 2 (i / 8 - 1))
    else if i % 8 = 4 then t.map aesSbox else t
  (t.zip (listGet w 7 [])).map fun ab => ab.1 ^^^ ab.2

/-- The 15 round keys, 16 bytes each. -/
def aesKeys (key : List Byte) : List (List Nat) :=
  let w0 := (upto 8).map fun i => ((key.drop (4 * i)).take 4).map (·.toNat)
  let w := ((upto 52).foldl (fun w i => aesKeyWord (i + 8) w :: w) w0.reverse).reverse
  (upto 15).map fun r => ((w.drop (4 * r)).take 4).flatten

def aesShift (st : List Nat) : List Nat := (upto 16).map fun i => listGet st ((i + 4 * (i % 4)) % 16) 0

def aesMix (st : List Nat) : List Nat :=
  (upto 16).map fun i =>
    let c := 4 * (i / 4)
    let a (k : Nat) := listGet st (c + (i + k) % 4) 0
    aesDouble (a 0) ^^^ (aesDouble (a 1) ^^^ a 1) ^^^ a 2 ^^^ a 3

def aesAdd (st k : List Nat) : List Nat := (st.zip k).map fun ab => ab.1 ^^^ ab.2

/-- AES-256 of one block under its round keys. -/
def aesBlock (keys : List (List Nat)) (blk : List Byte) : List Byte :=
  let st := aesAdd (blk.map (·.toNat)) (listGet keys 0 [])
  let st := ((keys.drop 1).take 13).foldl (fun st k => aesAdd (aesMix (aesShift (st.map aesSbox))) k) st
  (aesAdd (aesShift (st.map aesSbox)) (listGet keys 14 [])).map fun n => BitVec.ofNat 8 n

/-! GCM. -/

/-- Multiplication in GF(2^128); bit 127 of the numbers is the first bit of the block. -/
def gcmMulAux (x : Nat) : Nat → Nat → Nat → Nat
  | 0, _, z => z
  | b + 1, v, z =>
    gcmMulAux x b (if v % 2 = 1 then (v / 2) ^^^ (0xE1 * 2 ^ 120) else v / 2) (if x.testBit b then z ^^^ v else z)

def ghashBlocks (h : Nat) : Nat → List Byte → Nat → Nat
  | 0, _, y => y
  | n + 1, d, y => ghashBlocks h n (d.drop 16) (gcmMulAux (y ^^^ beNat ((d ++ List.replicate 16 0).take 16)) 128 h 0)

def gcmStream (keys : List (List Nat)) (iv : List Byte) : Nat → Nat → List Byte
  | 0, _ => []
  | n + 1, c => aesBlock keys (iv ++ beBytes 4 c) ++ gcmStream keys iv n (c + 1)

/-- The 16-byte tag over additional data and ciphertext. -/
def gcmTag (key iv aad ct : List Byte) : List Byte :=
  let keys := aesKeys key
  let h := beNat (aesBlock keys (List.replicate 16 0))
  let y := ghashBlocks h ((aad.length + 15) / 16) aad 0
  let y := ghashBlocks h ((ct.length + 15) / 16) ct y
  let y := ghashBlocks h 1 (beBytes 8 (8 * aad.length) ++ beBytes 8 (8 * ct.length)) y
  xorBytes (beBytes 16 y) (aesBlock keys (iv ++ beBytes 4 1))

/-- Encryption, which is also decryption. -/
def gcmCrypt (key iv d : List Byte) : List Byte :=
  xorBytes d (gcmStream (aesKeys key) iv ((d.length + 15) / 16) 2)

end Sys2Proof.Machine
end

