-- ==== Sys2Proof/Machine/MemCode.lean ====
section
/-! DEFINITION. What the LPDDR5X holds: the field and the codewords of the outer code (R340), AES-256-XTS over 256-byte
blocks (R344), and the raw memory of a channel (R336, R342). -/

namespace Sys2Proof.Machine

open Sys2Proof

/-! Arithmetic in GF(2^8) on x^8 + x^4 + x^3 + x^2 + 1. -/

def gfDouble (a : Nat) : Nat := if a < 128 then 2 * a else (2 * a) ^^^ 0x11D

def gfMulAux : Nat → Nat → Nat → Nat → Nat
  | 0, _, _, r => r
  | n + 1, a, b, r => gfMulAux n (gfDouble a) (b / 2) (if b % 2 = 1 then r ^^^ a else r)

def gfMul (a b : Nat) : Nat := gfMulAux 8 (a % 256) (b % 256) 0

def gfPow (a : Nat) : Nat → Nat
  | 0 => 1
  | n + 1 => gfMul a (gfPow a n)

/-- α^n. -/
def gfExp (n : Nat) : Nat := gfPow 2 (n % 255)

def gfInv (a : Nat) : Nat := gfPow a 254

/-- The power of x at which symbol `i` stands: data symbols 0 to 127, check symbols 128 to 135, address symbols A4 to A0
136 to 140. -/
def symDegree (i : Nat) : Nat := if i < 128 then 135 - i else if i < 136 then 135 - i else 276 - i

/-- Evaluate a polynomial, lowest coefficient first. -/
def gfEval (p : List Nat) (x : Nat) : Nat := p.foldr (fun c a => c ^^^ gfMul a x) 0

def gfScale (c : Nat) (p : List Nat) : List Nat := p.map (gfMul c)

def gfAddP : List Nat → List Nat → List Nat
  | [], q => q
  | p, [] => p
  | a :: p, b :: q => (a ^^^ b) :: gfAddP p q

/-- The generator (x + α⁰) … (x + α⁷), lowest coefficient first. -/
def gfGen : List Nat := (upto 8).foldl (fun p i => gfAddP (0 :: p) (gfScale (gfExp i) p)) [1]

/-- One symbol of the message enters the division by the generator; the remainder's highest coefficient stands first. -/
def checkStep (r : List Nat) (m : Nat) : List Nat :=
  let f := m ^^^ listGet r 0 0
  ((r.drop 1 ++ [0]).zip (gfGen.take 8).reverse).map fun (ab : Nat × Nat) => ab.1 ^^^ gfMul f ab.2

/-- The 8 check symbols of a codeword: x^8 m(x) mod g(x) of the address symbols A4 to A0 and the 128 data symbols
(R340). -/
def checkSymbols (a : Nat) (data : List Nat) : List Nat :=
  (([4, 3, 2, 1, 0].map fun k => a / 2 ^ (8 * k) % 256) ++ data).foldl checkStep (List.replicate 8 0)

/-- The data symbols of codeword `w` of a block: byte k is symbol 16 × (k div 32) + k mod 16 of codeword (k div 16) mod 2
(R340). -/
def cwSymbols (d : List Byte) (w : Nat) : List Nat :=
  (upto 128).map fun i => byteN d (32 * (i / 16) + 16 * w + i % 16) 1

/-- The block's 16 check bytes (R340). -/
def checkBytes (a : Nat) (d : List Byte) : List Nat := checkSymbols a (cwSymbols d 0) ++ checkSymbols a (cwSymbols d 1)

/-! Encryption (R344): AES-256-XTS of IEEE 1619. -/

/-- The next tweak: multiplication by α in GF(2^128) on x^128 + x^7 + x^2 + x + 1. -/
def xtsNext (t : Nat) : Nat := if t < 2 ^ 127 then 2 * t else ((2 * t) ^^^ 0x87) % 2 ^ 128

def xtsBlocks (keys : List (List Nat)) : Nat → Nat → List Byte → List Byte
  | 0, _, _ => []
  | n + 1, t, d =>
    xorBytes (aesBlock keys (xorBytes (d.take 16) (leBytes 16 t))) (leBytes 16 t) ++ xtsBlocks keys n (xtsNext t) (d.drop 16)

/-- A data unit of whole 16-byte blocks under the data key and the tweak key, with its number as a 128-bit little-endian
integer. -/
def xtsEncrypt (key : List Byte) (unit : Nat) (d : List Byte) : List Byte :=
  xtsBlocks (aesKeys (key.take 32)) (d.length / 16) (leNat (aesBlock (aesKeys (key.drop 32)) (leBytes 16 unit))) d

/-! Raw memory. -/

/-- What the array holds of the block at `pa`: its ciphertext, whose tweak is A, and its check bytes, which cover the
ciphertext; those of a poisoned block are the correct ones xor 0xFF (R340, R342, R344). -/
def storedBlock (s : State) (pa : Nat) : List Byte × List Byte :=
  let c := xtsEncrypt s.memKey (addrSym pa) (s.rdBytes (pa / 256 * 256) 256)
  let k := checkBytes (addrSym pa) c
  (c, k.map fun n => BitVec.ofNat 8 (if poisonedAt s pa then n ^^^ 0xFF else n))

/-- The byte at raw offset `o` of a channel: 15 blocks of a 4 KiB chunk, their check bytes, and 16 bytes of zero (R336). -/
def rawByte (s : State) (chan o : Nat) : Byte :=
  let j := o % 4096
  let block (k : Nat) := storedBlock s (paOfBlock chan (15 * (o / 4096) + k))
  if j < 3840 then ((block (j / 256)).1[j % 256]?).getD 0
  else if j < 4080 then ((block ((j - 3840) / 16)).2[j % 16]?).getD 0
  else 0

end Sys2Proof.Machine
end

