-- ==== Sys2Proof/Machine/Slab.lean ====
section
/-! DEFINITION. The division of a slab (R316, R317): what each MiB serves, and how a change of sizes takes effect. -/

namespace Sys2Proof.Machine

open Sys2Proof

/-- What MiB `m` of a slab serves under sizes (cache, trough, hot, trace): 0 job scratch, 1 trough, 2 hot, 3 trace,
4 cache (R316). -/
def slabRole (cache trg hot trace m : Nat) : Nat :=
  if 24 - cache ≤ m then 4
  else if 24 - cache - trg ≤ m then 1
  else if 24 - cache - trg - hot ≤ m then 2
  else if 24 - cache - trg - hot - trace ≤ m then 3
  else 0

/-- The sizes in force from the sizes asked for: trough, hot partition and trace buffer in this order, the cache taking
what is left of 24 MiB (R317). -/
def slabFit (cache trg hot trace : Nat) : Nat × Nat × Nat × Nat :=
  let trg' := min trg 24
  let hot' := min hot (24 - trg')
  let trace' := min trace (24 - trg' - hot')
  (min cache (24 - trg' - hot' - trace'), trg', hot', trace')

/-- The sizes in force, as SLAB_STAT shows them. -/
def slabSizes (s : State) (p cache trg hot trace : Nat) : State :=
  let (c', t', h', r') := slabFit cache trg hot trace
  let s := s.setPond p { s.pond p with trgSize := trg, hotSize := hot, traceSize := trace, cacheSize := cache }
  let s := (s.set SLAB_STAT_CACHE_NOW c' p).set SLAB_STAT_TRG_NOW t' p
  let s := (s.set SLAB_STAT_HOT_NOW h' p).set SLAB_STAT_TRACE_NOW r' p
  let s := s.set SLAB_STAT_USER_NOW (24 - c' - t' - h' - r') p
  if c' != cache || t' != trg || h' != hot || r' != trace then s.stick SLAB_STAT_SHRUNK p else s

/-- Set the sizes of a slab in force (R317, R93): a changed cache is emptied, a changed hot partition empties both
halves, scratch whose role changes is left unspecified, and so is a trace buffer of another size, whose HEAD and TAIL become 0
(R497). -/
def slabApply (s : State) (p cache trg hot trace : Nat) : State :=
  let (c', t', h', r') := slabFit cache trg hot trace
  let old (m : Nat) := slabRole (cacheNow s p) (trgNow s p) (hotNow s p) (traceNow s p) m
  let moved := (upto 24).filter fun m => old m != slabRole c' t' h' r' m
  let x := s.pond p
  let s := s.setPond p { x with lines := if c' == cacheNow s p then x.lines else [] }
  let s := if h' == hotNow s p then s else { s with hot := ⟨[], [], s.hot.ready⟩ }.set HOT_STAT_ACTIVE 0
  let s := moved.foldl (fun s m => s.makeStale (scratchBase p + m * 2 ^ 20) (scratchBase p + (m + 1) * 2 ^ 20)) s
  let traced := r' != traceNow s p
  let s := slabSizes s p cache trg hot trace
  if !traced then s
  else
    let s := (s.set TRC_PTR_HEAD 0 p).set TRC_PTR_TAIL 0 p
    s.makeStale (scratchBase p + traceBase s p) (scratchBase p + traceBase s p + r' * 2 ^ 20)

/-- A change of SLAB_CFG or HOT_CFG.HOT_MIB waits for pond `p`. -/
def slabPending (s : State) (p : Nat) : Bool :=
  let x := s.pond p
  x.hotSize != s.get HOT_CFG_HOT_MIB || x.traceSize != s.get SLAB_CFG_TRACE_MIB p
    || x.cacheSize != s.get SLAB_CFG_CACHE_MIB p

/-- Apply the waiting changes; the trough keeps the size that its last TRESET took. -/
def slabReconfig (s : State) (p : Nat) : State :=
  if slabPending s p then
    slabApply s p (s.get SLAB_CFG_CACHE_MIB p) (s.pond p).trgSize (s.get HOT_CFG_HOT_MIB) (s.get SLAB_CFG_TRACE_MIB p)
  else s

/-- The queue of a QTAB_TAIL or QTAB_HEAD register at an offset. -/
def queueAt (o : Nat) : Option Nat :=
  ((QTAB_TAIL.find o).orElse fun _ => QTAB_HEAD.find o).map fun ij => 1024 * ij.1 + ij.2

/-- The queues that hold unretired entries. -/
def usedQueues (s : State) : List Nat :=
  nubN (s.regs.filterMap fun kv => (queueAt kv.1).bind fun q => if qUsed s q != 0 then some q else none)

/-- A pond is idle (R317): no region has a started command or a running GRUN, and no queue bound to a unit of it holds
an unretired entry. -/
def pondIdle (s : State) (p : Nat) : Bool :=
  !((usedQueues s).any fun q => match consumerOf s q with | .unit h => hPond h == p | .te _ => false)
    && !((upto 4).any fun i => (s.gc (4 * p + i)).run.isSome)

/-- Every waiting change takes effect at a step boundary (R26, R317). -/
def slabBoundary (s : State) : State := (upto 96).foldl slabReconfig s

end Sys2Proof.Machine
end

