-- ==== Sys2Proof/Machine/MemEvents.lean ====
section
/-! DEFINITION. What the memory controllers and the slabs do on their own (chapter 11): the outer code's decoding
(R340, R341), poison and retired dies (R342, R421), patrol scrub (R343), calibration probes (R345 to R347), slab words
(R337 to R339), fills, invalidations and prefetch depth (R326, R330), and the TLB invalidation (R333). -/

namespace Sys2Proof.Machine

open Sys2Proof

/-! The outer code (R340). -/

/-- The syndromes of an error pattern. -/
def syndromes (l : List (Nat × Nat)) : List Nat :=
  (upto 8).map fun j => l.foldl (fun x e => x ^^^ gfMul e.2 (gfExp (j * symDegree e.1))) 0

/-- The shortest recurrence of the syndromes (Berlekamp and Massey): at step `n`, the connection polynomial, its length,
the last one that changed the length with its discrepancy, and the shift. -/
def locatorAux (syn : List Nat) : Nat → Nat → List Nat → Nat → List Nat → Nat → Nat → List Nat × Nat
  | 0, _, c, l, _, _, _ => (c, l)
  | f + 1, n, c, l, b, bd, m =>
    let d := (upto (l + 1)).foldl (fun x i => x ^^^ gfMul (listGet c i 0) (listGet syn (n - i) 0)) 0
    if d = 0 then locatorAux syn f (n + 1) c l b bd (m + 1)
    else
      let c' := gfAddP c (List.replicate m 0 ++ gfScale (gfMul d (gfInv bd)) b)
      if 2 * l ≤ n then locatorAux syn f (n + 1) c' (n + 1 - l) c d 1
      else locatorAux syn f (n + 1) c' l b bd (m + 1)

def locator (syn : List Nat) : List Nat × Nat := locatorAux syn 8 0 [1] 0 [1] 1 1

/-- What a controller finds in one codeword (R341). -/
inductive CwResult where
  | clean
  /-- corrected at these symbols -/
  | corrected (at_ : List Nat)
  /-- not decoded; `misdir`: an error was located in an address symbol -/
  | failed (misdir : Bool)
  deriving DecidableEq, Repr

/-- Decode a codeword with correction radius `t`: a word within `t` symbols of a codeword decodes to it, except where an
error is located in an address symbol; any other word fails. -/
def decodeCw (t : Nat) (l : List (Nat × Nat)) : CwResult :=
  let syn := syndromes (l.filter fun e => e.1 < 141)
  if syn.all (· == 0) then .clean
  else
    let (c, n) := locator syn
    let found := (upto 141).filter fun i => gfEval c (gfExp (255 - symDegree i)) == 0
    if n ≤ t && found.length == n then
      if found.any (136 ≤ ·) then .failed true else .corrected found
    else .failed false

/-- MEM_ECC.RADIUS with its bounds. -/
def eccRadius (s : State) : Nat := clampN 1 4 (s.get MEM_ECC_RADIUS)

/-- The pattern changes some symbol. -/
def realErrors (l : List (Nat × Nat)) : Nat := countOf (fun e => e.2 % 256 != 0) l

/-! Poison and retired dies. -/

/-- Poison the granule of a block (R342): UE counts the blocks, MCTL_UE keeps the address, and the silt record takes it. -/
def poisonGranule (s : State) (pa : Nat) (misdir scrub : Bool) : State :=
  let c := chanOf pa / 8
  let first := granuleOf pa * 8
  let newly := (upto 8).filter fun k => !s.poison.contains (first + k)
  let s := { s with poison := s.poison ++ newly.map (first + ·) }
  let s := s.sat MCTL_CNT_UE newly.length c
  let s := s.set MCTL_UE_A (addrSym pa) c
  let s := s.set MCTL_UE_VALID 1 c
  let s := (s.set MCTL_UE_MISDIR (b2n misdir) c).set MCTL_UE_SCRUB (b2n scrub) c
  s.siltDev 0x0021 [addrSym pa, granuleOf pa * 2048]

/-- Dies retired: each leaves two ranges, one in each channel it serves. -/
def diesRetired (s : State) : Nat := (s.chans.foldl (fun n kc => n + kc.2.retired.length) 0) / 2

/-- Retire the die of range `rg` (4 GiB raw) of channel `c` (R421). -/
def retireDie (s : State) (c rg : Nat) : State :=
  let m := 8 * (c / 8) + Config.dieMate c % 8
  let drop (s : State) (k : Nat) : State :=
    let x := s.chan k
    if x.retired.contains (4 * rg) then s
    else s.setChan k { x with retired := 4 * rg :: x.retired, probe := none }
  if (s.chan c).retired.contains (4 * rg) then s
  else
    let s := drop (drop s c) m
    let s := s.setRg FLT_DIE (BitVec.ofNat 64 (c / 8 + 2 ^ 4 * (Config.dieOf c rg % 12) + 2 ^ 8 * min c m + 2 ^ 16 * max c m
      + 2 ^ 24 * (4 * rg) + 2 ^ 32))
    let s := s.stick FLT_STAT_DIE_RET
    let s := s.set FLT_CAP_MEM_GIB ((2160 - 15 * diesRetired s) / 2)
    singleFault (s.siltDev 0x0022 [(s.rg FLT_DIE).toNat]) none

/-- Codewords that fail to decode count for the die of their range; more than DIE_UE within 1 s lose it (R421). -/
def countDie (s : State) (pa n : Nat) : State :=
  if n = 0 then s
  else
    let c := chanOf pa
    let rg := rawOff pa / 2 ^ 32
    let x := s.chan c
    let now := s.time.count
    let recent := x.dieUe.filter fun e => now < e.2 + 1000000000
    let l := recent ++ List.replicate n (rg, now)
    let s := s.setChan c { x with dieUe := l }
    let limit := max 1 (s.get FLT_CFG_DIE_UE)
    if countOf (fun e => e.1 == rg) l > limit then retireDie s c rg else s

/-! A controller's read of one block. -/

/-- The DQ lane that carries symbol `i` of codeword `w` (R345). -/
def laneOf (w i : Nat) : Nat := if i < 128 then i % 16 else 8 * w + (i - 128) % 8

/-- Symbols located on the probed lane. -/
def onLane (lane : Nat) (w : Nat) : CwResult → Nat
  | .corrected l => countOf (fun i => laneOf w i == lane) l
  | _ => 0

def moreThanOne : CwResult → Bool
  | .clean => false
  | .corrected l => l.length > 1
  | .failed _ => true

/-- What the decoder finds in a block's two codewords with these errors; a poisoned block decodes in neither (R342). -/
def sampled (s : State) (pa : Nat) (e : RawErrors) : CwResult × CwResult :=
  if poisonedAt s pa then (.failed false, .failed false) else (decodeCw (eccRadius s) e.cw0, decodeCw (eccRadius s) e.cw1)

/-- Where lane `lane` of a channel is sampled, in steps of 1/64 UI from its trained value: its centre, moved by +δ and then
by −δ while it is probed (R345). -/
def samplePoint (s : State) (chan lane : Nat) : Int :=
  let x := s.chan chan
  let c := lookD x.centres lane 0
  match x.probe with
  | some p => if p.lane == lane && gathers s p then (if p.minus then c - p.delta else c + p.delta) else c
  | none => c

/-- The errors with which a read's data are delivered: in a phase those of the probed sample point where they leave both
syndromes zero, and those at the centre, where the block is read again, otherwise (R346). -/
def metErrors (s : State) (pa : Nat) (sample err : RawErrors) : RawErrors :=
  match (s.chan (chanOf pa)).probe with
  | some p => if gathers s p && sampled s pa sample == (.clean, .clean) then sample else err
  | none => err

/-- Count a read in the phase of the channel's probe, if one gathers reads (R345, R346): a nonzero syndrome means a
second read at the centre, and more than one located symbol, or a failure, aborts the phase. -/
def probeRead (s : State) (pa : Nat) (sample : RawErrors) : State :=
  let chan := chanOf pa
  let x := s.chan chan
  match x.probe with
  | none => s
  | some p =>
    if !gathers s p then s
    else
      let (r0, r1) := sampled s pa sample
      let c := chan / 8
      if r0 == .clean && r1 == .clean then s.setChan chan { x with probe := some { p with reads := p.reads + 1 } }
      else
        let s := traceAccess (s.bump MCTL_CNT_REREAD 1 c) 3 pa 0xFFFF
        if moreThanOne r0 || moreThanOne r1 then
          (s.setChan chan { x with probe := some { p with reads := p.reads + 1, aborted := true } }).sat MCTL_CAL_ABORTS 1 c
        else
          let n := onLane p.lane 0 r0 + onLane p.lane 1 r1
          s.setChan chan { x with probe := some { p with reads := p.reads + 1, count := p.count + n } }

/-- The DQ lanes of the symbols corrected in codeword `w`. -/
def lanesOf (w : Nat) : CwResult → List Nat
  | .corrected l => l.map (laneOf w)
  | _ => []

/-- Every corrected symbol is counted against the lane that carried it (R341). -/
def countLanes (s : State) (pa : Nat) (lanes : List Nat) : State :=
  let x := s.chan (chanOf pa)
  if lanes.isEmpty then s
  else s.setChan (chanOf pa) { x with laneCnt := lanes.foldl (fun m l => upd m l 0 (· + 1)) x.laneCnt }

/-- Decode the block at `pa` with the errors met (R341, R342): whether it is delivered, and whether a symbol was
corrected in it. -/
def readBlock (s : State) (pa : Nat) (e : RawErrors) (scrub : Bool) : Bool × Bool × State :=
  if retiredAt s pa || poisonedAt s pa then (false, false, s)
  else
    let r0 := decodeCw (eccRadius s) e.cw0
    let r1 := decodeCw (eccRadius s) e.cw1
    let fixed (r : CwResult) : Nat := match r with | .corrected _ => 1 | _ => 0
    let fails (r : CwResult) : Nat := match r with | .failed _ => 1 | _ => 0
    let mis (r : CwResult) : Bool := match r with | .failed m => m | _ => false
    let s := s.bump MCTL_CNT_CE (fixed r0 + fixed r1) (chanOf pa / 8)
    let s := countLanes s pa (lanesOf 0 r0 ++ lanesOf 1 r1)
    let note (s : State) (w : Nat) : CwResult → State
      | .corrected l => traceCe s pa w l.length (laneOf w (l.headD 0))
      | _ => s
    let s := countDie (note (note s 0 r0) 1 r1) pa (fails r0 + fails r1)
    if fails r0 + fails r1 != 0 then (false, false, poisonGranule s pa (mis r0 || mis r1) scrub)
    else (true, fixed r0 + fixed r1 != 0, s)

/-- The 128 bytes of a line. -/
def lineBytes (s : State) (line : Nat) : List Byte := s.rdBytes (line * 128) 128

/-- MEMORY_READ (R324, R341, R342): the controller marks the pond, decodes the block, and serves the pond's outstanding
fill of the line. -/
def memoryRead (s : State) (r : MemRead) : State :=
  if areaOf r.pa != .main || r.pond ≥ 96 then s
  else
    let line := r.pa / 128
    let s := traceAccess s (if r.prefetch then 4 else 0) r.pa r.pond
    let err := metErrors s r.pa r.sample r.err
    let s := if (s.chan (chanOf r.pa)).probe.isSome && !retiredAt s r.pa then probeRead s r.pa r.sample else s
    let s := s.dirMark r.pond line
    let (ok, _, s) := readBlock s r.pa err false
    let data := if ok then some (lineBytes s line) else none
    let x := s.pond r.pond
    s.setPond r.pond { x with fills := x.fills.map fun f =>
      if f.line == line && f.prefetch == r.prefetch && !f.served then { f with served := true, data := data } else f }

def execMemoryRead (r : MemRead) (s : State) : Res := .next (memoryRead s r)

/-- MEMORY_WRITE (R325): every copy is invalidated, and then the memory is written. -/
def execMemoryWrite (w : MemWrite) (s : State) : Res :=
  .next (if w.data.isEmpty || areaOf w.pa != .main || areaOf (w.pa + w.data.length - 1) != .main then s
    else ((traceAccess s 1 w.pa 0xFFFF).wrMain w.pa w.data).1)

/-- INVALIDATION (R326): the hub drops the line, and marks an outstanding fill of it stale. -/
def execInvalidation (p line : Nat) (s : State) : Res :=
  .next (if p < 96 then s.setPond p (hubInvalidate (s.pond p) line) else s)

/-- POND_CACHE_FILL (R323, R326, R342): the oldest served fill of the line returns; unless stale or poisoned it is
installed. While the pond is held no handshake completes (R35). -/
def execPondCacheFill (p line : Nat) (s : State) : Res :=
  .next (
    let x := s.pond p
    match x.fills.find? fun f => f.line == line && f.served with
    | none => s
    | some f =>
      if s.flag POND_PACE_UV_HELD p then s else
      let s := s.setPond p { x with fills := x.fills.erase f }
      if f.stale || f.data.isNone then s else installLine s s.rem p ⟨line, f.tag, f.cls, f.prefetch⟩)

/-- PREFETCH_DEPTH_ADJUST (R330): after a window of 4,096 prefetches. -/
def execPrefetchDepthAdjust (p : Nat) (s : State) : Res :=
  .next (
    let x := s.pond p
    if p ≥ 96 || x.pfIssued < 4096 then s
    else
      let d := depthOf s p
      let d' := if 4 * x.pfHit > 3 * 4096 then d + 1 else if 4 * x.pfHit < 4096 then d - 1 else d
      let held := d' > maxDepth s || d' < minDepth s || (d = 0 && 4 * x.pfHit < 4096)
      let s := { s with power := { s.power with
        pfHeld := (if held then [p] else []) ++ s.power.pfHeld.filter (· != p) } }
      let d' := clampN (minDepth s) (maxDepth s) d'
      (s.setPond p { x with depth := d', pfIssued := x.pfIssued - 4096, pfHit := 0 }).set PF_CNT_DEPTH d' p)

/-! Patrol scrub (R343). -/

/-- The end of a patrol pass moves the period between its bounds. -/
def scrubPass (s : State) : State :=
  let lo := max 1 (s.get MEM_SCRUB_MIN_H)
  let hi := max lo (s.get MEM_SCRUB_MAX_H)
  let now := s.get MEM_SCRUB_NOW_H
  let n := s.scrubbed
  let now' := if n > s.get MEM_SCRUB_CE_HI then now / 2 else if n = 0 then 2 * now else now
  let held := n > s.get MEM_SCRUB_CE_HI && now' < lo
  { s.set MEM_SCRUB_NOW_H (clampN lo hi now') with scrubbed := 0, power := { s.power with scrubHeld := held } }

/-- PATROL_SCRUB: a corrected block is rewritten; where more symbols were wrong than the code corrects and the word lies
within the radius of another codeword, what is rewritten is unspecified (R341). -/
def execPatrolScrub (chan block : Nat) (e sample : RawErrors) (last : Bool) (s : State) : Res :=
  .next (
    let pa := paOfBlock chan block
    let s := if chan ≥ 96 || areaOf pa != .main || retiredAt s pa then s
      else
        let e := metErrors s pa sample e
        let s := probeRead (traceAccess s 2 pa 0xFFFF) pa sample
        let (ok, fixed, s) := readBlock s pa e true
        let s := if fixed then { s with scrubbed := s.scrubbed + 1 } else s
        let t := eccRadius s
        if ok && (realErrors e.cw0 > t || realErrors e.cw1 > t) then
          (s.invalidateAll (pa / 128)).invalidateAll (pa / 128 + 1) |>.makeStale pa (pa + 256)
        else s
    if last then scrubPass s else s)

/-! The slab (R337 to R339). -/

/-- The fenced-bank field of a die. -/
def fencedBank (s : State) (p die : Nat) : Nat :=
  s.get (if die = 0 then SLAB_STAT_FENCED0 else SLAB_STAT_FENCED1) p

/-- Fence a bank; a die keeps the bank it has fenced (R339). -/
def fenceBank (s : State) (p die bank : Nat) : State :=
  if fencedBank s p die != 15 then s
  else
    let s := s.set (if die = 0 then SLAB_STAT_FENCED0 else SLAB_STAT_FENCED1) bank p
    singleFault (s.siltDev 0x0020 [p, die, bank]) (some p)

/-- A word was rebuilt from parity; more than BANK_THRESH within 1 s fence its bank. -/
def countRebuild (s : State) (p die bank : Nat) : State :=
  let s := s.stick SLAB_STAT_REBUILT p
  let x := s.pond p
  let now := s.time.count
  let l := (x.rebuilds.filter fun e => now < e.2 + 1000000000) ++ [(9 * die + bank, now)]
  let s := s.setPond p { x with rebuilds := l }
  if countOf (fun e => e.1 == 9 * die + bank) l > s.get SLAB_CFG_BANK_THRESH p then fenceBank s p die bank else s

/-- A word that cannot be rebuilt (R338): the pond cache refills its line; a scratch line fails until it is written
whole. -/
def slabLost (s : State) (p off : Nat) : State :=
  let s := s.stick SLAB_STAT_UE p
  let line := (scratchBase p + off) / 64
  if inScratch s p off && !s.badLines.contains line then { s with badLines := line :: s.badLines } else s

/-- A read of the word at slab offset `off` (R337, R339). Three or more wrong bits are beyond what the inner code tells
apart: it corrects the word wrongly, or finds a double error. -/
def slabWord (s : State) (p off : Nat) (e : SlabErrors) : State :=
  let die := off / 64 % 2
  let bank := off / 128 % 8
  let f := fencedBank s p die
  if p ≥ 96 || off ≥ 24 * 2 ^ 20 then s
  else if f == bank then (if e.badSources = 0 then s else slabLost s p off)
  else if e.bits ≤ 1 then s
  else
    let (n, s) := if e.bits = 2 then (0, s) else s.fresh
    if n % 2 = 1 then s.makeStale (scratchBase p + off / 8 * 8) (scratchBase p + off / 8 * 8 + 8)
    else if e.badSources = 0 && f == 15 then countRebuild s p die bank
    else slabLost s p off

/-- SLAB_SCRUB (R343). -/
def execSlabScrub (p off : Nat) (e : SlabErrors) (s : State) : Res := .next (slabWord s p off e)

/-- SLAB_READ (R337, R338). -/
def execSlabRead (p off : Nat) (e : SlabErrors) (s : State) : Res := .next (slabWord s p off e)

/-! Calibration probes (R345 to R347). -/

/-- CALIBRATION_PROBE: the next lane's sample point moves by +δ (`samplePoint`). -/
def execCalibrationProbe (chan : Nat) (s : State) : Res :=
  .next (
    let x := s.chan chan
    if chan ≥ 96 || !s.flag MEM_CAL_EN || x.probe.isSome then s
    else s.setChan chan { x with probe := some ⟨x.nextLane, false, 0, 0, 0, false, max 1 (s.get MEM_CAL_DELTA)⟩, nextLane := (x.nextLane + 1) % 16 })

/-- What a phase counted: WIN + 1 where it aborted. -/
def phaseCount (s : State) (p : Probe) : Nat := if p.aborted then max 256 (s.get MEM_CAL_WIN) + 1 else p.count

/-- Move the centre of a lane by one step, within MAX_OFF of its trained value (R347). -/
def recentre (s : State) (chan lane plus minus : Nat) : State :=
  let x := s.chan chan
  let c := chan / 8
  let now := lookD x.centres lane 0
  let h := s.get MEM_CAL_HYST
  let want : Int := if plus > minus + h then now - 1 else if minus > plus + h then now + 1 else now
  let bound : Int := (s.get MEM_CAL_MAX_OFF : Nat)
  if want = now then s
  else if want.natAbs > bound.natAbs then s.stick MCTL_CAL_BOUND c
  else (s.setChan chan { x with centres := ins x.centres lane want }).sat MCTL_CAL_MOVES 1 c

/-- PROBE_PHASE_END: after WIN reads or an abort, the second phase begins, or the lane's centre may move. -/
def execProbePhaseEnd (chan : Nat) (s : State) : Res :=
  .next (
    let x := s.chan chan
    match x.probe with
    | none => s
    | some p =>
      if !p.aborted && p.reads < max 256 (s.get MEM_CAL_WIN) then s
      else if !p.minus then
        s.setChan chan { x with probe := some { p with minus := true, reads := 0, count := 0, plus := phaseCount s p, aborted := false } }
      else recentre (s.setChan chan { x with probe := none }) chan p.lane p.plus (phaseCount s p))

/-- PROBE_ABANDON (R346): a phase has not gathered WIN reads within 50 ms; the probe changes nothing. -/
def execProbeAbandon (chan : Nat) (s : State) : Res :=
  .next (
    let x := s.chan chan
    match x.probe with
    | none => s
    | some p => if p.aborted || p.reads ≥ max 256 (s.get MEM_CAL_WIN) then s else s.setChan chan { x with probe := none })

/-! Translation changes (R333) and refresh (R334). -/

/-- A write of MEM_TLBINV. -/
def tlbInvWrite (s : State) (v : Nat) : State :=
  if s.flag MEM_TLBINV_BUSY then s.stick MEM_STAT_TLBINV_LOST
  else
    let space := bits v 2 2
    let all := v.testBit 1
    let va := bits v 21 22 * 2 ^ 21
    let gone (e : TlbEnt) : Bool := if all then e.space == space else e.covers space va
    let wgone (w : Nat × Nat) : Bool := if all then w.1 / 8192 == space else w.1 == space * 8192 + va / 2 ^ 30
    let hit (x : PondSt) (f : Fill) : Bool := f.tag % 4096 != 0 && f.tag / 4096 == space
      && (all || x.tlb.any fun e => gone e && e.base ≤ 128 * f.line && 128 * f.line < e.base + (if e.big then 2 ^ 30 else 2 ^ 21))
    let s := { s with ponds := s.ponds.map fun (kx : Nat × PondSt) =>
      (kx.1, { kx.2 with
        tlb := kx.2.tlb.filter (!gone ·), walk := kx.2.walk.filter (!wgone ·)
        fills := kx.2.fills.map fun f => if hit kx.2 f then { f with purged := true } else f }) }
    s.set MEM_TLBINV_BUSY 1

/-- TLB_INVALIDATE. -/
def execTlbInvalidate (value : Nat) (s : State) : Res := .next (tlbInvWrite s value)

/-- TLB_INVALIDATE_DONE: BUSY clears once every access translated by a purged entry has reached its controller or slab;
those under way are the prefetches that no controller has served (R333, R348). -/
def execTlbInvalidateDone (s : State) : Res :=
  .next (if s.ponds.any fun kx => kx.2.fills.any fun f => f.purged && !f.served then s else s.set MEM_TLBINV_BUSY 0)

/-- SLAB_RECONFIGURE (R317): on an idle pond a waiting change takes effect. -/
def execSlabReconfigure (p : Nat) (s : State) : Res := .next (if p < 96 && pondIdle s p then slabReconfig s p else s)

/-- PER_BANK_REFRESH (R334): the bank is refreshed, and the rate is 2^REF_MULT times the one that the temperature in MR4
requires. -/
def execPerBankRefresh (chan bank mr4 : Nat) (s : State) : Res :=
  .next (if chan < 96 ∧ bank < 16 then
      s.setChan chan { s.chan chan with rate := mr4 * 2 ^ s.get MEM_CFG_REF_MULT, bank := bank }
    else s)

end Sys2Proof.Machine
end

