-- ==== Sys2Proof/Machine/Elem.lean ====
section
/-! DEFINITION. Element programs of the vector engines (R155, R163 to R171): their check, their micro-operations in
every lane class, and the transcendental functions. A value is its code in the class's type. -/

namespace Sys2Proof.Machine

/-! Transcendental functions on FP32 codes (R169 to R171). -/

/-- floor(ln 2 × 2^200). -/
def ln2c : Nat := 1113844574712631719546256151097547306333272293549090750737802

/-- e^(x ÷ 2^200) × 2^200 for 0 ≤ x < 2^200, by its series. -/
def expSeries : Nat → Nat → Nat → Nat → Nat → Nat
  | 0, _, _, acc, _ => acc
  | f + 1, x, term, acc, k => let t := term * x / (k * 2 ^ 200); expSeries f x t (acc + t) (k + 1)

/-- 2^a. -/
def exp2C (c : Nat) : Nat :=
  match f32 c with
  | .nan => f32nan
  | .inf s => if s then 0 else 0x7F800000
  | .fin s m e =>
    if m = 0 then f32one
    else
      let v : Num := .fin s m e
      let n := v.floor
      if n ≥ 128 then 0x7F800000
      else if n < -160 then 0
      else
        -- the fraction × 2^200
        let d := v.dy.sub (Dy.ofInt n)
        let fr := if d.e ≤ -200 then d.i.natAbs / pow2 (-200 - d.e) else d.i.natAbs * pow2 (200 + d.e)
        if d.i = 0 then fp32.round false 1 1 n
        else
          let x := fr * ln2c / 2 ^ 200
          let r := expSeries 60 x (2 ^ 200) (2 ^ 200) 1
          fp32.round false (2 * r + 1) 1 (n - 201)

/-- Bits of log₂ y for y in [1, 2), y scaled by 2^300; most significant first. -/
def log2Bits : Nat → Nat → Nat → Nat
  | 0, _, acc => acc
  | f + 1, y, acc =>
    let z := y * y / 2 ^ 300
    if z ≥ 2 ^ 301 then log2Bits f (z / 2) (2 * acc + 1) else log2Bits f z (2 * acc)

/-- log₂ a. -/
def log2C (c : Nat) : Nat :=
  match f32 c with
  | .nan => f32nan
  | .inf s => if s then f32nan else 0x7F800000
  | .fin s m e =>
    if m = 0 then 0xFF800000
    else if s then f32nan
    else
      let k := Nat.log2 m
      let n : Int := k + e
      if m = 2 ^ k then f32ofInt n
      else
        let b := log2Bits 120 (m * 2 ^ (300 - k)) 0
        let v : Int := n * 2 ^ 121 + (2 * b + 1 : Nat)
        fp32.round (decide (v < 0)) v.natAbs 1 (-121)

/-- 1 ÷ a. -/
def rcpC (c : Nat) : Nat := fp32.div (.fin false 1 0) (f32 c)

/-- 1 ÷ √a. -/
def rsqC (c : Nat) : Nat :=
  match f32 c with
  | .nan => f32nan
  | .inf s => if s then f32nan else 0
  | .fin s m e =>
    if m = 0 then (if s then 0xFF800000 else 0x7F800000)
    else if s then f32nan
    else
      let odd := e % 2
      let m' := m * pow2 odd
      let r := isqrt (2 ^ 160 / m')
      let sticky := if r * r * m' = 2 ^ 160 then 0 else 1
      fp32.round false (2 * r + sticky) 1 (-((e - odd) / 2) - 81)

/-- SIGM (R170). -/
def sigmC (x : Nat) : Nat := rcpC (fp32.addC f32one (exp2C (fp32.mulC x 0xBFB8AA3B)))

/-- TANH (R170). -/
def tanhC (x : Nat) : Nat :=
  match f32 x with
  | .nan => f32nan
  | v =>
    if v.abs.lt (.fin false 1 (-12)) then x
    else
      let t := exp2C (fp32.mulC (x % 2 ^ 31) 0xC038AA3B)
      let q := fp32.mulC (fp32.subC f32one t) (rcpC (fp32.addC f32one t))
      q % 2 ^ 31 + (x / 2 ^ 31) * 2 ^ 31

/-! Classes (R155). -/

/-- The class's floating-point format; INT8 has none. -/
def clsFmt (cls : Nat) : Fmt := listGet [fp32, bf16, fp16, fp32, e4m3, e5m2] cls fp32
/-- Elements in a lane group. -/
def clsGroup (cls : Nat) : Nat := listGet [64, 128, 128, 256, 256, 256] cls 64
/-- The base format of an 8-bit class (R175). -/
def clsBase (cls : Nat) : Nat := listGet [0, 1, 2, 0x10, 0x08, 0x09] cls 0
def clsWidth (cls : Nat) : Nat := listGet [32, 16, 16, 8, 8, 8] cls 8
/-- The class's one. -/
def clsOne (cls : Nat) : Nat := listGet [0x3F800000, 0x3F80, 0x3C00, 1, 0x38, 0x3C] cls 0

/-- The value of a class code. -/
def clsVal (cls c : Nat) : Num :=
  if cls = 3 then (let i := toS 8 c; .fin (decide (i < 0)) i.natAbs 0) else (clsFmt cls).dec c

/-- An FP32 constant or scalar in the class's type (R165). -/
def clsConst (cls v : Nat) : Nat :=
  if cls = 0 then v else if cls < 3 then fp32.cvt (clsFmt cls) v else v % 256

/-- An index in the class's type (R165). -/
def clsIndex (cls i : Nat) : Nat :=
  if cls = 0 then i
  else if cls < 3 then (clsFmt cls).round false i 1 0
  else if cls = 3 then min 127 i
  else min (if cls = 4 then 0x7E else 0x7B) (roundMag (clsFmt cls) i 1 0)

/-! Micro-operations (R164 to R168). -/

/-- How many of a, b, c an operation uses, the classes it runs in, and its cost in lane cycles at the FP32, H and 8-bit
lane groups. -/
structure UopInfo where
  args : Nat
  classes : List Nat
  /-- 0, 1, or 100 and 200 for T and 2T -/
  cost : Nat
  deriving DecidableEq, Repr

def uopInfo (u : Nat) : Option UopInfo :=
  let all := [0, 1, 2, 3, 4, 5]
  let fh := [0, 1, 2]
  match u with
  | 0x00 => some ⟨0, all, 0⟩
  | 0x01 | 0x09 | 0x0A => some ⟨1, all, 1⟩
  | 0x02 | 0x03 | 0x04 | 0x0E => some ⟨2, fh, 1⟩
  | 0x05 | 0x06 => some ⟨3, fh, 1⟩
  | 0x07 | 0x08 | 0x0B => some ⟨2, all, 1⟩
  | 0x0C => some ⟨3, all, 1⟩
  | 0x0D => some ⟨1, fh, 1⟩
  | 0x10 | 0x11 | 0x12 | 0x13 => some ⟨1, fh, 100⟩
  | 0x14 | 0x15 => some ⟨1, fh, 200⟩
  | 0x18 => some ⟨1, [0], 1⟩
  | 0x20 | 0x21 => some ⟨2, [0, 3], 1⟩
  | 0x22 | 0x26 | 0x27 | 0x28 => some ⟨2, [0], 1⟩
  | 0x23 | 0x24 | 0x25 => some ⟨2, [0, 3, 4, 5], 1⟩
  | _ => none

/-- Lane cycles of an operation (R155, R166). -/
def uopCost (cls : Nat) (i : UopInfo) : Nat := if i.cost < 100 then i.cost else (i.cost / 100) * (clsGroup cls / 16)

structure Uop where
  op : Nat
  dst : Nat
  sa : Nat
  sb : Nat
  sc : Nat
  aux : Nat
  deriving DecidableEq, Repr

def Uop.ofNat (w : Nat) : Uop := ⟨bits w 0 6, bits w 6 4, bits w 10 5, bits w 15 5, bits w 20 5, bits w 25 4⟩

/-- A program as its 192-byte image gives it. -/
structure Prog where
  nin : Nat
  nout : Nat
  cls : Nat
  k : List Nat
  uops : List Uop
  deriving DecidableEq, Repr

def Prog.ofBytes (b : List Byte) : Prog :=
  let v := leNat b
  ⟨bits v 8 3, bits v 12 2, bits v 16 3, (upto 8).map fun i => bits v (256 + 32 * i) 32,
    (upto (bits v 0 6)).map fun i => Uop.ofNat (bits v (512 + 32 * i) 32)⟩

/-- Temporaries that a program writes. -/
def Prog.written (p : Prog) : List Nat := nubN (p.uops.filterMap fun u => if u.op != 0 && u.dst < 8 then some u.dst else none)

/-- An operand a micro-operation uses is admissible, given the temporaries written before it. -/
def operandOk (p : Prog) (wr : List Nat) (o : Nat) : Bool :=
  if o < 8 then wr.contains o
  else if o < 12 then o - 8 < p.nin
  else if o < 16 then false
  else if 0x18 ≤ o && o < 0x1C then p.cls < 3
  else true

/-- One micro-operation passes R167, given the temporaries written before it. -/
def uopOk (p : Prog) (wr : List Nat) (w : Nat) (u : Uop) : Bool :=
  match uopInfo u.op with
  | none => false
  | some i =>
    bits w 29 3 == 0 && i.classes.contains p.cls
      && (if u.op = 0 then w == 0
        else
          (u.dst < 8 || (8 ≤ u.dst && u.dst < 10 && u.dst - 8 < p.nout))
          && (if i.args ≥ 1 then operandOk p wr u.sa else u.sa == 0)
          && (if i.args ≥ 2 then operandOk p wr u.sb else u.sb == 0)
          && (if i.args ≥ 3 then operandOk p wr u.sc else u.sc == 0)
          && (if u.op = 0x0B || u.op = 0x28 then u.aux < 8 else if u.op = 0x18 then u.aux < 5 else u.aux == 0))

def uopsOk (p : Prog) : List Nat → List (Nat × Uop) → Bool
  | _, [] => true
  | wr, (w, u) :: l => uopOk p wr w u && uopsOk p (if u.op != 0 && u.dst < 8 then u.dst :: wr else wr) l

/-- The check of VPLOAD (R163, R164, R167). -/
def imageOk (b : List Byte) : Bool :=
  let v := leNat b
  let p := Prog.ofBytes b
  let n := bits v 0 6
  let ws := (upto n).map fun i => bits v (512 + 32 * i) 32
  1 ≤ n && n ≤ 32 && bits v 6 2 == 0 && p.nin ≤ 4 && bits v 11 1 == 0 && p.nout ≤ 2 && bits v 14 2 == 0 && p.cls ≤ 5
    && bits v 19 5 == 0 && bits v 24 232 == 0 && uopsOk p [] (ws.zip p.uops)
    && (upto p.nout).all fun k => p.uops.any fun u => u.op != 0 && u.dst == 8 + k

/-- Lane cycles of the program for one lane group (R156). -/
def Prog.cost (p : Prog) : Nat :=
  p.uops.foldl (fun n u => match uopInfo u.op with | some i => n + uopCost p.cls i | none => n) 0

/-! Results. -/

def Num.isNan : Num → Bool
  | .nan => true
  | _ => false

/-- The smaller code; −0 is less than +0; NaN is canonical (R168). -/
def minC (cls a b : Nat) : Nat :=
  let x := clsVal cls a
  let y := clsVal cls b
  if x.isNan || y.isNan then (clsFmt cls).nan
  else if x.lt y || (x.eq y && x.sgn) then a else b

def maxC (cls a b : Nat) : Nat :=
  let x := clsVal cls a
  let y := clsVal cls b
  if x.isNan || y.isNan then (clsFmt cls).nan
  else if y.lt x || (x.eq y && !x.sgn) then a else b

def cmpNum (aux : Nat) (x y : Num) : Bool :=
  let un := x.isNan || y.isNan
  match aux with
  | 0 => x.eq y
  | 1 => !x.eq y
  | 2 => x.lt y
  | 3 => x.le y
  | 4 => y.lt x
  | 5 => y.le x
  | 6 => un
  | _ => !un

def cmpInt (aux : Nat) (x y : Int) : Bool :=
  match aux with
  | 0 => x == y
  | 1 => x != y
  | 2 => decide (x < y)
  | 3 => decide (x ≤ y)
  | 4 => decide (y < x)
  | 5 => decide (y ≤ x)
  | 6 => false
  | _ => true

/-- Nonzero and not NaN. -/
def truthC (cls c : Nat) : Bool := let v := clsVal cls c; !v.isNan && !v.isZero

/-- floor, exact (R166). -/
def floorC (f : Fmt) (c : Nat) : Nat :=
  match f.dec c with
  | .nan => f.nan
  | .inf _ => c
  | v => if v.isZero then c else (let i := v.floor; f.round (decide (i < 0)) i.natAbs 1 0)

def satI8 (i : Int) : Nat := ofS 8 (clampI (-128) 127 i)

/-- Sign-bit position of a class. -/
def signBit (cls : Nat) : Nat := clsWidth cls - 1

def absC (cls c : Nat) : Nat :=
  if cls = 3 then satI8 (toS 8 c).natAbs
  else if (clsVal cls c).isNan then (clsFmt cls).nan else c % 2 ^ signBit cls

def negC (cls c : Nat) : Nat :=
  if cls = 3 then satI8 (-(toS 8 c))
  else if (clsVal cls c).isNan then (clsFmt cls).nan
  else if c.testBit (signBit cls) then c - 2 ^ signBit cls else c + 2 ^ signBit cls

/-- An FP32 function in the class's type: widened, applied, rounded once (R169). -/
def viaF32 (cls : Nat) (g : Nat → Nat) (c : Nat) : Nat :=
  if cls = 0 then g c else fp32.cvt (clsFmt cls) (g ((clsFmt cls).cvt fp32 c))

def toI32 (round : Num → Int) (c : Nat) : Nat :=
  match f32 c with
  | .nan => 0
  | .inf s => ofS 32 (if s then -(2 ^ 31) else 2 ^ 31 - 1)
  | v => ofS 32 (clampI (-(2 ^ 31)) (2 ^ 31 - 1) (round v))

def cvtC (aux c : Nat) : Nat :=
  match aux with
  | 0 => toI32 Num.toIntNE c
  | 1 => toI32 Num.trunc c
  | 2 => f32ofInt (toS 32 c)
  | 3 => bf16.cvt fp32 (fp32.cvt bf16 c)
  | _ => fp16.cvt fp32 (fp32.cvt fp16 c)

/-- The result of a micro-operation on a, b, c. -/
def uopRun (cls : Nat) (u : Uop) (a b c : Nat) : Nat :=
  let f := clsFmt cls
  let w := clsWidth cls
  match u.op with
  | 0x01 => a
  | 0x02 => f.addC a b
  | 0x03 => f.subC a b
  | 0x04 => f.mulC a b
  | 0x05 => f.fmaC a b c
  | 0x06 => f.enc ((((f.dec a).mul (f.dec b)).neg).add (f.dec c))
  | 0x07 => minC cls a b
  | 0x08 => maxC cls a b
  | 0x09 => absC cls a
  | 0x0A => negC cls a
  | 0x0B => if cmpNum u.aux (clsVal cls a) (clsVal cls b) then clsOne cls else 0
  | 0x0C => if truthC cls a then b else c
  | 0x0D => floorC f a
  | 0x0E => if (f.dec a).isNan then f.nan else a % 2 ^ (w - 1) + (b / 2 ^ (w - 1)) * 2 ^ (w - 1)
  | 0x10 => viaF32 cls exp2C a
  | 0x11 => viaF32 cls log2C a
  | 0x12 => viaF32 cls rcpC a
  | 0x13 => viaF32 cls rsqC a
  | 0x14 => viaF32 cls tanhC a
  | 0x15 => viaF32 cls sigmC a
  | 0x18 => cvtC u.aux a
  | 0x20 => if cls = 3 then satI8 (toS 8 a + toS 8 b) else (a + b) % 2 ^ 32
  | 0x21 => if cls = 3 then satI8 (toS 8 a - toS 8 b) else (a + 2 ^ 32 - b) % 2 ^ 32
  | 0x22 => a * b % 2 ^ 32
  | 0x23 => a &&& b
  | 0x24 => a ||| b
  | 0x25 => a ^^^ b
  | 0x26 => a * 2 ^ (b % 32) % 2 ^ 32
  | 0x27 => ofS 32 (toS 32 a / 2 ^ (b % 32))
  | 0x28 => b2n (cmpInt u.aux (toS 32 a) (toS 32 b))
  | _ => 0

/-- What an element sees: inputs as class codes, scalars P0 to P3, its index, row and column. -/
structure ElemIn where
  ins : List Nat
  p : List Nat
  idx : Nat
  row : Nat
  col : Nat
  deriving DecidableEq, Repr

/-- Temporaries and outputs of an element, by number. -/
structure ElemSt where
  e : SMap Nat
  o : SMap Nat
  deriving DecidableEq, Repr

def operandVal (p : Prog) (x : ElemIn) (st : ElemSt) (o : Nat) : Nat :=
  if o < 8 then lookD st.e o 0
  else if o < 16 then listGet x.ins (o - 8) 0
  else if o < 0x18 then clsConst p.cls (listGet p.k (o - 0x10) 0)
  else if o < 0x1C then clsConst p.cls (listGet x.p (o - 0x18) 0)
  else if o = 0x1C then clsIndex p.cls x.idx
  else if o = 0x1D then clsIndex p.cls x.row
  else if o = 0x1E then clsIndex p.cls x.col
  else 0

def uopStep (p : Prog) (x : ElemIn) (st : ElemSt) (u : Uop) : ElemSt :=
  if u.op = 0 then st
  else
    let v := uopRun p.cls u (operandVal p x st u.sa) (operandVal p x st u.sb) (operandVal p x st u.sc)
    if u.dst < 8 then { st with e := ins st.e u.dst v } else { st with o := ins st.o (u.dst - 8) v }

/-- Run the program for one element. -/
def runElem (p : Prog) (x : ElemIn) : ElemSt := p.uops.foldl (uopStep p x) ⟨[], []⟩

/-! Exact sums, and summaries (R173, R181, R182). -/

/-- The exact sum of values, by the rules of SUM, as a number. -/
def exactSum (l : List Num) : Num :=
  let pinf := l.any fun v => v == .inf false
  let ninf := l.any fun v => v == .inf true
  if l.any Num.isNan || (pinf && ninf) then .nan
  else if pinf then .inf false
  else if ninf then .inf true
  else (l.foldl (fun d v => d.add v.dy) Dy.zero).num

def foldMax (l : List Num) : Option Num :=
  l.foldl
    (fun m v => if !v.isFin then m
      else match m with
        | none => some v
        | some w => if w.lt v || (w.eq v && w.sgn && !v.sgn) then some v else m)
    none

/-- A summary register's contents, from (index, value) of the active elements. -/
def summaryOf (kind : Nat) (l : List (Nat × Num)) : Nat :=
  let vs := l.map (·.2)
  let nf := vs.any fun v => !v.isFin
  let mx := foldMax vs
  let val : Nat := match kind with
    | 0 => fp32.enc (exactSum vs)
    | 2 => (match foldMax (vs.map Num.neg) with | some v => fp32.enc v.neg | none => 0x7F800000)
    | 3 => (match foldMax (vs.map Num.abs) with | some v => fp32.enc v | none => 0)
    | 4 => countOf (fun v => !v.isNan && !v.isZero) vs
    | 5 => countOf (fun v => !v.isFin) vs
    | _ => (match mx with | some v => fp32.enc v | none => 0xFF800000)
  let idx : Nat := if kind = 6 then
      (match mx with
        | some v => (match l.find? fun iv => iv.2.isFin && iv.2.eq v with | some iv => iv.1 | none => 0xFFFF)
        | none => 0xFFFF)
    else 0
  val + 2 ^ 32 * (idx % 2 ^ 16) + 2 ^ 48 * kind + 2 ^ 51 * b2n nf + 2 ^ 52

end Sys2Proof.Machine
end

