-- ==== Sys2Proof/Machine/Vector.lean ====
section
/-! DEFINITION. The vector engines (chapter 06): VPLOAD, VEXEC with its streams, row results, summaries and second-pass
encoding, VTRANS and VMASK. -/

namespace Sys2Proof.Machine

open Sys2Proof

/-- The GC whose vector state a queue's commands use, and the GC that runs them. -/
def veHome (s : State) (q : Nat) : Nat := hGlobal (homeOfQ s q)
def veUnit (s : State) (q : Nat) : Nat := hGlobal (s.qget QTAB_CFG_CONSUMER q)

/-- Bit i of a mask register; M0 reads as all ones (R160). -/
def maskOf (x : VeState) (m : Nat) : Nat := if m = 0 then 2 ^ 65536 - 1 else lookD x.masks m 0

/-- A mask output of an earlier command of the queue is not yet committed: mask readers take effect after it (R24,
R182). -/
def maskPending (s : State) (q : Nat) (c : Cmd) : Bool :=
  ((s.q q).started.takeWhile fun d => d.seq != c.seq).any fun d =>
    d.fx.any fun x => match x with | .mask _ _ _ => true | _ => false

/-- Run a vector command once the mask outputs before it are committed. -/
def runVector (s : State) (q opc : Nat) (body : EM Unit) : State :=
  match unitCmd s q opc with
  | none => s
  | some c => if maskPending s q c then s else runBody s q c body

/-! Operand bytes (R157, R158). -/

/-- An operand address: in the tile space, or a local address; none where reserved bits are set. -/
def operandAddr (v : Nat) : Option (Bool × Nat) :=
  if v.testBit 63 then (if bits v 5 58 = 0 then some (true, 2048 * bits v 0 5) else none)
  else if bits v 43 20 = 0 then some (false, bits v 0 43) else none

def tileBytes (x : VeState) (a n : Nat) : List Byte := (upto n).map fun i => lookD x.tiles (a + i) 0

def tilePut (m : SMap Byte) (a : Nat) (d : List Byte) : SMap Byte :=
  (d.zipIdx).foldl (fun m bi => cellPut m (a + bi.2) bi.1 0) m

/-- Read and write operand bytes; traffic to scratch and main memory is counted (R486). -/
def rdOp (home : Nat) (tile : Bool) (a n : Nat) : EM (List Byte) := do
  if tile then return tileBytes (← gets (·.ve home)) a n
  countC 2 n
  ld a n

def wrOp (home : Nat) (tile : Bool) (a : Nat) (d : List Byte) : EM Unit := do
  if tile then onS fun s => let x := s.ve home; s.setVe home { x with tiles := tilePut x.tiles a d }
  else do
    countC 2 d.length
    st a d

/-- A read of these bytes would fail. -/
def wouldFail (a n : Nat) : EM Bool := do
  let e ← get
  return match (resolve e.s e.ctx a n false).1 with
    | .ok parts => parts.any fun p => ueRange e.s p.1 p.2
    | .error (.hostWin _) => !hostOpen e.s
    | .error _ => true

/-- Segments of 64 bytes that [a, a+n) touches. -/
def segsOf (a n : Nat) : List Nat := if n = 0 then [] else (upto ((a + n - 1) / 64 - a / 64 + 1)).map (a / 64 + ·)

/-- Count suppressed segment faults (R162). -/
def suppress (unit n : Nat) : EM Unit := do
  if n = 0 then return ()
  onS fun s => (s.stick VE_STAT_MFAULT unit).sat VE_STAT_MFAULT_CNT n unit
  countC 3 n

/-- A run of a stream's bytes: where it lies, and the bytes that belong to active elements. -/
structure Run where
  tile : Bool
  addr : Nat
  n : Nat
  act : List (Nat × Nat)
  deriving DecidableEq, Repr

/-- Segments of memory that hold active elements of some run. -/
def activeSegs (l : List Run) : List Nat :=
  nubN (l.flatMap fun r => if r.tile then [] else (r.act.flatMap fun a => segsOf a.1 a.2).eraseReps)

/-- Segments that runs reach and in which every element is inactive, each once (R161, R162). -/
def idleSegs (l : List Run) : List Nat :=
  let act := activeSegs l
  nubN (l.flatMap fun r => if r.tile then [] else (segsOf r.addr r.n).filter fun g => !act.contains g)

/-- Fetch a run: its active segments are read, the others are not (R161). -/
def fetch (home : Nat) (act : List Nat) (r : Run) : EM (List Byte) := do
  if r.tile then return tileBytes (← gets (·.ve home)) r.addr r.n
  let d ← (segsOf r.addr r.n).mapM fun g => do
    let lo := max r.addr (64 * g)
    let k := min (r.addr + r.n) (64 * g + 64) - lo
    if act.contains g then rdOp home false lo k else pure (List.replicate k 0)
  return d.flatten

/-! Streams (R172 to R176). -/

structure Strm where
  out : Bool
  tile : Bool
  addr : Nat
  raw : Nat
  fmt : Nat
  mode : Nat
  mreg : Nat
  rs : Nat
  t : Nat
  sums : Nat
  deriving DecidableEq, Repr

/-- A stream's format is admissible in its class, mode and direction (R173 to R175). -/
def strmFmtOk (cls : Nat) (s : Strm) : Bool :=
  if cls ≥ 3 then s.fmt == clsBase cls && (!s.out || s.mode != 3) && s.sums == 0 && scaleOk s.t
  else if !fmtOk s.fmt true then false
  else if s.out && s.mode == 4 then fmtBase s.fmt != 3 && s.sums == 0 && (!fmtScaled s.fmt || scaleOk s.t)
  else if fmtScaled s.fmt then
    scaleOk s.t
      && (if s.out && s.mode != 3 then (s.mode == 0 || s.mode == 5) && s.sums != 0 else (s.out || cls == 0) && s.sums == 0)
  else
    s.sums == 0 && !(s.out && s.mode == 3)
      && (fmtBase s.fmt != 3 || (!s.out && cls == 0))
      && !(s.out && s.mode == 5 && fmtBase s.fmt > 1)

/-- Decode and check a stream descriptor; none: status 0x10. -/
def strmOf (cls : Nat) (out : Bool) (v : Nat) : Option Strm :=
  match operandAddr (bits v 0 64) with
  | none => none
  | some (tile, a) =>
    let s : Strm := ⟨out, tile, a, bits v 0 64, bits v 64 8, bits v 72 3, bits v 80 3, bits v 96 32, bits v 128 32,
      bits v 192 43⟩
    let ok := bits v 75 5 == 0 && bits v 83 13 == 0 && bits v 160 32 == 0 && bits v 235 21 == 0
      && s.mode ≤ (if out then 5 else 2)
      && (!out || s.mode != 4 || s.mreg != 0) && strmFmtOk cls s
    if ok then some s else none

/-- Where the deltas start after `nb` summaries at `a` (R177). -/
def deltasAt (a nb : Nat) : Nat := roundUp 64 (a + 8 * nb)

/-- A command's shape: elements, row length, rows, and the active elements. -/
structure Shape where
  n : Nat
  rowlen : Nat
  rows : Nat
  act : List Nat
  deriving DecidableEq, Repr

/-- Active columns of a row. -/
def Shape.cols (x : Shape) (r : Nat) : List Nat :=
  (x.act.filter fun i => i / x.rowlen == r).map (· % x.rowlen)

/-- Elements of a row: the last may be short (R172). -/
def Shape.len (x : Shape) (r : Nat) : Nat := min x.rowlen (x.n - r * x.rowlen)

/-- Blocks of a whole row, and of row `r`: a short row has those of its own elements (R107, R174). -/
def Shape.nbr (x : Shape) : Nat := (x.rowlen + 31) / 32
def Shape.nb (x : Shape) (r : Nat) : Nat := (x.len r + 31) / 32

/-- Blocks of every row (R177). -/
def Shape.nbAll (x : Shape) : Nat := (x.rows - 1) * x.nbr + x.nb (x.rows - 1)

/-- Bytes from one row to the next: a packed block-scaled row is padded to 16 bytes (R174). -/
def rowPitch (s : Strm) (rowlen : Nat) : Nat :=
  if s.rs != 0 then s.rs else if fmtScaled s.fmt then roundUp 16 (vecLayout s.fmt rowlen).2 else (vecLayout s.fmt rowlen).2

/-- Operand tiles of a MODE 5 output: K-blocks that some row of a group has (R174). -/
def tileCount (x : Shape) : Nat :=
  (x.rows - 1) / 32 * x.nbr + (if (x.rows - 1) % 32 = 0 then x.nb (x.rows - 1) else x.nbr)

/-- Bytes from a stream's address to its end: those that its elements or blocks occupy (R157). -/
def strmSpan (s : Strm) (x : Shape) : Nat :=
  let nb := x.nbAll
  match s.mode with
  | 0 =>
    max ((x.rows - 1) * rowPitch s x.rowlen + (vecLayout s.fmt (x.len (x.rows - 1))).2)
      (if x.rows < 2 then 0 else (x.rows - 2) * rowPitch s x.rowlen + (vecLayout s.fmt x.rowlen).2)
  | 1 => (vecLayout s.fmt x.rows).2
  | 2 => (vecLayout s.fmt (if s.out then x.rows else x.len 0)).2
  | 3 => if fmtFS s.fmt then deltasAt s.addr nb - s.addr + 4 * nb else 8 * nb
  | 5 => tileCount x * tileSize s.fmt
  | _ => 0

/-- Tile operands end within T31, and no output overlaps another stream or the descriptors, but for an update in place
(R157, R176). -/
def rangesOk (x : Shape) (sd nd : Nat) (ss : List Strm) : Bool :=
  let sp (s : Strm) : Nat := strmSpan s x
  ss.all (fun s => !s.tile || s.addr + sp s ≤ 65536)
    && (ss.zipIdx).all fun oi =>
      let o := oi.1
      !o.out || o.mode == 4
        || ((o.tile || !meets o.addr (sp o) sd (32 * nd))
          && (ss.take oi.2).all fun s =>
            s.mode == 4 || s.tile != o.tile || !meets o.addr (sp o) s.addr (sp s)
              || (o.mode == 0 && s.mode == 0 && !fmtScaled o.fmt && s.raw == o.raw && s.fmt == o.fmt && s.rs == o.rs))

/-! Inputs. -/

/-- Active byte ranges of columns `cols` of a vector at `a`. -/
def needRanges (fmt a n : Nat) (cols : List Nat) : List (Nat × Nat) :=
  let e := (vecLayout fmt n).1
  if fmtScaled fmt then
    (nubN (cols.map (· / 32))).flatMap fun b => [(a + 4 * b, 4), (a + e + slotBytes fmt * b, slotBytes fmt)]
  else cols.map fun c => (a + fmtBytes fmt * c, fmtBytes fmt)

/-- An unscaled element's code in the class's type (R175). -/
def inCode (cls fmt raw : Nat) : Nat :=
  match unscaledFmt (fmtBase fmt) with
  | none => 0
  | some f => if f == clsFmt cls then raw else f.cvt (clsFmt cls) raw

/-- Decode the columns `act` of a vector's bytes to class codes, by column; and its block entries. Bad ternary codes and
scales 0xFF set NUM_STAT (R98, R124). DESIGN CHOICE (log 142): a block is decoded whole, so a bad code in any of its 32
elements sets BAD_CODE, and a block of scale 0xFF sets SCALE_NAN alone. -/
def decodeVec (cls : Nat) (s : Strm) (n : Nat) (d : List Byte) (act : List Nat) : EM (SMap Nat × List Nat) := do
  if !fmtScaled s.fmt then
    let w := fmtBytes s.fmt
    return (act.map (fun c => (c, inCode cls s.fmt (byteN d (w * c) w))), [])
  let e := (vecLayout s.fmt n).1
  let sz := slotBytes s.fmt
  let nb := (n + 31) / 32
  let ents := (upto nb).map fun b => byteN d (4 * b) 4
  let mut out : SMap Nat := []
  for b in nubN (act.map (· / 32)) do
    let slot := (d.drop (e + sz * b)).take sz
    let mine := act.filter fun c => c / 32 == b
    if cls ≥ 3 then out := out ++ mine.map fun c => (c, byteN slot (c % 32) 1)
    else
      let r := blockVals s.fmt s.t (BlockEntry.ofNat (listGet ents b 0)) slot
      if r.2.1 then onS (·.stick NUM_STAT_BAD_CODE)
      if r.2.2 then onS (·.stick NUM_STAT_SCALE_NAN)
      out := out ++ mine.map fun c => (c, fp32.enc (listGet r.1 (c % 32) .nan))
  return (out, ents)

/-- Entries of a broadcast input's array, and the entry that an element takes (R173). -/
def bcastLen (x : Shape) (s : Strm) : Nat := if s.mode = 1 then x.rows else x.len 0
def bcastPos (x : Shape) (s : Strm) (i : Nat) : Nat := if s.mode = 1 then i / x.rowlen else i % x.rowlen

/-- The runs that an input stream's elements lie in: one for each row, or the array of a broadcast. -/
def inputRuns (x : Shape) (s : Strm) : List Run :=
  if s.mode = 0 then (upto x.rows).map fun r =>
    let a := s.addr + r * rowPitch s x.rowlen
    ⟨s.tile, a, (vecLayout s.fmt (x.len r)).2, needRanges s.fmt a (x.len r) (x.cols r)⟩
  else
    let m := bcastLen x s
    [⟨s.tile, s.addr, (vecLayout s.fmt m).2, needRanges s.fmt s.addr m (nubN (x.act.map (bcastPos x s)))⟩]

/-- An input stream: class codes by element, and block entries by row. `seg`: the segments that are read. -/
def readInput (home cls : Nat) (x : Shape) (seg : List Nat) (s : Strm) : EM (SMap Nat × SMap (List Nat)) := do
  let ds ← (inputRuns x s).mapM (fetch home seg)
  if s.mode = 0 then
    let rows ← (ds.zipIdx).mapM fun dr => do
      let v ← decodeVec cls s (x.len dr.2) dr.1 (x.cols dr.2)
      pure (dr.2, v)
    return (rows.flatMap fun rv => rv.2.1.map fun cv => (rv.1 * x.rowlen + cv.1, cv.2), rows.map fun rv => (rv.1, rv.2.2))
  else
    let v ← decodeVec cls s (bcastLen x s) ds.flatten (nubN (x.act.map (bcastPos x s)))
    return (x.act.map (fun i => (i, lookD v.1 (bcastPos x s i) 0)),
      if s.mode = 2 then (upto x.rows).map fun r => (r, v.2) else [])

/-- The inputs of a command: a segment in which every element is inactive is not read, and a fault there is counted once
(R161, R162). Answers the segments counted. -/
def readInputs (home unit cls : Nat) (x : Shape) (ins : List Strm) : EM (List (SMap Nat × SMap (List Nat)) × List Nat) := do
  let runs := ins.flatMap (inputRuns x)
  let l ← ins.mapM (readInput home cls x (activeSegs runs))
  let sup ← (idleSegs runs).filterM fun g => wouldFail (64 * g) 64
  suppress unit sup.length
  return (l, sup)

/-! Outputs. -/

/-- An unscaled output element's bytes (R175). -/
def outBytes (cls fmt c : Nat) : List Byte :=
  match unscaledFmt (fmtBase fmt) with
  | none => []
  | some f => leBytes (fmtBytes fmt) (if f == clsFmt cls then c else (clsFmt cls).cvt f c)

/-- What a second pass reports (R179). -/
structure Report where
  esc : Nat
  sat : Nat
  unf : Nat
  deriving DecidableEq, Repr

/-- The class codes of a block's 32 elements; none: inactive, or past the row's end. -/
def blockCodes (x : Shape) (code : Nat → Option Nat) (r b : Nat) : List (Option Nat) :=
  (upto 32).map fun k => let c := 32 * b + k; if c < x.len r then code (r * x.rowlen + c) else none

/-- The blocks of row `r` of an output: entry and slot bytes. Inactive elements are zero elements (R161, R174). -/
def outBlocks (cls : Nat) (x : Shape) (s : Strm) (cfg : EscCfg) (sums deltas : List Byte) (ent : Nat → Nat)
    (code : Nat → Option Nat) (r : Nat) : List (List Byte × List Byte × Report) :=
  (upto (x.nb r)).map fun b =>
    let els := blockCodes x code r b
    if cls ≥ 3 then
      (leBytes 4 (ent b), els.map (fun c => BitVec.ofNat 8 (c.getD 0)), ⟨0, 0, 0⟩)
    else
      let j := r * x.nbr + b
      let l := els.map fun c => match c with | some v => clsVal cls v | none => .fin false 0 0
      let e := encSecond cfg s.fmt s.t (byteN sums (8 * j) 8) (byteN deltas (4 * j) 4) l
      (e.entry, e.slot s.fmt, ⟨b2n e.be.esc, e.sat, e.unf⟩)

/-- What an output writes in one place: the run that its elements lie in, and the bytes to write there. -/
structure Put where
  run : Run
  data : List (Nat × List Byte)
  deriving DecidableEq, Repr

/-- Bytes that are all written. -/
def Put.whole (tile : Bool) (a : Nat) (d : List Byte) : Put := ⟨⟨tile, a, d.length, [(a, d.length)]⟩, [(a, d)]⟩

/-- Join neighbouring pieces, so that a segment written whole is written at once. -/
def joinPieces (l : List (Nat × List Byte)) : List (Nat × List Byte) :=
  l.foldr (fun p acc => match acc with
    | (a, d) :: rest => if p.1 + p.2.length = a then (p.1, p.2 ++ d) :: rest else p :: acc
    | [] => [p]) []

/-- A write of `n` bytes at `a` would fail: it is refused, or meets an uncorrectable error in a segment that it does not
write whole (R342). -/
def writeFails (a n : Nat) : EM Bool := do
  let e ← get
  return match (resolve e.s e.ctx a n true).1 with
    | .ok parts => n < 64 && parts.any fun p => ueRange e.s p.1 p.2
    | .error (.hostWin _) => !hostOpen e.s
    | .error _ => true

/-- Write bytes but for the segments in `sup`. -/
def putPiece (home : Nat) (tile : Bool) (sup : List Nat) (p : Nat × List Byte) : EM Unit :=
  let gs := segsOf p.1 p.2.length
  if tile || !gs.any sup.contains then wrOp home tile p.1 p.2
  else
    (gs.filter fun g => !sup.contains g).forM fun g =>
      let lo := max p.1 (64 * g)
      let k := min (p.1 + p.2.length) (64 * g + 64) - lo
      wrOp home false lo ((p.2.drop (lo - p.1)).take k)

/-- Write the outputs of a command. A segment in which every element is inactive is not written where that would fail:
the fault is suppressed, and counted unless the inputs have counted it (R162). -/
def putOutputs (home unit : Nat) (counted : List Nat) (l : List Put) : EM Unit := do
  let pieces := joinPieces ((l.filter fun p => !p.run.tile).flatMap (·.data))
  let sup ← (idleSegs (l.map (·.run))).filterM fun g =>
    match (pieces.find? fun p => meets p.1 p.2.length (64 * g) 64) with
    | some p => writeFails (max p.1 (64 * g)) (min (p.1 + p.2.length) (64 * g + 64) - max p.1 (64 * g))
    | none => wouldFail (64 * g) 64
  suppress unit (countOf (fun g => !counted.contains g) sup)
  for p in pieces do putPiece home false sup p
  for p in (l.filter (·.run.tile)).flatMap (·.data) do wrOp home true p.1 p.2

/-- A block-scaled row of the layout of R107. -/
def rowBytes (fmt n : Nat) (bl : List (List Byte × List Byte × Report)) : List Byte :=
  let e := (vecLayout fmt n).1
  let ents := bl.flatMap (·.1)
  (ents ++ List.replicate (e - ents.length) 0) ++ bl.flatMap (·.2.1)

def addReport (l : List (List Byte × List Byte × Report)) : EM Unit := do
  countC 4 (l.foldl (fun n b => n + b.2.2.esc) 0)
  countC 5 (l.foldl (fun n b => n + b.2.2.sat) 0)
  countC 6 (l.foldl (fun n b => n + b.2.2.unf) 0)

def escSeen (unit : Nat) (l : List (List Byte × List Byte × Report)) : EM Unit :=
  if l.any fun b => b.2.2.esc > 0 then onS (·.stick VE_STAT_ESCALATED unit) else pure ()

/-- A row of an elementwise output: a block-scaled row is written whole, an unscaled one where its elements are active
(R161, R174). -/
def rowPut (cls : Nat) (x : Shape) (s : Strm) (bl : List (List Byte × List Byte × Report)) (code : Nat → Option Nat)
    (r : Nat) : Put :=
  let a := s.addr + r * rowPitch s x.rowlen
  let n := x.len r
  let w := fmtBytes s.fmt
  ⟨⟨s.tile, a, (vecLayout s.fmt n).2, needRanges s.fmt a n (x.cols r)⟩,
    if fmtScaled s.fmt then [(a, rowBytes s.fmt n bl)]
    else (x.cols r).map fun c => (a + w * c, outBytes cls s.fmt ((code (r * x.rowlen + c)).getD 0))⟩

/-- A MODE 5 output's row: its vectors in the tiles of its row group (R174). -/
def tileRowPuts (cls : Nat) (x : Shape) (s : Strm) (bl : List (List Byte × List Byte × Report))
    (code : Nat → Option Nat) (r : Nat) : List Put :=
  let g := r / 32
  let v := r % 32
  let vec := min 32 (x.rows - 32 * g)
  (upto (x.nb r)).flatMap fun b =>
    let base := s.addr + (g * x.nbr + b) * tileSize s.fmt
    let cols := (x.cols r).filter fun c => c / 32 == b
    let head := if v = 0 then [Put.whole s.tile base (descBytes ⟨s.fmt, true, false, false, 0, vec, s.t, true⟩ true)] else []
    let part (a : Nat) (d : List Byte) : Put := ⟨⟨s.tile, a, d.length, if cols.isEmpty then [] else [(a, d.length)]⟩, [(a, d)]⟩
    let w := fmtBytes s.fmt
    let a := base + 16 + 32 * w * v
    head ++ (if fmtScaled s.fmt then
      match bl[b]? with
      | some e => [part (base + 16 + 4 * v) e.1, part (base + 144 + slotBytes s.fmt * v) e.2.1]
      | none => []
    else
      [⟨⟨s.tile, a, 32 * w, cols.map fun c => (a + w * (c % 32), w)⟩,
        cols.map fun c => (a + w * (c % 32), outBytes cls s.fmt ((code (r * x.rowlen + c)).getD 0))⟩])

/-- A row result's value (R173); none: −Inf in INT8. -/
def rowResult (cls mode : Nat) (l : List Nat) : Option Num :=
  if mode = 1 then some (exactSum (l.map (clsVal cls)))
  else
    match l with
    | [] => if cls = 3 then none else if cls > 3 then some .nan else some (.inf true)
    | c :: cs => some (clsVal cls (cs.foldl (maxC cls) c))

/-- A row result in an 8-bit class's code, rounded once to the stream's format (R98, R173): beyond the range E5M2 has its
infinities, and E4M3, which has none, its NaN. -/
def rowCode8 (cls : Nat) : Num → Nat
  | .nan => (clsFmt cls).nan
  | .inf s => if cls = 5 then (clsFmt cls).signed s 0x7C else (clsFmt cls).nan
  | .fin s m e =>
    if cls = 3 then satI8 (Num.toIntNE (.fin s m e))
    else
      let k := roundMag (clsFmt cls) m 1 e
      if k ≤ (if cls = 4 then 0x7E else 0x7B) then (clsFmt cls).signed s k
      else if cls = 5 then (clsFmt cls).signed s 0x7C else (clsFmt cls).nan

/-- The bytes of a row-result stream, in its layout. -/
def rowResultBytes (cls : Nat) (x : Shape) (s : Strm) (ent : Nat → Nat) (code : Nat → Option Nat) : List Byte :=
  let vals := (upto x.rows).map fun r => rowResult cls s.mode ((x.cols r).filterMap fun c => code (r * x.rowlen + c))
  if cls < 3 then
    match unscaledFmt (fmtBase s.fmt) with
    | some f => vals.flatMap fun v => leBytes (fmtBytes s.fmt) (f.enc (v.getD .nan))
    | none => []
  else
    let nb := (x.rows + 31) / 32
    let es := (upto nb).flatMap fun b => leBytes 4 (ent b)
    es ++ List.replicate ((vecLayout s.fmt x.rows).1 - es.length) 0
      ++ leBytes (32 * nb) (packCodes 8 (vals.map fun v => match v with | some v => rowCode8 cls v | none => Config.emptyMaxI8 % 256))

/-- The block summaries of a MODE 3 output, and its deltas (R177). -/
def summaryPuts (cls : Nat) (x : Shape) (s : Strm) (code : Nat → Option Nat) : List Put :=
  let blks := (upto x.rows).flatMap fun r => (upto (x.nb r)).map fun b =>
    (blockCodes x code r b).map fun c => match c with | some v => clsVal cls v | none => .fin false 0 0
  Put.whole s.tile s.addr (blks.flatMap fun l => leBytes 8 (blockSummary s.fmt s.t l))
    :: (if fmtFS s.fmt then [Put.whole s.tile (deltasAt s.addr x.nbAll) (blks.flatMap fun l => leBytes 4 (deltaEntry s.t l))] else [])

/-- What an output stream writes. A mask is kept for the retirement; a row result is answered apart, to be written after
the last element. -/
def writeOutput (home unit cls : Nat) (x : Shape) (s : Strm) (cfg : EscCfg) (ents0 : SMap (List Nat))
    (code : Nat → Option Nat) : EM (List Put × List (Bool × Nat × List Byte)) := do
  let second := cls < 3 && fmtScaled s.fmt && (s.mode == 0 || s.mode == 5)
  let sums ← if second then rdOp home false s.sums (8 * x.nbAll) else pure []
  let deltas ← if second && fmtFS s.fmt then rdOp home false (deltasAt s.sums x.nbAll) (4 * x.nbAll) else pure []
  let ent (r b : Nat) : Nat := ((lookD ents0 r [])[b]?).getD (Config.noEntry r b % 2 ^ 32)
  let blocks (r : Nat) : EM (List (List Byte × List Byte × Report)) := do
    let bl := if fmtScaled s.fmt then outBlocks cls x s cfg sums deltas (ent r) code r else []
    if second then addReport bl
    escSeen unit bl
    return bl
  match s.mode with
  | 0 => do
    let l ← (upto x.rows).mapM fun r => do return rowPut cls x s (← blocks r) code r
    return (l, [])
  | 3 => return (summaryPuts cls x s code, [])
  | 4 => do
    let v := x.act.foldl (fun m i => if truthC cls ((code i).getD 0) then m + 2 ^ i else m) 0
    onC fun c => { c with fx := c.fx ++ [.mask home s.mreg v] }
    return ([], [])
  | 5 => do
    let l ← (upto x.rows).mapM fun r => do return tileRowPuts cls x s (← blocks r) code r
    return (l.flatten, [])
  | _ => return ([], [(s.tile, s.addr, rowResultBytes cls x s (ent 0) code)])

/-! VEXEC (R187). -/

/-- The enabled selectors of SUMSEL (R180): register, kind, source; none: status 0x10. -/
def selsOf (p : Prog) (v : Nat) : Option (List (Nat × Nat × Nat)) :=
  let raw := (upto 4).map fun n => bits v (16 * n) 16
  let en := raw.filter fun w => w.testBit 7
  let l := en.map fun w => (bits w 0 4, bits w 4 3, bits w 8 4)
  let ok := raw.all (fun w => w / 2 ^ 12 == 0)
    && l.all (fun x => x.2.1 != 7 && (if x.2.2 < 8 then p.written.contains x.2.2 else x.2.2 - 8 < p.nin))
    && (nubN (l.map (·.1))).length == l.length
  if ok then some l else none

/-- What of the tile space a stream touches: registers it reaches, and those it fills. -/
def tilesOf (a n : Nat) : List Nat := if n = 0 then [] else (upto ((a + n - 1) / 2048 - a / 2048 + 1)).map (a / 2048 + ·)
def tilesWhole (a n : Nat) : List Nat := (tilesOf a n).filter fun t => a ≤ 2048 * t && 2048 * (t + 1) ≤ a + n

/-- A stream writes every byte of its span. -/
def strmFull (x : Shape) (s : Strm) : Bool :=
  match s.mode with
  | 0 => x.rows == 1 && (fmtScaled s.fmt || x.act.length == x.n)
  | 1 | 2 => true
  | 3 => !fmtFS s.fmt
  | _ => false

def vexecLog (unitH prog maskR : Nat) (x : Shape) (ss : List Strm) (sels : List (Nat × Nat × Nat)) : RetFx :=
  let sp (s : Strm) : Nat := strmSpan s x
  let outs := ss.filter (·.out)
  let tw := outs.flatMap fun s => if s.tile && s.mode != 4 then tilesOf s.addr (sp s) else []
  let tf := outs.flatMap fun s => if s.tile && s.mode != 4 && strmFull x s then tilesWhole s.addr (sp s) else []
  let ms := outs.filterMap fun s => if s.mode = 4 then some (2100 + s.mreg) else none
  let su := sels.map fun l => 2200 + l.1
  let tr := (ss.filter fun s => !s.out && s.tile).flatMap fun s => tilesOf s.addr (sp s)
  .log unitH (tw.map (2000 + ·) ++ ms ++ su) (tf.map (2000 + ·) ++ ms ++ su)
    ((1000 + prog) :: (if maskR = 0 then [] else [2100 + maskR]) ++ tr.map (2000 + ·))

def vexecBody (q : Nat) : EM Unit := do
  let prog ← fld 16 0 4
  let maskR ← fld 16 4 3
  let n ← fld 18 0 16
  let rl ← fld 20 0 16
  let sd ← fld 24 0 43
  let sel ← fld 32 0 64
  let home ← gets (veHome · q)
  let unit ← gets (veUnit · q)
  let ve ← gets (·.ve home)
  match look ve.progs prog with
  | none => emStop 0x10
  | some img =>
    let p := Prog.ofBytes img
    let cls := p.cls
    let rowlen := if rl = 0 then n else rl
    let rows := (n + rowlen - 1) / rowlen
    let nd := p.nin + p.nout
    let cfg := EscCfg.bound (← get).cmd.bnd
    let db ← ld sd (32 * nd)
    let ds := (upto nd).map fun k => strmOf cls (decide (k ≥ p.nin)) (byteN db (32 * k) 32)
    need (ds.all (·.isSome)) 0x10
    let ss := ds.filterMap id
    match selsOf p sel with
    | none => emStop 0x10
    | some sels =>
      let mask := maskOf ve maskR
      let x : Shape := ⟨n, rowlen, rows, (upto n).filter fun i => mask.testBit i⟩
      need (rangesOk x sd nd ss) 0x10
      let (ins, counted) ← readInputs home unit cls x (ss.filter fun s => !s.out)
      let ps ← (upto 4).mapM fun k => fld (40 + 4 * k) 0 32
      let res : SMap ElemSt := x.act.map fun i =>
        (i, runElem p ⟨ins.map fun v => lookD v.1 i 0, ps, i, i / rowlen, i % rowlen⟩)
      let outs := ss.filter (·.out)
      let ents0 := match ins.head? with | some i => i.2 | none => []
      let ws ← (outs.zipIdx).mapM fun ok =>
        writeOutput home unit cls x ok.1 cfg ents0 fun i => (look res i).map fun st => lookD st.o ok.2 0
      putOutputs home unit counted (ws.flatMap (·.1))
      -- a command that will end with 0x30 writes no row result (R182)
      let late ← do
        if (← get).bad then pure [] else pure (ws.flatMap (·.2))
      let cyc := ((n + clsGroup cls - 1) / clsGroup cls) * p.cost
      countC 0 cyc
      countC 1 x.act.length
      onS (·.bump VE_CYCLES_LANE_CYCLES cyc unit)
      for l in late do
        if l.1 then pure () else canStore l.2.1 l.2.2.length
      for l in late do wrOp home l.1 l.2.1 l.2.2
      let fx := sels.map fun k =>
        let vals := x.act.filterMap fun i => match look res i with
          | some st => some (i, clsVal cls (if k.2.2 < 8 then lookD st.e k.2.2 0
              else lookD ((listGet ins (k.2.2 - 8) ([], [])).1) i 0))
          | none => none
        RetFx.summary home k.1 (BitVec.ofNat 64 (summaryOf k.2.1 vals))
      let h ← gets (homeOfQ · q)
      onC fun c => { c with fx := c.fx ++ fx ++ [vexecLog h prog maskR x ss sels] }

/-- VEXEC. -/
def execVexec (q : Nat) (s : State) : Res := .next (runVector s q 0x41 (vexecBody q))

/-! VPLOAD (R186). -/

def vploadBody (q : Nat) : EM Unit := do
  let slot ← fld 16 0 4
  let src ← fld 24 0 43
  let home ← gets (veHome · q)
  let img ← ld src 192
  need (imageOk img) 0x10
  countC 2 192
  onS fun s => let x := s.ve home; s.setVe home { x with progs := ins x.progs slot img }
  let h ← gets (homeOfQ · q)
  onC fun c => { c with fx := c.fx ++ [.log h [1000 + slot] [1000 + slot] []] }

def execVpload (q : Nat) (s : State) : Res := .next (runUnit s q 0x40 (vploadBody q))

/-! VTRANS (R183, R188). -/

def vtransBody (q : Nat) : EM Unit := do
  let w ← fld 16 0 2
  let rows ← fld 18 0 16
  let cols ← fld 20 0 16
  let src ← fld 24 0 64
  let ss ← fld 32 0 32
  let ds ← fld 36 0 32
  let dst ← fld 40 0 64
  let w := 2 ^ w
  let home ← gets (veHome · q)
  let unit ← gets (veUnit · q)
  match operandAddr src, operandAddr dst with
  | some (st', sa), some (dt, da) => do
    let sp := if ss = 0 then cols * w else ss
    let dp := if ds = 0 then rows * w else ds
    let sn := (rows - 1) * sp + cols * w
    let dn := (cols - 1) * dp + rows * w
    need ((!st' || sa + sn ≤ 65536) && (!dt || da + dn ≤ 65536)) 0x10
    need (st' != dt || !meets sa sn da dn) 0x10
    let m ← (upto rows).mapM fun r => rdOp home st' (sa + r * sp) (cols * w)
    for c in upto cols do
      wrOp home dt (da + c * dp) (m.flatMap fun row => (row.drop (c * w)).take w)
    let cyc := ((rows + 15) / 16) * ((cols + 15) / 16) * w
    countC 0 cyc
    countC 1 (rows * cols)
    onS (·.bump VE_CYCLES_LANE_CYCLES cyc unit)
    let h ← gets (homeOfQ · q)
    let tw := if dt then (tilesOf da dn).map (2000 + ·) else []
    let tf := if dt && dp == rows * w then (tilesWhole da dn).map (2000 + ·) else []
    onC fun c => { c with fx := c.fx ++ [.log h tw tf (if st' then (tilesOf sa sn).map (2000 + ·) else [])] }
  | _, _ => emStop 0x10

def execVtrans (q : Nat) (s : State) : Res := .next (runUnit s q 0x42 (vtransBody q))

/-! VMASK (R189). -/

def vmaskBody (q : Nat) : EM Unit := do
  let op ← fld 16 0 3
  let md ← fld 17 0 3
  let ma ← fld 18 0 3
  let mb ← fld 19 0 3
  let n ← fld 20 0 32
  let a ← fld 24 0 43
  let home ← gets (veHome · q)
  let x ← gets (·.ve home)
  let h ← gets (homeOfQ · q)
  let put (v : Nat) (reads : List Nat) : EM Unit :=
    onC fun c => { c with fx := c.fx ++ [.mask home md v, .log h [2100 + md] [2100 + md] (reads.map (2100 + ·))] }
  match op with
  | 0 => put (2 ^ n - 1) []
  | 1 => put (2 ^ 65536 - 1 - maskOf x ma) [ma]
  | 2 => put (maskOf x ma &&& maskOf x mb) [ma, mb]
  | 3 => put (maskOf x ma ||| maskOf x mb) [ma, mb]
  | 4 => do
    countC 2 8192
    put (← ldN a 8192) []
  | _ => do
    countC 2 8192
    stN a 8192 (maskOf x md)

def execVmask (q : Nat) (s : State) : Res := .next (runVector s q 0x43 (vmaskBody q))

end Sys2Proof.Machine
end

