-- ==== Sys2Proof/Machine/Graph.lean ====
section
/-! DEFINITION. Graph sampling and feature gather (chapter 03): the generator, partition lookup, the three sampling
methods, SAMPLE with its blocks, sampling for other devices, table descriptors and versions, GATHER, TABLE_SWITCH, the
sketches of row keys and HOT_REFRESH. -/

namespace Sys2Proof.Machine

open Sys2Proof

/-! The generator (R65). -/

def m64 (x : Nat) : Nat := x % 2 ^ 64

def mix64 (x : Nat) : Nat :=
  let x := x ^^^ (x >>> 29)
  let x := m64 (x * 0xA3C59E1B47D26F85)
  let x := x ^^^ (x >>> 31)
  let x := m64 (x * 0xC6E12B9D5F3A8417)
  x ^^^ (x >>> 32)

def stepKey (job step : Nat) : Nat := mix64 (mix64 (job ^^^ 0x6A1DF3C829B5E047) ^^^ step)
def nodeKey (k hop nid : Nat) : Nat := mix64 (k ^^^ m64 (hop <<< 40) ^^^ nid)
def drawAt (k i : Nat) : Nat := mix64 (m64 (k + (i + 1) * 0x8E3B6D29C1F5A0B1))
def uniformOf (r n : Nat) : Nat := r * n / 2 ^ 64

def padId : Nat := 0xFFFFFFFFFF

/-! Partition tables (R63, R64). -/

structure PartEnt where
  idx : Nat
  start : Nat
  dev : Nat
  lbase : Nat
  deriving DecidableEq, Repr

def partEntry (part r : Nat) : EM PartEnt := do
  let v ← ldN (part + 16 * r) 16
  return ⟨r, bits v 0 40, bits v 40 13, bits v 64 40⟩

/-- A read entry keeps the order of all the entries read before it. -/
def partOrdered (seen : List PartEnt) (e : PartEnt) : Bool :=
  seen.all fun f => if f.idx < e.idx then f.start < e.start else if f.idx > e.idx then e.start < f.start else true

/-- The bisection for the largest entry with START ≤ `nid`. DESIGN CHOICE (log entry 136): R64 states no pseudocode; the
probe of entries lo to hi is (lo + hi + 1) / 2, beginning with 0 and RANGES − 1. -/
def partBisect (part nid : Nat) : Nat → Nat → Nat → List PartEnt → EM (Option PartEnt)
  | 0, lo, _, seen => return seen.find? fun e => e.idx == lo
  | f + 1, lo, hi, seen => do
    if hi ≤ lo then return seen.find? fun e => e.idx == lo
    let mid := (lo + hi + 1) / 2
    let e ← partEntry part mid
    need (partOrdered seen e) 0x10
    if e.start ≤ nid then partBisect part nid f mid hi (e :: seen) else partBisect part nid f lo (mid - 1) (e :: seen)

/-- The owner of a node or row key, and its local row there. -/
def partLookup (part ranges nid : Nat) : EM (Nat × Nat) := do
  let e0 ← partEntry part 0
  need (e0.start == 0) 0x10
  match ← partBisect part nid 18 0 (ranges - 1) [e0] with
  | some e => return (e.dev, nid - e.start + e.lbase)
  | none => emStop 0x10

/-! Graphs (R59 to R62). -/

structure Graph where
  nodes : Nat
  off : Nat
  col : Nat
  wt : Nat
  alias_ : Nat
  part : Nat
  ranges : Nat
  rows : Nat
  deriving DecidableEq, Repr

/-- Decode a graph descriptor (R59). -/
def graphOf (v : Nat) : Graph :=
  ⟨bits v 0 40, bits v 64 43, bits v 128 43, bits v 192 43, bits v 256 43, bits v 320 43, bits v 384 17, bits v 448 40⟩

/-- A graph descriptor is valid and within the rules of R59 and R78. -/
def graphOk (v : Nat) : Bool :=
  let d := graphOf v
  bits v 416 1 == 1 && bits v 40 24 == 0 && (upto 5).all (fun k => bits v (64 * (k + 1) + 43) 21 == 0) && bits v 401 15 == 0
    && bits v 417 31 == 0 && bits v 488 24 == 0 && d.off % 8 == 0 && d.part % 16 == 0
    && 1 ≤ d.ranges && d.ranges ≤ 65536

/-- Where a graph's descriptor lies, untranslated (R59). -/
def graphAddr (s : State) (g : Nat) : Nat := s.get GSV_GRAPH_BASE_BASE * 64 + 64 * g

/-- Read and check a graph descriptor (R59, R78, R9). -/
def graphDesc (g : Nat) : EM Graph := do
  let a ← gets (graphAddr · g)
  let v ← ldLocalN a 64
  need (graphOk v) 0x10
  return graphOf v

/-- A row's first edge position and its degree (R61). -/
def rowEdges (g : Graph) (row : Nat) : EM (Nat × Nat) := do
  need (row < g.rows) 0x10
  let v ← ldN (g.off + 8 * row) 16
  let a := bits v 0 64
  let b := bits v 64 64
  need (a ≤ b && b - a < 2 ^ 32) 0x10
  return (a, b - a)

/-! Sampling one destination (R68 to R72). -/

/-- Floyd's method: selected positions. -/
def floydStep (kn base : Nat) (s : List Nat) (j : Nat) : List Nat :=
  let t := uniformOf (drawAt kn (j - base)) (j + 1)
  if s.contains t then j :: s else t :: s

def floyd (kn d k : Nat) : List Nat := (upto k).foldl (fun s i => floydStep kn (d - k) s (d - k + i)) []

/-- An eligible BF16 weight as s × 2^q; none otherwise (R70). -/
def eligible (w : Nat) : Option (Nat × Int) :=
  match bf16.dec w with
  | .fin false m e => if m = 0 then none else some (m, e)
  | _ => none

/-- floor(−log₂((m + 1) ÷ 2^53) × 2^32), exact (R70, R71). -/
def lkeyOf (m : Nat) : Nat :=
  let v := m + 1
  let k := Nat.log2 v
  if v = 2 ^ k then (53 - k) * 2 ^ 32
  else 53 * 2 ^ 32 - (k * 2 ^ 32 + log2Bits 120 (v * 2 ^ (300 - k)) 0 / 2 ^ 88 + 1)

/-- Key order: lkey ÷ w compared exactly, equal keys by position. -/
def keyBefore (a b : Nat × Nat × Nat × Int) : Bool :=
  let la := a.2.1 * b.2.2.1
  let lb := b.2.1 * a.2.2.1
  let qa := b.2.2.2
  let qb := a.2.2.2
  let x : Dy := ⟨la, qa⟩
  let y : Dy := ⟨lb, qb⟩
  x.lt y || (!y.lt x && a.1 < b.1)

def insKey (a : Nat × Nat × Nat × Int) : List (Nat × Nat × Nat × Int) → List (Nat × Nat × Nat × Int)
  | [] => [a]
  | b :: l => if keyBefore a b then a :: b :: l else b :: insKey a l

/-- Exponential keys: the first k of the eligible positions. -/
def expKeys (kn k : Nat) (elig : List (Nat × Nat × Int)) : List Nat :=
  let ks := elig.map fun e => (e.1, lkeyOf (drawAt kn e.1 / 2 ^ 11), e.2.1, e.2.2)
  ((ks.foldl (fun l a => insKey a l) []).take k).map (·.1)

/-- Alias draws with rejection of repeats. -/
def aliasDraws (g : Graph) (kn d k e0 : Nat) : Nat → Nat → List Nat → EM (List Nat × Nat)
  | 0, i, s => return (s, i)
  | f + 1, i, s => do
    if s.length ≥ k then return (s, i)
    let r := drawAt kn i
    let c := r / 2 ^ 32 * d / 2 ^ 32
    let ent ← ldN (g.alias_ + 8 * (e0 + c)) 8
    need (ent / 2 ^ 32 < d) 0x10
    let p := if r % 2 ^ 32 < ent % 2 ^ 32 then c else ent / 2 ^ 32
    aliasDraws g kn d k e0 f (i + 1) (if s.contains p then s else p :: s)

/-- What sampling a destination gives: neighbours in ascending position order with their BF16 weights, ineligible
weights met, draws made. -/
structure Drawn where
  nids : List Nat
  wts : List Nat
  bad : Nat
  draws : Nat
  deriving DecidableEq, Repr

/-- Sample one destination at its owner. `fan` 0: all. Ineligible weights are counted as they are met (R70). -/
def sampleRow (g : Graph) (kstep hop nid row fan : Nat) (weighted wantW : Bool) : EM Drawn := do
  let (e0, d) ← rowEdges g row
  let kn := nodeKey kstep hop nid
  let all := fan == 0
  let (pos, bad, draws) ← (do
    if !weighted then
      if all || fan ≥ d then return (upto d, 0, 0) else return (sortBy id (floyd kn d fan), 0, fan)
    need (g.wt != 0) 0x10
    need (d ≤ 4096 || g.alias_ != 0) 0x10
    if d ≤ 4096 || all then
      let raw ← ld (g.wt + 2 * e0) (2 * d)
      let el := (upto d).filterMap fun p => (eligible (byteN raw (2 * p) 2)).map fun w => (p, w.1, w.2)
      let bad := d - el.length
      let pond := (← get).ctx.pond
      onS (·.sat SMP_CNT_BADW bad pond)
      countC 3 bad
      if all || fan ≥ el.length then return (el.map (·.1), bad, 0)
      return (sortBy id (expKeys kn fan el), bad, el.length)
    let r ← aliasDraws g kn d fan e0 (4 * fan) 0 []
    return (sortBy id r.1, 0, r.2) : EM (List Nat × Nat × Nat))
  let nids ← pos.mapM fun p => ldN (g.col + 5 * (e0 + p)) 5
  let wts ← if wantW then pos.mapM fun p => ldN (g.wt + 2 * (e0 + p)) 2 else pure []
  return ⟨nids, wts, bad, draws⟩

/-! Sampling for other devices (R77, R78). The layout of a request and of a reply is the model's own. -/

/-- A request's payload: k_step, graph, hop, fanout, flags (bit 0 weighted, bit 1 weights wanted), NID40, core handle;
the tag follows. -/
def sampReqBytes (kstep graph hop fan nid handle : Nat) (weighted wantW : Bool) : List Byte :=
  leBytes 8 kstep ++ leBytes 1 graph ++ leBytes 1 hop ++ leBytes 1 fan ++ leBytes 1 (b2n weighted + 2 * b2n wantW)
    ++ leBytes 5 nid ++ leBytes 2 handle

/-- A reply's packets of at most 96 neighbours: total, first, count, then neighbours and weights; the tag leads. -/
def sampRspPackets (tag : Nat) (d : Drawn) (wantW : Bool) : List (List Byte) :=
  let n := d.nids.length
  let per := if wantW then 70 else 96
  (upto (max 1 ((n + per - 1) / per))).map fun k =>
    let ns := (d.nids.drop (per * k)).take per
    let ws := (d.wts.drop (per * k)).take per
    leBytes 4 tag ++ leBytes 4 n ++ leBytes 4 (per * k) ++ leBytes 4 ns.length ++ ns.flatMap (leBytes 5) ++ ws.flatMap (leBytes 2)

/-- The pond that serves a request for a node (R78). -/
def servingPond (s : State) (nid : Nat) : Nat :=
  let m := (s.rg GSV_SERVE0).toNat + 2 ^ 64 * s.get GSV_SERVE1_PONDS
  let ps := (upto 96).filter fun p => m.testBit p
  let ps := if ps.isEmpty then upto 96 else ps
  listGet ps (nid % ps.length) 0

/-- Serve a request: STATUS of the answer and its packets. DESIGN CHOICE (log entry 137): a request that wants weights on
an unweighted hop, where the owner's own descriptor has WT 0, is none of R78's refusals; the weights are read at 2 × e. -/
def serveSample (s : State) (req : List Byte) : Nat × List (List Byte) × State :=
  let v := leNat req
  let nid := bits v 96 40
  let p := servingPond s nid
  let flags := bits v 88 8
  let weighted := flags.testBit 0
  let wantW := flags.testBit 1
  let body : EM Drawn := do
    let g ← graphDesc (bits v 64 8)
    need (nid < g.nodes) 0x10
    let (dev, row) ← partLookup g.part g.ranges nid
    need (dev == (← gets State.me)) 0x10
    sampleRow g (bits v 0 64) (bits v 72 8) nid row (bits v 80 8) weighted wantW
  let c : Cmd := ⟨0, 0, .running, false, false, [], 0, [], 0, none, [], [], [], [], 0, [], none, [], [], none⟩
  let (r, e) := body.run ⟨s, c, ⟨p, s.get GSV_REMOTE_SPACE, s.flag GSV_REMOTE_T, false, 0⟩, false⟩
  match r with
  | .ok d => (0, sampRspPackets (bits v 152 32) d wantW, e.s)
  | .error (.status 0x10) => (3, [], e.s)
  | .error (.status 0x30) => (2, [], e.s)
  | .error _ => (1, [], e.s)

/-- A packet of a reply arrives (R77): the command's answer is complete when all its neighbours have come. A packet is
kept as its count and contents. -/
def sampReply (s : State) (id status : Nat) (b : List Byte) : State :=
  match s.samps.find? fun r => r.id == id with
  | none => s
  | some r =>
    let rest := s.samps.filter fun x => x.id != id
    if status != 0 then answerCmd { s with samps := rest } r.queue r.seq r.key (if status = 3 then 0x10 else statusOf status) []
    else
      let total := byteN b 4 4
      let first := byteN b 8 4
      let got := if r.got.any (fun g => g.1 == first) then r.got else r.got ++ [(first, b.drop 12)]
      let cnt (g : Nat × List Byte) : Nat := byteN g.2 0 4
      if got.foldl (fun k g => k + cnt g) 0 < total then
        { s with samps := s.samps.map fun x => if x.id == id then { x with total := total, got := got } else x }
      else
        let l := sortBy (·.1) got
        let data := leBytes 4 total ++ (l.flatMap fun g => (g.2.drop 4).take (5 * cnt g)) ++ l.flatMap fun g => g.2.drop (4 + 5 * cnt g)
        answerCmd { s with samps := rest } r.queue r.seq r.key 0 data

/-- SAMPLING_TIMEOUT (R78): counted in RTO; the SAMPLE completes with status 0x3F. -/
def execSamplingTimeout (id : Nat) (s : State) : Res :=
  .next (match s.samps.find? fun r => r.id == id with
    | none => s
    | some r =>
      let p := pondOfQ s r.queue
      let s := { s with samps := s.samps.filter fun x => x.id != id }
      answerCmd (s.sat SMP_CNT_RTO 1 p) r.queue r.seq r.key 0x3F [])

/-! SAMPLE (R73 to R75, R79). -/

/-- A hop's pairs by destination: for each, its neighbours and weights. -/
structure HopIn where
  dsts : List Nat
  dup : Nat
  deriving DecidableEq, Repr

/-- Local IDs by order of first appearance, after `init` (R73). -/
def numberSrcs (init : List Nat) (l : List (List Nat)) : List Nat :=
  l.foldl (fun srcs ns => ns.foldl (fun srcs n => if srcs.contains n then srcs else srcs ++ [n]) srcs) init

def localId (srcs : List Nat) (n : Nat) : Nat := (idxOf (· == n) srcs).getD 0

def pad64 (b : List Byte) : List Byte := b ++ List.replicate (roundUp 64 b.length - b.length) 0

/-- A block of one hop (R73, R74): its bytes with NEXT 0, its pairs, and its SRC array. -/
def hopBlock (hop : Nat) (dstFirst hasW remote : Bool) (h : HopIn) (ds : List Drawn) : List Byte × Nat × List Nat :=
  let srcs := numberSrcs (if dstFirst then h.dsts else []) (ds.map (·.nids))
  let pairs := (ds.zipIdx).flatMap fun di => di.1.nids.map fun n => leBytes 4 di.2 ++ leBytes 4 (localId srcs n)
  let segs := ds.foldl (fun (acc : List Nat × Nat) d => (acc.1 ++ [acc.2 + d.nids.length], acc.2 + d.nids.length)) ([0], 0)
  let seg := pad64 (segs.1.flatMap (leBytes 4))
  let pair := pad64 pairs.flatten
  let src := pad64 (srcs.flatMap (leBytes 5))
  let wts := if hasW then pad64 (ds.flatMap fun d => d.wts.flatMap (leBytes 2)) else []
  let o1 := 64
  let o2 := o1 + seg.length
  let o3 := o2 + pair.length
  let o4 := o3 + src.length
  let flags := b2n dstFirst + 2 * b2n hasW + 4 * b2n remote
  let head := leBytes 4 pairs.length ++ leBytes 4 h.dsts.length ++ leBytes 4 srcs.length ++ leBytes 1 hop ++ leBytes 1 flags
    ++ leBytes 2 0 ++ leBytes 8 o1 ++ leBytes 8 o2 ++ leBytes 8 o3 ++ leBytes 8 (if hasW then o4 else 0) ++ leBytes 8 0
    ++ leBytes 4 h.dup ++ leBytes 4 0
  (head ++ seg ++ pair ++ src ++ wts, pairs.length, srcs)

/-- The header written for a hop that does not fit (R75). -/
def zeroHeader (hop : Nat) (dstFirst : Bool) : List Byte :=
  leBytes 12 0 ++ leBytes 1 hop ++ leBytes 1 (b2n dstFirst) ++ leBytes 50 0

/-- Where each destination of a hop is sampled. -/
inductive Where where
  | pad
  | here (row : Nat)
  | remote (dev : Nat)
  deriving DecidableEq, Repr

def placeDst (g : Graph) (nid : Nat) : EM Where := do
  if nid = padId then return .pad
  need (nid < g.nodes) 0x10
  let (dev, row) ← partLookup g.part g.ranges nid
  if dev = (← gets State.me) then return .here row else return .remote dev

/-- The answer of a remote sampling request, by neighbour and weight lists. -/
def remoteDrawn (b : List Byte) (wantW : Bool) : Drawn :=
  let n := byteN b 0 4
  ⟨(upto n).map fun i => byteN b (4 + 5 * i) 5, if wantW then (upto n).map fun i => byteN b (4 + 5 * n + 2 * i) 2 else [], 0, 0⟩

/-- The index of a remote sample among a command's answers. -/
def sampKey (hop nid : Nat) : Nat := 2 ^ 100 + 2 ^ 40 * hop + nid

/-- The address space and place of a served request's pond. -/
def requestPond (s : State) (req : List Byte) : Nat := servingPond s (bits (leNat req) 96 40)

/-- Sample every destination of a hop; those owned elsewhere are asked for, at most OUTST at a time (R77, R78). -/
def sampleHop (g : Graph) (graph kstep hop fan : Nat) (weighted wantW : Bool) (h : HopIn) : EM (List Drawn × Bool) := do
  let ws ← h.dsts.mapM (placeDst g)
  let c := (← get).cmd
  let e ← get
  let handle := e.s.qget QTAB_CFG_CONSUMER e.ctx.queue
  let asks := (h.dsts.zip ws).filterMap fun nw => match nw.2 with
    | .remote dev => if (look c.buf (sampKey hop nw.1)).isSome then none
      else some (Ask.sample (sampKey hop nw.1) dev (sampReqBytes kstep graph hop fan nw.1 handle weighted wantW))
    | _ => none
  needAll asks
  let ds ← (h.dsts.zip ws).mapM fun nw => match nw.2 with
    | .pad => pure ⟨[], [], 0, 0⟩
    | .here row => sampleRow g kstep hop nw.1 row fan weighted wantW
    | .remote _ => pure (remoteDrawn ((look c.buf (sampKey hop nw.1)).getD []) wantW)
  let remote := ws.any fun w => match w with | .remote _ => true | _ => false
  countC 2 (countOf (fun w => match w with | .remote _ => true | _ => false) ws)
  return (ds, remote)

def sampleHops (g : Graph) (graph kstep : Nat) (weighted fanout : Nat) (dstFirst wantW : Bool) (out size : Nat) :
    List Nat → Nat → Option Nat → HopIn → EM Unit
  | [], _, _, _ => pure ()
  | hop :: hops, off, prev, h => do
    let fan := bits fanout (8 * (hop - 1)) 8
    let (ds, remote) ← sampleHop g graph kstep hop fan (weighted.testBit (hop - 1)) wantW h
    let (blk, pairs, srcs) := hopBlock hop dstFirst wantW remote h ds
    let patch : EM Unit := match prev with
      | some o => st (out + o + 48) (leBytes 8 off)
      | none => pure ()
    if off + blk.length ≤ size then
      st (out + off) blk
      patch
      let pond := (← get).ctx.pond
      onS (·.bump SMP_CNT_EDGES pairs pond)
      countC 0 h.dsts.length
      countC 1 pairs
      countC 4 (ds.foldl (fun n d => n + d.draws) 0)
      countC 5 blk.length
      sampleHops g graph kstep weighted fanout dstFirst wantW out size hops (off + blk.length) (some off) ⟨srcs, 0⟩
    else
      if off + 64 ≤ size then
        st (out + off) (zeroHeader hop dstFirst)
        patch
      emStop 0x10

def sampleBody : EM Unit := do
  let graph ← fld 16 0 8
  let hops ← fld 17 0 3
  let weighted ← fld 18 0 4
  let slot ← fld 19 0 4
  let dstFirst ← fld 19 4 1
  let edgeWt ← fld 19 5 1
  let fanout ← fld 20 0 32
  let seeds ← fld 24 0 43
  let n ← fld 32 0 32
  let size ← fld 36 0 32
  let out ← fld 40 0 43
  let step ← fld 48 0 64
  notHost out
  let g ← graphDesc graph
  need (edgeWt == 0 || g.wt != 0) 0x10
  need (g.wt != 0 || (upto hops).all fun h => !weighted.testBit h) 0x10
  let key ← gets fun s => match s.replay with | some r => r.key | none => (s.rg GSV_KEY slot).toNat
  let sb ← ld seeds (5 * n)
  let l := (upto n).map fun i => byteN sb (5 * i) 5
  let u := nubN l
  sampleHops g graph (stepKey key step) weighted fanout (dstFirst == 1) (edgeWt == 1) out size
    ((upto hops).map (· + 1)) 0 none ⟨u, n - u.length⟩

/-- SAMPLE. -/
def execSample (q : Nat) (s : State) : Res := .next (runUnit s q 0x60 sampleBody)

/-! Tables (R81 to R83, R88). -/

structure TDesc where
  fmt : Nat
  valid : Bool
  replicable : Bool
  learnable : Bool
  elems : Nat
  stride : Nat
  part : Nat
  ranges : Nat
  rows : Nat
  ok : Bool
  baseCur : Nat
  verCur : Nat
  baseOld : Nat
  verOld : Nat
  deriving DecidableEq, Repr

/-- Bytes of a row's elements (R83), and of its header and elements. -/
def TDesc.elemBytes (d : TDesc) : Nat := roundUp 16 (vecLayout d.fmt d.elems).2
def TDesc.rowBytes (d : TDesc) : Nat := 16 + d.elemBytes

/-- Decode a table descriptor; `ok`: VALID and within the rules of R81. -/
def tdescOf (v : Nat) : TDesc :=
  let d : TDesc := ⟨bits v 160 8, v.testBit 168, v.testBit 170, v.testBit 171, bits v 176 16, bits v 192 32, bits v 320 43,
    bits v 384 17, bits v 448 40, false, bits v 0 43, bits v 128 16, bits v 64 43, bits v 144 16⟩
  let rsvd := bits v 43 21 == 0 && bits v 107 21 == 0 && bits v 172 4 == 0 && bits v 224 96 == 0 && bits v 363 21 == 0
    && bits v 401 15 == 0 && bits v 416 32 == 0 && bits v 488 24 == 0
  { d with ok := d.valid && rsvd && d.elems != 0 && fmtOk d.fmt true && d.stride % 16 == 0 && d.rowBytes ≤ d.stride
                  && 1 ≤ d.ranges && d.ranges ≤ 65536 }

/-- The descriptor as memory holds it; none where it cannot be read. -/
def tableDesc (s : State) (t : Nat) : Option TDesc :=
  let a := tableAddr s t
  if plainOk s a 64 && !ueRange s a 64 then some (tdescOf (s.rdN a 64)) else none

/-- Load a table's live fields on die at its first use, with OLD_LIVE and both counts 0 (R81). -/
def loadTable (s : State) (t : Nat) : State :=
  match look s.tables t, tableDesc s t with
  | none, some d =>
    if d.ok then syncTable { s with tables := ins s.tables t ⟨d.baseCur, d.verCur, d.baseOld, d.verOld, false, 0, 0⟩ } t else s
  | _, _ => s

/-- Read and check a table's descriptor, loading its live fields. -/
def useTable (t : Nat) : EM TDesc := do
  let a ← gets (tableAddr · t)
  let v ← ldLocalN a 64
  let d := tdescOf v
  need d.ok 0x10
  onS (loadTable · t)
  return d

/-- An update command is committing rows of the table (R90): no gather binds until it retires. -/
def committing (s : State) (t : Nat) : Bool :=
  s.queues.any fun kx => kx.2.started.any fun c => opcOf c.raw.toNat == 0xA1 && cf c.raw.toNat 16 0 12 == t && c.stage ≥ 1

/-- A GATHER binds its table's current version when it starts, once (R88, R90); the journal keeps the binding. In a
replay it binds the journaled version of a listed table, current or old (R254). -/
def bindGather (s : State) (q : Nat) (c : Cmd) : State :=
  let t := cf c.raw.toNat 16 0 12
  let j := s.jent q c.seq
  if j.bound.isSome || committing s t then s
  else
    match tableDesc s t with
    | none => s
    | some d =>
      if !d.ok then s
      else
        let s := loadTable (demandPlain s (pondOfQ s q) (tableAddr s t) 64) t
        match look s.tables t with
        | none => s
        | some x =>
          let want := (s.replay.bind fun r => look r.tables t).getD x.verCur
          let s := if s.replay.isSome then s else { s with stepVers := ins s.stepVers t want }
          if want = x.verCur then
            ({ s with tables := ins s.tables t { x with flightCur := x.flightCur + 1 } }).setJent q { j with bound := some want }
          else if want = x.verOld then
            ({ s with tables := ins s.tables t { x with flightOld := x.flightOld + 1 } }).setJent q { j with bound := some want }
          else s

/-! Sketches (R91). -/

def sketchCell (i table key : Nat) : Nat := 4096 * i + Config.sketchHash i (2 ^ 40 * table + key) % 4096

def estimate (k : Sketch) (table key : Nat) : Nat :=
  (upto 4).foldl (fun m i => min m (lookD k.cnt (sketchCell i table key) 0)) 65535

/-- Count a gathered key; at THRESH it enters the 256 candidates, displacing the lowest estimate. -/
def sketchKey (s : State) (p table ver key : Nat) : State :=
  if !(s.flag HOT_CFG_EN) then s
  else
    let k := lookD s.sketches p ⟨[], []⟩
    let cnt := (nubN ((upto 4).map fun i => sketchCell i table key)).foldl (fun m c => ins m c (min 65535 (lookD m c 0 + 1))) k.cnt
    let k := { k with cnt := cnt }
    let entry := (table, ver, key)
    let k :=
      if estimate k table key < s.get HOT_CFG_THRESH || k.cands.contains entry then k
      else if k.cands.length < 256 then { k with cands := k.cands ++ [entry] }
      else
        { k with cands := (sortBy (fun e : Nat × Nat × Nat => estimate k e.1 e.2.2) k.cands).drop 1 ++ [entry] }
    { s with sketches := ins s.sketches p k }

/-! GATHER (R84 to R87, R95). -/

/-- The segments of 512 bytes, from a row's start, in which it is read from its owner (R84, R85): each with the local
address that this device's translation gives its first byte (R82). -/
def rowSegments : List (Nat × Nat) → EM (List (Nat × Nat))
  | [] => return []
  | (a, n) :: l => do
    match ← place a 1 false with
    | .inl ((pa, _) :: _) => return (pa, n) :: (← rowSegments l)
    | _ => emStop 0x11

/-- A row, as its owner or a replica holds it; none: poisoned. `i`: its place in the list. DESIGN CHOICE (log entry 138):
the owner's ROWS_LOCAL, against which R64 checks a remote row, is `Config.ownerRows`. -/
def gatherRow (d : TDesc) (t base ver : Nat) (hotOk : Bool) (i key : Nat) : EM (Option (List Byte)) := do
  let hot ← gets fun s => if hotOk then s.hot.active.find? (fun r => r.table == t && r.ver == ver && r.key == key) else none
  match hot with
  | some r => do
    countC 1 1
    return some r.data
  | none =>
    let (dev, row) ← partLookup d.part d.ranges key
    let a := base + d.stride * row
    if dev = (← gets State.me) then
      need (row < d.rows) 0x10
      tryCatch (do return some (← ld a d.rowBytes)) fun e => match e with
        | .status 0x30 => pure none
        | e => throw e
    else
      need (row < Config.ownerRows dev t) 0x10
      let segs ← rowSegments (chunks a d.rowBytes)
      let c := (← get).cmd
      needAll ((segs.zipIdx).filterMap fun sk =>
        if (look c.buf (remoteKey i sk.2)).isSome then none else some (.remote (remoteKey i sk.2) dev sk.1.1 sk.1.2))
      countC 2 segs.length
      let b := (upto segs.length).flatMap fun k => (look c.buf (remoteKey i k)).getD []
      if b.length < d.rowBytes then return none
      return some b

/-- Everything the rows of a gather still ask for, so that it asks at once. -/
def gatherAsks (d : TDesc) (t base ver : Nat) (hotOk : Bool) : Nat → List Nat → EM (List Ask)
  | _, [] => return []
  | i, key :: l => do
    let mine ← tryCatch (do
        if key != padId then let _ ← gatherRow d t base ver hotOk i key
        return []) fun e => match e with
      | .wait asks => pure asks
      | e => throw e
    return mine ++ (← gatherAsks d t base ver hotOk (i + 1) l)

/-- The bytes of one vector of an A tile: its block entry and its slot. -/
def vecOfRow (d : TDesc) (els : List Byte) (b : Nat) : List Byte × List Byte :=
  if fmtScaled d.fmt then
    let nb := (d.elems + 31) / 32
    ((els.drop (4 * b)).take 4, (els.drop (roundUp 16 (4 * nb) + slotBytes d.fmt * b)).take (slotBytes d.fmt))
  else
    let w := fmtBytes d.fmt
    ([], (els.drop (32 * w * b)).take (w * min 32 (d.elems - 32 * b)))

/-- What a gather writes. DESIGN CHOICES (log entries 139, 140): every key is looked up before a row is written, so that a
key outside the partition leaves DEST and SCALE as they were; RSCALE is copied as the row holds it, whatever it is. -/
def gatherBody (q : Nat) : EM Unit := do
  let t ← fld 16 0 12
  let mode ← fld 18 0 2
  let blk ← fld 19 0 1
  let hotOk ← fld 19 1 1
  let count ← fld 20 0 32
  let index ← fld 24 0 43
  let dest ← fld 32 0 43
  let scale ← fld 40 0 43
  let ds ← fld 48 0 32
  let d ← useTable t
  need (mode != 2 || fmtScaled d.fmt || fmtBase d.fmt < 2) 0x10
  need (mode == 2 || ds == 0 || (ds % 16 == 0 && (if mode = 0 then d.rowBytes else d.elemBytes) ≤ ds)) 0x10
  let seq := (← get).cmd.seq
  need (← gets fun s => (s.jent q seq).bound.isSome) 0x10
  let ver ← gets fun s => (s.jent q seq).bound.getD 0
  let live ← gets fun s => lookD s.tables t ⟨0, 0, 0, 0, false, 0, 0⟩
  let base := if live.verCur = ver then live.baseCur else live.baseOld
  let (n, list) ← (if blk = 1 then do
      let h ← ld index 64
      return (byteN h 8 4, index + byteN h 32 4)
    else return (count, index) : EM (Nat × Nat))
  let kb ← ld list (5 * n)
  let keys := (upto n).map fun i => byteN kb (5 * i) 5
  needAll (← gatherAsks d t base ver (hotOk == 1) 0 keys)
  let akt := (d.elems + 31) / 32
  let pitch := if ds != 0 then ds else if mode = 0 then d.stride else d.elemBytes
  let mut bad := false
  for ik in keys.zipIdx do
    let i := ik.2
    let key := ik.1
    let row ← if key = padId then do
        countC 5 1
        pure (some (List.replicate d.rowBytes (0 : Byte)))
      else do
        if d.replicable then onS fun s => sketchKey s (pondOfQ s q) t ver key
        gatherRow d t base ver (hotOk == 1) i key
    if row.isNone then bad := true
    let b := row.getD (List.replicate d.rowBytes 0)
    countC 0 1
    let els := b.drop 16
    if mode = 0 then
      st (dest + pitch * i) b
      countC 3 b.length
    else if mode = 1 then
      st (dest + pitch * i) els
      st (scale + 4 * i) ((b.drop 4).take 4)
      countC 3 (els.length + 4)
    else
      let v := i % 32
      for k in upto akt do
        let tile := dest + ((i / 32) * akt + k) * tileSize d.fmt
        if v = 0 then
          st tile (descBytes ⟨d.fmt, true, false, false, 0, min 32 (n - i), f32one, true⟩ true)
          countC 3 16
        let ec := vecOfRow d els k
        if fmtScaled d.fmt then
          st (tile + 16 + 4 * v) ec.1
          st (tile + 144 + slotBytes d.fmt * v) ec.2
        else st (tile + 16 + 32 * fmtBytes d.fmt * v) ec.2
        countC 3 (ec.1.length + ec.2.length)
      st (scale + 4 * i) ((b.drop 4).take 4)
      countC 3 4
  if bad then emStop 0x30

/-- GATHER: it waits with its binding while an update commits rows of its table. -/
def execGather (q : Nat) (s : State) : Res :=
  .next (match unitCmd s q 0x68 with
    | none => s
    | some c =>
      let s' := bindGather s q c
      if (s'.jent q c.seq).bound.isNone && committing s (cf c.raw.toNat 16 0 12) then s
      else runBody s' q c (gatherBody q))

/-! TABLE_SWITCH (R89). -/

/-- Move the current version to old and install the new one, in one step. -/
def switchTable (s : State) (q seq t ver base : Nat) : State :=
  match look s.tables t with
  | none => s
  | some x =>
    let x : TableSt := ⟨base, ver, x.baseCur, x.verCur, true, 0, x.flightCur⟩
    let s := syncTable { s with tables := ins s.tables t x } t
    s.setJent q { s.jent q seq with bound := some ver }

def switchBody (q : Nat) : EM Unit := do
  let t ← fld 16 0 12
  let ver ← fld 18 0 16
  let base ← fld 24 0 43
  let _ ← useTable t
  let e ← get
  let seq := e.cmd.seq
  if (e.s.jent q seq).bound.isNone then
    sideOk (tableAddr e.s t) 64
    let x := lookD e.s.tables t ⟨0, 0, 0, 0, false, 0, 0⟩
    need (x.verCur != ver) 0x10
    if x.oldLive then throw (.hold e.s)
    onS (switchTable · q seq t ver base)
  let s' := (← get).s
  if (lookD s'.tables t ⟨0, 0, 0, 0, false, 0, 0⟩).flightOld != 0 then throw (.hold s')
  onC fun c => { c with fx := c.fx ++ [.tableDone t] }

/-- TABLE_SWITCH: the switch at its start, and its end once the old version's gathers have drained. -/
def execTableSwitch (q : Nat) (s : State) : Res := .next (runUnit s q 0x70 (switchBody q))

/-! HOT_REFRESH (R92 to R94). -/

/-- The device's hot list: the MAX highest estimates, ties to the lower (table, row key); of these, the keys of current
versions of valid tables (R92). -/
def hotList (s : State) : List (Nat × Nat × Nat) :=
  let all := s.sketches.flatMap fun pk => pk.2.cands.map fun c => (estimate pk.2 c.1 c.2.2, c)
  let best := all.foldl
    (fun (m : List (Nat × (Nat × Nat × Nat))) ec =>
      match m.find? fun x => x.2 == ec.2 with
      | some x => if x.1 < ec.1 then ec :: m.erase x else m
      | none => ec :: m) []
  let l := sortBy (fun ec => (65535 - ec.1) * 2 ^ 60 + ec.2.1 * 2 ^ 40 + ec.2.2.2) best
  ((l.take (s.get HOT_CFG_MAX)).map (·.2)).filter fun c =>
    (match look s.tables c.1 with | some x => x.verCur == c.2.1 | none => false)
      && (match tableDesc s c.1 with | some d => d.ok | none => false)

/-- The list as a HOT_REFRESH binds it when it starts: a mark, then table, version, row key and the version's base of each
key. -/
def hotBind (s : State) (clear : Bool) : List Nat :=
  1 :: (if clear || !(s.flag HOT_CFG_EN) then [] else hotList s).flatMap fun c =>
    [c.1, c.2.1, c.2.2, (lookD s.tables c.1 ⟨0, 0, 0, 0, false, 0, 0⟩).baseCur]

/-- The rows of a bound list, read from their owners; whether some were left out. A poisoned row ends the command (R342).
DESIGN CHOICE (log entry 141): a replica takes its row bytes of the half, and the list ends at the first row that does
not fit. -/
def hotRows (s : State) : Nat → List Nat → Nat → EM (List HotRow × Bool)
  | i, t :: ver :: key :: base :: l, room => do
    match tableDesc s t with
    | none => hotRows s (i + 1) l room
    | some d =>
      if d.rowBytes > room then return ([], true)
      match ← gatherRow d t base ver false i key with
      | none => emStop 0x30
      | some b =>
        let rest ← hotRows s (i + 1) l (room - d.rowBytes)
        return (⟨t, ver, key, b⟩ :: rest.1, rest.2)
  | _, _, _ => return ([], false)

/-- The halves of every pond's hot partition are the device's own. -/
def staleHot (s : State) : State :=
  (upto 96).foldl (fun s p => if hotNow s p = 0 then s
    else s.makeStale (scratchBase p + hotBase s p) (scratchBase p + hotBase s p + hotNow s p * 2 ^ 20)) s

/-- DESIGN CHOICE (log entry 141): every pond's half holds the same rows, so the smallest half is the capacity. -/
def hotHalf (s : State) : Nat := (upto 96).foldl (fun m p => min m (hotNow s p * 2 ^ 19)) (8 * 2 ^ 19)

def hotRefreshBody : EM Unit := do
  let s ← gets id
  let list := (← get).cmd.bnd.drop 1
  let (rows, more) ← hotRows s 0 list (hotHalf s)
  onS fun s =>
    let s := if rows.isEmpty then s else staleHot s
    let s := { s with hot := { s.hot with shadow := rows } }
    if more then s.stick HOT_STAT_OVERFLOW else s
  onC fun c => { c with fx := c.fx ++ [.hotReady] }

/-- The command with the hot list that it keeps from its start while it waits for rows. -/
def hotTaken (s : State) (c : Cmd) : Cmd :=
  if c.bnd.isEmpty then { c with bnd := hotBind s (cf c.raw.toNat 16 0 1 == 1) } else c

/-- HOT_REFRESH. -/
def execHotRefresh (q : Nat) (s : State) : Res :=
  .next (match unitCmd s q 0x71 with
    | none => s
    | some c =>
      let c := hotTaken s c
      runBody (putCmd s q c) q c hotRefreshBody)

/-- The replicas at a step boundary (R91, R93). -/
def hotBoundary (s : State) : State :=
  let s := if s.flag HOT_CFG_DECAY then
      { s with sketches := s.sketches.map fun pk => (pk.1, { pk.2 with cnt := pk.2.cnt.map fun c => (c.1, c.2 / 2) }) }
    else s
  if s.hot.ready then
    let s := { s with hot := ⟨s.hot.shadow, [], false⟩ }
    (s.bump HOT_STAT_REFRESHES 1).set HOT_STAT_ACTIVE s.hot.active.length
  else
    let keep := s.hot.active.filter fun r => match tableDesc s r.table with | some d => !d.learnable | none => true
    if keep.length = s.hot.active.length then s
    else (({ s with hot := { s.hot with active := keep } }).stick HOT_STAT_INVALIDATED).set HOT_STAT_ACTIVE keep.length

end Sys2Proof.Machine
end

