-- ==== Sys2Proof/Machine/Trough.lean ====
section
/-! DEFINITION. Scatter and exact sums (chapter 07): keys and homes, placement and eviction, the phases of a scatter,
stages and their commit, and the trough commands TRESET, TSCAT, TEXCH and TMERGE. -/

namespace Sys2Proof.Machine

open Sys2Proof

/-! Keys and homes (R191 to R193). -/

def mkKey (kind tgt idx seg : Nat) : Nat := idx % 2 ^ 40 + 2 ^ 40 * (tgt % 4096) + 2 ^ 52 * kind + 2 ^ 64 * seg
def keyIdx (k : Nat) : Nat := bits k 0 40
def keyTgt (k : Nat) : Nat := bits k 40 12
def keyKind (k : Nat) : Nat := bits k 52 4
def keySeg (k : Nat) : Nat := bits k 64 16
/-- KIND, TGT and INDEX. -/
def keyRow (k : Nat) : Nat := k % 2 ^ 56

/-- The ponds that are home troughs, from pond 0 up; every pond where none is named. -/
def troughHomes (s : State) : List Nat :=
  let m := s.get TRG_HOME0_PONDS + 2 ^ 64 * s.get TRG_HOME1_PONDS
  let ps := (upto 96).filter fun p => m.testBit p
  if ps.isEmpty then upto 96 else ps

def homeOf (s : State) (k : Nat) : Nat :=
  let ps := troughHomes s
  listGet ps (Config.troughHash (keyRow k) % ps.length) 0

/-! Slots and records (R195 to R199). -/

def zeroW : List Nat := List.replicate 32 0

def findEnt (m : SMap TEntry) (k : Nat) (tag : Option Nat) : Option (Nat × TEntry) :=
  m.find? fun ie => ie.2.key == k && ie.2.tag == tag

/-- The committed window exponent of a key (R199). -/
def committedE (x : TroughSt) (k : Nat) : Nat :=
  match findEnt x.slots k none with
  | some (_, e) => e.e
  | none => match findEnt x.recs k none with
    | some (_, e) => e.e
    | none => winZero

/-- Records of a spill area (TRG_SPILL.LOG2N). -/
def spillN (s : State) (p : Nat) : Nat :=
  let n := s.get TRG_SPILL_LOG2N p
  if n = 0 then 0 else 2 ^ clampN 10 30 n

/-- Free records that no stage has reserved (R206). -/
def spillFree (s : State) (p : Nat) (x : TroughSt) : Nat :=
  spillN s p - x.recs.length - x.resv.foldl (fun n r => n + r.2) 0

/-- The record position of a key: linear probing, wrapping, to a free record. -/
def probeFree (recs : SMap TEntry) (n : Nat) : Nat → Nat → Nat
  | 0, i => i
  | f + 1, i => if (look recs i).isSome then probeFree recs n f ((i + 1) % n) else i

/-- Window values added modulo 2^96. -/
def addW (a b : List Nat) : List Nat := (upto 32).map fun i => (listGet a i 0 + listGet b i 0) % 2 ^ 96

/-- Merge one entry into another of its key (R198). -/
def TEntry.merge (a b : TEntry) : TEntry :=
  { a with w := addW a.w b.w, e := expMax a.e b.e, nf := a.nf || b.nf, count := min (2 ^ 32 - 1) (a.count + b.count) }

/-- Why a placement fails: the command's status, and whether spill records were lacking. -/
structure NoPlace where
  status : Nat
  full : Bool
  deriving DecidableEq, Repr

/-- Move the entry at slot position `i` to the spill area (R198). -/
def evict (s : State) (p : Nat) (x : TroughSt) (i : Nat) : Except NoPlace TroughSt :=
  match look x.slots i with
  | none => .ok x
  | some v =>
    match findEnt x.recs v.key v.tag with
    | some (r, e) =>
      if ueRange s (recPa s p r) 512 then .error ⟨0x30, false⟩
      else .ok { x with slots := del x.slots i, recs := ins x.recs r (e.merge v) }
    | none =>
      if spillFree s p x = 0 then .error ⟨0x10, true⟩
      else
        let n := spillN s p
        let r := probeFree x.recs n (x.recs.length + 1) (Config.spillStart v.key % n)
        .ok { x with slots := del x.slots i, recs := ins x.recs r v }

/-- A key's entry in a slot: its position, and whether all 8 positions were occupied. -/
structure Placed where
  x : TroughSt
  pos : Nat
  crowded : Bool
  deriving DecidableEq, Repr

/-- Place a contribution to key `k` with tag `tag` (R197, R199). -/
def place8 (s : State) (p : Nat) (x : TroughSt) (k : Nat) (tag : Option Nat) : Except NoPlace Placed := do
  match findEnt x.slots k tag with
  | some (i, _) => if ueRange s (slotPa s p i) 512 then .error ⟨0x30, false⟩ else .ok ⟨x, i, false⟩
  | none =>
    let cap := trgNow s p * 2048
    if cap = 0 then .error ⟨0x10, false⟩
    let ps := (upto 8).map fun j => (Config.slotStart k + j) % cap
    let new : TEntry := ⟨k, tag, zeroW, committedE x k, false, 0⟩
    match ps.find? fun i => (look x.slots i).isNone with
    | some i => .ok ⟨{ x with slots := ins x.slots i new }, i, false⟩
    | none =>
      let v := listGet ps (Config.freeNat s.free % 8) 0
      if ueRange s (slotPa s p v) 512 then .error ⟨0x30, false⟩
      let x ← evict s p x v
      .ok ⟨{ x with slots := ins x.slots v new }, v, true⟩

/-- What a contribution left: its status, whether a victim was evicted, the contributions refused by R119. -/
structure Applied where
  status : Nat
  evicted : Bool
  refused : Nat
  deriving DecidableEq, Repr

/-- Change the entry at a placed position and keep the counts of the placement. -/
def storePlaced (s : State) (p : Nat) (r : Placed) (f : TEntry → TEntry) : State :=
  let x := { r.x with slots := upd r.x.slots r.pos ⟨0, none, zeroW, winZero, false, 0⟩ f
                      placed := r.x.placed + 1, crowded := r.x.crowded + b2n r.crowded }
  let s := (s.setTrough p x).bump TRG_CNT_SEGS 1 p
  if r.crowded then { s with free := s.free + 1 }.bump TRG_CNT_SPILLS 1 p else s

def noPlace (s : State) (p : Nat) (n : NoPlace) : State × Applied :=
  (if n.full then s.stick TRG_STAT_SPILL_FULL p else s, ⟨n.status, false, 0⟩)

/-- A key's W in committed contents, or in a stage: slot W plus record W (R201), whatever an eviction has moved between
them (R225). -/
def tagSum (x : TroughSt) (k : Nat) (tag : Option Nat) : List Nat :=
  (x.slots ++ x.recs).foldl (fun w ie => if ie.2.key == k && ie.2.tag == tag then addW w ie.2.w else w) zeroW

/-- A key's W is nonzero, in committed contents or in some stage. -/
def keyNonzero (x : TroughSt) (k : Nat) : Bool :=
  (x.slots ++ x.recs).any fun ie => ie.2.key == k && (tagSum x k ie.2.tag).any (· != 0)

/-- Give every entry of a key the exponent `e`. -/
def setE (x : TroughSt) (k e : Nat) : TroughSt :=
  let f (ie : Nat × TEntry) := if ie.2.key == k then (ie.1, { ie.2 with e := e }) else ie
  { x with slots := x.slots.map f, recs := x.recs.map f }

/-- EMAX or ESEND: the committed E becomes the larger, NF is OR-ed; one that would raise the E of a key whose W is
nonzero is not applied (R201, R202). -/
def applyEmax (s : State) (p k e : Nat) (nf : Bool) : State × Applied :=
  let x := s.trough p
  let e' := expMax (committedE x k) e
  if e' != committedE x k && keyNonzero x k then (s, ⟨0x10, false, 0⟩)
  else
    match place8 s p x k none with
    | .error n => noPlace s p n
    | .ok r =>
      (storePlaced s p { r with x := setE r.x k e' } fun t => { t with nf := t.nf || nf }, ⟨0, r.crowded, 0⟩)

/-- Count contributions that exceed the window (R119). -/
def winExceeded (s : State) (n : Nat) : State :=
  if n = 0 then s else (s.stick NUM_STAT_WIN_EXCEED).sat NUM_STAT_EXCEED_CNT n

/-- Note a contribution applied for a stage. -/
def noteApplied (s : State) (p tag : Nat) : State :=
  let x := s.trough p
  s.setTrough p { x with applied := upd x.applied tag 0 (· + 1) }

/-- ADD: 32 FP32 elements enter a staged slot under the key's E (R119, R201). -/
def applyAdd (s : State) (p k tag : Nat) (els : List Nat) : State × Applied :=
  match place8 s p (s.trough p) k (some tag) with
  | .error n => noPlace s p n
  | .ok r =>
    let e := (lookD r.x.slots r.pos ⟨0, none, zeroW, winZero, false, 0⟩).e
    let ins := (upto 32).map fun i => winContrib e (f32 (listGet els i 0))
    let exc := countOf (fun c => c == .exceeds) ins
    let bad := countOf (fun c => c == .exceeds || c == .nonfinite) ins
    let s := storePlaced s p r fun t =>
      { t with
        w := (t.w.zip ins).map fun wc => match wc.2 with | .add c => winAdd wc.1 c | _ => wc.1
        nf := t.nf || bad != 0
        count := min (2 ^ 32 - 1) (t.count + 1) }
    (winExceeded (noteApplied s p tag) exc, ⟨0, r.crowded, bad⟩)

/-- ASEND: window values with the owner's E enter a staged slot as they stand (R119, R212). -/
def applyWindow (s : State) (p k tag e : Nat) (nf : Bool) (w : List Nat) (count : Nat) : State × Applied :=
  if e != committedE (s.trough p) k || (e == winZero && w.any (· != 0)) then (s, ⟨0x10, false, 0⟩)
  else
    match place8 s p (s.trough p) k (some tag) with
    | .error n => noPlace s p n
    | .ok r =>
      let s := storePlaced s p r fun t =>
        { t with w := addW t.w w, nf := t.nf || nf, count := min (2 ^ 32 - 1) (t.count + count) }
      (noteApplied s p tag, ⟨0, r.crowded, 0⟩)

/-! Stages at their homes (R205 to R207). -/

def stageLive (x : TroughSt) (tag : Nat) : Bool :=
  (x.slots ++ x.recs).any (fun ie => ie.2.tag == some tag) || (look x.applied tag).isSome

def anyLive (x : TroughSt) : Bool := (x.slots ++ x.recs).any (fun ie => ie.2.tag.isSome) || !x.applied.isEmpty

/-- Windows of one key under different exponents are never added together (R119): a stage that holds one cannot be
committed. -/
def stageFits (x : TroughSt) (tag : Nat) : Bool :=
  (x.slots ++ x.recs).all fun ie => ie.2.tag != some tag
    || ((findEnt x.slots ie.2.key none).isNone && (findEnt x.recs ie.2.key none).isNone) || ie.2.e == committedE x ie.2.key

/-- PREPARE: check the count, and reserve a free record for every staged slot and record. -/
def prepareAt (s : State) (p tag count : Nat) : State × Bool :=
  let x := s.trough p
  if lookD x.applied tag 0 != count || !stageFits x tag then (s, false)
  else
    let n := countOf (fun ie : Nat × TEntry => ie.2.tag == some tag) (x.slots ++ x.recs)
    if spillFree s p { x with resv := del x.resv tag } < n then (s.stick TRG_STAT_SPILL_FULL p, false)
    else (s.setTrough p { x with resv := ins x.resv tag n }, true)

/-- Add one staged entry, taken out of its place, into committed contents; where none of its key is committed, the
entry itself becomes the committed one in its place. -/
def commitOne (x : TroughSt) (inSlot : Bool) (i : Nat) (v : TEntry) : TroughSt :=
  let x' := if inSlot then { x with slots := del x.slots i } else { x with recs := del x.recs i }
  match findEnt x'.slots v.key none with
  | some (j, e) => { x' with slots := ins x'.slots j (e.merge v) }
  | none =>
    if inSlot then { x with slots := ins x.slots i { v with tag := none } }
    else
      match findEnt x'.recs v.key none with
      | some (j, e) => { x' with recs := ins x'.recs j (e.merge v) }
      | none => { x with recs := ins x.recs i { v with tag := none } }

/-- COMMIT: the stage enters committed contents and its reservation is released; a COMMIT that names no live stage does
nothing. -/
def commitAt (s : State) (p tag : Nat) : State :=
  let x := s.trough p
  if !stageLive x tag then s
  else
    let a := x.slots.foldl (fun y ie => if ie.2.tag == some tag then commitOne y true ie.1 ie.2 else y) x
    let b := a.recs.foldl (fun y ie => if ie.2.tag == some tag then commitOne y false ie.1 ie.2 else y) a
    s.setTrough p { b with resv := del b.resv tag, applied := del b.applied tag }

/-- ABORT: the stage is discarded and its reservation released. -/
def abortAt (s : State) (p tag : Nat) : State :=
  let x := s.trough p
  if !stageLive x tag then s
  else
    let keep (ie : Nat × TEntry) : Bool := ie.2.tag != some tag
    (s.setTrough p { x with slots := x.slots.filter keep, recs := x.recs.filter keep
                            resv := del x.resv tag, applied := del x.applied tag }).stick TRG_STAT_ABORTED p

/-! The progress of a source command (R206). -/

/-- Send the messages that end or abort a stage. -/
def sendStage (s : State) (q : Nat) (c : Cmd) (kind : TroughKind) : State :=
  { s with tmsgs := s.tmsgs ++ (homesOf c).map (stageMsg s q c kind) }

/-- A step of a source command is over. Stages: 1 contributions or requests under way, 2 PREPAREs sent, 3 prepared and
done, 4 COMMITs sent, 5 ABORTs sent before it ends, 6 committed everywhere. -/
def stageNext (s : State) (q : Nat) (c : Cmd) : State :=
  let put (s : State) (c : Cmd) : State := s.updCmd q c.seq fun _ => c
  let acc := accumulates c.raw.toNat
  let fin := c.fin.getD 0
  let give (s : State) : State :=
    let (s, n) := abortStage s q c
    if n = 0 then put s { c with phase := .done fin } else put s { c with stage := 5, waits := n }
  match c.stage with
  | 1 =>
    if !acc then put s { c with phase := .done fin }
    else if fin != 0 then give s
    else if c.aux.isEmpty then put s { c with phase := .done 0 }
    else put (sendStage s q c .prepare) ({ c with stage := 2, waits := c.aux.length }.count 4 c.aux.length)
  | 2 => if fin != 0 then give s else put s { c with stage := 3, phase := .done 0 }
  | 4 => put s { c with stage := 6, phase := .done 0 }
  | 5 => put s { c with phase := .done fin }
  | _ => s

/-- One answer has come for a source command: `st` is its status; `f` notes what else it brought. -/
def stageAnswer (s : State) (q seq st : Nat) (f : Cmd → Cmd) : State :=
  match s.findCmd q seq with
  | none => s
  | some c =>
    if c.phase != .running || c.waits = 0 then s
    else
      let c := f { c with waits := c.waits - 1, fin := if st != 0 && c.fin.getD 0 == 0 then some st else c.fin }
      let s := s.updCmd q seq fun _ => c
      if c.waits = 0 then stageNext s q c else s

/-- A home trough can work: no undervoltage hold stops its handshakes (R35), and a trough message wakes a lulled pond
first (R452). The deputy serves for a fenced trough (R418). -/
def homeReady (s : State) (p : Nat) : Bool :=
  match homePond s p with
  | some d => running s && !s.flag POND_PACE_UV_HELD d && !(s.pond d).lull && !(s.pond d).wakeWait
  | none => false

/-- The pond that serves a home is woken. -/
def wakeHome (s : State) (p : Nat) : State := match homePond s p with | some d => wakePond s d | none => s

/-- A message of this device waits for its home. -/
def isWaiting (s : State) (m : TroughMsg) : Bool := s.tmsgs.contains m

def dropMsg (s : State) (m : TroughMsg) : State := { s with tmsgs := s.tmsgs.erase m, tresent := s.tresent.erase m }

/-- The answer to a message that home pond `p` has taken: to a trough here, or to another device. -/
def replyTo (s : State) (m : TroughMsg) (p e : Nat) (nf ok : Bool) : State :=
  let r : TroughMsg := { m with ack := true, srcDev := s.me, src := p, dstDev := m.srcDev, dst := m.src, e := e, nf := nf, ok := ok, w := [] }
  if m.srcDev == s.me then { s with tmsgs := s.tmsgs ++ [r] } else { s with treply := some r }

def tagOf (m : TroughMsg) : Nat := stageTag m.dev m.queue m.seq

/-- A message from another device for this one. -/
def fromAfar (s : State) (m : TroughMsg) : Bool := !m.ack && m.srcDev != s.me && m.dstDev == s.me && m.dev != s.me

/-- A contribution reaches its home (R197): of a TSCAT here, or an ASEND of another device. -/
def contribution (s : State) (m : TroughMsg) : State :=
  if isWaiting s m && m.dstDev == s.me && !m.ack && (m.kind == .emax || m.kind == .add) then
    if !homeReady s m.dst then wakeHome s m.dst
    else
      let s := dropMsg s m
      let (s, a) := if m.kind == .emax then applyEmax s m.dst m.key m.e m.nf else applyAdd s m.dst m.key (tagOf m) m.w
      stageAnswer s m.queue m.seq a.status fun c => (c.count 1 (b2n a.evicted)).count 3 a.refused
  else if m.kind == .asend && fromAfar s m then
    let p := homeOf s m.key
    if !homeReady s p then wakeHome s p
    else
      let (s, a) := applyWindow s p m.key (tagOf m) m.e m.nf m.w m.count
      replyTo s m p m.e m.nf (a.status == 0)
  else s

/-- TROUGH_CONTRIBUTION (R197). -/
def execTroughContribution (m : TroughMsg) (s : State) : Res := .next (contribution s m)

/-- TROUGH_EXPONENT_MESSAGE (R201): an ESEND or EFETCH of another device reaches the key's home. -/
def exponentMessage (s : State) (m : TroughMsg) : State :=
  if !fromAfar s m || !(m.kind == .esend || m.kind == .efetch) then s
  else
    let p := homeOf s m.key
    if !homeReady s p then wakeHome s p
    else if m.kind == .esend then
      let (s, a) := applyEmax s p m.key m.e m.nf
      replyTo s m p m.e m.nf (a.status == 0)
    else
      let x := s.trough p
      let nf := (x.slots ++ x.recs).any fun ie => ie.2.key == m.key && ie.2.tag.isNone && ie.2.nf
      replyTo s m p (committedE x m.key) nf true

def execTroughExponentMessage (m : TroughMsg) (s : State) : Res := .next (exponentMessage s m)

/-- The homes that a message which ends a stage acts at: its pond, or every one with a live stage. -/
def homesAt (s : State) (dst : Nat) : List Nat :=
  if dst < 96 then [dst] else (s.troughs.filter fun kx => anyLive kx.2).map (·.1)

/-- A message that ends a stage reaches pond `m.dst`; pond 127 names every home of the device. -/
def stageEnd (s : State) (m : TroughMsg) (kind : TroughKind) (act : State → Nat → State × Bool) : State :=
  if m.kind != kind || m.ack then s
  else if !((isWaiting s m && m.dstDev == s.me) || fromAfar s m) then s
  else if (homesAt s m.dst).any (!homeReady s ·) then (homesAt s m.dst).foldl (fun s p => if homeReady s p then s else wakeHome s p) s
  else
    let s := if m.srcDev == s.me then dropMsg s m else s
    let (s, ok) := if m.dst < 96 then act s m.dst else (upto 96).foldl (fun r p => ((act r.1 p).1, r.2)) (s, true)
    replyTo s m m.dst m.e m.nf ok

/-- PREPARE (R206). -/
def execPrepare (m : TroughMsg) (s : State) : Res :=
  .next (stageEnd s m .prepare fun s p => prepareAt s p (tagOf m) m.count)

/-- COMMIT (R206). -/
def execCommit (m : TroughMsg) (s : State) : Res :=
  .next (stageEnd s m .commit fun s p => (commitAt s p (tagOf m), true))

/-- ABORT (R207). -/
def execAbort (m : TroughMsg) (s : State) : Res :=
  .next (stageEnd s m .abort fun s p => (abortAt s p (tagOf m), true))

/-- EFETCH's answer: the owner's E and NF are written into the key's committed slot and record (R201). -/
def fetched (s : State) (p k e : Nat) (nf : Bool) : State :=
  let x := s.trough p
  let f (ie : Nat × TEntry) := if ie.2.key == k && ie.2.tag.isNone then (ie.1, { ie.2 with e := e, nf := nf }) else ie
  s.setTrough p { x with slots := x.slots.map f, recs := x.recs.map f }

/-- The request that an answer of another device belongs to. -/
def answered (s : State) (m : TroughMsg) : Option TroughMsg :=
  s.tmsgs.find? fun r => !r.ack && r.dstDev == m.srcDev && r.kind == m.kind && r.key == m.key && r.dev == m.dev
    && r.queue == m.queue && r.seq == m.seq
    && (r.kind == .esend || r.kind == .efetch || r.kind == .asend || r.dst == m.src)

/-- Count a contribution that a home of another device took. -/
def addHome (c : Cmd) (h : Nat) : Cmd :=
  match c.aux.find? fun a => a / 2 ^ 32 == h with
  | some a => { c with aux := c.aux.map fun b => if b == a then a + 1 else b }
  | none => { c with aux := c.aux ++ [h * 2 ^ 32 + 1] }

/-- HOME_ACKNOWLEDGEMENT (R206, R207). -/
def homeAck (s : State) (m : TroughMsg) : State :=
  if !m.ack || m.dstDev != s.me || m.dev != s.me || !running s then s
  else
    let found := if m.srcDev == s.me then (if isWaiting s m then some m else none) else answered s m
    match found with
    | none => s
    | some r =>
      let s := dropMsg s r
      let st := if m.ok then 0 else 0x10
      match m.kind with
      | .efetch =>
        let s := if m.ok then fetched s (hPond (homeOfQ s m.queue)) m.key m.e m.nf else s
        stageAnswer s m.queue m.seq st id
      | .asend => stageAnswer s m.queue m.seq st fun c => if m.ok then addHome c (m.srcDev * 128 + m.src) else c
      | _ => stageAnswer s m.queue m.seq st id

def execHomeAcknowledgement (m : TroughMsg) (s : State) : Res := .next (homeAck s m)

/-! TRESET (R210). -/

def tresetBody (q : Nat) : EM Unit := do
  let s ← gets id
  let p := hPond (homeOfQ s q)
  need (!anyLive (s.trough p)) 0x10
  let x := s.trough p
  onS fun s =>
    let s := s.setTrough p { x with slots := [], recs := [], resv := [], applied := [] }
    let s := s.clearMain (recPa s p 0) (recPa s p (spillN s p))
    let y := s.pond p
    slabApply s p y.cacheSize (min 8 (s.get TRG_CFG_SIZE_MIB p)) y.hotSize y.traceSize

/-- TRESET. -/
def execTreset (q : Nat) (s : State) : Res := .next (runUnit s q 0x80 (tresetBody q))

/-! TSCAT (R211). -/

/-- An element of a source row as FP32; every source format converts exactly. -/
def srcElem (sfmt code : Nat) : Nat :=
  if sfmt = 0 then code else if sfmt = 1 then bf16.cvt fp32 code else fp16.cvt fp32 code

/-- The source row and the target row of each contribution's row: an index list, or a block's pairs. -/
def scatterRows (kind imode count index : Nat) : EM (List (Nat × Nat)) := do
  if imode = 0 then
    let b ← ld index (5 * count)
    return (upto count).map fun i => (i, byteN b (5 * i) 5)
  let h ← ld index 64
  let n := byteN h 0 4
  let b ← ld (index + byteN h 24 8) (8 * n)
  let srcs ← if kind = 2 then ld (index + byteN h 32 8) (5 * byteN h 8 4) else pure []
  return (upto n).map fun i =>
    let src := byteN b (8 * i + 4) 4
    (if imode = 1 then i else byteN b (8 * i) 4, if kind = 2 then byteN srcs (5 * src) 5 else src)

/-- The rows that are contributed: a pad ID as a row key is skipped, and a row key must lie in the partition (R192). -/
def scatterCheck (d : TDesc) (t : Nat) : List (Nat × Nat) → EM (List (Nat × Nat))
  | [] => return []
  | (i, k) :: l => do
    if k = padId then scatterCheck d t l
    else
      let (dev, row) ← partLookup d.part d.ranges k
      need (row < (if dev = (← gets State.me) then d.rows else Config.ownerRows dev t)) 0x10
      return (i, k) :: (← scatterCheck d t l)

/-- The contribution of one segment: EMAX carries its largest exponent and whether an element is not finite, ADD its
elements. -/
def segMsg (s : State) (q seq : Nat) (add : Bool) (key : Nat) (els : List Nat) : TroughMsg :=
  let v := els.map f32
  let e := v.foldl (fun e x => expMax e (expOf x)) winZero
  let nf := v.any fun x => !x.isFin
  ⟨if add then .add else .emax, false, s.me, hPond (homeOfQ s q), s.me, homeOf s key, s.me, q, seq, key,
    if add then 0 else e, !add && nf, if add then els else [], 1, false⟩

/-- The contributions of one source row, in segments. -/
def rowMsgs (s : State) (q seq : Nat) (add : Bool) (kind tgt idx : Nat) (els : List Nat) : List TroughMsg :=
  (upto ((els.length + 31) / 32)).map fun g =>
    segMsg s q seq add (mkKey kind tgt idx g) (((els.drop (32 * g)).take 32 ++ zeroW).take 32)

def tscatBody (q : Nat) : EM Unit := do
  let add := (← fld 16 0 1) == 1
  let kind ← fld 16 1 2
  let imode ← fld 16 3 2
  let sfmt ← fld 17 0 8
  let tgt ← fld 18 0 12
  let elems ← fld 20 0 16
  let src ← fld 24 0 43
  let stride ← fld 32 0 32
  let count ← fld 36 0 32
  let index ← fld 40 0 43
  let eb := fmtBytes sfmt
  let pitch := if stride = 0 then elems * eb else stride
  let rows ← (if kind = 2 then do
      let d ← useTable tgt
      need (elems == d.elems) 0x10
      scatterCheck d tgt (← scatterRows kind imode count index)
    else scatterRows kind imode count index)
  let seq := (← get).cmd.seq
  let msgs ← rows.mapM fun ik => do
    let b ← ld (src + pitch * ik.1) (elems * eb)
    let els := (upto elems).map fun i => srcElem sfmt (byteN b (eb * i) eb)
    return rowMsgs (← gets id) q seq add kind tgt ik.2 els
  let l := msgs.flatten
  onS fun s => { s with tmsgs := s.tmsgs ++ l }
  let me ← gets State.me
  let homes := nubN (l.map (·.dst))
  onC fun c => { c with
    stage := 1, waits := l.length
    aux := if add then homes.map fun p => (128 * me + p) * 2 ^ 32 + countOf (fun m : TroughMsg => m.dst == p) l else [] }
  countC 0 l.length

/-- The command of an opcode that its engine takes next, when its OP field is `op`. -/
def runOp (s : State) (q opc w op : Nat) (body : EM Unit) : State :=
  match unitCmd s q opc with
  | none => s
  | some c => if cf c.raw.toNat 16 0 w == op then runBody s q c body else s

/-- TSCAT with OP = EMAX. -/
def execTscatEmax (q : Nat) (s : State) : Res := .next (runOp s q 0x81 1 0 (tscatBody q))

/-- TSCAT with OP = ADD. -/
def execTscatAdd (q : Nat) (s : State) : Res := .next (runOp s q 0x81 1 1 (tscatBody q))

/-! TEXCH (R212). -/

/-- The committed keys of a KIND and TGT in a trough: slots, then records, by position. -/
def committedKeys (x : TroughSt) (kind tgt : Nat) : List Nat :=
  nubN ((x.slots ++ x.recs).filterMap fun ie =>
    if ie.2.tag.isNone && keyKind ie.2.key == kind && keyTgt ie.2.key == tgt then some ie.2.key else none)

/-- A key's committed contents: slot W plus record W, E, NF and COUNT (R201, R213). -/
def keySum (x : TroughSt) (k : Nat) : TEntry :=
  match findEnt x.slots k none, findEnt x.recs k none with
  | some a, some b => a.2.merge b.2
  | some a, none => a.2
  | none, some b => b.2
  | none, none => ⟨k, none, zeroW, winZero, false, 0⟩

def texchBody (q : Nat) (kind : TroughKind) : EM Unit := do
  let tgt ← fld 18 0 12
  let d ← useTable tgt
  let s ← gets id
  let p := hPond (homeOfQ s q)
  let keys := committedKeys (s.trough p) 2 tgt
  need (!(keys.any fun k => (findEnt (s.trough p).slots k none).any (fun ie => ueRange s (slotPa s p ie.1) 512)
    || (findEnt (s.trough p).recs k none).any fun ie => ueRange s (recPa s p ie.1) 512)) 0x30
  let owned ← keys.mapM fun k => do
    let (dev, _) ← partLookup d.part d.ranges (keyIdx k)
    return (k, dev)
  let far := owned.filter fun kd => kd.2 != s.me
  let seq := (← get).cmd.seq
  let l := far.map fun kd =>
    let t := keySum (s.trough p) kd.1
    TroughMsg.mk kind false s.me p kd.2 0 s.me q seq kd.1 (if kind == .efetch then 0 else t.e) (kind != .efetch && t.nf)
      (if kind == .asend then t.w else []) (if kind == .asend then t.count else 1) false
  onS fun s => { s with tmsgs := s.tmsgs ++ l }
  onC fun c => { c with stage := 1, waits := l.length, aux := []
                        fx := if kind == .asend then c.fx ++ [.freeKeys p (far.map (·.1))] else c.fx }
  countC 0 l.length

/-- TEXCH with OP = ESEND. -/
def execTexchEsend (q : Nat) (s : State) : Res := .next (runOp s q 0x82 2 0 (texchBody q .esend))

/-- TEXCH with OP = EFETCH. -/
def execTexchEfetch (q : Nat) (s : State) : Res := .next (runOp s q 0x82 2 1 (texchBody q .efetch))

/-- TEXCH with OP = ASEND. -/
def execTexchAsend (q : Nat) (s : State) : Res := .next (runOp s q 0x82 2 2 (texchBody q .asend))

/-! TMERGE (R213, R214). -/

/-- A row converted: its codes, and whether some segment converted with NF set. -/
def mergeRow (x : TroughSt) (f : Fmt) (kind tgt idx elems : Nat) : List Nat × Bool :=
  let segs := (upto ((elems + 31) / 32)).map fun g =>
    let t := keySum x (mkKey kind tgt idx g)
    let o := (upto 32).map fun i => winOut f t.e (listGet t.w i 0) t.nf
    (o.map (·.1), t.nf || ((o.take (elems - 32 * g)).any (·.2)))
  ((segs.flatMap (·.1)).take elems, segs.any (·.2))

/-- Leave the bytes of a job address range unspecified. -/
def staleJob (a n : Nat) : EM Unit := do
  if n = 0 then return ()
  match ← place a n true with
  | .inl parts => onS fun s => parts.foldl (fun s r => s.makeStale r.1 (r.1 + r.2)) s
  | .inr _ => pure ()

/-- The ranges of a job address as retire-time writes. -/
def bytesAtRetire (a : Nat) (d : List Byte) : EM Unit := do
  sideOk a d.length
  match ← place a d.length true with
  | .inl parts =>
    noteWrite a parts d
    let fx := parts.foldl (fun (acc : List RetFx × List Byte) r => (acc.1 ++ [.bytes r.1 (acc.2.take r.2)], acc.2.drop r.2)) ([], d)
    onC fun c => { c with fx := c.fx ++ fx.1 }
  | .inr h => do
    noteHost a d
    hostStore h d

def tmergeBody (q : Nat) : EM Unit := do
  let kind ← fld 16 0 2
  let bf ← fld 16 2 1
  let zfill ← fld 16 3 1
  let tgt ← fld 18 0 12
  let elems ← fld 20 0 16
  let dest ← fld 24 0 43
  let dstride ← fld 32 0 32
  let rows ← fld 36 0 32
  let counta ← fld 40 0 43
  let s ← gets id
  let p := hPond (homeOfQ s q)
  let x := s.trough p
  let keys := committedKeys x kind tgt
  need (!(keys.any fun k => (findEnt x.slots k none).any (fun ie => ueRange s (slotPa s p ie.1) 512)
    || (findEnt x.recs k none).any fun ie => ueRange s (recPa s p ie.1) 512)) 0x30
  let idxs := nubN (keys.map keyIdx)
  let freed (is : List Nat) : List Nat := keys.filter fun k => is.contains (keyIdx k)
  if kind = 1 then
    let f := if bf = 1 then bf16 else fp32
    let eb := if bf = 1 then 2 else 4
    let pitch := if dstride = 0 then elems * eb else dstride
    for i in idxs do
      let (v, nf) := mergeRow x f 1 tgt i elems
      if nf then onS noteNF
      st (dest + pitch * i) (v.flatMap (leBytes eb))
    if zfill = 1 then
      for i in (upto rows).filter fun i => !idxs.contains i do
        st (dest + pitch * i) (List.replicate (elems * eb) 0)
    onC fun c => { c with fx := c.fx ++ [.freeKeys p (freed idxs)] }
    countC 5 (freed idxs).length
  else
    let d ← useTable tgt
    need (dest % 16 == 0) 0x10
    let owned ← idxs.mapM fun i => do
      let (dev, row) ← partLookup d.part d.ranges i
      return (i, dev, row)
    let mine := owned.filter fun o => o.2.1 == s.me
    let esz := 16 + 16 * ((d.elems + 3) / 4)
    if mine.length > rows then
      onS (·.stick TRG_STAT_LIST_FULL p)
      staleJob dest (esz * rows)
      emStop 0x10
    for oi in mine.zipIdx do
      let (v, nf) := mergeRow x fp32 2 tgt oi.1.1 d.elems
      if nf then onS noteNF
      let head := leBytes 5 oi.1.2.2 ++ leBytes 5 oi.1.1 ++ leBytes 2 tgt ++ leBytes 1 (b2n nf) ++ leBytes 3 0
      st (dest + esz * oi.2) (((head ++ v.flatMap (leBytes 4)) ++ List.replicate 16 0).take esz)
    let fr := freed (mine.map (·.1))
    bytesAtRetire counta (leBytes 8 mine.length)
    onC fun c => { c with fx := c.fx ++ [.freeKeys p fr] }
    countC 5 fr.length

/-- TMERGE. -/
def execTmerge (q : Nat) (s : State) : Res := .next (runUnit s q 0x83 (tmergeBody q))

/-! TCODEC (R222 to R224). -/

def tcodecBody : EM Unit := do
  let op ← fld 16 0 1
  let count ← fld 20 0 32
  let src ← fld 24 0 43
  let ss ← fld 32 0 32
  let ds ← fld 36 0 32
  let dst ← fld 40 0 43
  for i in upto count do
    let d ← ldDesc (src + ss * i)
    need (d.ok && !d.sp && fmtBase d.fmt != 0 && (op == 1 || d.dense) && d.size ≤ ds) 0x10
  for i in upto count do
    let d ← ldDesc (src + ss * i)
    let r ← ldTile d (src + ss * i)
    st (dst + ds * i) (if op = 0 then compressBytes r else denseBytes r)

/-- TCODEC. -/
def execTcodec (q : Nat) (s : State) : Res := .next (runUnit s q 0x90 tcodecBody)

/-! The spill threshold (R449). -/

/-- θ in force, within its bounds; LOOP_TRG.MAX before its first use. -/
def thetaOf (s : State) (x : TroughSt) : Nat :=
  let lo := s.get LOOP_TRG_MIN
  let hi := max lo (s.get LOOP_TRG_MAX)
  if x.theta = 0 then hi else clampN lo hi x.theta

/-- A background eviction of a committed slot, while more than θ × SIZE_MIB × 128 slots are occupied. -/
def backgroundEvict (s : State) (p : Nat) : State :=
  let x := s.trough p
  if !homeReady s p || x.slots.length ≤ thetaOf s x * trgNow s p * 128 then s
  else
    let cs := x.slots.filter fun ie => ie.2.tag.isNone
    match cs[Config.freeNat s.free % cs.length]? with
    | none => s
    | some (i, _) =>
      match evict s p x i with
      | .ok y => ({ s with free := s.free + 1 }.setTrough p y).bump TRG_CNT_SPILLS 1 p
      | .error _ => s

/-- TROUGH_BACKGROUND_EVICT. -/
def execTroughBackgroundEvict (p : Nat) (s : State) : Res := .next (if p < 96 then backgroundEvict s p else s)

/-- SPILL_THRESHOLD_ADJUST: after 65,536 placements θ falls by 1 if more than 1,024 of them found all 8 positions
occupied, and rises by 1 if none did, within its bounds. -/
def thresholdAdjust (s : State) (p : Nat) : State :=
  let x := s.trough p
  if x.placed < 65536 then s
  else
    let t := thetaOf s x
    let lo := s.get LOOP_TRG_MIN
    let hi := max lo (s.get LOOP_TRG_MAX)
    let fall := x.crowded > 1024
    let t' := if fall then max lo (t - 1) else if x.crowded = 0 then min hi (t + 1) else t
    s.setTrough p { x with theta := t', placed := 0, crowded := 0, unmet := fall && t == lo }

def execSpillThresholdAdjust (p : Nat) (s : State) : Res := .next (if p < 96 then thresholdAdjust s p else s)

end Sys2Proof.Machine
end

