-- ==== Sys2Proof/Machine/Collective.lean ====
section
/-! DEFINITION. Collectives (chapter 13): groups, XFER, exact reductions, gathers, broadcasts, maxima, exchanges and
permutes by chunks, the step flag, the noise table, and the seed count. Chunks go straight from member to member: the
plan by which the hardware routes them is not part of the interface (R381). -/

namespace Sys2Proof.Machine

open Sys2Proof

/-! Groups (R381 to R383). -/

structure Group where
  n : Nat
  rank : Nat
  members : List Nat
  deriving DecidableEq, Repr

def grpAddr (s : State) (g : Nat) : Nat := s.get COL_GRP_BASE_BASE * 64 + 64 * g

/-- Read and check a group descriptor for queue `q`. -/
def useGroup (q g : Nat) : EM Group := do
  let a ← gets (grpAddr · g)
  let v ← ldLocalN a 64
  let n := bits v 0 14
  need (v.testBit 32 && bits v 48 14 == q) 0x10
  need (1 ≤ n && n ≤ 8192 && bits v 16 13 < n && (v.testBit 33 || (1 ≤ bits v 40 4 && bits v 40 4 ≤ 12))) 0x10
  need (bits v 14 2 == 0 && bits v 29 3 == 0 && bits v 34 6 == 0 && bits v 44 4 == 0 && bits v 62 2 == 0
    && bits v 107 21 == 0 && bits v 171 21 == 0 && bits v 224 288 == 0) 0x10
  let b ← ld (bits v 64 43) (2 * n)
  return ⟨n, bits v 16 13, (upto n).map fun i => byteN b (2 * i) 2⟩

/-- The units that rank `r` owns (R383): first, and one past the last. -/
def split (u n r : Nat) : Nat × Nat := (u * r / n, u * (r + 1) / n)

/-- The units of a tensor of `u` units split in grains of `g` (R385): rank r's range. -/
def splitGrain (u g n r : Nat) : Nat × Nat :=
  let g := max 1 g
  let (a, b) := split ((u + g - 1) / g) n r
  (min u (a * g), min u (b * g))

/-- The number of a collective on this device (R382): counted in the descriptor at its first start, and kept in the
journal for a reissue (R388). -/
def takeCseq (q g : Nat) : EM Nat := do
  let e ← get
  let j := e.s.jent q e.cmd.seq
  match j.bound with
  | some c => return c
  | none => do
    let a := grpAddr e.s g + 24
    let c ← ldLocalN a 4
    stLocal a (leBytes 4 ((c + 1) % 2 ^ 32))
    onS fun s => s.setJent q { s.jent q e.cmd.seq with bound := some c }
    match consumerOf e.s q with
    | .te p => onS (·.bump COL_CNT_LEADS 1 p)
    | .unit _ => pure ()
    return c

/-! Chunks (R391). -/

def flAck : Nat := 1
def flDone : Nat := 2
def flAbort : Nat := 4
def flLnf : Nat := 8
def flNf : Nat := 16

def ColMsg.payload (m : ColMsg) : List Byte :=
  leBytes 1 m.opc ++ leBytes 1 m.flags ++ leBytes 2 m.e ++ leBytes 4 m.count ++ leBytes 4 m.val0 ++ leBytes 4 m.val1 ++ m.data

def ColMsg.addr (m : ColMsg) : Nat := m.group + 64 * (m.cseq % 2 ^ 16) + 2 ^ 22 * (m.chunk % 2 ^ 21)

/-- The message of a COLL frame. -/
def colMsgOf (src addr : Nat) (b : List Byte) : ColMsg :=
  ⟨bits addr 0 6, bits addr 6 16, bits addr 22 21, src, byteN b 0 1, byteN b 1 1, byteN b 2 2, byteN b 4 4, byteN b 8 4,
    byteN b 12 4, b.drop 16⟩

/-- Send a chunk to a device; the device itself needs none. Chunks go to each member by themselves, whatever the plan's
rings or trees would route and add on the way, which no result shows (R381, R122). -/
def sendCol (s : State) (dev : Nat) (m : ColMsg) : State :=
  if dev == s.me then s
  else s.request .posted 0xE dev m.addr m.payload.length m.payload

def sendAll (s : State) (g : Group) (m : ColMsg) : State := g.members.foldl (fun s d => sendCol s d m) s

/-- The chunks that have come for a collective from a member. -/
def colFrom (s : State) (g cseq dev : Nat) : List ColMsg :=
  s.colIn.filter fun m => m.group == g && m.cseq == cseq % 2 ^ 16 && m.src == dev

def isData (m : ColMsg) : Bool := m.flags &&& (flAck ||| flDone ||| flAbort) == 0
def isDone (m : ColMsg) : Bool := m.flags &&& flDone != 0
def isAbort (m : ColMsg) : Bool := m.flags &&& flAbort != 0

/-- What a running collective knows of itself. -/
structure Col where
  q : Nat
  gi : Nat
  g : Group
  cseq : Nat
  opc : Nat
  count : Nat
  deriving DecidableEq, Repr

def Col.msg (c : Col) (chunk flags e val0 val1 : Nat) (d : List Byte) : ColMsg :=
  ⟨c.gi, c.cseq % 2 ^ 16, chunk, 0, c.opc, flags, e, c.count % 2 ^ 32, val0, val1, d⟩

/-- The other members, with their ranks. -/
def Col.others (c : Col) : List (Nat × Nat) := ((upto c.g.n).zip c.g.members).filter fun rd => rd.1 != c.g.rank

def Col.dev (c : Col) (r : Nat) : Nat := listGet c.g.members r 0

/-- Wait: the command keeps what it has done, and goes on with later chunks. -/
def colHold (q : Nat) : EM Unit := do
  let e ← get
  throw (.hold (putCmd e.s q e.cmd))

def colNeed (q : Nat) (b : Bool) : EM Unit := if b then pure () else colHold q

def setStage (n : Nat) : EM Unit := onC fun c => { c with stage := n }

/-- Abandon a collective on every member (R386). -/
def colAbortAll (c : Col) : EM Unit := onS fun s => sendAll s c.g (c.msg 0 flAbort 0 0 0 [])

/-- An ABORT ends the command with status 0x3F; a chunk of another opcode or COUNT is a mismatch (R386). -/
def colCheck (c : Col) (counted : Bool) : EM Unit := do
  let s ← gets id
  let l := c.others.flatMap fun rd => colFrom s c.gi c.cseq rd.2
  if l.any isAbort then
    onS (·.stick COL_STAT_ABORTED)
    emStop 0x3F
  if l.any fun m => m.opc != c.opc || (counted && m.count != c.count % 2 ^ 32)
      || (counted && (c.opc == 0xC3 || c.opc == 0xC5) && isData m && m.e % 256 != c.count / 2 ^ 32) then
    onS (·.stick COL_STAT_MISMATCH)
    colAbortAll c
    emStop 0x10

/-- Send DONE to every member (R391). -/
def colDone (c : Col) (flags val0 val1 : Nat) : EM Unit :=
  onS fun s => sendAll s c.g (c.msg 0 (flDone + flags) 0 val0 val1 [])

/-- Wait for every member's DONE (R387); the collective's chunks are dropped. -/
def colEnd (c : Col) : EM (List ColMsg) := do
  let s ← gets id
  let ds := c.others.map fun rd => (colFrom s c.gi c.cseq rd.2).find? isDone
  colNeed c.q (ds.all (·.isSome))
  onS fun s => { s with colIn := s.colIn.filter fun m => !(m.group == c.gi && m.cseq == c.cseq % 2 ^ 16) }
  return ds.filterMap id

/-- The check value of what was written at DST (R385). -/
def colDigest (dst : Nat) (d : List Byte) : EM Unit := do
  let en ← fld 19 4 1
  if en = 1 then
    let cfg := CvCfg.ofList (← get).cmd.cvu
    st (dst + roundUp 16 d.length) (leBytes 8 (cv cfg d))

/-! Reductions (R390). -/

def colInFmt (i : Nat) : Fmt := if i = 0 then fp32 else if i = 1 then bf16 else fp16
def colInBytes (i : Nat) : Nat := if i = 0 then 4 else 2
def colFmt (o : Nat) : Fmt := if o = 0 then fp32 else if o = 1 then bf16 else mw48
def colBytes (o : Nat) : Nat := if o = 0 then 4 else if o = 1 then 2 else 6

/-- The input as blocks of 32 numbers, the last padded with zeros. -/
def redBlocks (src ifmt count : Nat) : EM (List (List Num)) := do
  let w := colInBytes ifmt
  let b ← ld src (count * w)
  let z : Num := .fin false 0 0
  return (upto ((count + 31) / 32)).map fun k => (upto 32).map fun i =>
    if 32 * k + i < count then (colInFmt ifmt).dec (byteN b (w * (32 * k + i)) w) else z

/-- Exact sum of squares of finite numbers, rounded once (R395). -/
def sumSq (l : List Num) : Nat :=
  fp32.enc (l.foldl (fun (a : Dy) x => if x.isFin then a.add (x.dy.mul x.dy) else a) Dy.zero).num

/-- Exact sum of FP32 values, rounded once. -/
def sumF32 (l : List Nat) : Nat := fp32.enc (l.foldl (fun (a : Num) x => a.add (f32 x)) (.fin false 0 0))

/-- Blocks that rank `r` owns. -/
def ownBlocks (opc nb grain n r : Nat) : Nat × Nat := splitGrain nb (if opc = 0xC1 then 1 else grain) n r

/-- A window block: values and NF. -/
def winBlock (e : Nat) (l : List Num) : List Nat × Bool × Nat :=
  let ins := l.map (winContrib e)
  (ins.map fun c => match c with | .add k => winAdd 0 k | _ => 0,
    ins.any (fun c => c == .nonfinite || c == .exceeds), countOf (· == .exceeds) ins)

/-- Converted chunks: consecutive blocks of at most 384 bytes. -/
def convPer (o : Nat) : Nat := if o = 0 then 3 else if o = 1 then 6 else 2

def sumWin (a b : List Nat) : List Nat := (upto 32).map fun i => (listGet a i 0 + listGet b i 0) % 2 ^ 96

structure Red where
  ifmt : Nat
  ofmt : Nat
  flag : Bool
  stats : Bool
  lg : Nat
  grain : Nat
  src : Nat
  dst : Nat
  work : Nat
  deriving DecidableEq, Repr

def redParams : EM Red := do
  return ⟨← fld 17 0 2, ← fld 17 2 2, (← fld 17 4 1) == 1, (← fld 17 5 1) == 1, ← fld 18 0 8, ← fld 20 0 32, ← fld 32 0 43,
    ← fld 40 0 43, ← fld 48 0 43⟩

/-- What a reduction is refused for before it moves anything (R385, R393). -/
def redRefused (raw : Nat) (bnd : List Nat) : Bool :=
  let w := colInBytes (cf raw 17 0 2)
  let v := colBytes (cf raw 17 2 2)
  let count := cf raw 24 0 32
  let src := cf raw 32 0 43
  let dst := cf raw 40 0 43
  (cf raw 17 4 1 == 1 && listGet bnd 1 0 == 1)
    || (opcOf raw == 0xC1 && src != dst && meets src (count * w) dst (count * v))
    || (src == dst && w != v)

/-- A reduction is refused before it moves anything; a second flag carrier sets FLAG_TWICE (R385, R393). -/
def redCheck : EM Unit := do
  let c := (← get).cmd
  let raw := c.raw.toNat
  if opcOf raw == 0xC1 || opcOf raw == 0xC2 then
    if cf raw 17 4 1 == 1 && listGet c.bnd 1 0 == 1 then onS (·.stick COL_STAT_FLAG_TWICE)
    need (!redRefused raw c.bnd) 0x10

/-- Phase 1: local exponents, sent to every member (R390). Buffer 0 keeps them, buffer 3 the local statistic. -/
def redStart (c : Col) (r : Red) : EM Unit := do
  redCheck
  let nb := (c.count + 31) / 32
  canStore r.work (400 * nb)
  let bs ← redBlocks r.src r.ifmt c.count
  let es := bs.map fun l => (l.foldl (fun e x => expMax e (expOf x)) winZero, l.any fun x => !x.isFin)
  onC fun cm => { cm with
    buf := ins (ins cm.buf 0 (es.flatMap fun en => leBytes 2 en.1 ++ leBytes 1 (b2n en.2))) 3 (leBytes 4 (sumSq bs.flatten)) }
  for en in es.zipIdx do
    onS fun s => sendAll s c.g (c.msg en.2 (if en.1.2 then flNf else 0) en.1.1 0 0 [])
  setStage 1

/-- Phases 2 and 3: the agreed exponents, and window chunks to their owners. Buffer 1 keeps E and NF of every block,
buffer 2 this member's windows of its own blocks. -/
def redWindows (c : Col) (r : Red) : EM Unit := do
  let s ← gets id
  let nb := (c.count + 31) / 32
  let mine := lookD (← get).cmd.buf 0 []
  let theirs := c.others.map fun rd => (colFrom s c.gi c.cseq rd.2).filter fun m => isData m && m.data.isEmpty
  colNeed c.q (theirs.all fun l => (upto nb).all fun k => l.any fun m => m.chunk == k)
  let es := (upto nb).map fun k =>
    theirs.foldl
      (fun (en : Nat × Bool) l => match l.find? fun m => m.chunk == k with
        | some m => (expMax en.1 m.e, en.2 || m.flags &&& flNf != 0)
        | none => en)
      (byteN mine (3 * k) 2, byteN mine (3 * k + 2) 1 == 1)
  let bs ← redBlocks r.src r.ifmt c.count
  let ws := (bs.zip es).map fun be => (winBlock be.2.1 be.1, be.2)
  let (lo, hi) := ownBlocks c.opc nb r.grain c.g.n c.g.rank
  onS fun s => ws.foldl (fun s w => if w.1.2.2 = 0 then s else (s.stick NUM_STAT_WIN_EXCEED).sat NUM_STAT_EXCEED_CNT w.1.2.2) s
  for rd in c.others do
    let (a, b) := ownBlocks c.opc nb r.grain c.g.n rd.1
    for wk in ws.zipIdx do
      if a ≤ wk.2 && wk.2 < b then
        let nf := wk.1.1.2.1 || wk.1.2.2
        onS fun s => sendCol s rd.2 (c.msg wk.2 (if nf then flNf else 0) wk.1.2.1 0 0 (wk.1.1.1.flatMap (leBytes 12)))
  let own := (ws.drop lo).take (hi - lo)
  let esB := es.flatMap fun en => leBytes 2 en.1 ++ leBytes 1 (b2n en.2)
  let ownB := own.flatMap fun w => w.1.1.flatMap (leBytes 12) ++ leBytes 1 (b2n (w.1.2.1 || w.2.2))
  onC fun cm => { cm with buf := ins (ins cm.buf 1 esB) 2 ownB }
  -- the working area is the engine's own
  match ← place r.work (400 * nb) true with
  | .inl parts => onS fun s => parts.foldl (fun s p => s.makeStale p.1 (p.1 + p.2)) s
  | .inr _ => pure ()
  setStage 2

/-- A member's window chunk has the block's exponent, and no nonzero value under ZERO; else it is not added (R119). -/
def winChunkOk (e : Nat) (m : ColMsg) : Bool := m.e == e && (e != winZero || m.data.all (· == 0))

/-- One owned block: the exact sum of every member's window, converted once (R120). -/
def redBlock (own : List Byte) (k lo : Nat) (theirs : List ColMsg) (ofmt e : Nat) (nf : Bool) : List Nat × Bool × List Num :=
  let o := 385 * (k - lo)
  let w0 := (upto 32).map fun i => byteN own (o + 12 * i) 12
  let w := theirs.foldl (fun w m => sumWin w ((upto 32).map fun i => byteN m.data (12 * i) 12)) w0
  let nf := nf || byteN own (o + 384) 1 == 1 || theirs.any fun m => m.flags &&& flNf != 0
  let out := w.map fun x => winOut (colFmt ofmt) e x nf
  (out.map (·.1), nf || out.any (·.2), out.map fun cx => (colFmt ofmt).dec cx.1)

/-- Phase 4: convert this member's blocks; phase 5 sends them to every member. Buffer 4 keeps the shard's statistic and
whether one of its blocks has NF. -/
def redConvert (c : Col) (r : Red) : EM Unit := do
  let s ← gets id
  let nb := (c.count + 31) / 32
  let (lo, hi) := ownBlocks c.opc nb r.grain c.g.n c.g.rank
  let ks := (upto (hi - lo)).map (lo + ·)
  let theirs := c.others.map fun rd => (colFrom s c.gi c.cseq rd.2).filter fun m => isData m && !m.data.isEmpty
  colNeed c.q (ks.all fun k => theirs.all fun l => l.any fun m => m.chunk == k)
  let buf := (← get).cmd.buf
  let es := lookD buf 1 []
  let own := lookD buf 2 []
  need (ks.all fun k => theirs.all fun l => l.all fun m => m.chunk != k || winChunkOk (byteN es (3 * k) 2) m) 0x10
  let outs := ks.map fun k =>
    redBlock own k lo (theirs.filterMap fun l => l.find? fun m => m.chunk == k) r.ofmt (byteN es (3 * k) 2) (byteN es (3 * k + 2) 1 == 1)
  if outs.any (·.2.1) then onS noteNF
  countC 5 ks.length
  let w := colBytes r.ofmt
  let bytes := outs.flatMap fun o => o.1.flatMap (leBytes w)
  let shard := bytes.take ((min c.count (32 * hi) - 32 * lo) * w)
  st (r.dst + (if c.opc = 0xC1 then 32 * lo * w else 0)) shard
  let ys := (outs.flatMap (·.2.2)).take (min c.count (32 * hi) - 32 * lo)
  onC fun cm => { cm with buf := ins cm.buf 4 (leBytes 4 (sumSq ys) ++ leBytes 1 (b2n (outs.any (·.2.1)))) }
  if c.opc = 0xC1 then
    let per := convPer r.ofmt
    for j in upto ((hi - lo + per - 1) / per) do
      let d := (bytes.drop (32 * w * per * j)).take (32 * w * per)
      onS fun s => sendAll s c.g (c.msg (lo + per * j) 0 0 0 0 d)
    setStage 3
  else
    colDigest r.dst shard
    setStage 4

/-- Phase 5: the other members' converted blocks are written. -/
def redGather (c : Col) (r : Red) : EM Unit := do
  let s ← gets id
  let nb := (c.count + 31) / 32
  let w := colBytes r.ofmt
  let per := convPer r.ofmt
  let need1 (rd : Nat × Nat) : List (Nat × Nat × Option ColMsg) :=
    let (a, b) := ownBlocks c.opc nb r.grain c.g.n rd.1
    let l := (colFrom s c.gi c.cseq rd.2).filter fun m => isData m && !m.data.isEmpty
    (upto ((b - a + per - 1) / per)).map fun j => (a + per * j, min b (a + per * j + per), l.find? fun m => m.chunk == a + per * j)
  let all := c.others.flatMap need1
  colNeed c.q (all.all fun x => x.2.2.isSome)
  for x in all do
    match x.2.2 with
    | some m => st (r.dst + 32 * w * x.1) (m.data.take ((min c.count (32 * x.2.1) - 32 * x.1) * w))
    | none => pure ()
  let d ← ld r.dst (c.count * w)
  colDigest r.dst d
  setStage 4

def redBody (c : Col) : EM Unit := do
  let r ← redParams
  if (← get).cmd.stage = 0 then redStart c r
  if (← get).cmd.stage = 1 then redWindows c r
  if (← get).cmd.stage = 2 then redConvert c r
  if (← get).cmd.stage = 3 then redGather c r
  let buf := (← get).cmd.buf
  let lnf := listGet (← get).cmd.bnd 0 0
  let sl := byteN (lookD buf 3 []) 0 4
  let sg := byteN (lookD buf 4 []) 0 4
  let nf := byteN (lookD buf 4 []) 4 1
  if (← get).cmd.stage = 4 then
    colDone c ((if r.flag && lnf == 1 then flLnf else 0) + (if nf == 1 then flNf else 0)) (if r.stats then sl else 0)
      (if r.stats then sg else 0)
    setStage 5
  let ds ← colEnd c
  let es := lookD buf 1 []
  let anyNf := (upto ((c.count + 31) / 32)).any (fun k => byteN es (3 * k + 2) 1 == 1) || nf == 1
    || ds.any fun m => m.flags &&& flNf != 0
  let sf := lnf == 1 || anyNf || ds.any fun m => m.flags &&& flLnf != 0
  if r.flag then onC fun cm => { cm with fx := cm.fx ++ [.agree sf] }
  if r.stats then
    let sl' := sumF32 (sl :: ds.map (·.val0))
    let sg' := sumF32 (sg :: ds.map (·.val1))
    onC fun cm => { cm with fx := cm.fx ++ [.stats r.lg sl' sg' c.g.n] }

/-! Byte chunks (R391). -/

/-- Send bytes that lie at `off` of the collective's range, in chunks of at most 496. -/
def sendBytes (c : Col) (devs : List Nat) (kind off : Nat) (d : List Byte) : EM Unit :=
  (upto ((d.length + 495) / 496)).forM fun j => do
    let o := off + 496 * j
    let m : ColMsg := { c.msg (o / 496) 0 (c.count / 2 ^ 32 % 256) (o % 2 ^ 32) (o / 2 ^ 32 % 256) ((d.drop (496 * j)).take 496) with
      count := if kind = 0 then c.count % 2 ^ 32 else kind }
    onS fun s => devs.foldl (fun s dv => sendCol s dv m) s

def msgOff (m : ColMsg) : Nat := m.val0 + 2 ^ 32 * (m.val1 % 256)

/-- The bytes [lo, hi) that a member's chunks give, when they all have come. -/
def bytesFrom (l : List ColMsg) (lo hi : Nat) : Option (List Byte) :=
  let ms := (upto ((hi - lo + 495) / 496)).map fun j => l.find? fun m => msgOff m == lo + 496 * j
  if ms.all (·.isSome) then some (ms.flatMap fun m => match m with | some m => m.data | none => []) else none

/-- ALLGATHER: every rank's shard to every member (R385). -/
def gatherAllBody (c : Col) : EM Unit := do
  let grain ← fld 20 0 32
  let src ← fld 32 0 43
  let dst ← fld 40 0 43
  let (lo, hi) := splitGrain c.count grain c.g.n c.g.rank
  if (← get).cmd.stage = 0 then
    let d ← ld src (hi - lo)
    st (dst + lo) d
    sendBytes c (c.others.map (·.2)) 0 lo d
    setStage 1
  if (← get).cmd.stage = 1 then
    let s ← gets id
    let parts := c.others.map fun rd =>
      let (a, b) := splitGrain c.count grain c.g.n rd.1
      (a, bytesFrom ((colFrom s c.gi c.cseq rd.2).filter isData) a b)
    colNeed c.q (parts.all (·.2.isSome))
    for p in parts do st (dst + p.1) (p.2.getD [])
    if (← fld 19 4 1) = 1 then colDigest dst (← ld dst c.count)
    colDone c 0 0 0
    setStage 2
  let _ ← colEnd c

/-- BROADCAST: the root's bytes to every member (R385). -/
def broadcastBody (c : Col) : EM Unit := do
  let root ← fld 28 0 13
  let src ← fld 32 0 43
  let dst ← fld 40 0 43
  if (← get).cmd.stage = 0 then
    if c.g.rank = root then
      let d ← ld src c.count
      if src != dst then st dst d
      sendBytes c (c.others.map (·.2)) 0 0 d
      colDigest dst d
      colDone c 0 0 0
      setStage 2
    else setStage 1
  if (← get).cmd.stage = 1 then
    let s ← gets id
    match bytesFrom ((colFrom s c.gi c.cseq (c.dev root)).filter isData) 0 c.count with
    | none => colHold c.q
    | some d => do
      st dst d
      colDigest dst d
      colDone c 0 0 0
      setStage 2
  let _ ← colEnd c

/-- The larger of two elements (R385): INT16, or FP32 where +0 exceeds −0. -/
def maxElem (ifmt a b : Nat) : Nat :=
  if ifmt = 0 then (if toS 16 a < toS 16 b then b else a)
  else if (f32 a).lt (f32 b) || (a == 0x80000000 && b == 0) then b else a

/-- The maximum of the members' values of an element; the spec states none where one is a NaN, and whatever it is, it is
the same for every order of the members (R122). -/
def maxElems (ifmt : Nat) (l : List Nat) : Nat :=
  if ifmt != 0 && l.any (fun x => f32 x == .nan) then Config.maxNan (l.mergeSort) % 2 ^ 32
  else match l with
    | [] => 0
    | x :: xs => xs.foldl (maxElem ifmt) x

def maxBody (c : Col) : EM Unit := do
  let ifmt ← fld 17 0 2
  let src ← fld 32 0 43
  let dst ← fld 40 0 43
  let w := if ifmt = 0 then 2 else 4
  if (← get).cmd.stage = 0 then
    let d ← ld src (c.count * w)
    onC fun cm => { cm with buf := ins cm.buf 0 d }
    for j in upto ((d.length + 383) / 384) do
      onS fun s => sendAll s c.g (c.msg (384 / w / 32 * j) 0 0 0 0 ((d.drop (384 * j)).take 384))
    setStage 1
  if (← get).cmd.stage = 1 then
    let s ← gets id
    let mine := lookD (← get).cmd.buf 0 []
    let theirs := c.others.map fun rd =>
      let l := (colFrom s c.gi c.cseq rd.2).filter isData
      (upto ((c.count * w + 383) / 384)).map fun j => l.find? fun m => m.chunk == 384 / w / 32 * j
    colNeed c.q (theirs.all fun l => l.all (·.isSome))
    let lists := theirs.map fun l => l.flatMap fun m => match m with | some m => m.data | none => []
    let out := (upto c.count).map fun i => maxElems ifmt ((mine :: lists).map fun l => byteN l (w * i) w)
    let d := out.flatMap (leBytes w)
    st dst d
    colDigest dst d
    colDone c 0 0 0
    setStage 2
  let _ ← colEnd c

/-! ALLTOALL (R401). DESIGN CHOICE, log 159: the spec gives its messages no fields; COUNT in the model's chunks tells
counts (0), verdicts (1) and data (2) apart. -/

def seg16 (l : List Nat) (j : Nat) : Nat := (l.take j).foldl (fun a x => a + roundUp 16 x) 0

def alltoallBody (c : Col) : EM Unit := do
  let scnt ← fld 24 0 43
  let src ← fld 32 0 43
  let dst ← fld 40 0 43
  let dcap ← fld 48 0 32
  let rcnt ← fld 56 0 43
  if (← get).cmd.stage = 0 then
    let b ← ld scnt (4 * c.g.n)
    onC fun cm => { cm with buf := ins cm.buf 0 b }
  let b := lookD (← get).cmd.buf 0 []
  let counts := (upto c.g.n).map fun j => byteN b (4 * j) 4
  let kindOf (s : State) (rd : Nat × Nat) (k : Nat) := (colFrom s c.gi c.cseq rd.2).filter fun m => isData m && m.count == k
  if (← get).cmd.stage = 0 then
    for rd in c.others do
      onS fun s => sendCol s rd.2 { c.msg 0 0 0 (listGet counts rd.1 0) 0 [] with count := 0 }
    setStage 1
  let s ← gets id
  let got := (upto c.g.n).map fun r =>
    if r = c.g.rank then some (listGet counts r 0) else ((kindOf s (r, c.dev r) 0).head?).map (·.val0)
  colNeed c.q (got.all (·.isSome))
  let recv := got.map (·.getD 0)
  let total := seg16 recv (c.g.n - 1) + listGet recv (c.g.n - 1) 0
  if (← get).cmd.stage = 1 then
    onS fun s => sendAll s c.g { c.msg 0 0 0 (b2n (total ≤ dcap)) 0 [] with count := 1 }
    setStage 2
  if (← get).cmd.stage = 2 then
    let s ← gets id
    let vs := c.others.map fun rd => (kindOf s rd 1).head?
    colNeed c.q (vs.all (·.isSome))
    need (total ≤ dcap && vs.all fun v => match v with | some m => m.val0 == 1 | none => false) 0x10
    for rd in c.others do
      let d ← ld (src + seg16 counts rd.1) (listGet counts rd.1 0)
      sendBytes c [rd.2] 2 0 d
    let d ← ld (src + seg16 counts c.g.rank) (listGet counts c.g.rank 0)
    st (dst + seg16 recv c.g.rank) d
    setStage 3
  if (← get).cmd.stage = 3 then
    let s ← gets id
    let parts := c.others.map fun rd => (rd.1, bytesFrom (kindOf s rd 2) 0 (listGet recv rd.1 0))
    colNeed c.q (parts.all (·.2.isSome))
    for p in parts do st (dst + seg16 recv p.1) (p.2.getD [])
    st rcnt (recv.flatMap (leBytes 4))
    colDone c 0 0 0
    setStage 4
  let _ ← colEnd c

/-! PERMUTE (R403). -/

structure PermEnt where
  srank : Nat
  drank : Nat
  saddr : Nat
  daddr : Nat
  len : Nat
  ok : Bool
  deriving DecidableEq, Repr

def permEnt (v : Nat) : PermEnt :=
  ⟨bits v 0 13, bits v 16 13, bits v 64 43, bits v 128 43, bits v 192 40,
    bits v 13 3 == 0 && bits v 29 3 == 0 && bits v 32 32 == 0 && bits v 107 21 == 0 && bits v 171 21 == 0 && bits v 232 24 == 0⟩

/-- A destination range overlaps another destination range, or a source range, on the same device. -/
def permClash (l : List PermEnt) : Bool :=
  (l.zipIdx).any fun xi => (l.zipIdx).any fun yj =>
    (xi.2 != yj.2 && xi.1.drank == yj.1.drank && xi.1.len != 0 && yj.1.len != 0
      && meets xi.1.daddr xi.1.len yj.1.daddr yj.1.len)
    || (xi.1.drank == yj.1.srank && xi.1.len != 0 && yj.1.len != 0 && meets xi.1.daddr xi.1.len yj.1.saddr yj.1.len)

/-- PERMUTE. A reserved bit of its body or of its table ends it with 0x10 and ABORT chunks; a difference between the
tables or a clash of ranges is found by every member, which needs no ABORT. DESIGN CHOICE, log 160: a rank of the table
that the group does not have ends every member with 0x10 in the same way. -/
def permuteBody (c : Col) : EM Unit := do
  let raw := (← get).cmd.raw.toNat
  let tab ← fld 24 0 43
  let n ← fld 32 0 32
  if (← get).cmd.stage = 0 then
    if !reservedOk raw ((bodyFields 0xC7).getD []) then
      colAbortAll c
      emStop 0x10
    let b ← ld tab (32 * n)
    onC fun cm => { cm with buf := ins cm.buf 0 b }
  let b := lookD (← get).cmd.buf 0 []
  let l := (upto n).map fun i => permEnt (byteN b (32 * i) 32)
  let crc := cv cv32 b
  if (← get).cmd.stage = 0 then
    if l.any fun e => !e.ok then
      colAbortAll c
      emStop 0x10
    onS fun s => sendAll s c.g { c.msg 0 0 0 crc 0 [] with count := 0 }
    setStage 1
  let me := c.g.rank
  if (← get).cmd.stage = 1 then
    let s ← gets id
    let cs := c.others.map fun rd => ((colFrom s c.gi c.cseq rd.2).filter fun m => isData m && m.count == 0).head?
    colNeed c.q (cs.all (·.isSome))
    need (cs.all fun m => match m with | some m => m.val0 == crc | none => false) 0x10
    need (!permClash l && l.all fun e => e.srank < c.g.n && e.drank < c.g.n) 0x10
    for e in l do
      if e.srank = me && e.drank = me then st e.daddr (← ld e.saddr e.len)
    for rd in c.others do
      let ds ← (l.filter fun e => e.srank == me && e.drank == rd.1).mapM fun e => ld e.saddr e.len
      sendBytes c [rd.2] 2 0 ds.flatten
    setStage 2
  if (← get).cmd.stage = 2 then
    let s ← gets id
    let parts := c.others.map fun rd =>
      let es := l.filter fun e => e.srank == rd.1 && e.drank == me
      (es, bytesFrom ((colFrom s c.gi c.cseq rd.2).filter fun m => isData m && m.count == 2) 0 (es.foldl (fun a e => a + e.len) 0))
    colNeed c.q (parts.all (·.2.isSome))
    for p in parts do
      let mut d := p.2.getD []
      for e in p.1 do
        st e.daddr (d.take e.len)
        d := d.drop e.len
    colDone c 0 0 0
    setStage 3
  let _ ← colEnd c

/-! Running a collective. -/

/-- The COUNT of a collective command. -/
def colCount (raw : Nat) : Nat :=
  let opc := opcOf raw
  if opc == 0xC4 || opc == 0xC7 then 0 else cf raw 24 0 32 + 2 ^ 32 * cf raw 30 0 8

/-- COUNT and COUNT[39:32] say something of a collective's chunks but for ALLTOALL's and PERMUTE's. -/
def colRun (c : Col) : EM Unit := do
  colCheck c (c.opc != 0xC4 && c.opc != 0xC7)
  if c.opc == 0xC1 || c.opc == 0xC2 then redBody c
  else if c.opc == 0xC3 then gatherAllBody c
  else if c.opc == 0xC4 then alltoallBody c
  else if c.opc == 0xC5 then broadcastBody c
  else if c.opc == 0xC6 then maxBody c
  else permuteBody c

/-- The command is a collective (R384). -/
def isCol (raw : Nat) : Bool := 0xC1 ≤ opcOf raw && opcOf raw ≤ 0xC7

/-- The start of a collective: its group, what it is refused for before it moves anything, and its number (R382,
R385). -/
def colStart (q : Nat) : EM Unit := do
  let c := (← get).cmd
  let raw := c.raw.toNat
  let g ← useGroup q (cf raw 16 0 6)
  need (opcOf raw != 0xC5 || cf raw 28 0 13 < g.n) 0x10
  redCheck
  let _ ← takeCseq q (cf raw 16 0 6)

/-- A collective of queue `q` has its number. -/
def colBound (s : State) (q : Nat) (c : Cmd) : Bool := (s.jent q c.seq).bound.isSome

/-- The first collective of the queue that has no number yet: the collectives of a queue start in its order (R382). -/
def colNext (s : State) (q : Nat) : Option Cmd :=
  (s.q q).started.find? fun c => isCol c.raw.toNat && (c.phase == .ready || c.phase == .running) && !colBound s q c

/-- Keep what a start did: the command stays to be run, but for one that is refused. -/
def startOne (q : Nat) (c : Cmd) (s : State) : State :=
  let (r, e) := (colStart q).run ⟨s, c, ctxOfQ s q, false⟩
  match r with
  | .ok _ => putCmd e.s q e.cmd
  | _ => runBody s q c (colStart q)

/-- Start the collectives of a queue, in order, as far as it goes: one that waits for its group's data holds those behind
it. -/
def colStarts : Nat → State → Nat → State
  | 0, s, _ => s
  | n + 1, s, q =>
    match colNext s q with
    | none => s
    | some c => if c.phase == .ready then colStarts n (startOne q c s) q else s

/-- A collective ends: the chunks that each port's engine has sent for it are its plan's, which is not part of the
interface (R381). -/
def colTally : EM Unit := do
  let c := (← get).cmd
  for p in upto 12 do onS (·.bump COL_CNT_CHUNKS (Config.openCount c.raw.toNat c.start (100 + p)) p)

/-- Run a collective as far as its chunks allow; one that fails drops the chunks held for it. -/
def colBody (q : Nat) : EM Unit := do
  let raw := (← get).cmd.raw.toNat
  let opc := opcOf raw
  let gi := cf raw 16 0 6
  let g ← useGroup q gi
  let cseq ← takeCseq q gi
  tryCatch (do colRun ⟨q, gi, g, cseq, opc, colCount raw⟩; colTally) fun e => match e with
    | .status n => do
      colTally
      onS fun s => { s with colIn := s.colIn.filter fun m => !(m.group == gi && m.cseq == cseq % 2 ^ 16) }
      emStop n
    | e => throw e

/-- Run a collective that has its number. -/
def colOne (q : Nat) (s : State) (seq : Nat) : State :=
  match s.findCmd q seq with
  | some c => if unitUp s q && c.phase == .ready && colBound s q c then runBody s q c (colBody q) else s
  | none => s

/-- The started collectives of an opcode in a queue: none waits for another, so each goes on as far as it can (R380). -/
def runCols (s : State) (q opc : Nat) : State :=
  if !unitUp s q then s
  else
    let s := colStarts 8 s q
    (((s.q q).started.filter fun c => c.phase == .ready && opcOf c.raw.toNat == opc).map (·.seq)).foldl (colOne q) s

/-- ALLREDUCE. -/
def execAllreduce (q : Nat) (s : State) : Res := .next (runCols s q 0xC1)
/-- REDUCE_SCATTER. -/
def execReduceScatter (q : Nat) (s : State) : Res := .next (runCols s q 0xC2)
/-- ALLGATHER. -/
def execAllgather (q : Nat) (s : State) : Res := .next (runCols s q 0xC3)
/-- ALLTOALL. -/
def execAlltoall (q : Nat) (s : State) : Res := .next (runCols s q 0xC4)
/-- BROADCAST. -/
def execBroadcast (q : Nat) (s : State) : Res := .next (runCols s q 0xC5)
/-- MAXREDUCE. -/
def execMaxreduce (q : Nat) (s : State) : Res := .next (runCols s q 0xC6)
/-- PERMUTE. -/
def execPermute (q : Nat) (s : State) : Res := .next (runCols s q 0xC7)

/-- The command of a collective under way here: its queue and itself. -/
def colCmd (s : State) (g cseq : Nat) : Option (Nat × Cmd) :=
  s.queues.findSome? fun kx =>
    (kx.2.started.find? fun c =>
      c.phase == .ready && 0xC1 ≤ opcOf c.raw.toNat && opcOf c.raw.toNat ≤ 0xC7 && cf c.raw.toNat 16 0 6 == g
        && (match (s.jent kx.1 c.seq).bound with | some n => n % 2 ^ 16 == cseq | none => false)).map fun c => (kx.1, c)

/-- Send the acknowledgement of the COLL frames of a stream (R391). It carries no data and is not itself kept for an
answer. -/
def colSendAck (s : State) (src : Nat) (m : ColMsg) (eseq : Nat) : State :=
  let a : ColMsg := { m with flags := flAck, e := 0, count := 0, val0 := eseq, val1 := 0, data := [], chunk := 0 }
  let (f, s) := s.newFrame 0xE src a.addr 16 a.payload
  { s with colAck := del s.colAck src }.sendFrame f

/-- A COLL acknowledgement frees the frames of the reverse stream up to ACK_ESEQ (R391). -/
def colTakeAck (s : State) (src eseq : Nat) : State :=
  let gone (o : Outstanding) : Bool :=
    o.frame.type == 0xE && o.frame.dst == src && (eseq + 65536 - o.frame.eseq) % 65536 < 32768
  { s with link := { s.link with outst := s.link.outst.filter fun o => !gone o } }.flushLinks

/-- A chunk that repeats one already held is discarded (R388). -/
def sameChunk (a b : ColMsg) : Bool :=
  a.group == b.group && a.cseq == b.cseq && a.src == b.src && a.chunk == b.chunk && a.flags == b.flags && a.opc == b.opc
    && a.count == b.count && a.data.length == b.data.length && (a.flags != 0 || (a.val0 == b.val0 && a.val1 == b.val1))

/-- The number lies before the collectives that this device has still to end. -/
def colPast (s : State) (g cseq : Nat) : Bool :=
  let next := s.rdN (grpAddr s g + 24) 4
  (next % 65536 + 65536 - cseq) % 65536 - 1 < 32767 && next % 65536 != cseq && (colCmd s g cseq).isNone

/-- A COLL frame in ESEQ order reaches the collective engine (R391). -/
def colReceive (s : State) (src addr eseq : Nat) (b : List Byte) : State :=
  let m := colMsgOf src addr b
  if m.flags &&& flAck != 0 then colTakeAck s src (m.val0 % 65536)
  else
    let n := (lookD s.colAck src (0, 0)).1 + 1
    let s := if n ≥ 64 then colSendAck s src m eseq else { s with colAck := ins s.colAck src (n, eseq) }
    if colPast s m.group m.cseq || s.colIn.any (sameChunk m) then s
    else
      let s := { s with colIn := s.colIn ++ [m] }
      match colCmd s m.group m.cseq with
      | some (q, c) => if running s then runBody s q c (colBody q) else s
      | none => s

/-- COLL_ACK_TIMER (R391): 2 µs have passed without 64 frames of the stream. -/
def execCollAckTimer (src : Nat) (s : State) : Res :=
  .next (match look s.colAck src with
    | some (_, eseq) => if s.fatal then s else colSendAck s src ⟨0, 0, 0, src, 0, 0, 0, 0, 0, 0, []⟩ eseq
    | none => s)

/-! XFER (R389). -/

def xferBody : EM Unit := do
  let cven ← fld 16 4 1
  let nocopy ← fld 16 5 1
  let src ← fld 24 0 56
  let dst ← fld 32 0 56
  let len ← fld 40 0 40
  let dig ← fld 48 0 43
  let me ← gets State.me
  need (src / 2 ^ 43 == me || (nocopy == 0 && dst / 2 ^ 43 == me)) 0x10
  let d ← ldFab 1 src len
  if src / 2 ^ 43 != me then
    countC 1 len
    countC 2 ((len + 511) / 512)
  if nocopy = 0 then
    stFab dst d
    if dst / 2 ^ 43 != me then
      countC 0 len
      countC 2 ((len + 511) / 512)
  if cven = 1 then
    let cfg := CvCfg.ofList (← get).cmd.cvu
    st dig (leBytes 8 (cv cfg d))

/-- XFER. -/
def execXfer (q : Nat) (s : State) : Res := .next (runUnit s q 0xC0 xferBody)

/-! The noise table at a step boundary (R394, R396). -/

def f32max0 (x : Nat) : Nat := if (f32 x).lt (.fin false 0 0) then 0 else x

/-- Fold an entry's pending values: its 32 bytes before and after. -/
def foldEntry (v b ls alpha : Nat) : Nat :=
  let psl := bits v 0 32
  let psg := bits v 32 32
  let emaT := bits v 64 32
  let emaQ := bits v 96 32
  let folds := bits v 160 32
  let n := bits v 192 16
  let mixed := v.testBit 209
  let clear (v : Nat) : Nat := setBits (setBits (setBits v 0 64 0) 192 16 0) 209 1 0
  if n = 1 || mixed then clear (if n = 1 then setBits v 208 1 1 else v)
  else
    let nb := f32ofInt (n * b)
    let bf := f32ofInt b
    let nf := f32ofInt n
    let d := fp32.subC nb bf
    let t2 := fp32.subC psl (fp32.divC psg nf)
    let k := fp32.round false 1 1 (-2 * (ls : Int))
    let t := fp32.mulC (fp32.divC t2 d) k
    let q1 := fp32.subC psg psl
    let q := fp32.mulC (fp32.divC q1 (fp32.mulC nb d)) k
    let (et, eq) := if folds = 0 then (t, q)
      else (fp32.fmaC alpha (fp32.subC t emaT) emaT, fp32.fmaC alpha (fp32.subC q emaQ) emaQ)
    let bn := if (Num.fin false 0 0).lt (f32 eq) then fp32.divC (f32max0 et) eq else fp32.infCode
    let v := setBits (setBits (setBits v 64 32 et) 96 32 eq) 128 32 bn
    let v := setBits v 160 32 (min (2 ^ 32 - 1) (folds + 1))
    clear (setBits v 208 1 0)

/-- NS_ALPHA.ALPHA as it is taken: values outside (0, 1] are taken as 1.0. -/
def alphaOf (s : State) : Nat :=
  let a := s.get NS_ALPHA_ALPHA
  if (Num.fin false 0 0).lt (f32 a) && (f32 a).le (f32 f32one) then a else f32one

/-- Every entry with pending values is folded if the step was not skipped; its pending values are cleared. -/
def noiseBoundary (s : State) (sf : Bool) (ls : Nat) : State :=
  let base := s.get NS_CFG_BASE * 32
  if base = 0 then s
  else
    (upto 256).foldl
      (fun s i =>
        let a := base + 32 * i
        let v := s.rdN a 32
        if bits v 192 16 = 0 then s
        else
          let v := if sf then setBits (setBits (setBits v 0 64 0) 192 16 0) 209 1 0
            else foldEntry v (s.get BSC_STAT_CUR) ls (alphaOf s)
          (s.wrLocal a (leBytes 32 v)).1)
      s

/-! The seed count (R398). -/

/-- SEEDS_SET's effect: the proposal is recorded. -/
def seedsAct (_ : State) (c : Cmd) : Nat × (State → State) :=
  (0, fun s => (s.set BSC_STAT_PROP (cf c.raw.toNat 16 0 21)).set BSC_STAT_PEND 1)

/-- SEEDS_SET. -/
def execSeedsSet (q : Nat) (s : State) : Res := .next (controlRetire s q 0xC8 seedsAct)

/-- The new seed count, and the record of it; `next` is the first data step that uses it. -/
def seedsBoundary (s : State) (next : Nat) : State :=
  let cur := s.get BSC_STAT_CUR
  let x := if s.flag BSC_STAT_PEND then s.get BSC_STAT_PROP else cur
  let lo := s.get BSC_CFG_MIN
  let hi := max lo (s.get BSC_CFG_MAX)
  let y := clampN lo hi x
  let d := cur * s.get BSC_CFG_MAXCHG / 256
  let z := clampN (cur - d) (cur + d) y
  let s := ((s.set BSC_STAT_CUR z).set BSC_STAT_PEND 0)
  let s := if y != x || z != y then s.stick BSC_STAT_CLAMP else s
  let a := s.get BSC_REC_REC * 8
  if a = 0 then s else (s.wrLocal a (leBytes 4 z ++ leBytes 4 next)).1

end Sys2Proof.Machine
end

