-- ==== Sys2Proof/Machine/Snap.lean ====
section
/-! DEFINITION. Dense parameters as their descriptors lay them out (R229, R230), and snapshots: arming, the capture at a
step boundary, the drain, and restore (R426 to R433). -/

namespace Sys2Proof.Machine

open Sys2Proof

/-! Parameter descriptors. -/

structure PDesc where
  baseA : Nat
  baseB : Nat
  moff : Nat
  roff : Nat
  woff : Nat
  k : Nat
  n : Nat
  wfmt : Nat
  valid : Bool
  precond : Bool
  prune : Bool
  wt : Nat
  mask : Nat
  ok : Bool
  deriving DecidableEq, Repr

/-- Format 0x28 of the moments. -/
def momFmt : Nat := 0x28

def pdescOf (v : Nat) : PDesc :=
  let d : PDesc := ⟨bits v 0 43, bits v 64 43, bits v 128 40, bits v 192 40, bits v 256 40, bits v 320 32, bits v 352 32,
    bits v 384 8, v.testBit 392, v.testBit 393, v.testBit 394, bits v 416 32, bits v 448 43, false⟩
  let rsvd := bits v 43 21 == 0 && bits v 107 21 == 0 && bits v 168 24 == 0 && bits v 232 24 == 0 && bits v 296 24 == 0
    && bits v 395 21 == 0 && bits v 491 21 == 0
  let fmt := fmtOk d.wfmt false && (fmtScaled d.wfmt || fmtBase d.wfmt == 1 || fmtBase d.wfmt == 2)
  { d with ok := d.valid && rsvd && d.baseA % 64 == 0 && d.baseB % 64 == 0 && d.woff % 64 == 0 && d.k != 0
                  && d.k % (if d.prune then 64 else 32) == 0 && d.n != 0 && fmt && (!fmtScaled d.wfmt || scaleOk d.wt) }

def pdescAddr (s : State) (p : Nat) : Nat := s.get UPD_PDT_BASE_BASE * 64 + 64 * p

/-- Blocks of the tensor, and blocks of a K-vector. -/
def PDesc.blocks (d : PDesc) : Nat := d.n * d.k / 32
def PDesc.akt (d : PDesc) : Nat := d.k / 32
def PDesc.base (d : PDesc) (buf : Nat) : Nat := if buf = 0 then d.baseA else d.baseB

/-- Where block `b`'s moment entry and slot lie in a moment area. -/
def momEntry (b : Nat) : Nat := 4 * b
def momSlot (d : PDesc) (b : Nat) : Nat := roundUp 16 (4 * d.blocks) + slotBytes momFmt * b
def momBytes (d : PDesc) : Nat := (vecLayout momFmt (32 * d.blocks)).2

/-- The tile and the vector of block `b` in the working copy. -/
def PDesc.tileOf (d : PDesc) (b : Nat) : Nat := (b / d.akt / 32) * d.akt + b % d.akt
def PDesc.vecOf (d : PDesc) (b : Nat) : Nat := b / d.akt % 32
def PDesc.workBytes (d : PDesc) : Nat := (d.n + 31) / 32 * d.akt * tileSize d.wfmt
/-- Bytes of a mask half (R219). -/
def PDesc.half (d : PDesc) : Nat := d.n * d.k / 8

/-- The mask half current during step t (R219). -/
def maskHalf (s : State) (t : Nat) : Nat := if t = 0 then 1 else (t - 1) / max 1 (s.get PRUNE_CFG_PERIOD) % 2

/-! Snapshot descriptors (R426). -/

def snapRows (s : State) (t : Nat) : Nat := match tableDesc s t with | some d => d.rows | none => 0

/-- The tables of a descriptor, each with the place of its row map. -/
def snapTables (s : State) (a : Nat) : Nat → Nat → Nat → List SnapTable
  | 0, _, _ => []
  | n + 1, i, map =>
    let v := s.rdN (a + 64 + 16 * i) 16
    let t := bits v 0 12
    ⟨t, bits v 32 32, bits v 64 43, map⟩ :: snapTables s a n (i + 1) (map + roundUp 64 ((snapRows s t + 7) / 8))

/-- A write of SNAP_CTRL (R426). -/
def snapArm (s : State) (v : Nat) : State :=
  if s.flag SNAP_STAT_ARMED || s.flag SNAP_STAT_DRAINING then s.stick SNAP_STAT_BUSY_REJ
  else
    let s := s.set SNAP_CTRL_DESC (bits v 6 37)
    if !v.testBit 63 then s
    else
      let a := bits v 6 37 * 64
      let data := s.rdN a 8
      if s.get UPD_DATA_DATA ≥ data then s.stick SNAP_STAT_LATE
      else
        let snap : SnapSt := { SnapSt.reset with
          data := data
          dest := s.rdN (a + 8) 8 % 2 ^ 56
          dsize := s.rdN (a + 16) 8 % 2 ^ 40
          pool := s.rdN (a + 24) 8 % 2 ^ 43
          poolSize := s.rdN (a + 32) 4
          cvu := s.rdN (a + 37) 1 % 16
          tables := snapTables s a (min 16 (s.rdN (a + 36) 1 % 32)) 0 (s.rdN (a + 40) 8 % 2 ^ 43)
          jobst := (upto (min 4 (s.rdN (a + 56) 1 % 8))).map fun i =>
            let j := s.rdN (a + 48) 8 % 2 ^ 43 + 16 * i
            (s.rdN j 8 % 2 ^ 43, s.rdN (j + 8) 8) }
        { s with snap := snap }.set SNAP_STAT_ARMED 1

/-- SNAPSHOT_ARM. -/
def execSnapshotArm (value : Nat) (s : State) : Res := .next (snapArm s (value % 2 ^ 64))

/-! The capture (R427, R432). -/

/-- Register pairs: an 8-byte local address and an 8-byte value. -/
def pairBytes (a v : Nat) : List Byte := leBytes 8 a ++ leBytes 8 v

def snapPair (s : State) (r : Reg) (i : Nat := 0) (j : Nat := 0) : List Byte :=
  pairBytes (0x70000000000 + r.off i j) (s.rg r i j).toNat

/-- The queues whose EN is 1, in ascending order. -/
def enabledQueues (s : State) : List Nat :=
  s.regs.filterMap fun kv => (QTAB_CFG.find kv.1).bind fun ij =>
    let q := 1024 * ij.1 + ij.2
    if qEn s q then some q else none

def captureRegs (s : State) : List Byte :=
  let qs := (enabledQueues s).flatMap fun q => [QTAB_CFG, QTAB_RING, QTAB_CMPL, QTAB_CHEAD].flatMap fun r => snapPair s r (qtI q) (qtJ q)
  let sems := (upto 96).flatMap (fun p => (upto 288).flatMap fun n => snapPair s SEM_VAL p n) ++ (upto 256).flatMap fun n => snapPair s FSEM_VAL n
  let bars := (upto 96).flatMap fun p => (upto 64).flatMap fun i =>
    pairBytes (0x70000000000 + BAR_STAT.off p i) ((s.rg BAR_STAT p i).toNat % 2 ^ 10)
  let upd := [UPD_OPT, UPD_DATA, LS_STATE, UPD_SKIPS].flatMap (fun r => snapPair s r)
    ++ pairBytes (0x70000000000 + UPD_STEP.off) (s.get UPD_STEP_CUR)
  let keys := (upto 16).flatMap fun i => snapPair s GSV_KEY i
  let bsc := snapPair s BSC_STAT ++ snapPair s BSC_CFG
  let pcs := (upto 4096).flatMap fun i =>
    let a := s.get UPD_PCT_BASE_BASE * 64 + 32 * i
    if (s.rdN (a + 18) 1).testBit 2 then pairBytes (a + 16) (s.rdN (a + 16) 8) else []
  let tabs := (upto 4096).flatMap fun t =>
    let a := tableAddr s t
    if (s.rdN (a + 21) 1).testBit 0 then pairBytes a (s.rdN a 8) ++ pairBytes (a + 16) (s.rdN (a + 16) 8) else []
  let cur := (upto 4).flatMap fun i => snapPair s SNAP_CURSOR i
  qs ++ sems ++ bars ++ upd ++ keys ++ bsc ++ pcs ++ tabs ++ cur

def captureQueue (s : State) (q : Nat) : List Byte :=
  leBytes 4 (qHead s q) ++ leBytes 4 (qTail s q) ++ leBytes 4 (s.qget QTAB_HEAD_LAST_SEQ q) ++ leBytes 4 0
    ++ (upto (qUsed s q)).flatMap fun i => s.rdBytes (slotAddr s q ((qHead s q + i) % 2 ^ 32)) 64

/-- Capture the schedule image and bind the drain, at the retirement of the STEP_CLOSE of queue `q` that closed data
step DATA − 1; `t` is the optimizer step that begins. -/
def snapCapture (s : State) (q t : Nat) : State :=
  let x := s.snap
  if !s.flag SNAP_STAT_ARMED || s.get UPD_DATA_DATA != x.data then s
  else
    let c := ctxOfQ s q
    let buf := s.get UPD_STEP_CUR
    let ps := (upto 4096).filter fun p => (s.rdN (pdescAddr s p + 49) 1).testBit 0
    let img := SnapItem.fixed 1 0 (captureRegs s)
      :: (enabledQueues s).map (fun q => SnapItem.fixed 2 q (captureQueue s q))
      ++ (x.jobst.zipIdx).map (fun ji => SnapItem.fixed 3 ji.2 (s.rdBytes ji.1.1 ji.1.2))
      ++ (if s.get NS_CFG_BASE = 0 then [] else [SnapItem.fixed 4 0 (s.rdBytes (s.get NS_CFG_BASE * 32) 8192)])
    let s := x.tables.foldl (fun s t => loadTable s t.table) s
    let live (t : Nat) : TableSt := lookD s.tables t ⟨0, 0, 0, 0, false, 0, 0⟩
    let tabs := (x.tables.zipIdx).filter fun ti => (look s.tables ti.1.table).isSome
    let rows := tabs.map fun ti => SnapItem.rows ti.2 ti.1.table (live ti.1.table).verCur 0 0 0 0
    let held := tabs.map fun ti => (ti.1.table, (live ti.1.table).verCur)
    let s := held.foldl
      (fun s tv => { s with tables := upd s.tables tv.1 ⟨0, 0, 0, 0, false, 0, 0⟩ fun x => { x with flightCur := x.flightCur + 1 } }) s
    let s := { s with snap := { x with
      items := img ++ ps.map (fun p => SnapItem.dense p buf) ++ rows
      bufs := ps.map fun p => (p, buf, false)
      held := held, t := t, pond := c.pond, space := c.space, tr := c.t, cv := (cvCfg s x.cvu).toList } }
    (s.set SNAP_STAT_ARMED 0).set SNAP_STAT_DRAINING 1

/-! The drain (R428 to R431). -/

/-- A command that waited for the drain goes on: the wait's length is added. -/
def unstall (s : State) : State :=
  match s.snap.stall with
  | none => s
  | some t0 => { s with snap := { s.snap with stall := none } }.sat SNAP_STAT_STALL_US ((s.stamp - t0) / 1000)

/-- A command begins to wait for the drain (R428). -/
def stallOn (s : State) (q seq : Nat) : State :=
  if s.snap.stall.isSome then s
  else ({ s with snap := { s.snap with stall := some s.stamp } }.stick SNAP_STAT_STALLED).silt' 0x41 (homeOfQ s q) q seq []

/-- The drain stops: buffers and table versions are released (R431). -/
def drainStop (s : State) : State :=
  let x := s.snap
  let s := { s with snap := { x with items := [], bufs := [], held := [], copies := [] } }
  let s := x.held.foldl (fun s tv => unbindTable s tv.1 tv.2) s
  unstall ((s.stick SNAP_STAT_DEST_ERR).set SNAP_STAT_DRAINING 0)

/-- Bytes at a job address of the captured job's space; unspecified where they cannot be read. -/
def drainRead (s : State) (a n : Nat) : List Byte :=
  match (resolve s ⟨s.snap.pond, s.snap.space, s.snap.tr, true, 0⟩ a n false).1 with
  | .ok parts => if parts.any fun p => ueRange s p.1 p.2 then (upto n).map fun i => Config.freeByte s.free (a + i)
    else parts.flatMap fun p => s.rdBytes p.1 p.2
  | .error _ => (upto n).map fun i => Config.freeByte s.free (a + i)

/-- Write at DEST + `off`: here, at another device, or in the host window. -/
def drainWrite (s : State) (off : Nat) (d : List Byte) : State :=
  if !s.flag SNAP_STAT_DRAINING || d.isEmpty then s
  else if off + d.length > s.snap.dsize then drainStop s
  else
    let fa := s.snap.dest + off
    let a := fa % 2 ^ 43
    let outs (s : State) (n : Nat) : State := { s with snap := { s.snap with out := s.snap.out + n } }
    if fa / 2 ^ 43 != s.me then
      (upto ((d.length + 511) / 512)).foldl
        (fun s k => outs (s.request .drain 4 (fa / 2 ^ 43) (a + 512 * k) (min 512 (d.length - 512 * k)) ((d.drop (512 * k)).take 512)) 1) s
    else
      match areaOf a with
      | .main => let r := s.wrLocal a d; if r.2 then drainStop s else r.1
      | .scratch p o => if inUser s p o && inUser s p (o + d.length - 1) then (s.wrLocal a d).1 else drainStop s
      | .host =>
        if hostOpen s then outs (s.hostReq .drain true a d.length d none) 1 else drainStop s
      | _ => drainStop s

/-- A write to DEST is answered. -/
def drainAck (s : State) (status : Nat) : State :=
  let s := { s with snap := { s.snap with out := s.snap.out - 1 } }
  if status != 0 && s.flag SNAP_STAT_DRAINING then drainStop s else s

def secHead (type id len crc : Nat) : List Byte :=
  leBytes 2 type ++ leBytes 2 id ++ leBytes 4 0 ++ leBytes 8 len ++ leBytes 8 crc ++ leBytes 8 0

/-- Write a whole section and advance. -/
def drainSection (s : State) (type id : Nat) (d : List Byte) : State :=
  let crc := cv (CvCfg.ofList s.snap.cv) d
  let pos := s.snap.pos
  let s := drainWrite s pos (secHead type id d.length crc ++ d)
  { s with snap := { s.snap with pos := roundUp 64 (pos + 32 + d.length) } }

/-- The bytes of a dense tensor's section: masters, moments, working copy, and the current mask half. -/
def denseSection (s : State) (p buf : Nat) : List Byte :=
  let d := pdescOf (s.rdN (pdescAddr s p) 64)
  let b := d.base buf
  drainRead s b (192 * d.blocks) ++ drainRead s (b + d.moff) (momBytes d)
    ++ (if d.precond then [] else drainRead s (b + d.roff) (momBytes d))
    ++ drainRead s (b + d.woff) d.workBytes
    ++ (if d.prune then drainRead s (d.mask + maskHalf s s.snap.t * d.half) d.half else [])

def mapBit (s : State) (t : SnapTable) (row : Nat) : Bool := (s.rdN (t.map + row / 8) 1).testBit (row % 8)

def setMapBit (s : State) (t : SnapTable) (row : Nat) : State :=
  let a := t.map + row / 8
  (s.wrLocal a (leBytes 1 (setBits (s.rdN a 1) (row % 8) 1 1))).1

/-- One row of a table-rows section: the copy in the pool, or the row in place (R429). -/
def drainRow (s : State) (idx table ver row : Nat) : List Byte × State :=
  let t := listGet s.snap.tables idx ⟨0, 0, 0, 0⟩
  match s.snap.copies.find? fun c => c.1 == table && c.2.1 == row with
  | some c => (leBytes 8 row ++ c.2.2, unstall { s with snap := { s.snap with copies := s.snap.copies.erase c } })
  | none =>
    let x := lookD s.tables table ⟨0, 0, 0, 0, false, 0, 0⟩
    let stride := match tableDesc s table with | some d => d.stride | none => 0
    let base := if x.verCur = ver then x.baseCur else x.baseOld
    (leBytes 8 row ++ drainRead s (base + stride * row) stride ++ drainRead s (t.mom + t.mstride * row) t.mstride, setMapBit s t row)

/-- One item of the drain. -/
def drainStep (s : State) : State :=
  match s.snap.items with
  | [] => s
  | .fixed ty id d :: rest => drainSection { s with snap := { s.snap with items := rest } } ty id d
  | .dense p buf :: rest =>
    let s := { s with snap := { s.snap with items := rest } }
    let s := drainSection s 0x10 p (denseSection s p buf)
    { s with snap := { s.snap with bufs := s.snap.bufs.map fun b => if b.1 == p && b.2.1 == buf then (p, buf, true) else b } }
  | .rows idx table ver base row pos crc :: rest =>
    let cfg := CvCfg.ofList s.snap.cv
    let base := if row = 0 then s.snap.pos else base
    let crc := if row = 0 then cvStart cfg else crc
    if row < snapRows s table then
      let (d, s) := drainRow s idx table ver row
      let s := drainWrite s (base + 32 + pos) d
      if s.snap.items.isEmpty then s
      else { s with snap := { s.snap with
        pos := base, items := .rows idx table ver base (row + 1) (pos + d.length) (cvRun cfg crc d) :: rest } }
    else
      let s := drainWrite s base (secHead 0x11 table pos (cvEnd cfg crc))
      if !s.flag SNAP_STAT_DRAINING then s
      else
        let s := { s with snap := { s.snap with
          items := rest, pos := roundUp 64 (base + 32 + pos), held := s.snap.held.erase (table, ver) } }
        unbindTable s table ver

def drainSteps : Nat → State → State
  | 0, s => s
  | n + 1, s => drainSteps n (drainStep s)

/-- SNAPSHOT_DRAIN: the next `n` sections or rows. -/
def execSnapshotDrain (n : Nat) (s : State) : Res :=
  .next (if running s && s.flag SNAP_STAT_DRAINING then drainSteps n s else s)

/-- SNAPSHOT_BUFFER_RELEASE: a buffer whose last byte has been written at DEST (R428). -/
def execSnapshotBufferRelease (s : State) : Res :=
  .next (match s.snap.bufs.find? fun b => b.2.2 with
    | some b => if s.snap.out = 0 then unstall { s with snap := { s.snap with bufs := s.snap.bufs.erase b } } else s
    | none => s)

/-- The end of a drain: DONE, and the vector. -/
def snapFinish (s : State) : State :=
  let s := (s.set SNAP_STAT_DRAINING 0).stick SNAP_STAT_DONE
  let s := { s with snap := { s.snap with bufs := [] } }
  let s := unstall s
  if s.flag SNAP_CFG_IRQ_EN then s.raiseIrq (s.get SNAP_CFG_VECTOR) else s

/-- SNAPSHOT_DONE: the end section carries DATA, t and the device number; DONE once it is written (R431). -/
def execSnapshotDone (s : State) : Res :=
  .next (
    if !running s || !s.flag SNAP_STAT_DRAINING || !s.snap.items.isEmpty || s.snap.out != 0 then s
    else
      let s := if s.snap.endSent then s
        else
          let s := drainSection s 0xFF 0 (leBytes 8 s.snap.data ++ leBytes 8 s.snap.t ++ leBytes 8 s.me)
          { s with snap := { s.snap with endSent := true } }
      if s.flag SNAP_STAT_DRAINING && s.snap.out = 0 then snapFinish s else s)

/-- A buffer of a tensor has not been released (R240, R428). -/
def snapHolds (s : State) (p buf : Nat) : Bool := s.snap.bufs.any fun b => b.1 == p && b.2.1 == buf

/-! Restore (R433). -/

/-- The sections of an image: TYPE, ID and bytes; none where the image is broken or a check value fails. -/
def readSections (s : State) (cfg : CvCfg) : Nat → Nat → Option (List (Nat × Nat × List Byte))
  | 0, _ => none
  | f + 1, a =>
    let type := s.rdN a 2
    let len := s.rdN (a + 8) 8 % 2 ^ 40
    if !([1, 2, 3, 4, 0x10, 0x11, 0xFF].contains type) || !plainOk s a 32 then none
    else
      let d := s.rdBytes (a + 32) len
      if ueRange s a (32 + len) || cv cfg d != s.rdN (a + 16) 8 then none
      else if type = 0xFF then some []
      else (readSections s cfg f (a + roundUp 64 (32 + len))).map fun l => (type, s.rdN (a + 2) 2, d) :: l

/-- Apply a register pair, read-only fields included. A pair that names a table's live fields is taken at the table's
next use. -/
def applyPair (s : State) (a v : Nat) : State :=
  match areaOf a with
  | .config o => s.setRegAt o (BitVec.ofNat 64 v)
  | _ =>
    let t0 := tableAddr s 0
    let s := (s.wrLocal a (leBytes 8 v)).1
    if t0 ≤ a ∧ a < t0 + 64 * 4096 then { s with tables := del s.tables ((a - t0) / 64) } else s

def applyPairs : Nat → State → List Byte → State
  | 0, s, _ => s
  | f + 1, s, d => if d.length < 16 then s else applyPairs f (applyPair s (byteN d 0 8) (byteN d 8 8)) (d.drop 16)

/-- Apply a queue section: HEAD, TAIL, LAST_SEQ and the ring entries. -/
def applyQueue (s : State) (q : Nat) (d : List Byte) : State :=
  let head := byteN d 0 4
  let tail := byteN d 4 4
  let s := ((s.qset QTAB_HEAD_HEAD head q).qset QTAB_HEAD_LAST_SEQ (byteN d 8 4) q).qset QTAB_TAIL_TAIL tail q
  (upto ((tail + 2 ^ 32 - head) % 2 ^ 32)).foldl
    (fun s i => (s.wrLocal (slotAddr s q ((head + i) % 2 ^ 32)) ((d.drop (16 + 64 * i)).take 64)).1) s

/-- A write of SNAP_RST: with GO, and every queue's EN at 0, the image's register pairs and then its queue sections are
applied, or nothing is and ERR is set. -/
def snapRestore (s : State) (v : Nat) : State :=
  let s := s.set SNAP_RST_ADDR (bits v 6 37)
  let s := if v.testBit 1 then s.set SNAP_RST_ERR 0 else s
  if !v.testBit 63 || !(enabledQueues s).isEmpty then s
  else
    match readSections s (cvCfg s (Config.restoreCvu % 16)) 100000 (bits v 6 37 * 64) with
    | none => s.stick SNAP_RST_ERR
    | some l =>
      let s := l.foldl (fun s x => if x.1 = 1 then applyPairs (x.2.2.length / 16) s x.2.2 else s) s
      l.foldl (fun s x => if x.1 = 2 then applyQueue s x.2.1 x.2.2 else s) s

/-- SNAPSHOT_RESTORE. -/
def execSnapshotRestore (value : Nat) (s : State) : Res := .next (snapRestore s (value % 2 ^ 64))

end Sys2Proof.Machine
end

