-- ==== Sys2Proof/Machine/Prune.lean ====
section
/-! DEFINITION. The pruning unit (R217 to R221): masks, and packing into 2:4 tiles. -/

namespace Sys2Proof.Machine

open Sys2Proof

/-- n and g of a pattern (R217). -/
def patOf (pat : Nat) : Nat × Nat := if pat = 0 then (1, 4) else if pat = 1 then (2, 4) else (4, 8)

/-- A ranks before B: by |master|, a NaN above every number. -/
def ranksAbove (a b : Num) : Bool :=
  match a, b with
  | .nan, .nan => false
  | .nan, _ => true
  | _, .nan => false
  | _, _ => b.abs.lt a.abs

/-- The kept positions of a group: the first `n` in rank, equal magnitudes by the lower index. -/
def keptOf (n : Nat) (l : List Num) : List Bool :=
  (l.zipIdx).map fun xi =>
    countOf (fun yj : Num × Nat => ranksAbove yj.1 xi.1 || (!ranksAbove xi.1 yj.1 && yj.2 < xi.2)) l.zipIdx < n

/-- The mask bits of a K-vector. -/
def maskVec (pat : Nat) (l : List Num) : List Bool :=
  let (n, g) := patOf pat
  (upto (l.length / g)).flatMap fun j => keptOf n ((l.drop (g * j)).take g)

def bitBytes (l : List Bool) : List Byte :=
  (upto (l.length / 8)).map fun i => BitVec.ofNat 8 ((upto 8).foldl (fun a b => a + b2n (listGet l (8 * i + b) false) * 2 ^ b) 0)

def pruneMaskBody : EM Unit := do
  let pat ← fld 16 0 2
  let k ← fld 20 0 32
  let n ← fld 24 0 32
  let ms ← fld 28 0 32
  let master ← fld 32 0 43
  let mask ← fld 40 0 43
  let t ← fld 48 0 64
  let per ← gets fun s => max 1 (s.get PRUNE_CFG_PERIOD)
  if t % per = 0 then
    let half := n * k / 8
    for v in upto n do
      let b ← ld (master + ms * v) (6 * k)
      let bits := maskVec pat ((upto k).map fun i => mw48.dec (byteN b (6 * i) 6))
      st (mask + t / per % 2 * half + v * k / 8) (bitBytes bits)
    countC 0 (n * k / 32)
    countC 5 half

/-- PRUNE_MASK (R219). -/
def execPruneMask (q : Nat) (s : State) : Res := .next (runUnit s q 0xB0 pruneMaskBody)

/-! PRUNE_PACK (R220, R221). -/

/-- The two values of a 4-group that a 2:4 tile holds, as indices in the group: its kept positions, padded to two with
the lowest indices not kept. -/
def pair24 (kept : List Bool) : List Nat :=
  let ks := (upto 4).filter fun i => listGet kept i false
  let rest := (upto 4).filter fun i => !listGet kept i false
  sortBy id ((ks ++ rest).take 2)

/-- One K-block's half of a slot: its 16 values at width `w`, and their indices. -/
def half24 (w : Nat) (codes : List Nat) (kept : List Bool) : Nat × List Nat :=
  let sel := (upto 8).flatMap fun j => (pair24 ((kept.drop (4 * j)).take 4)).map fun i => (4 * j + i, i)
  (packCodes w (sel.map fun pi => if listGet kept pi.1 false then listGet codes pi.1 0 else 0), sel.map (·.2))

/-- Bits of a vector's mask for the 64 K elements of an output position. -/
def keptBits (b : List Byte) : List Bool := (upto 64).map fun i => (leNat b).testBit i

/-- The 2:4 tile of two source tiles (R221); `kept`: 64 bits of each vector. -/
def tile24 (a b : RawTile) (kept : List (List Bool)) : List Byte :=
  let d := a.d
  let sl := slotBytes d.fmt
  let one (v : Nat) : List Byte × Nat :=
    let k := listGet kept v []
    let ea := listGet a.ents v BlockEntry.zero
    let eb := listGet b.ents v BlockEntry.zero
    let x := half24 (elemW d.fmt ea) (listGet a.codes v []) (k.take 32)
    let y := half24 (elemW d.fmt eb) (listGet b.codes v []) (k.drop 32)
    if v < d.vec then
      (leBytes (sl / 2) x.1 ++ leBytes (sl / 2) y.1, packCodes 2 (x.2 ++ y.2))
    else (leBytes sl 0, 0)
  let vs := (upto 32).map one
  descBytes { d with sp := true } true
    ++ ((upto 32).flatMap fun v => leBytes 4 (listGet a.ents v BlockEntry.zero).toNat ++ leBytes 4 (listGet b.ents v BlockEntry.zero).toNat)
    ++ vs.flatMap (·.1) ++ vs.flatMap fun x => leBytes 8 x.2

/-- A dense tile with pruned positions zero. -/
def dense0 (r : RawTile) (kept : List (List Bool)) (hi : Bool) : List Byte :=
  let shift : Nat := if hi then 32 else 0
  denseBytes { r with codes := (r.codes.zipIdx).map fun cv => (cv.1.zipIdx).map fun ci =>
    if (listGet (listGet kept cv.2 []) (shift + ci.2) false) then ci.1 else 0 }

/-- Every 4-group holds at most two kept positions. -/
def fits24 (kept : List (List Bool)) : Bool :=
  kept.all fun k => (upto 16).all fun j => countOf id ((k.drop (4 * j)).take 4) ≤ 2

def prunePackBody : EM Unit := do
  let pairs ← fld 20 0 32
  let src ← fld 24 0 43
  let ss ← fld 32 0 32
  let os ← fld 36 0 32
  let dst ← fld 40 0 43
  let mask ← fld 48 0 43
  let t ← fld 56 0 64
  let k := 64 * max 1 (Config.pruneK mask)
  let n := Config.pruneN mask
  for i in upto pairs do
    let a ← ldDesc (src + ss * (2 * i))
    let b ← ldDesc (src + ss * (2 * i + 1))
    need (a == b && a.ok && a.dense && !a.sp && !a.qh && fmtScaled a.fmt && 2 * a.size ≤ os) 0x10
  let half ← gets (maskHalf · t)
  for i in upto pairs do
    let d ← ldDesc (src + ss * (2 * i))
    let a ← ldTile d (src + ss * (2 * i))
    let b ← ldTile d (src + ss * (2 * i + 1))
    let v0 := 32 * (i / (k / 64))
    let k0 := 64 * (i % (k / 64))
    let kept ← (upto 32).mapM fun v =>
      if v < d.vec then keptBits <$> ld (mask + half * (n * k / 8) + (v0 + v) * k / 8 + k0 / 8) 8
      else pure (List.replicate 64 false)
    if fits24 kept then st (dst + os * i) (tile24 a b kept)
    else
      st (dst + os * i) (dense0 a kept false)
      st (dst + os * i + d.size) (dense0 b kept true)
    countC 0 (2 * d.vec)

/-- PRUNE_PACK (R220). -/
def execPrunePack (q : Nat) (s : State) : Res := .next (runUnit s q 0xB1 prunePackBody)

end Sys2Proof.Machine
end

