-- ==== Sys2Proof/Machine/Update.lean ====
section
/-! DEFINITION. Parameter update (chapter 08): the rules, the working copy, UPDATE, ROW_UPDATE with its redo slot, the
step flag, STEP_CLOSE, preconditioner switches, the step journal and replay. -/

namespace Sys2Proof.Machine

open Sys2Proof

/-! The rules (R232 to R236). -/

def powiAux : Nat → Nat → Nat → Nat → Nat
  | 0, r, _, _ => r
  | f + 1, r, b, n =>
    if n = 0 then r else powiAux f (if n % 2 = 1 then fp32.mulC r b else r) (fp32.mulC b b) (n / 2)

/-- x to the power n, as R233 forms it. -/
def powi (x n : Nat) : Nat := powiAux 64 f32one x n

/-- A rule's constants for a command and a row. -/
structure Rule where
  precond : Bool
  eta : Nat
  eps : Nat
  a1 : Nat
  a2 : Nat
  c1 : Nat
  c2 : Nat
  b1 : Nat
  b2 : Nat
  q : Nat
  /-- 2^−s -/
  scale : Nat
  clip : Nat
  deriving DecidableEq, Repr

/-- From the hyperparameter record (ETA, BETA1, BETA2, EPS, LAMBDA), t, s, CLIP and d. -/
def ruleOf (precond : Bool) (hp : List Byte) (t s clip d : Nat) : Rule :=
  let h (i : Nat) := byteN hp (4 * i) 4
  let sub1 (x : Nat) := fp32.subC f32one x
  let n := (t + 1) % 2 ^ 64
  ⟨precond, h 0, h 3, sub1 (h 1), sub1 (h 2), sub1 (powi (h 1) n), sub1 (powi (h 2) n), powi (h 1) d, powi (h 2) d,
    powi (sub1 (fp32.mulC (h 0) (h 4))) d, fp32.round false 1 1 (-(s : Int)), clip⟩

/-- One element: the new value as an exact number before its rounding, m and ρ; none where it is unresolved (R234 to
R236). -/
def ruleElem (r : Rule) (w : Num) (grad m rho : Nat) : Option (Num × Nat × Nat) :=
  let g := fp32.mulC (fp32.mulC grad r.scale) r.clip
  let m' := fp32.fmaC r.a1 g (fp32.mulC r.b1 m)
  let v' := fp32.fmaC r.a2 (fp32.mulC g g) (fp32.mulC r.b2 (fp32.mulC rho rho))
  let mc := fp32.divC m' r.c1
  let u := if r.precond then mc else fp32.divC mc (fp32.addC (fp32.sqrtC (fp32.divC v' r.c2)) r.eps)
  let p := fp32.mulC r.eta u
  if !f32fin g || !f32fin p || (!r.precond && !f32fin u) then none
  else some ((w.mul (f32 r.q)).sub (f32 p), m', fp32.sqrtC v')

/-- A new stored value: its code, m, ρ, and whether the element is unresolved. A value that was NaN or infinite stays as
it was (R236). -/
def ruleStore (r : Rule) (f : Fmt) (code grad m rho : Nat) : Nat × Nat × Nat × Bool :=
  let old := f.dec code
  match ruleElem r old grad m rho with
  | none => (code, m, rho, true)
  | some (x, m', rho') =>
    let c := f.enc x
    if c % 2 ^ (f.eb + f.mb) == f.infCode then (code, m, rho, true)
    else if old == .nan || old == .inf false || old == .inf true then (code, m', rho', false)
    else (c, m', rho', false)

/-- The FP32 values of a moment block; a block of scale 0xFF is on record (R121). -/
def momVals (entry slot : List Byte) : EM (List Nat) := do
  let r := blockVals momFmt f32one (BlockEntry.ofNat (leNat entry)) slot
  if r.2.2 then onS (·.stick NUM_STAT_SCALE_NAN)
  return r.1.map fp32.enc

/-- A moment block encoded (R231). -/
def momEnc (l : List Nat) : Enc := encBlock momFmt f32one (l.map f32)

/-! The working copy (R237, R238). -/

def updRand (key t p e : Nat) : Nat :=
  let k := mix64 (mix64 (key ^^^ 0x5D27B3E91A6CF483) ^^^ t)
  mix64 (k ^^^ m64 (p <<< 40) ^^^ e) % 2 ^ 32

/-- A working-copy vector of 32 masters: its block entry and its elements. -/
def workVec (wfmt wt : Nat) (ms : List Num) (kept : List Bool) (rs : List Nat) : List Byte × List Byte :=
  let l := (ms.zip kept).map fun mk => if mk.2 then mk.1 else .fin false 0 0
  if fmtScaled wfmt then
    let e := stochBlock wfmt wt l rs
    let codes := (e.codes.zip kept).map fun ck => if ck.2 then ck.1 else 0
    let e := { e with codes := codes }
    (e.entry, e.slot wfmt)
  else
    let f := if fmtBase wfmt = 1 then bf16 else fp16
    ([], ((l.zip kept).zip rs).flatMap fun lkr => leBytes 2 (if lkr.1.2 then stoch16 f lkr.1.1 lkr.2 else 0))

/-- Where a block's entry and elements lie in the working copy. -/
def workAt (d : PDesc) (base b : Nat) : Nat × Nat × Nat :=
  let tile := base + d.woff + d.tileOf b * tileSize d.wfmt
  let v := d.vecOf b
  if fmtScaled d.wfmt then (tile, tile + 16 + 4 * v, tile + 144 + slotBytes d.wfmt * v)
  else (tile, tile + 16, tile + 16 + 64 * v)

def workLen (d : PDesc) : Nat := if fmtScaled d.wfmt then slotBytes d.wfmt else 64

/-! UPDATE (R240). -/

/-- Bind the hyperparameter record, and the parameter descriptor, at the start (R228). Buffers 0 and 1 keep them. -/
def bindUpdate (s : State) (q : Nat) (c : Cmd) : State :=
  let opc := opcOf c.raw.toNat
  if opc != 0xA0 && opc != 0xA1 then s
  else
    let body : EM Unit := do
      let hp ← fld (if opc = 0xA0 then 40 else 48) 0 43
      let h ← ld hp 32
      let d ← if opc = 0xA0 then ldLocal (pdescAddr s (cf c.raw.toNat 16 0 12)) 64 else pure []
      onC fun c => { c with buf := ins (ins c.buf 0 h) 1 d }
    let (r, e) := body.run ⟨s, c, ctxOfQ s q, false⟩
    match r with
    | .ok _ => putCmd e.s q e.cmd
    | .error _ => s

/-- The bound record, or the record as it is read now. -/
def boundHp (hp : Nat) : EM (List Byte) := do
  need (hp % 32 == 0) 0x10
  let h ← match look (← get).cmd.buf 0 with
    | some h => pure h
    | none => ld hp 32
  need (byteN h 20 12 == 0) 0x10
  return h

def boundDesc (p : Nat) : EM PDesc := do
  let a ← gets (pdescAddr · p)
  let d ← match look (← get).cmd.buf 1 with
    | some d => pure d
    | none => ldLocal a 64
  return pdescOf (leNat d)

/-- Count unresolved elements (R236). -/
def noteNfr (n : Nat) : EM Unit := do
  if n != 0 then onS fun s => (s.stick UPD_STAT_NFR).sat UPD_STAT_NFR_CNT n
  countC 3 n

/-- Copy a block from the current buffer to the other one: masters, moments, working-copy vector with its tile's
descriptor, so that the buffer is an exact copy once every block is copied (R25, R240). -/
def copyBlock (d : PDesc) (src dst b : Nat) : EM Unit := do
  let cp (o n : Nat) : EM Unit := do st (dst + o) (← ld (src + o) n)
  cp (192 * b) 192
  for o in (if d.precond then [d.moff] else [d.moff, d.roff]) do
    cp (o + momEntry b) 4
    cp (o + momSlot d b) (slotBytes momFmt)
  let w := workAt d 0 b
  cp w.1 16
  if fmtScaled d.wfmt then cp w.2.1 4
  cp w.2.2 (workLen d)

/-- Update one block. -/
def updateBlock (d : PDesc) (r : Rule) (p key t src dst b grad half : Nat) : EM Unit := do
  let ms ← ld (src + 192 * b) 192
  let rd (o : Nat) : EM (List Nat) := do
    momVals (← ld (src + o + momEntry b) 4) (← ld (src + o + momSlot d b) (slotBytes momFmt))
  let m ← rd d.moff
  let rho ← if d.precond then pure (List.replicate 32 0) else rd d.roff
  let gb ← ld grad 128
  let out := (upto 32).map fun i => ruleStore r mw48 (byteN ms (6 * i) 6) (byteN gb (4 * i) 4) (listGet m i 0) (listGet rho i 0)
  noteNfr (countOf (·.2.2.2) out)
  st (dst + 192 * b) (out.flatMap fun o => leBytes 6 o.1)
  let wr (o : Nat) (l : List Nat) : EM Unit := do
    let e := momEnc l
    st (dst + o + momEntry b) e.entry
    st (dst + o + momSlot d b) (e.slot momFmt)
  wr d.moff (out.map (·.2.1))
  if !d.precond then wr d.roff (out.map (·.2.2.1))
  let v := b / d.akt
  let kept ← if d.prune then do
      let mb ← ld (d.mask + half * d.half + (v * d.k + 32 * (b % d.akt)) / 8) 4
      pure ((upto 32).map fun i => (leNat mb).testBit i)
    else pure (List.replicate 32 true)
  let w := workVec d.wfmt d.wt (out.map fun o => mw48.dec o.1) kept ((upto 32).map fun i => updRand key t p (32 * b + i))
  let at_ := workAt d dst b
  let vec := min 32 (d.n - 32 * (v / 32))
  st at_.1 (descBytes ⟨d.wfmt, true, false, false, 0, vec, d.wt, true⟩ true)
  st at_.2.1 w.1
  st at_.2.2 w.2
  countC 5 (192 + 36 + (if d.precond then 0 else 36) + w.1.length + w.2.length + 16)

/-- A bound step value of the command (R228): t, s, CUR, SF, AGREED. -/
def boundStep (i : Nat) : EM Nat := do return listGet (← get).cmd.bnd i 0

def updateBody (q : Nat) : EM Unit := do
  let p ← fld 16 0 12
  let slot ← fld 18 0 4
  let b0 ← fld 20 0 32
  let bn ← fld 24 0 32
  let clip ← fld 28 0 32
  let grad ← fld 32 0 43
  let hp ← fld 40 0 43
  need ((← boundStep 4) == 1) 0x10
  let d ← boundDesc p
  let h ← boundHp hp
  need (d.ok && b0 + bn ≤ d.blocks) 0x10
  let t ← boundStep 0
  let cur ← boundStep 2
  let e ← get
  if snapHolds e.s p (1 - cur) then throw (.hold (stallOn e.s q e.cmd.seq))
  let src := d.base cur
  let dst := d.base (1 - cur)
  countC 0 bn
  if (← boundStep 3) = 1 then
    for i in upto bn do copyBlock d src dst (b0 + i)
    emStop 0x20
  let r := ruleOf d.precond h t (← boundStep 1) clip 1
  let key := match e.s.replay with | some x => x.key | none => (e.s.rg GSV_KEY slot).toNat
  for i in upto bn do updateBlock d r p key t src dst (b0 + i) (grad + 128 * i) (maskHalf e.s t)

/-- UPDATE. -/
def execUpdate (q : Nat) (s : State) : Res := .next (runUnit s q 0xA0 (updateBody q))

/-! ROW_UPDATE (R242 to R244, R215, R216, R90). -/

/-- The redo slot's header, in the model's own layout: VALID, the address space, and the places and lengths of the row
and of its moments. -/
def redoHead (valid : Bool) (c : Ctx) (row rlen mom mlen : Nat) : List Byte :=
  leBytes 1 (b2n valid) ++ leBytes 1 (c.space + 8 * b2n c.t) ++ leBytes 6 0 ++ leBytes 8 row ++ leBytes 8 rlen ++ leBytes 8 mom
    ++ leBytes 8 mlen ++ leBytes 24 0

def redoAddr (s : State) (p : Nat) : Nat := s.get UPD_REDO_BASE p * 64

/-- Write bytes at a job address, where it is reached. -/
def putJob (s : State) (c : Ctx) (a : Nat) (d : List Byte) : State :=
  match resolve s c a d.length true with
  | (.ok parts, s) => (parts.foldl (fun (acc : State × List Byte) r => ((acc.1.wrLocal r.1 (acc.2.take r.2)).1, acc.2.drop r.2)) (s, d)).1
  | (.error _, s) => s

/-- Copy a valid redo slot to its places again (R244). -/
def redoCopy (s : State) (p : Nat) : State :=
  let a := redoAddr s p
  if s.get UPD_REDO_SIZE p = 0 || !(s.rd8 a).getLsbD 0 then s
  else
    let sp := s.rdN (a + 1) 1
    let c : Ctx := ⟨p, sp % 4, sp.testBit 3, false, 0⟩
    let row := s.rdN (a + 8) 8
    let rlen := s.rdN (a + 16) 8
    let mom := s.rdN (a + 24) 8
    let mlen := s.rdN (a + 32) 8
    let s := demandPlain s p a (64 + rlen + mlen)
    let rowB := s.rdBytes (a + 64) rlen
    let s := putJob s c mom (s.rdBytes (a + 64 + rlen) mlen)
    let s := putJob s c (row + 16) (rowB.drop 16)
    let s := putJob s c row (rowB.take 16)
    let s := (s.wrLocal a (leBytes 1 (setBits (s.rdN a 1) 0 1 0))).1
    s.stick UPD_STAT_REDO

/-- A gather that has bound the table has not ended (R90). -/
def gathersBound (s : State) (t : Nat) : Bool :=
  s.queues.any fun kx => kx.2.started.any fun c =>
    opcOf c.raw.toNat == 0x68 && cf c.raw.toNat 16 0 12 == t && (s.jent kx.1 c.seq).bound.isSome

/-- Before a row is written, a drain that has not taken it yet gets a copy in its pool (R429). -/
def poolCopy (q t ver row : Nat) (a stride mstride : Nat) : EM Unit := do
  let e ← get
  let x := e.s.snap
  match x.tables.find? fun m => m.table == t with
  | none => pure ()
  | some m =>
    if x.held.contains (t, ver) && !mapBit e.s m row then
      let b ← ld a stride
      let mb ← ld (m.mom + m.mstride * row) m.mstride
      let used := x.copies.foldl (fun n c => n + c.2.2.length) 0
      let _ := mstride
      if used + b.length + mb.length > x.poolSize then
        let s ← gets id
        throw (.hold ((stallOn s q e.cmd.seq).stick SNAP_STAT_POOL_FULL))
      onS fun s =>
        let s := if x.copies.isEmpty then s.makeStale x.pool (x.pool + x.poolSize) else s
        let s := { s with snap := { s.snap with copies := s.snap.copies ++ [(t, row, b ++ mb)] } }
        setMapBit s m row

/-- The moments' layout of a row: bytes of m, and where ρ follows, counted from the row's first moment byte (DEDUCED, log
149: R243's 16-byte boundary is one of the layout and not of the address, so that every row has the same one). -/
def rowMom (elems : Nat) : Nat × Nat :=
  let n := (vecLayout momFmt elems).2
  (n, roundUp 16 n)

/-- Moment values of a row's elements. -/
def rowMomVals (b : List Byte) (elems : Nat) : EM (List Nat) := do
  let nb := (elems + 31) / 32
  let l ← (upto nb).mapM fun k =>
    momVals ((b.drop (4 * k)).take 4) ((b.drop (roundUp 16 (4 * nb) + slotBytes momFmt * k)).take (slotBytes momFmt))
  return l.flatten.take elems

def rowMomBytes (l : List Nat) : List Byte :=
  let nb := (l.length + 31) / 32
  let es := (upto nb).map fun k => momEnc (((l.drop (32 * k)).take 32 ++ List.replicate 32 0).take 32)
  let ents := es.flatMap Enc.entry
  ents ++ List.replicate (roundUp 16 (4 * nb) - ents.length) 0 ++ es.flatMap fun e => e.slot momFmt

def rowFmt (fmt : Nat) : Fmt := if fmt = 0 then fp32 else if fmt = 1 then bf16 else mw48

/-- Update one row of a list. -/
def updateRow (q : Nat) (d : TDesc) (t : Nat) (h : List Byte) (ls clip ver rowA momA lrow table : Nat) (g : List Nat) : EM Unit := do
  let row ← ld rowA d.rowBytes
  countC 1 1
  let delta := (t + 2 ^ 64 - byteN row 8 8) % 2 ^ 64
  if delta = 0 then
    countC 2 1
    return ()
  let (mlen, o2) := rowMom d.elems
  let mb ← ld momA mlen
  let rb ← ld (momA + o2) mlen
  poolCopy q table ver lrow rowA d.stride 0
  let f := rowFmt d.fmt
  let w := fmtBytes d.fmt
  let m ← rowMomVals mb d.elems
  let rho ← rowMomVals rb d.elems
  let r := ruleOf false h t ls clip delta
  let out := (upto d.elems).map fun i => ruleStore r f (byteN row (16 + w * i) w) (listGet g i 0) (listGet m i 0) (listGet rho i 0)
  noteNfr (countOf (·.2.2.2) out)
  let els := out.flatMap fun o => leBytes w o.1
  let img := leBytes 2 ((byteN row 0 2 + 1) % 2 ^ 16) ++ (row.drop 2).take 6 ++ leBytes 8 t ++ els
    ++ (row.drop (16 + els.length))
  let m1 := rowMomBytes (out.map (·.2.1))
  let mom := m1 ++ List.replicate (o2 - mlen) 0 ++ rowMomBytes (out.map (·.2.2.1))
  let e ← get
  let slot := redoAddr e.s (hPond (homeOfQ e.s q))
  canStore rowA img.length
  canStore momA (o2 + mlen)
  -- the slot, then the places with the row header last; VALID ends clear
  stLocal slot (redoHead false e.ctx rowA img.length momA mom.length ++ img ++ mom)
  st momA m1
  st (momA + o2) (rowMomBytes (out.map (·.2.2.1)))
  st (rowA + 16) (img.drop 16)
  st rowA (img.take 16)
  countC 0 ((d.elems + 31) / 32)
  countC 5 (img.length + 2 * mlen)

def rowUpdateBody (q : Nat) : EM Unit := do
  let table ← fld 16 0 12
  let n ← fld 20 0 32
  let list ← fld 24 0 43
  let mom ← fld 32 0 43
  let ms ← fld 40 0 32
  let clip ← fld 44 0 32
  let hp ← fld 48 0 43
  let d ← useTable table
  need (d.learnable && (d.fmt == 0 || d.fmt == 1 || d.fmt == 3)) 0x10
  let h ← boundHp hp
  let (mlen, o2) := rowMom d.elems
  need (list % 16 == 0 && o2 + mlen ≤ ms) 0x10
  let s ← gets id
  let pond := hPond (homeOfQ s q)
  need (d.stride + ms + 64 ≤ s.get UPD_REDO_SIZE pond * 65536 && s.get UPD_REDO_SIZE pond != 0) 0x10
  if (← get).cmd.reissued && (s.rd8 (redoAddr s pond)).getLsbD 0 then
    onS (redoCopy · pond)
    countC 4 1
  if (← boundStep 3) = 1 then emStop 0x20
  let t ← boundStep 0
  let ls ← boundStep 1
  let x := lookD (← gets id).tables table ⟨0, 0, 0, 0, false, 0, 0⟩
  let esz := 16 + 16 * ((d.elems + 3) / 4)
  let mut bad := false
  for i in upto n do
    let b ← ld (list + esz * i) esz
    let lrow := byteN b 0 5
    if byteN b 10 2 % 4096 != table || lrow ≥ d.rows then bad := true
    else
      let g := (upto d.elems).map fun j => byteN b (16 + 4 * j) 4
      updateRow q d t h ls clip x.verCur (x.baseCur + d.stride * lrow) (mom + ms * lrow) lrow table g
  if bad then emStop 0x10

/-- ROW_UPDATE: its commit waits for the gathers of the table that bound before it began (R90). -/
def execRowUpdate (q : Nat) (s : State) : Res :=
  .next (match unitCmd s q 0xA1 with
    | none => s
    | some c =>
      let c := { c with stage := 1 }
      let s := putCmd s q c
      if gathersBound s (cf c.raw.toNat 16 0 12) then s else runBody s q c (rowUpdateBody q))

/-! The step flag (R246). -/

def flagLocalBody : EM Unit := do
  need (← gets fun s => s.replay.isNone) 0x10
  onS fun s => (s.set UPD_STEP_SF (s.get UPD_STEP_LNF)).set UPD_STEP_AGREED 1

/-- FLAG_LOCAL. -/
def execFlagLocal (q : Nat) (s : State) : Res := .next (runUnit s q 0xA2 flagLocalBody)

/-! Preconditioners (R250). -/

def pctAddr (s : State) (i : Nat) : Nat := s.get UPD_PCT_BASE_BASE * 64 + 32 * i

def pcSwitchBody : EM Unit := do
  let id ← fld 16 0 12
  let slot ← fld 18 0 1
  let a ← gets (pctAddr · id)
  let v ← ldLocalN a 32
  let dim := bits v 128 10
  need (v.testBit 146 && 128 ≤ dim && dim ≤ 512 && dim % 32 == 0 && bits v 43 21 == 0 && bits v 107 21 == 0
    && bits v 138 6 == 0 && bits v 147 45 == 0) 0x10
  need (slot != bits v 144 1) 0x10
  sideOk a 32
  stLocal (a + 18) (leBytes 1 (setBits (bits v 144 8) 1 1 1))

/-- PC_SWITCH. -/
def execPcSwitch (q : Nat) (s : State) : Res := .next (runUnit s q 0xA4 pcSwitchBody)

/-- Apply the pending switches at a step's close: CUR takes the other slot, SWITCH_T the step. -/
def applySwitches (s : State) (t : Nat) : State :=
  (upto 4096).foldl
    (fun s i =>
      let a := pctAddr s i
      let b := s.rdN (a + 18) 1
      if b.testBit 1 && b.testBit 2 then
        let b' := setBits (setBits b 1 1 0) 0 1 (1 - b % 2)
        ((s.wrLocal (a + 18) (leBytes 1 b')).1.wrLocal (a + 24) (leBytes 8 t)).1
      else s)
    s

/-! STEP_CLOSE (R247, R252). -/

/-- The loss scale and the skip counters at a step's close. -/
def lossScale (s : State) (sf : Bool) (ls : Nat) : State :=
  let lo := s.get LS_CFG_S_MIN
  let hi := max lo (s.get LS_CFG_S_MAX)
  if sf then
    let s := if ls ≤ lo then s.stick UPD_STAT_FLOOR else s
    let s := (s.set LS_STATE_S (max lo (ls - 1))).set LS_STATE_CLEAN 0
    let s := (s.bump UPD_SKIPS_SKIPS 1).sat LS_STATE_CONSEC 1
    if s.get LS_CFG_SKIP_ALARM != 0 && s.get LS_STATE_CONSEC == s.get LS_CFG_SKIP_ALARM then s.stick UPD_STAT_SKIP_ALARM else s
  else
    let s := s.set LS_STATE_CONSEC 0
    if s.get LS_STATE_CLEAN + 1 ≥ max 1 (s.get LS_CFG_INTERVAL) then
      (s.set LS_STATE_S (min hi (ls + 1))).set LS_STATE_CLEAN 0
    else s.bump LS_STATE_CLEAN 1

/-- The version of a table in the journal: the one that the step's gathers bound, and the present one where none did
(R252). -/
def stepVersion (s : State) (t : Nat) : Nat := (look s.stepVers t).getD (lookD s.tables t ⟨0, 0, 0, 0, false, 0, 0⟩).verCur

/-- The journal record (R252). -/
def stepRecord (s : State) (raw data t ls : Nat) (sf : Bool) (tabs : List Nat) : List Byte :=
  let ents := (upto 16).flatMap fun i =>
    match tabs[i]? with
    | some id => leBytes 4 (id % 4096 + 4096 * stepVersion s (id % 4096))
    | none => leBytes 4 0
  let l := s.clog.getD ⟨0, 0, 0, false, 0⟩
  leBytes 8 data ++ leBytes 8 t ++ leBytes 8 (cf raw 16 0 64) ++ leBytes 4 (cf raw 24 0 32) ++ leBytes 4 (cf raw 28 0 32)
    ++ leBytes 1 (ls + 64 * b2n sf) ++ leBytes 1 tabs.length ++ leBytes 6 0
    ++ leBytes 8 (s.rg GSV_KEY (cf raw 41 0 4)).toNat ++ ents ++ leBytes 8 l.addr ++ leBytes 8 l.n

/-- Where the record of a data step lies; none: no journal is written. -/
def jrnlAddr (s : State) (data : Nat) : Option Nat :=
  let n := s.get UPD_JRNL_LOG2N
  if n = 0 then none else some (s.get UPD_JRNL_BASE * 128 + 128 * (data % 2 ^ clampN 4 20 n))

/-- Remaining-use counts are reloaded at a step boundary (R322). -/
def remBoundary (s : State) : State :=
  { s with rem := s.rem.filterMap fun (kv : Nat × Nat) =>
      let t := tensorAt s (kv.1 / 4096) (kv.1 % 4096)
      if t.valid then some (kv.1, t.uses) else none }

/-- What STEP_CLOSE does in its retirement step, with t, s, CUR and SF as it bound them when it started (R228). -/
def closeStep (q : Nat) (c : Cmd) (tabs : List Nat) (s : State) : State :=
  let raw := c.raw.toNat
  let t := listGet c.bnd 0 0
  let ls := listGet c.bnd 1 0
  let sf := listGet c.bnd 3 0 == 1
  let data := s.get UPD_DATA_DATA
  let s := match jrnlAddr s data with
    | some a => (s.wrLocal a (stepRecord s raw data t ls sf tabs)).1
    | none => s
  let x := ctxOfQ s q
  let s := { s with clog := some ⟨cf raw 48 0 43, x.pond, x.space, x.t, 0⟩, stepVers := [] }
  let s := noiseBoundary s sf ls
  let s := if sf then s.silt' 0x40 (homeOfQ s q) q c.seq [data] else s.set UPD_OPT_OPT t
  let s := s.bump UPD_DATA_DATA 1
  let s := lossScale s sf ls
  let s := s.set UPD_STEP_CUR (1 - listGet c.bnd 2 0)
  let s := applySwitches s t
  let s := ((s.set UPD_STEP_LNF 0).set UPD_STEP_SF 0).set UPD_STEP_AGREED 0
  let s := seedsBoundary s (data + 1)
  let s := remBoundary (slabBoundary (hotBoundary s))
  snapCapture s q ((s.get UPD_OPT_OPT + 1) % 2 ^ 64)

/-- The bytes that STEP_CLOSE writes in memory: the journal record, the switches it applies, the noise entries it folds
and the seed record. -/
def closeRanges (s : State) : List (Nat × Nat) :=
  let jrnl := ((jrnlAddr s (s.get UPD_DATA_DATA)).map fun a => (a, 128)).toList
  let pcs := (upto 4096).flatMap fun i =>
    let a := pctAddr s i
    let b := s.rdN (a + 18) 1
    if b.testBit 1 && b.testBit 2 then [(a + 18, 1), (a + 24, 8)] else []
  let base := s.get NS_CFG_BASE * 32
  let ns := if base = 0 then []
    else (upto 256).filterMap fun i => if s.rdN (base + 32 * i + 24) 2 = 0 then none else some (base + 32 * i, 32)
  let sd := s.get BSC_REC_REC * 8
  jrnl ++ pcs ++ ns ++ (if sd = 0 then [] else [(sd, 8)])

/-- STEP_CLOSE with the 64-byte units that it writes noted for its check entry: its entry stands in the log of the step
that it closes, which the journal record counts, and each unit has the bytes the close leaves (R253). -/
def closeNoted (s : State) (q : Nat) (c : Cmd) (tabs : List Nat) : Cmd :=
  if !checkLogged s c.raw.toNat then c
  else
    let rs := closeRanges s
    let t := closeStep q c tabs (checkLog s c)
    let units := nubN (rs.flatMap fun r => (upto ((r.1 % 64 + r.2 + 63) / 64)).map (r.1 / 64 + ·))
    { c with wrote := units.foldl (fun m u => ins m u (t.rdBytes (64 * u) 64)) [], low := rs.foldl (fun m r => some (min r.1 (m.getD r.1))) none }

/-- The table list of a STEP_CLOSE. -/
def tlist : EM (List Nat) := do
  let a ← fld 32 0 43
  let n ← fld 40 0 5
  let b ← ld a (2 * n)
  return (upto n).map fun i => byteN b (2 * i) 2

/-- STEP_CLOSE: it acts in its retirement step, on the values it bound at its start; started with AGREED = 0, or during a
replay, it changes nothing (R228, R247, R254). -/
def execStepClose (q : Nat) (s : State) : Res :=
  .next (match atRetire s q 0xA3 with
    | none => s
    | some c =>
      if !unitUp s q then s
      else if s.replay.isSome || listGet c.bnd 5 0 == 1 || listGet c.bnd 4 0 == 0 then retireOldest s q c 0x10 id
      else
        let (r, e) := tlist.run ⟨s, c, ctxOfQ s q, false⟩
        match r with
        | .ok tabs =>
          let s := e.s
          let s := tabs.foldl loadTable s
          retireOldest s q (closeNoted s q c tabs) (if listGet c.bnd 3 0 == 1 then 0x20 else 0) (closeStep q c tabs)
        | .error (.status n) => retireOldest e.s q c n id
        | .error _ => s)

/-! Replay (R254). -/

def replayBeginBody (q : Nat) : EM Unit := do
  let n ← fld 16 0 64
  let side ← fld 24 0 43
  let size ← fld 32 0 64
  let rlog ← fld 40 0 43
  let dig ← fld 48 0 64
  let s ← gets id
  match jrnlAddr s n with
  | none => emStop 0x10
  | some a => do
    let b ← ldLocal a 128
    need (byteN b 0 8 == n) 0x10
    let x := ctxOfQ s q
    let tabs := (upto (byteN b 33 1 % 32)).map fun i => let e := byteN b (48 + 4 * i) 4; (e % 4096, bits e 12 16)
    let r : Replay :=
      { data := n, t := byteN b 8 8, s := byteN b 32 1 % 64, skipped := (byteN b 32 1).testBit 6, key := byteN b 40 8
        digest := byteN b 16 8, tables := tabs.foldl (fun m kv => ins m kv.1 kv.2) [], clog := byteN b 112 8 % 2 ^ 43
        clogN := byteN b 120 4, side := side, sideSize := size, rlog := ⟨rlog, x.pond, x.space, x.t, 0⟩, seedDigest := dig }
    onS fun s => { s with replay := some r }.set UPD_CFG_REPLAY 1

/-- REPLAY_BEGIN. -/
def execReplayBegin (q : Nat) (s : State) : Res := .next (runUnit s q 0xA5 (replayBeginBody q))

/-- Entries of a check log folded per (LAYER_ID, OP_ID): the pair as one number that orders like it, the XOR of the
check values, and the count. -/
def foldLog : Nat → List Byte → SMap (Nat × Nat)
  | 0, _ => []
  | n + 1, b =>
    let k := byteN b 0 2 * 65536 + byteN b 2 2
    upd (foldLog n (b.drop 16)) k (0, 0) fun x => (x.1 ^^^ byteN b 8 8, x.2 + 1)

def replayEndBody : EM Unit := do
  let res ← fld 24 0 43
  let s ← gets id
  match s.replay with
  | none => emStop 0x10
  | some r => do
    let cap := s.get UPD_CFG_CLOG_MAX
    let a ← ld r.clog (16 * min cap r.clogN)
    let b ← ld r.rlog.addr (16 * min cap r.rlog.n)
    let fa := foldLog (min cap r.clogN) a
    let fb := foldLog (min cap r.rlog.n) b
    let ks := sortBy id (nubN ((fa ++ fb).map (·.1)))
    let diff := ks.find? fun k => lookD fa k (0, 0) != lookD fb k (0, 0)
    let outcome := if r.digest != r.seedDigest then 2 else if r.clogN > cap || r.rlog.n > cap then 3
      else if diff.isSome then 1 else 0
    let k := diff.getD 0
    onS fun s => { s with replay := none }.set UPD_CFG_REPLAY 0
    st res (leBytes 2 outcome ++ leBytes 2 (k / 65536) ++ leBytes 4 (k % 65536)
      ++ leBytes 8 (if diff.isSome then (lookD fa k (0, 0)).1 else 0) ++ leBytes 8 (if diff.isSome then (lookD fb k (0, 0)).1 else 0)
      ++ leBytes 8 0)

/-- REPLAY_END. -/
def execReplayEnd (q : Nat) (s : State) : Res := .next (runUnit s q 0xA6 replayEndBody)

end Sys2Proof.Machine
end

