-- ==== Sys2Proof/Machine/Retire.lean ====
section
/-! DEFINITION. The start and the retirement of a command (R206, R228, R299, R300). -/

namespace Sys2Proof.Machine

open Sys2Proof

/-- What a command that has just started binds: a GATHER its version (R88), an UPDATE or ROW_UPDATE its records
(R228), a collective its number (R382). -/
def startBind (s : State) (q seq : Nat) : State :=
  match s.findCmd q seq with
  | none => s
  | some c =>
    if c.phase != .ready then s
    else if opcOf c.raw.toNat == 0x68 then
      (if committing s (cf c.raw.toNat 16 0 12) then s else bindGather s q c)
    else if isCol c.raw.toNat then colStarts 8 s q
    else bindUpdate s q c

/-- COMMAND_START (R298, R299). -/
def execCommandStart (q : Nat) (s : State) : Res :=
  .next (
    let n := (s.q q).started.length
    let t := commandStart s q
    if (t.q q).started.length = n then t else startBind t q (nextSeq s q))

/-- The retirement of an accumulating command is on record, and COMMIT goes to every home it reached (R206). -/
def journalStage (s : State) (q : Nat) (c : Cmd) : State :=
  if mustRecord c 0 && cmplFull s q then s.qset QTAB_STAT_CWAIT 1 q
  else
    let s := s.setJent q { s.jent q c.seq with retired := true }
    let s := s.updCmd q c.seq fun c => { c with stage := 4, phase := .running, waits := c.aux.length }
    sendStage s q c .commit

/-- COMMAND_RETIRE (R300 to R304): the oldest started command of a queue retires once it has finished. -/
def execCommandRetire (q : Nat) (s : State) : Res :=
  .next (match oldest s q with
    | none => s
    | some c =>
      match c.phase with
      | .done st =>
        if st = 0 ∧ c.stage = 3 ∧ accumulates c.raw.toNat then journalStage s q c else retireOldest s q c st id
      | _ => s)

end Sys2Proof.Machine
end

