-- ==== Sys2Proof/Machine/Faults.lean ====
section
/-! DEFINITION. Faults and recovery (chapter 14): fatal faults (R411), fences with their peers, rebuilds and reissues
(R412 to R418), and warm reset (R208, R424, R425). -/

namespace Sys2Proof.Machine

open Sys2Proof

/-! Fatal faults (R411, R435). -/

/-- FATAL_FAULT. -/
def execFatalFault (cause : Nat) (s : State) : Res := .next (if s.pins.por then fatalFault s cause else s)

/-- A write of SILT_CTL (R435). -/
def siltCtlWrite (s : State) (v : Nat) : State :=
  let s := s.set SILT_CTL_IDX (bits v 0 13)
  if v.testBit 17 then s.set SILT_CTL_FROZEN 0 else s

/-- SILT_UNFREEZE: recording resumes. -/
def execSiltUnfreeze (s : State) : Res := .next (s.set SILT_CTL_FROZEN 0)

/-! Peers (R413). -/

/-- The queues bound to a unit: those enabled, and those with entries left. -/
def queuesOf (s : State) (h : Nat) : List Nat :=
  (nubN (enabledQueues s ++ usedQueues s)).filter fun q => consumerOf s q == .unit h

/-- The unfenced GC of a pond with the fewest bound queues. -/
def gcPeer (s : State) (p : Nat) : Option Nat :=
  leastBy (fun h => (queuesOf s h).length) (((upto 4).map fun j => 4 * p + j).filter fun h => !hFenced s h)

def mcPeer (s : State) (p i : Nat) : Option Nat :=
  let m (p i : Nat) := 1024 + 4 * p + i
  if !hFenced s (m p (1 - i)) then some (m p (1 - i))
  else match deputyOf s p with
    | some d => [m d 0, m d 1].find? fun h => !hFenced s h
    | none => none

/-- The peer of a fenced unit. -/
def peerOf (s : State) (h : Nat) : Option Nat :=
  let p := hPond h
  if hubFenced s p then
    match deputyOf s p with
    | none => none
    | some d =>
      let same := 1024 * hKind h + 4 * d + hIndex h
      if !hFenced s same then some same
      else if hKind h == 0 then gcPeer s d
      else if hKind h == 1 then mcPeer s d (hIndex h)
      else none
  else if hKind h == 0 then
    match gcPeer s p with
    | some g => some g
    | none => (deputyOf s p).bind (gcPeer s)
  else if hKind h == 1 then mcPeer s p (hIndex h)
  else none

/-! Reissue (R207, R417). -/

/-- Answers still to come for a queue's commands are for nobody: the reissue asks again. -/
def forgetAnswers (s : State) (q : Nat) : State :=
  let mine (w : Requester) : Bool := match w with | .cmd k _ _ => k == q | _ => false
  { s with
    link := { s.link with outst := s.link.outst.map fun o => if mine o.who then { o with who := .posted } else o }
    host := { s.host with reqs := s.host.reqs.map fun r => if mine r.who then { r with who := .posted } else r }
    samps := s.samps.filter fun x => x.queue != q }

/-- A GRUN of the queue stops where it stands. -/
def stopGrun (s : State) (q : Nat) : State :=
  s.gcs.foldl
    (fun s kx => match kx.2.run with
      | some r => if r.queue == q then
          (((s.setGc kx.1 { kx.2 with run := none, blocked := .no }).set GC_STAT_RUNNING 0 kx.1).set GC_STAT_BLOCKED 0 kx.1).set
            GC_STAT_INH 0 kx.1
        else s
      | none => s)
    s

/-- The counter sets of a queue's unretired commands go back to their last retired commands (R487). -/
def dropSets (s : State) (q : Nat) : State :=
  (s.q q).started.foldl
    (fun s c => match c.cset with
      | none => s
      | some k => match look s.pccLast k with
        | some x => { s with pcc := ins s.pcc k x }
        | none => { s with pcc := del s.pcc k })
    s

/-- Take a queue back to its first unretired entry. A command whose retirement is on record stays, and its COMMITs are
sent again; the stages of the others are aborted; every other command starts again with its journal entry. -/
def reissueQueue (s : State) (q : Nat) : State :=
  let l := (s.q q).started
  let kept := l.filter fun c => (s.jent q c.seq).retired
  let s := l.foldl
    (fun s c => if (s.jent q c.seq).retired then { s with tmsgs := s.tmsgs.filter fun m => !(m.dev == s.me && m.queue == q && m.seq == c.seq) }
      else if 0x81 ≤ opcOf c.raw.toNat && opcOf c.raw.toNat ≤ 0x82 then (abortStage s q c).1 else s)
    s
  let s := stopGrun (dropSets s q) q
  let x := s.q q
  let s := s.setQ q { x with
    started := kept.map fun c => { c with stage := 4, phase := .running, waits := c.aux.length, reissued := true }
    journal := x.journal.map fun j => if j.retired then j else { j with reissue := true }
    joined := false }
  let s := kept.foldl (fun s c => sendStage s q c .commit) s
  forgetAnswers (dropWaiters s q) q

/-! Rebuild (R415, R416). -/

/-- Every filled shadow plane of a core is swapped in. -/
def swapAll (s : State) (m : Nat) : State :=
  let x := s.mc m
  s.setMc m { x with arrays := x.arrays.map fun kv => (kv.1, match kv.2.shadow with | some p => ⟨some p, none⟩ | none => kv.2) }

/-- The body of a logged command. -/
def logBody (opc q : Nat) : EM Unit :=
  if opc = 0x20 then mloadBody q
  else if opc = 0x21 then mmulBody q
  else if opc = 0x40 then vploadBody q
  else if opc = 0x41 then vexecBody q
  else if opc = 0x42 then vtransBody q
  else vmaskBody q

/-- A command as the rebuild runs it. -/
def logCmd (s : State) (raw : BitVec 512) : Cmd :=
  ⟨0, raw, .ready, true, false, [], 0, [], 0, none, [], startBinding s (opcOf raw.toNat), startCvu s raw.toNat, [], 0, [], none, [], [], none⟩

/-- Run one logged command for the context of unit `h`: only its private state changes. -/
def rerun (h : Nat) (s : State) (e : LogEnt) : State :=
  let opc := opcOf e.raw.toNat
  let g := hGlobal h
  let s0 := s.setQ e.queue { s.q e.queue with home := some h }
  let s0 := if hKind h == 1 then swapAll s0 g else s0
  let (r, e') := (logBody opc e.queue).run ⟨s0, logCmd s0 e.raw, ctxOfQ s0 e.queue, false⟩
  match r with
  | .ok _ =>
    let s := { s with free := e'.s.free }
    if hKind h == 1 then s.setMc g (e'.s.mc g)
    else
      let x := e'.cmd.fx.foldl
        (fun (x : VeState) fx => match fx with
          | .mask gc i v => if gc == g then { x with masks := ins x.masks i v } else x
          | _ => x)
        (e'.s.ve g)
      s.setVe g x
  | .error _ => s

/-- What a full log has dropped has no stated value after a rebuild (R415). -/
def loseItem (h : Nat) (s : State) (i : Nat) : State :=
  let g := hGlobal h
  let s1 := { s with free := s.free + 1 }
  if hKind h == 1 then
    if i < 100 then s
    else
      let x := s.mc g
      { s with free := s.free + 1024 }.setMc g { x with acc := (upto 1024).foldl (fun m k => ins m (1024 * (i - 100) + k) (Config.freeNat (s.free + k) % 2 ^ 32)) x.acc }
  else if i < 2000 then s
  else if i < 2100 then
    let x := s.ve g
    s1.setVe g { x with tiles := (upto 2048).foldl (fun m k => cellPut m (2048 * (i - 2000) + k) (Config.freeByte s.free k) 0) x.tiles }
  else if i < 2200 then
    let x := s.ve g
    s1.setVe g { x with masks := ins x.masks (i - 2100) (Config.freeNat s.free % 2 ^ 65536) }
  else s

/-- The private state of the context of unit `h` after its last retirement. -/
def rebuild (s : State) (h : Nat) : State :=
  let g := hGlobal h
  let s := if hKind h == 1 then s.setMc g ⟨[], [], []⟩ else if hKind h == 0 then s.setVe g VeState.init else s
  let s := (lookD s.fault.lost h []).foldl (loseItem h) s
  let s := (lookD s.fault.logs h []).foldl (rerun h) s
  s.silt' 0x3 h 0x3FFF 0 []

/-- The planes of the context of an MC, from its logged MLOADs (R413). -/
def rebuildPlanes (s : State) (h : Nat) : State :=
  let g := hGlobal h
  let x := s.mc g
  let s := s.setMc g { x with arrays := [], pred := [] }
  (lookD s.fault.logs h []).foldl (fun s e => if opcOf e.raw.toNat == 0x20 then rerun h s e else s) s

/-! Fencing (R412, R414, R418). -/

/-- The units that leave service with a region: the whole pond with its hub. -/
def fencedUnits (s : State) (h : Nat) : List Nat :=
  let p := hPond h
  if hKind h == 2 then
    (((upto 4).map fun j => 4 * p + j) ++ ((upto 2).map fun i => 1024 + 4 * p + i)).filter (fun u => !hFenced s u)
      ++ (upto 4).map (hUnit p)
  else [h]

/-- Isolate a unit: its fence bit, its capacity, and what it holds. -/
def isolate (s : State) (h : Nat) : State :=
  let g := hGlobal h
  let setBit (s : State) (r : Reg) (b : Nat) : State := s.setRg r (s.rg r (b / 64) ||| BitVec.ofNat 64 (2 ^ (b % 64))) (b / 64)
  let s := { s with ctxs := del s.ctxs h }
  if hKind h == 0 then
    { (setBit s FLT_FGC g).set FLT_CAP_GC_UP (s.get FLT_CAP_GC_UP - 1) with gcs := del s.gcs g }
  else if hKind h == 1 then (setBit s FLT_FMC g).set FLT_CAP_MC_UP (s.get FLT_CAP_MC_UP - 1)
  else if hIndex h == 0 then
    let p := hPond h
    let s := { (setBit s FLT_FHUB p).set FLT_CAP_PONDS_UP (s.get FLT_CAP_PONDS_UP - 1) with sketches := del s.sketches p }
    let x := s.pond p
    let s := gatePond (s.setPond p { x with lines := [], fills := [], streams := [], tlb := [], walk := [], ranges := [] }) p
    let r := if p < 64 then GSV_SERVE0 else GSV_SERVE1
    s.setRg r (s.rg r &&& ~~~ BitVec.ofNat 64 (2 ^ (p % 64)))
  else s

/-- The slots that hold something, spilled. -/
def spillSlots (s : State) (p : Nat) : State :=
  ((s.trough p).slots.map (·.1)).foldl
    (fun s i => match evict s p (s.trough p) i with
      | .ok x' => s.setTrough p x'
      | .error n => if n.full then s.stick TRG_STAT_SPILL_FULL p else s)
    s

/-- Bind a fenced unit's queues to its peer: the context they use stays that of the unit they came from (R413, R276). -/
def rebindQueue (s : State) (h q : Nat) : State :=
  let s := reissueQueue s q
  match peerOf s h with
  | none => s
  | some p =>
    let x := s.q q
    let s := s.setQ q { x with home := some (x.home.getD h) }
    s.qset QTAB_CFG_CONSUMER p q

def noteRecovering (s : State) (l : List Nat) : State :=
  { s.set FLT_STAT_RECOVERING (b2n (!l.isEmpty)) with fault := { s.fault with recovering := l } }

/-- Fence a region (R412 to R418). A second fault in a pond in recovery is fatal; elsewhere it sets SECOND (R411). -/
def fence (s : State) (h cause : Nat) : State :=
  if !hValid h || hFenced s h || s.fatal || !s.pins.por then s
  else if recoversIn s (hPond h) then singleFault s (some (hPond h))
  else
    let s := singleFault s none
    let s := s.silt' 0x1 h 0x3FFF 0 [cause]
    let units := fencedUnits s h
    let held := units.map fun u => (look s.ctxs u).getD u
    let s := units.foldl isolate s
    let s := (s.stick FLT_STAT_FENCED).setRg FLT_LAST (BitVec.ofNat 64 (h + 2 ^ 12 * (cause % 16) + 2 ^ 16 * s.stamp48))
    let s := s.silt' 0x2 h 0x3FFF 0 [cause]
    let s := if hKind h == 2 then spillSlots s (hPond h) else s
    let work := units.map fun u => (u, queuesOf s u)
    let s := work.foldl (fun s uq => uq.2.foldl (fun s q => rebindQueue s uq.1 q) s) s
    let homes := nubN (work.flatMap fun uq => uq.2.filterMap fun q => (s.q q).home)
    noteRecovering s (nubN (s.fault.recovering ++ homes.filter fun u => held.contains u || units.contains u))

/-- REGION_FENCE: a built-in check fails (1), or a neighbour reports (4). -/
def execRegionFence (handle cause : Nat) (s : State) : Res := .next (fence s handle cause)

/-- A command that waits for none of what R412 lists makes no progress. -/
def stalled (c : Cmd) : Bool :=
  match c.phase with
  | .ready => true
  | .running => c.waits == 0 && opcOf c.raw.toNat != 2 && opcOf c.raw.toNat != 4
  | .done _ => false

/-- STALL_LIMIT: a started command of the queue has made no handshake progress for STALL_US. -/
def execStallLimit (q : Nat) (s : State) : Res :=
  .next (match consumerOf s q with
    | .te _ => s
    | .unit h =>
      let blocked := match runnerOf s q (qHead s q) with | some g => (s.gc g).blocked != .no | none => false
      if running s && !blocked && (s.q q).started.any stalled then fence s h 2 else s)

/-- UV_HOLD_TIMEOUT (R35): a hold has lasted 1 ms, or the voltage has fallen below 0.45 V: every region of the pond is
fenced. DESIGN CHOICE (log entry 133): R35 does not say what UV_HELD shows then; the hold has ended, and it shows 0. -/
def execUvHoldTimeout (p : Nat) (s : State) : Res :=
  .next (if p < 96 && s.flag POND_PACE_UV_HELD p then (fence s (hUnit p 0) 3).set POND_PACE_UV_HELD 0 p else s)

/-! Contexts (R413). -/

/-- The bytes of a unit's slot in the context save area. -/
def saveSlot (s : State) (h : Nat) : Nat × Nat :=
  let base := s.get FLT_SAVE_BASE * 2 ^ 21 + 0x240000 * hPond h
  if hKind h == 1 then (base + 0xC0000 * hIndex h, 0xC0000) else (base + 0x180000 + 0x30000 * hIndex h, 0x30000)

/-- Saving a context writes its slot; how its bytes are laid out is not stated. While FLT_SAVE names no area, what the
context's logged commands have left has no stated value when the unit takes it again (R408). -/
def saveContext (s : State) (h : Nat) : State :=
  if hKind h == 2 then s
  else if !s.flag FLT_SAVE_V then (nubN ((lookD s.fault.logs h []).flatMap (·.covers))).foldl (loseItem h) s
  else
    let (a, n) := saveSlot s h
    if areaOf a == .main && areaOf (a + n - 1) == .main then s.makeStale a (a + n) else s

/-- Some started command belongs to the context that a unit holds. -/
def contextBusy (s : State) (h : Nat) : Bool :=
  s.queues.any fun kx => consumerOf s kx.1 == .unit h && !kx.2.started.isEmpty

/-- A unit takes the context of `incoming`: its own, or that of a fenced unit whose queues are bound to it. -/
def switchContext (s : State) (h incoming : Nat) : State :=
  let cur := (look s.ctxs h).getD h
  let known := incoming == h || s.queues.any fun kx => consumerOf s kx.1 == .unit h && kx.2.home == some incoming
  if !running s || !hValid h || hFenced s h || incoming == cur || !known || contextBusy s h then s
  else
    let s := saveContext s cur
    let s := { s with ctxs := if incoming == h then del s.ctxs h else ins s.ctxs h incoming }
    if s.fault.recovering.contains incoming then
      noteRecovering (rebuild s incoming) (s.fault.recovering.filter (· != incoming))
    else if hKind h == 1 then rebuildPlanes s incoming
    else s

/-- CONTEXT_SWITCH. -/
def execContextSwitch (unit incoming : Nat) (s : State) : Res := .next (switchContext s unit incoming)

/-! Warm reset (R208, R424, R425). -/

/-- A register's value after a warm reset: the kept bits stay, the others take their value after reset. -/
def warmReg (o : Nat) (v : W64) : W64 :=
  match regOf o with
  | some (r, _, _) =>
    let k := BitVec.ofNat 64 r.keep
    (v &&& k) ||| (r.rstW &&& ~~~k)
  | none => v

/-- The journaled stages of this device's commands are committed at its own homes. -/
def commitJournaled (s : State) (q : Nat) : State :=
  (s.q q).started.foldl
    (fun s c =>
      if (s.jent q c.seq).retired then
        (homesOf c).foldl (fun s h => if h.1 == s.me then commitAt s h.2.1 (stageTag s.me q c.seq) else s) s
      else s)
    s

/-- The live stages of a trough. -/
def liveTags (x : TroughSt) : List Nat :=
  nubN ((x.slots ++ x.recs).filterMap (fun ie => ie.2.tag) ++ x.applied.map (·.1))

/-- Messages between this device's own troughs end with the reset; those to other devices stay. -/
def dropLocal (s : State) : State := { s with tmsgs := s.tmsgs.filter fun m => m.dstDev != s.me || m.srcDev != s.me }

/-- A kept command's COMMITs that this device's homes have already taken. -/
def settleKept (s : State) (q : Nat) : State :=
  let x := s.q q
  s.setQ q { x with started := x.started.map fun c =>
    let n := countOf (fun h : Nat × Nat × Nat => h.1 != s.me) (homesOf c)
    if n = 0 then { c with stage := 6, phase := .done 0, waits := 0 } else { c with waits := n } }

/-- Troughs before the ponds are reset (R208). -/
def warmTroughs (s : State) : State :=
  s.troughs.foldl
    (fun s kx =>
      let s := (liveTags (s.trough kx.1)).foldl (fun s t => abortAt s kx.1 t) s
      spillSlots s kx.1)
    s

/-- What a warm reset loses (R424). A pond in lull comes out of its stop: its regions wait for the beacon (R52). -/
def warmLose (s : State) : State :=
  let pond (x : PondSt) : PondSt :=
    { x with lines := [], fills := [], streams := [], tlb := [], walk := [], ranges := [], depth := 0, pfIssued := 0,
             pfHit := 0, lull := false, wakeWait := x.lull || x.wakeWait }
  let waking := (s.ponds.filter fun kx => kx.2.lull || kx.2.wakeWait).map (·.1)
  { s with
    time := { s.time with resync := nubN (s.time.resync ++ waking) }
    regs := s.regs.map fun kv => (kv.1, warmReg kv.1 kv.2)
    ponds := s.ponds.map fun kx => (kx.1, pond kx.2)
    chans := s.chans.map fun kx => (kx.1, { kx.2 with probe := none, centres := [], rate := 0, bank := 0 })
    gcs := [], ves := [], mcs := [], dirs := [], waiters := [], rem := [], pcc := [], pccLast := []
    hot := ⟨[], [], false⟩, sketches := [], samps := [] }

/-- ILIM follows the phases that are disabled, which a warm reset keeps (R444). -/
def limitOfPhases (s : State) (p : Nat) : State :=
  let m := s.get POND_VREG_PHASE_OK p
  if m = 255 then s else s.set POND_VREG_ILIM (8 * countOf (fun i => m.testBit i) (upto 8)) p

/-- Start a warm reset. -/
def warmStart (s : State) : State :=
  if s.fatal || s.fault.warm || !s.pins.por then s
  else
    let s := s.siltDev 0x30 []
    let qs := s.queues.map (·.1)
    let s := qs.foldl commitJournaled s
    let s := qs.foldl reissueQueue s
    let s := warmTroughs s
    let s := qs.foldl settleKept (dropLocal s)
    let s := (upto 96).foldl redoCopy s
    let s := (upto 96).foldl limitOfPhases (warmLose s)
    { s with fault := { s.fault with warm := true } }

/-- WARM_RESET: the host has written FLT_CTRL.WRST. -/
def execWarmReset (s : State) : Res := .next (warmStart s)

/-- WRST_N: a falling edge after at least 1 µs high. While POR_N is low only the land's level changes (R512, R519). -/
def execWrstN (s : State) : Res :=
  let was := s.pins.wrst
  let s : State := { s with pins := { s.pins with wrst := false } }
  .next (if s.pins.por && s.pins.wrst != was then warmStart s else s)

/-- WRST_N_RISE. -/
def execWrstNRise (s : State) : Res := .next { s with pins := { s.pins with wrst := true } }

/-- WARM_RESET_DONE (R425): memory is back, the rebuild logs have run, and WRST_N is high; the queues resume and the held
doorbells are judged. `lost`: (channel, range) of dies that failed retraining (R421). -/
def execWarmResetDone (lost : List (Nat × Nat)) (s : State) : Res :=
  .next (if !s.fault.warm || !s.pins.wrst || s.fatal then s
    else
      let s := lost.foldl (fun s d => if d.1 < 96 ∧ d.2 < 3 then retireDie s d.1 d.2 else s) s
      let s := s.fault.logs.foldl (fun s kl => rebuild s kl.1) s
      let s := noteRecovering s []
      let s := { s with fault := { s.fault with warm := false }, power := { s.power with resumed := true } }
      let s := (s.stick FLT_STAT_WRST_DONE).siltDev 0x31 []
      judgeHeld s)

end Sys2Proof.Machine
end

