-- ==== Sys2Proof/Machine/Alert.lean ====
section
/-! DEFINITION. What the device shows of its sticky bits: FLT_SUM, ERR_POND and ERR_EDGE (R436, R530), ALERT_N and the
other driven lands (R513), and PWR_LOOP.UNMET (R448). -/

namespace Sys2Proof.Machine

open Sys2Proof

/-- The kind of FLT_SUM that a register's sticky bits belong to (FLT_SUM's table). -/
def stickyKind (r : Reg) : Option Nat :=
  let kinds : List (List Reg) :=
    [[FLT_STAT, FLT_DIE, DEV_ERR], [QTAB_STAT, QBLK_ERR, SEM_VAL, FSEM_VAL, BAR_STAT], [MEM_STAT, MCTL_UE, MCTL_CAL],
     [SLAB_STAT], [LNK_STAT, LNK_DLOST], [HB_STAT], [UPD_STAT], [TRG_STAT], [MC_STAT], [VE_STAT], [NUM_STAT], [TIME_STAT],
     [SNAP_STAT, SNAP_RST], [PWR_LOOP, PWR_STAT, RAIL_STAT, POND_PACE]]
  idxOf (fun l => l.contains r) kinds

/-- The registers that show a set sticky bit. -/
def stickySet (s : State) : List (Nat × Reg) :=
  s.regs.filterMap fun kv =>
    match regOf kv.1 with
    | some (r, _, _) => if (kv.2 &&& BitVec.ofNat 64 r.w1c) != 0 then some (kv.1, r) else none
    | none => none

/-- FLT_SUM.KINDS. -/
def fltSum (s : State) : Nat :=
  (stickySet s).foldl (fun m or => match stickyKind or.2 with | some k => m ||| 2 ^ k | none => m) 0

/-- The pond whose pages an offset lies in (R530). -/
def pondOfPage (o : Nat) : Option Nat :=
  if 0x800000 ≤ o ∧ o < 0xE00000 then some ((o - 0x800000) / 0x10000)
  else if 0x1000000 ≤ o ∧ o < 0x1600000 then some ((o - 0x1000000) / 0x10000)
  else if 0x2000000 ≤ o ∧ o < 0x2C00000 then some ((o - 0x2000000) / 0x10000 / 2)
  else if 0x4000000 ≤ o ∧ o < 0x5800000 then some ((o - 0x4000000) / 0x10000 / 4)
  else if 0x6000000 ≤ o ∧ o < 0x7800000 then some ((o - 0x6000000) / 0x10000 / 4)
  else none

/-- Bit p: some sticky bit of pond p is set. -/
def errPonds (s : State) : Nat :=
  (stickySet s).foldl (fun m or => match pondOfPage or.1 with | some p => m ||| 2 ^ p | none => m) 0

/-- ERR_EDGE. -/
def errEdge (s : State) : Nat :=
  (stickySet s).foldl
    (fun m or =>
      if 0x200000 ≤ or.1 ∧ or.1 < 0x2C0000 then m ||| 2 ^ ((or.1 - 0x200000) / 0x10000)
      else if 0x300000 ≤ or.1 ∧ or.1 < 0x3C0000 then m ||| 2 ^ (16 + (or.1 - 0x300000) / 0x10000)
      else m)
    0

/-- ALERT_N is asserted (R436): a bit tied to it is set, or FLT_SUM and ALERT_MASK share a bit. -/
def alert (s : State) : Bool :=
  s.pins.por &&
  (fltSum s &&& s.get FLT_CFG_ALERT_MASK != 0 || s.flag UPD_STAT_SKIP_ALARM || s.flag LNK_DLOST_VALID || s.flag FLT_DIE_VALID
    || s.flag FLT_STAT_DEVLOST || s.flag RNG_STAT_HEALTH_FAIL
    || (upto 12).any fun i => s.flag MCTL_UE_VALID i || s.flag LNK_STAT_PEER_MISMATCH i)

/-- The lands that PIN_STAT shows (R511, R513). -/
def pinStat (s : State) : Nat :=
  b2n s.pins.wrst + 2 * b2n s.pins.wake + 4 * b2n s.pins.perst + 8 * b2n s.pins.ppsIn + 16 * b2n (!s.pins.fault)
    + 32 * b2n (!alert s) + 64 * b2n (!s.pins.thermtrip)

/-- PWR_LOOP.UNMET (R448). -/
def unmetLoops (s : State) : Nat :=
  let ponds := (upto 96).any fun p => s.flag POND_VREG_UNMET p
  b2n (ponds || s.power.powerHeld) + 2 * b2n ((upto 12).any fun p => s.flag LNK_STAT_BOUND p) + 8 * b2n s.power.scrubHeld
    + 16 * b2n (!s.power.pfHeld.isEmpty) + 32 * b2n (s.troughs.any fun kx => kx.2.unmet)

end Sys2Proof.Machine
end

