-- ==== Sys2Proof/Machine/Lands.lean ====
section
/-! DEFINITION. The package (chapter 18): its lands by name, signal and rail (R499 to R505), the rails and their ranges
(R506), the sideband lands (R511), and the conditions and ratings that the chapter states (R498, R516 to R518). -/

namespace Sys2Proof.Machine

open Sys2Proof

/-! Names (R499, R500). -/

/-- The letters of row names. -/
def rowLetters : List Char := ['A', 'B', 'C', 'D', 'E', 'F', 'G', 'H', 'J', 'K', 'L', 'M', 'N', 'P', 'T', 'U', 'V', 'W', 'Y']

def rowName (i : Nat) : String :=
  let letter (k : Nat) : Char := listGet rowLetters k 'A'
  if i < 19 then String.ofList [letter i] else String.ofList [letter ((i - 19) / 19), letter ((i - 19) % 19)]

/-- A land is named by its row and its column. -/
def landName (r c : Nat) : String := rowName r ++ toString c

/-- Row `r` (0 to 97) and column `c` (1 to 98) hold a land: the corner squares hold none. -/
def hasLand (r c : Nat) : Bool :=
  r < 98 && 1 ≤ c && c ≤ 98 && !((r ≤ 20 || 77 ≤ r) && (c ≤ 21 || 78 ≤ c))

/-! Signals (R501 to R503). -/

/-- The rails in the order of R438. -/
inductive Rail where
  | vinPond | vddFab | vdd1Lp | vdd2hLp | vdd2lLp | vddqLp | vddSd | vddhSd | vddIo
  deriving DecidableEq, Repr

def rails : List Rail := [.vinPond, .vddFab, .vdd1Lp, .vdd2hLp, .vdd2lLp, .vddqLp, .vddSd, .vddhSd, .vddIo]

inductive Signal where
  | garine (port lane : Nat) (rx neg : Bool)
  | pcie (lane : Nat) (rx neg : Bool)
  | sense (rail : Rail) (neg : Bool)
  | named (name : String)
  deriving DecidableEq, Repr

/-- Lands of rows G and H: column and name. -/
def rowG : List (Nat × String) :=
  [(22, "REF100_P"), (23, "REF100_N"), (25, "SDREF_P"), (26, "SDREF_N"), (28, "PE_PERST_N"), (30, "XSPI_CLK"),
   (31, "XSPI_CS_N"), (32, "XSPI_DQS"), (33, "XSPI_IO0"), (34, "XSPI_IO1"), (35, "XSPI_IO2"), (36, "XSPI_IO3"),
   (37, "XSPI_IO4"), (38, "XSPI_IO5"), (39, "XSPI_IO6"), (40, "XSPI_IO7")]

def rowH : List (Nat × String) :=
  [(22, "SMB0_SCL"), (23, "SMB0_SDA"), (25, "SMB1_SCL"), (26, "SMB1_SDA"), (28, "TCK"), (29, "TMS"), (30, "TDI"), (31, "TDO"),
   (32, "TRST_N"), (34, "POR_N"), (35, "WRST_N"), (36, "FAULT_N"), (37, "ALERT_N"), (38, "THERMTRIP_N"), (39, "WAKE_N"),
   (40, "TIME_PPS_IN"), (41, "TIME_PPS_OUT")]

/-- A signal with its row and column. -/
abbrev LandAt := Signal × Nat × Nat

/-- A Garine lane's land (R501). -/
def garineAt (p l : Nat) (rx neg : Bool) : LandAt :=
  let d := 2 + 3 * b2n rx + b2n neg
  (.garine p l rx neg, 25 + 8 * (p % 6) + 2 * l + b2n rx, if p < 6 then d else 99 - d)

/-- A PCIe lane's land (R502). -/
def pcieAt (n : Nat) (rx neg : Bool) : LandAt := (.pcie n rx neg, if rx then 3 else 1, 23 + 3 * n + b2n neg)

/-- A rail's sense land (R503). -/
def senseAt (r : Rail) (k : Nat) (neg : Bool) : LandAt := (.sense r neg, 8, 22 + 2 * k + b2n neg)

def namedAt (row : Nat) (x : Nat × String) : LandAt := (.named x.2, row, x.1)

def garineLands : List LandAt :=
  (upto 12).flatMap fun p => (upto 4).flatMap fun l =>
    [garineAt p l false false, garineAt p l false true, garineAt p l true false, garineAt p l true true]

def pcieLands : List LandAt :=
  (upto 16).flatMap fun n => [pcieAt n false false, pcieAt n false true, pcieAt n true false, pcieAt n true true]

def senseLands : List LandAt := rails.zipIdx.flatMap fun (x : Rail × Nat) => [senseAt x.1 x.2 false, senseAt x.1 x.2 true]

/-- Every signal with its row and column. -/
def signalLands : List LandAt := garineLands ++ pcieLands ++ rowG.map (namedAt 6) ++ rowH.map (namedAt 7) ++ senseLands

def landOf (x : Signal) : Option (Nat × Nat) := (signalLands.find? fun y => y.1 == x).map (·.2)

/-- The TAP's own lands. -/
def tapLands : List String := ["TCK", "TMS", "TDI", "TDO", "TRST_N"]

/-- The lands that the boundary register covers, in its order: ascending row and then column (R515). -/
def boundaryLands : List LandAt :=
  let cells := signalLands.filter fun x => match x.1 with | .named n => !tapLands.contains n | _ => true
  cells.foldr (fun x l => l.takeWhile (fun y => 100 * y.2.1 + y.2.2 < 100 * x.2.1 + x.2.2) ++ x
    :: l.dropWhile (fun y => 100 * y.2.1 + y.2.2 < 100 * x.2.1 + x.2.2)) []

/-! Power and ground (R504). -/

inductive Net where
  | gnd
  | rail (r : Rail)
  | signal (x : Signal)
  deriving DecidableEq, Repr

/-- The rail of an even land of a north or south power row. -/
def northRail (r : Nat) : Rail :=
  if r = 10 then .vddSd else if r = 11 then .vddhSd else if r = 12 then .vddFab else if r ≤ 14 then .vddqLp
  else if r ≤ 16 then .vdd2lLp else if r ≤ 19 then .vdd2hLp else .vdd1Lp

def southRail (r : Nat) : Rail :=
  if r = 77 then .vdd1Lp else if r ≤ 80 then .vdd2hLp else if r ≤ 82 then .vdd2lLp else if r ≤ 84 then .vddqLp else .vddFab

/-- The rail of an even land of a side's power field at distance `d` from the edge. -/
def sideRail (d : Nat) : Rail := if d ≤ 12 then .vddSd else if d ≤ 14 then .vddhSd else .vddFab

/-- The net of a land that no signal takes. -/
def powerNet (r c : Nat) : Net :=
  let even (x : Nat) (k : Rail) : Net := if x % 2 = 1 then .gnd else .rail k
  if 22 ≤ c ∧ c ≤ 77 then
    if r ≤ 9 then (if r = 9 ∧ 30 ≤ c ∧ c ≤ 37 then .rail .vddIo else .gnd)
    else if r ≤ 20 then even (r + c) (northRail r)
    else if r ≤ 76 then even (r + c) (if r % 8 = 3 then .vddFab else .vinPond)
    else even (r + c) (southRail r)
  else
    let d := if c ≤ 21 then c else 99 - c
    if d ≤ 8 then .gnd else even (r + d) (sideRail d)

/-- The net of a land; none where there is no land. -/
def netAt (r c : Nat) : Option Net :=
  if !hasLand r c then none
  else match signalLands.find? fun x => x.2 == (r, c) with
    | some x => some (.signal x.1)
    | none => some (powerNet r c)

/-! Rails (R505, R506). -/

/-- A rail's data: nominal and range in mV at its sense pair, the largest current in A, and the largest load step in A
within 1 µs, if one is stated. -/
structure RailSpec where
  nominal : Nat
  lo : Nat
  hi : Nat
  amps : Nat
  step : Option Nat
  deriving DecidableEq, Repr

def railSpec : Rail → RailSpec
  | .vinPond => ⟨1800, 1710, 1890, 450, some 150⟩
  | .vddFab => ⟨750, 728, 773, 190, some 60⟩
  | .vdd1Lp => ⟨1800, 1700, 1950, 8, none⟩
  | .vdd2hLp => ⟨1050, 1010, 1120, 60, some 25⟩
  | .vdd2lLp => ⟨900, 870, 970, 30, some 12⟩
  | .vddqLp => ⟨500, 470, 570, 50, some 20⟩
  | .vddSd => ⟨750, 728, 773, 80, some 10⟩
  | .vddhSd => ⟨1200, 1164, 1236, 20, none⟩
  | .vddIo => ⟨1800, 1710, 1890, 1, none⟩

/-- The lowest and highest value of rail `k`, in mV. -/
def railRange (k : Nat) : Nat × Nat :=
  match rails[k]? with
  | some r => ((railSpec r).lo, (railSpec r).hi)
  | none => (0, 0)

/-- No land carries more, in mA. -/
def landLimit : Nat := 600

/-! Sideband lands (R511). -/

inductive PinType where
  | input | output | openDrain | bidirectional
  deriving DecidableEq, Repr

inductive Pull where
  | none | up | down
  deriving DecidableEq, Repr

/-- What a sideband land is while POR_N is low. -/
inductive PorLevel where
  | ignored | low | released | highZ | active | comparators
  deriving DecidableEq, Repr

/-- A sideband land: its type, its internal 50 kΩ pull, and its state while POR_N is low. POR_N itself acts at all
times. -/
structure Sideband where
  name : String
  type : PinType
  pull : Pull
  por : PorLevel
  deriving DecidableEq, Repr

def sidebandLands : List Sideband :=
  [Sideband.mk "POR_N" .input .up .active,
   Sideband.mk "WRST_N" .input .up .ignored,
   Sideband.mk "WAKE_N" .input .up .ignored,
   Sideband.mk "PE_PERST_N" .input .up .ignored,
   Sideband.mk "TIME_PPS_IN" .input .down .ignored,
   Sideband.mk "TIME_PPS_OUT" .output .none .low,
   Sideband.mk "FAULT_N" .openDrain .none .released,
   Sideband.mk "ALERT_N" .openDrain .none .released,
   Sideband.mk "THERMTRIP_N" .openDrain .none .comparators,
   Sideband.mk "XSPI_CLK" .output .none .highZ,
   Sideband.mk "XSPI_CS_N" .output .up .highZ]
  ++ [Sideband.mk "XSPI_DQS" .bidirectional .down .highZ,
   Sideband.mk "SMB0_SCL" .openDrain .none .released,
   Sideband.mk "SMB0_SDA" .openDrain .none .released,
   Sideband.mk "SMB1_SCL" .openDrain .none .released,
   Sideband.mk "SMB1_SDA" .openDrain .none .released,
   Sideband.mk "TCK" .input .down .active,
   Sideband.mk "TMS" .input .up .active,
   Sideband.mk "TDI" .input .up .active,
   Sideband.mk "TRST_N" .input .down .active,
   Sideband.mk "TDO" .output .none .highZ]
  ++ (upto 8).map fun i => Sideband.mk ("XSPI_IO" ++ toString i) .bidirectional .down .highZ

/-! Conditions and ratings (R498, R516 to R518). -/

/-- Dimensions in µm: value and tolerance. -/
def bodySide : Nat × Nat := (110000, 100)
def bodyHeight : Nat × Nat := (6200, 150)
def lidSide : Nat := 108000
def contactZone : Nat := 90000
def contactFlatness : Nat := 80
def landPitch : Nat := 1000

/-- The centre of a land from the centre of the body, in µm: east and south. -/
def landCentre (r c : Nat) : Int × Int := ((c : Int) * 1000 - 49500, (r : Int) * 1000 - 48500)

/-- A reference clock: frequency in kHz and tolerance in ppm. -/
def ref100 : Nat × Nat := (100000, 300)
def sdref : Nat × Nat := (156250, 100)

/-- Junction limits in °C: lowest and highest in operation, throttle, trip, and the absolute maximum. -/
def junctionLimits : Int × Int × Int × Int × Int := (0, 105, 100, 115, 125)

/-- The socket's load in N, and the highest lid temperature in °C. -/
def socketLoad : Nat × Nat := (2200, 2800)
def lidLimit : Nat := 85

/-- Absolute maximum of a rail in mV; every one is at least −300 mV. -/
def absoluteMax : Rail → Nat
  | .vinPond => 2000
  | .vddFab | .vddSd => 900
  | .vdd1Lp | .vddIo => 2100
  | .vdd2hLp | .vdd2lLp => 1500
  | .vddqLp => 800
  | .vddhSd => 1400

end Sys2Proof.Machine
end

