-- ==== Sys2Proof/Machine/Time.lean ====
section
/-! DEFINITION. Time (chapter 02): the count, its beacons and local copies, epochs and steps, markers, the PPS pins,
matched-delay trims and undervoltage holds; and the always-on busy counters (R482 to R484), which count time. -/

namespace Sys2Proof.Machine

open Sys2Proof

/-! The count. -/

/-- One nanosecond of the count, slewed by at most `ppm` (R40, R47, R50). An added nanosecond never steps over a
multiple of 64, so that every beacon is sent (R41). -/
def tickTime (t : TimeSt) (ppm : Nat) : TimeSt :=
  let acc := t.slewAcc + ppm
  let since := t.since + 1
  if t.slew = 0 then { t with count := (t.count + 1) % 2 ^ 64, since := since, slewAcc := 0 }
  else if acc < 1000000 then { t with count := (t.count + 1) % 2 ^ 64, since := since, slewAcc := acc }
  else if t.slew < 0 then { t with since := since, slewAcc := acc - 1000000, slew := t.slew + 1 }
  else if (t.count + 1) % 64 = 0 then { t with count := (t.count + 1) % 2 ^ 64, since := since, slewAcc := acc }
  else { t with count := (t.count + 2) % 2 ^ 64, since := since, slewAcc := acc - 1000000, slew := t.slew - 1 }

/-- Regions with a started command or a running GRUN (R483), as 8 * pond + region. -/
def busyRegions (s : State) : List Nat :=
  let ofQ := s.queues.filterMap fun kx =>
    match consumerOf s kx.1 with
    | .unit h => if kx.2.started.isEmpty then none else some (8 * hPond h + hRegion h)
    | .te _ => none
  let ofG := s.gcs.filterMap fun kx => if kx.2.run.isSome then some (8 * (kx.1 / 4) + kx.1 % 4) else none
  nubN (ofQ ++ ofG)

/-- The regions of a pond are stopped (R52): lulled, waiting for the beacon after it, fenced, or in a REST state. -/
def stoppedPond (s : State) (p : Nat) : Bool :=
  (s.pond p).lull || (s.pond p).wakeWait || hubFenced s p
    || (match s.power.rest with | some r => r.phase == .resting || r.phase == .waking | none => false)

/-- OBS_BUSY counts the nanoseconds of busy regions that are not stopped (R52, R482, R483). -/
def countBusy (s : State) (n : Nat) : State :=
  (busyRegions s).foldl
    (fun s k => if stoppedPond s (k / 8) then s else s.bump OBS_BUSY_NS n (k / 8) (k % 8))
    s

/-- A nanosecond passes. -/
def tick (s : State) : State := countBusy { s with time := tickTime s.time (s.get TIME_CTRL_SLEW_PPM) } 1

/-! Markers. -/

/-- The handle a region's records carry. -/
def regionHandle (p r : Nat) : Nat := if r < 4 then 4 * p + r else if r < 6 then 1024 + 4 * p + (r - 4) else hUnit p 0

/-- An epoch marker in every trace buffer and in the silt record (R44). -/
def epochMarkers (s : State) (old new : Nat) : State :=
  let s := (upto 96).foldl
    (fun s p => s.traceRec p 0x31 0 0 4 s.stamp (leBytes 8 old ++ leBytes 8 new) true) s
  s.siltDev 0x0050 [old, new]

/-- The regions of a waking pond load the beacon, write their markers and begin work (R52). -/
def resyncPond (s : State) (p : Nat) : State :=
  let s := (upto 7).foldl
    (fun s r =>
      if hFenced s (regionHandle p r) then s
      else s.traceRec p 0x30 0 (regionHandle p r) 0 s.stamp
        (leBytes 8 (lookD s.time.lastStamp (8 * p + r) 0) ++ leBytes 8 s.time.count) true)
    s
  s.setPond p { s.pond p with wakeWait := false }

/-! Captures (R484). -/

/-- The always-on registers (R482) with their instances, in ascending local address. -/
def alwaysOn : List (Nat × Reg) :=
  let list : List Reg := [TEL_HEAD, MCTL_CNT, LNK_CNT, COL_CNT, HB_FWD, SMP_CNT, PC_CNT, PF_CNT, OBS_BUSY, OBS_RET, TRG_CNT,
    MC_WAVES, MC_SKIPS, GC_INSTR, VE_CYCLES]
  let offs := list.flatMap fun r => (upto r.n1).flatMap fun i => (upto r.n2).map fun j => (r.off i j, r)
  sortBy (·.1) offs

/-- A register pair: 8 bytes of local address, 8 of value (R431). -/
def regPair (o v : Nat) : List Byte := leBytes 8 (0x70000000000 + o) ++ leBytes 8 v

/-- The latch at the beacon, and the writing of the capture. -/
def capture (s : State) : State :=
  if !s.flag OBS_CAPTURE_BUSY then s
  else
    let shows (or : Nat × Reg) : Nat :=
      let v := (s.regAt or.1 or.2.rstW).toNat
      if or.2.base == PF_CNT.base then setBits v 48 8 (depthOf s (((PF_CNT.find or.1).getD (0, 0)).1)) else v
    let pairs := alwaysOn.map fun or => regPair or.1 (shows or)
    let body := leBytes 8 s.time.count ++ leBytes 4 pairs.length ++ leBytes 4 0 ++ pairs.flatten
    let a := s.get OBS_CAPTURE_ADDR * 16
    let s := if areaOf a == .main && areaOf (a + body.length - 1) == .main then (s.wrMain a body).1 else s
    s.set OBS_CAPTURE_BUSY 0

/-! The beacon (R41, R42). -/

/-- A new count takes effect on every copy at once, with its marker (R44, R47). An exchange whose stamps are of the old
count gives no offset. -/
def setCount (s : State) (new : Nat) : State :=
  let old := s.time.count
  let s := { s with time := { s.time with count := new % 2 ^ 64, base := new % 2 ^ 64, since := 0, floor := 0, exch := none } }
  epochMarkers (s.stick TIME_STAT_EPOCH_SET) old (new % 2 ^ 64)

/-- A beacon: every running copy loads the count, an epoch or a step takes effect, waking ponds resynchronise, and a
capture latches. -/
def beacon (s : State) : State :=
  let t := s.time
  let shown := s.stamp
  let s := { s with time := { t with base := t.count, since := 0, floor := shown, stopped := false, lastBeacon := some t.count } }
  let s := match t.epoch with
    | some e => setCount { s with time := { s.time with epoch := none } } e
    | none => s
  let s := match t.step with
    | some d => (setCount { s with time := { s.time with step := none } }
        (ofS 64 ((s.time.count : Int) - d))).stick TIME_STAT_STEPPED
    | none => s
  let s := { s with time := { s.time with lastBeacon := some s.time.count } }
  let waking := s.time.resync
  let s := waking.foldl resyncPond { s with time := { s.time with resync := [] } }
  capture s

/-- Nanoseconds pass until the count is a multiple of 64. -/
def toBeacon : Nat → State → State
  | 0, s => s
  | f + 1, s =>
    let c := s.time.count
    let s := tick s
    if s.time.count % 64 = 0 ∧ s.time.count ≠ c then s else toBeacon f s

/-- No command waits: one nanosecond passes, with its beacon when it is due. Nothing runs while POR_N is low. -/
def idle (s : State) : State :=
  if !s.pins.por then s
  else
    let c := s.time.count
    let s := tick s
    if s.time.count % 64 = 0 ∧ s.time.count ≠ c then beacon s else s

/-- TIME_BEACON (R41): time passes to the next beacon. -/
def execTimeBeacon (s : State) : Res := .next (if s.pins.por then beacon (toBeacon 200 s) else s)

/-- Nanoseconds pass, each with its beacon when it is due, until 63 have passed since the last beacon (R41, R42). -/
def toStop : Nat → State → State
  | 0, s => s
  | f + 1, s => if 63 ≤ s.time.since then s else toStop f (idle s)

/-- INTERPOLATION_STOP (R42): 63 ns have passed since the last beacon, and the copies stand. -/
def execInterpolationStop (s : State) : Res :=
  .next (if !s.pins.por then s
    else
      let s := toStop 200 s
      { s with time := { s.time with stopped := true } })

/-- TIME_EPOCH_WRITE (R44): on the master the value becomes the count at the next beacon; a follower ignores it. -/
def timeEpochWrite (s : State) (v : Nat) : State :=
  if s.flag TIME_CTRL_MASTER then { s with time := { s.time with epoch := some (v % 2 ^ 64) } } else s

def execTimeEpochWrite (value : Nat) (s : State) : Res := .next (timeEpochWrite s value)

/-! Across devices (R46 to R50). -/

/-- LOCKED falls (R49). -/
def loseLock (s : State) : State :=
  let s := if s.flag TIME_STAT_LOCKED then s.stick TIME_STAT_LOCK_LOST else s
  { s.set TIME_STAT_LOCKED 0 with time := { s.time with good := 0 } }

/-- UP_PORT's link is down (R49): the follower discards the exchange, free-runs, clears LOCKED and sets LOCK_LOST. -/
def freeRun (s : State) : State :=
  let s := (loseLock s).stick TIME_STAT_LOCK_LOST
  { s with time := { s.time with exch := none, waiting := false, slew := 0, slewAcc := 0 } }

/-- A port's link goes down. -/
def portLost (s : State) (p : Nat) : State :=
  if p == s.get TIME_CTRL_UP_PORT && !s.flag TIME_CTRL_MASTER then freeRun s else s

/-- A write of TIME_CTRL. LOCKED shows 1 on a master (TIME_STAT): a device that becomes one forgets what it has measured,
and LOCKED falls when it becomes a follower. A new UP_PORT begins a new exchange (R49). -/
def timeCtrlWrite (s : State) (v : W64) : State :=
  let was := s.flag TIME_CTRL_MASTER
  let port := s.get TIME_CTRL_UP_PORT
  let s := s.setRg TIME_CTRL v
  let now := s.flag TIME_CTRL_MASTER
  let s := if was && !now then s.stick TIME_STAT_LOCK_LOST else s
  let s := if now && !was then { s.set TIME_STAT_LOCKED 0 with time := { s.time with good := 0 } } else s
  if was != now || port != s.get TIME_CTRL_UP_PORT then { s with time := { s.time with exch := none, waiting := false } } else s

/-- A measured offset (R47): the first steps, as do offsets above 10 µs; others are slewed out. -/
def takeOffset (s : State) (off : Int) : State :=
  let s := s.set TIME_STAT_OFFSET (ofS 16 (clampI (-32767) 32767 off))
  let s := if off.natAbs ≤ 20 then
      let good := min 16 (s.time.good + 1)
      let s := { s with time := { s.time with good := good } }
      if good = 16 then s.set TIME_STAT_LOCKED 1 else s
    else loseLock s
  if !s.time.first || off.natAbs > 10000 then
    { s with time := { s.time with step := some off, slew := 0, first := true } }
  else { s with time := { s.time with slew := -off } }

/-- offset = ((t2 − t1) − (t4 − t3)) / 2, truncated toward zero (R47). -/
def exchangeOffset (t1 t2 t3 t4 : Nat) : Int := (((t2 : Int) - t1) - ((t4 : Int) - t3)).tdiv 2

/-- TIME_EXCHANGE (R47, R49): a follower asks its upstream device for a time message; with its link down it discards
the exchange, free-runs, clears LOCKED and sets LOCK_LOST. -/
def execTimeExchange (s : State) : Res :=
  let p := s.get TIME_CTRL_UP_PORT
  .next (if s.flag TIME_CTRL_MASTER || !s.pins.por then s
    else if p ≥ 12 then loseLock s
    else if portState s p != 4 then freeRun s
    else
      -- a message of the last exchange that has not come is lost, and the exchange with it
      let s := if s.time.waiting then { s with time := { s.time with exch := none } } else s
      let s := sendCtl s p 3 []
      { s with time := { s.time with waiting := true } })

/-- TIME_PPS_IN (R50, R514): a rising edge is captured; on the master with PPS_IN_EN the count is slewed so that edges
fall on whole seconds. Edges less than 0.5 s apart are ignored. -/
def execTimePpsIn (s : State) : Res :=
  let c := s.time.count
  let near := match s.time.ppsLast with
    | some l => (c + 2 ^ 64 - l) % 2 ^ 64 < 500000000
    | none => false
  .next (if !s.pins.por || near then s
    else
      let s := s.setRg TIME_PPS_CAP (BitVec.ofNat 64 c)
      let s := { s with time := { s.time with ppsLast := some c } }
      if s.flag TIME_CTRL_MASTER && s.flag TIME_CTRL_PPS_IN_EN then
        let frac := c % 1000000000
        let d : Int := if frac < 500000000 then -(frac : Int) else (1000000000 : Int) - frac
        { s with time := { s.time with slew := d } }
      else s)

/-- PPS_MISSING: 1.5 s without an edge while the master is disciplined. -/
def execPpsMissing (s : State) : Res :=
  .next (if s.flag TIME_CTRL_PPS_IN_EN && s.flag TIME_CTRL_MASTER then s.stick TIME_STAT_PPS_MISSING else s)

/-- TIME_PPS_OUT (R45): the pin rises when the count is a whole multiple of 10⁹. -/
def execTimePpsOut (s : State) : Res :=
  .next (if s.pins.por && s.flag TIME_CTRL_PPS_OUT_EN && s.time.count % 1000000000 == 0 then
      { s with pins := { s.pins with ppsOut := true } }
    else s)

/-- 100 µs later it falls. -/
def execTimePpsOutFall (s : State) : Res := .next { s with pins := { s.pins with ppsOut := false } }

/-! Matched delays (R31). -/

/-- DESIGN CHOICE (log entry 132): the top of the trim codes is not stated; a code is one byte, as TRIM_MAX shows it, and
stays at 255. -/
def setTrim (s : State) (p r v : Nat) : State :=
  let x := s.pond p
  let trims := listSet x.trims r (min 255 v)
  (s.setPond p { x with trims := trims }).set POND_PACE_TRIM_MAX (trims.foldl max 0) p

/-- TRIM_RAISE: too many mismatches raise the live path's and the replica's trim one step. -/
def execTrimRaise (p region : Nat) (s : State) : Res :=
  .next (if p < 96 ∧ region < 7 then setTrim s p region (listGet (s.pond p).trims region 0 + 1) else s)

/-- TRIM_LOWER: no mismatch lowers both, never below the boot value. -/
def execTrimLower (p region : Nat) (s : State) : Res :=
  .next (if p < 96 ∧ region < 7 then
      let x := s.pond p
      setTrim s p region (max (listGet x.trimBoot region 0) (listGet x.trims region 0 - 1))
    else s)

/-! Undervoltage (R35, R36). -/

/-- UV_HOLD: every handshake of the pond is held. The monitors report nothing while POR_N is low. -/
def execUvHold (p : Nat) (s : State) : Res :=
  .next (if !s.pins.por || p ≥ 96 || s.flag POND_PACE_UV_HELD p then s
    else ((s.set POND_PACE_UV_HELD 1 p).sat POND_PACE_UV_HOLDS 1 p).stick POND_PACE_UV_STICKY p)

/-- UV_HOLD_RELEASE: the voltage has stayed above 0.58 V for 1 µs. -/
def execUvHoldRelease (p : Nat) (s : State) : Res := .next (if p < 96 then s.set POND_PACE_UV_HELD 0 p else s)

/-! Observation events. -/

/-- OBS_CAPTURE (R484): a GO arms the capture for the next beacon; ignored while one is busy. -/
def obsCaptureWrite (s : State) (v : Nat) : State :=
  if s.flag OBS_CAPTURE_BUSY && v.testBit 63 then s
  else
    let s := s.set OBS_CAPTURE_ADDR (bits v 4 39)
    if v.testBit 63 then s.set OBS_CAPTURE_BUSY 1 else s

def execObsCapture (value : Nat) (s : State) : Res := .next (obsCaptureWrite s value)

/-- TRACE_BUDGET_WINDOW (R495): a new 10 µs window. -/
def execTraceBudgetWindow (s : State) : Res :=
  .next { s with traces := s.traces.map fun kt => (kt.1, { kt.2 with used := 0 }) }

/-- The set whose PCC_TAG lies at a configuration offset (R485). -/
def pccKeyOf (o : Nat) : Option Nat :=
  match PCC_TAG.find o with
  | some (p, j) => some (16 * p + j)
  | none => (TPCC_TAG.find o).map fun pj => 10000 + 4 * pj.1 + pj.2

/-- The tag word of a set. -/
def pccTagWord (x : PccSet) : Nat :=
  x.queue + 2 ^ 14 * b2n x.closed + 2 ^ 15 * b2n x.valid + 2 ^ 16 * (x.seq % 2 ^ 32) + 2 ^ 48 * (x.opc % 256)
    + 2 ^ 56 * b2n x.reissued

/-- The command a live set counts. -/
def pccLive (s : State) (k : Nat) : Option Cmd :=
  s.queues.findSome? fun kx => kx.2.started.find? fun c => c.cset == some k

/-- A read of PCC_TAG takes a sample (R488): the live values of a running command, or the closed ones. -/
def pccSampleAt (s : State) (k : Nat) : State :=
  let x := s.pccSet k
  let vals := if x.closed then x.counters
    else match pccLive s k with
      | some c => pccValues s c
      | none => x.counters
  { s with pcc := ins s.pcc k { x with sample := (vals ++ [0, 0, 0, 0, 0, 0, 0, 0]).take 8, tagLatch := pccTagWord x } }

/-- PCC_SAMPLE. -/
def execPccSample (off : Nat) (s : State) : Res :=
  .next (match pccKeyOf off with
    | some k => pccSampleAt s k
    | none => s)

end Sys2Proof.Machine
end

