-- ==== Sys2Proof/Machine/LinkPort.lean ====
section
/-! DEFINITION. The ports: the bytes of a frame on the wire (R351 to R354, R364), the states of a port with training,
KEYX and RETRAIN (R358, R363, R365), its resends (R357) and its receiver's checks. -/

namespace Sys2Proof.Machine

open Sys2Proof

/-! A frame on the wire. -/

/-- The header (R352, R353) as one number, bit 0 first. `resv` holds the reserved bits, lowest first. -/
def headerNum (ext : Bool) (type len lseq lack alive dst src eseq addr kep rpath path resv : Nat) : Nat :=
  let h := type % 16 + 16 * b2n ext + 2 ^ 5 * bits resv 0 1 + 2 ^ 6 * (len % 1024) + 2 ^ 16 * (lseq % 65536)
    + 2 ^ 32 * (lack % 65536)
  if ext then
    h + 2 ^ 48 * (dst % 8192) + 2 ^ 61 * bits resv 1 3 + 2 ^ 64 * (src % 8192) + 2 ^ 77 * bits resv 4 3
      + 2 ^ 80 * (eseq % 65536) + 2 ^ 96 * (addr % 2 ^ 43) + 2 ^ 139 * (kep % 2) + 2 ^ 140 * (rpath % 2 ^ 48)
      + 2 ^ 188 * bits resv 7 4 + 2 ^ 192 * (path % 2 ^ 48) + 2 ^ 240 * bits resv 11 16
  else
    h + 2 ^ 48 * (alive % 256) + 2 ^ 56 * (dst % 64) + 2 ^ 62 * (src % 64) + 2 ^ 68 * (eseq % 65536)
      + 2 ^ 84 * (addr % 2 ^ 43) + 2 ^ 127 * (kep % 2)

def headerBytes (ext : Bool) (h : Nat) : List Byte := leBytes (if ext then 32 else 16) h

def TxFrame.header (f : TxFrame) : List Byte :=
  headerBytes f.ext (headerNum f.ext f.type f.len f.lseq f.lack f.alive f.dst f.src f.eseq f.addr f.kep f.rpath f.path 0)

def rxHeader (f : RxFrame) : List Byte :=
  headerBytes f.ext (headerNum f.ext f.type f.len f.lseq f.lack f.alive f.dst f.src f.eseq f.addr f.kep f.rpath f.path f.resv)

/-- The nonce (R364): the full sequence number or control count, and a mark of VC3. -/
def frameNonce (type n : Nat) : List Byte := leBytes 4 n ++ leBytes 8 (b2n (type < 4))

/-- IDENT and KEYX travel in clear with a zero tag (R364). -/
def inClear (type : Nat) : Bool := type == 1 || type == 2

def keyBytes (k : Nat) : List Byte := beBytes 32 k

/-- The tag over a header and a carried payload: 12 bytes compact, 16 extended. -/
def frameTag (ext : Bool) (type n key : Nat) (hdr ct : List Byte) : List Byte :=
  let w := if ext then 16 else 12
  if inClear type then List.replicate w 0 else (gcmTag (keyBytes key) (frameNonce type n) hdr ct).take w

/-- The CRC (R354): its prefix, for extended frames, holds the full number and the receiving device's number. -/
def frameCrc (ext : Bool) (n dev : Nat) (d : List Byte) : List Byte :=
  if ext then leBytes 8 (cv cv64 (leBytes 4 n ++ leBytes 4 dev ++ d)) else leBytes 4 (cv cv32 d)

/-- The transmit key of a frame in the replay buffer: that of its KEP (R365). -/
def PortSt.keyFor (x : PortSt) (f : TxFrame) : Nat := if f.kep == x.kep then x.txKey else x.oldTxKey.getD x.txKey

/-- All the bytes of a frame this device sends under `key` to the device numbered `dev` (R351, R354, R364). -/
def TxFrame.wire (f : TxFrame) (key dev : Nat) : List Byte :=
  let hdr := f.header
  let ct := if inClear f.type then f.payload else gcmCrypt (keyBytes key) (frameNonce f.type f.lseq) f.payload
  let tag := frameTag f.ext f.type f.lseq key hdr ct
  hdr ++ ct ++ tag ++ frameCrc f.ext f.lseq dev (hdr ++ ct ++ tag)

/-- The 32-bit number nearest to `near` whose low 16 bits are `x`: how a receiver extends LSEQ and LACK (R353). -/
def extend16 (near x : Nat) : Nat :=
  let d := (x + 65536 - near % 65536) % 65536
  if d < 32768 then (near + d) % 2 ^ 32 else (near + 2 ^ 32 + d - 65536) % 2 ^ 32

/-! States of a port. -/

def minLanes (s : State) (p : Nat) : Nat := clampN 1 4 (s.get LNK_CFG_MIN_LANES p)

def laneCount (m : Nat) : Nat := countOf (fun i => m.testBit i) (upto 4)

/-- The frames of a port that has left UP go out by their streams' next ports, ahead of later ones (R361). -/
def moveReplay (s : State) (p : Nat) : State :=
  let x := s.port p
  let back (f : TxFrame) : TxFrame := if f.dst == 0x1FFF then { f with path := (f.path * 16 + p) % 2 ^ 48 } else f
  let l := x.replay.map back
  let s := s.setPort p { x with replay := [] }
  let hold (t : SMap TxStream) (f : TxFrame) : SMap TxStream :=
    if f.src == s.num && s.link.outst.any (fun o => o.frame.eseq == f.eseq && streamKey o.frame == streamKey f) then
      upd t (streamKey f) TxStream.init fun t => { t with hold := f.eseq :: t.hold }
    else t
  let tx := s.link.tx.map fun kt => (kt.1, if kt.2.port == some p then { kt.2 with port := none, hold := [] } else kt.2)
  { s with link := { s.link with tx := l.foldl hold tx, waitq := l ++ s.link.waitq } }

/-- A port goes to DOWN. A port that was UP sets WENT_DOWN, and its traffic moves (R358, R361). -/
def portDown (s : State) (p : Nat) (went : Bool) : State :=
  let s := s.set LNK_STAT_STATE 0 p
  let s := (s.set LNK_STAT_LANES 0 p).set LNK_STAT_HALF 0 p
  let s := s.set LNK_STAT_UNVERIFIED 0 p
  let s := if went then s.stick LNK_STAT_WENT_DOWN p else s
  let s := traceLink (s.siltDev 0x11 [p]) p 4
  let s := if went then portLost s p else s
  let s := moveReplay s p
  let x := s.port p
  let unheld (f : TxFrame) : TxFrame := if f.via.any (·.1 == p) then { f with via := none } else f
  let s := { s with link := { s.link with waitq := s.link.waitq.map unheld } }
  (s.setPort p { PortSt.init with eq := x.eq, laneChecks := [] }).flushLinks

/-- The port falls with AUTH_FAIL (R357, R365). -/
def authFail (s : State) (p : Nat) : State :=
  let went := portState s p == 4 || portState s p == 5
  portDown (singleFault (s.stick LNK_STAT_AUTH_FAIL p) none) p went

/-- Enter RETRAIN (R358). -/
def enterRetrain (s : State) (p : Nat) : State :=
  let x := s.port p
  let s := s.setPort p { x with wasUp := portState s p == 4, resends := 0, laneChecks := [] }
  traceLink ((s.set LNK_STAT_STATE 5 p).sat LNK_CNT_RETRAINS 1 p) p 2

/-- The port enters TRAIN: EN is set and the device runs (R363). -/
def portTrain (s : State) (p : Nat) : State :=
  if p < 12 && portState s p == 0 && s.flag LNK_CFG_EN p && s.pins.por && !s.fatal then s.set LNK_STAT_STATE 1 p else s

/-! KEYX (R365). -/

/-- The IDENT payload: device number and port number, two bytes each, and the identity public key. -/
def identPayload (s : State) (p : Nat) : List Byte :=
  leBytes 2 s.num ++ leBytes 2 p ++ pubKey (s.boot.idKey.getD 0)

def identKey (d : List Byte) : List Byte := (d.drop 4).take 64

/-- The digest that both ends sign: both IDENT payloads, both ephemeral keys and both nonces, the end with the lower
identity digest first. -/
def keyxDigest (mine theirs : List Byte) (myEph theirEph myNonce theirNonce : List Byte) : List Byte :=
  let first := beNat (sha256 (identKey mine)) < beNat (sha256 (identKey theirs))
  let two (a b : List Byte) : List Byte := if first then a ++ b else b ++ a
  sha256 (two mine theirs ++ two myEph theirEph ++ two myNonce theirNonce)

/-- Begin the exchange: IDENT goes out. Without a random source it cannot begin (R474). -/
def startKeyx (s : State) (p : Nat) : State :=
  sendCtl (s.setPort p { s.port p with peerKeyx := [] }) p 1 (identPayload s p)

/-- The KEYX payload: ephemeral key, nonce, signature. DESIGN CHOICE (log entry 134): R365 has each end sign both ends'
ephemeral keys and nonces in its only KEYX frame; the end that sends first does not know the neighbour's, which stand in
its signature as free bytes. -/
def sendKeyx (s : State) (p : Nat) : State :=
  let (e, s) := s.fresh
  let (n, s) := s.fresh
  let (k, s) := s.fresh
  let eph := e % (n256 - 1) + 1
  let nonce := n % 2 ^ 256
  let x := s.port p
  let theirs := if x.peerKeyx.isEmpty then (upto 96).map (Config.freeByte s.free) else x.peerKeyx
  let s := if x.peerKeyx.isEmpty then { s with free := s.free + 1 } else s
  let sig := ecdsaSign (s.boot.idKey.getD 0) (k % (n256 - 1) + 1)
    (keyxDigest (identPayload s p) x.peerIdent (pubKey eph) (theirs.take 64) (beBytes 32 nonce) ((theirs.drop 64).take 32))
  let s := s.setPort p { x with eph := some (eph, nonce) }
  sendCtl s p 2 (pubKey eph ++ beBytes 32 nonce ++ sig)

/-- The neighbour is the one that the world description names (R363). The port keeps the digest it was given, over a warm
reset too (R366). -/
def peerMatches (s : State) (p : Nat) : Bool :=
  let want := (upto 4).map fun n => (s.rg LNK_PEERKEY p n).toNat
  s.get LNK_STAT_NBR_DEV p == s.get LNK_CFG_PEER_DEV p && s.get LNK_STAT_NBR_PORT p == s.get LNK_CFG_PEER_PORT p
    && (want.all (· == 0) || want == (s.port p).nbrKey)

/-- Leave KEYX or DISCOVER for UP, stay in DISCOVER, or be isolated (R363). -/
def admitPeer (s : State) (p : Nat) : State :=
  if !s.flag LNK_CFG_PEER_V p then s.set LNK_STAT_STATE 3 p
  else if peerMatches s p then
    let open_ := (upto 4).all fun n => s.rg LNK_PEERKEY p n == 0
    (traceLink ((s.set LNK_STAT_STATE 4 p).set LNK_STAT_UNVERIFIED (b2n open_) p) p 3).flushLinks
  else
    let s := moveReplay s p
    ((s.set LNK_STAT_STATE 6 p).stick LNK_STAT_PEER_MISMATCH p).flushLinks

/-- The keys of the two directions from an ECDH secret: this end's transmit and receive keys. -/
def linkKeys (first : Bool) (secret : List Byte) : Nat × Nat :=
  let k (d : Nat) := beNat (hkdf secret Config.linkSalt (Config.linkInfo d) 32)
  if first then (k 0, k 1) else (k 1, k 0)

/-- A KEYX payload arrives: verified, keys are derived; the port goes on, or a rekey has its next keys. One that comes
before the neighbour's IDENT waits for it. -/
def takeKeyx (s : State) (p : Nat) (d : List Byte) : State :=
  let x := s.port p
  match x.eph with
  | none => s.setPort p { x with peerKeyx := d }
  | some (e, n) =>
    let mine := identPayload s p
    let dig := keyxDigest mine x.peerIdent (pubKey e) (d.take 64) (beBytes 32 n) ((d.drop 64).take 32)
    let first := beNat (sha256 (identKey mine)) < beNat (sha256 (identKey x.peerIdent))
    match ecdsaVerify (identKey x.peerIdent) dig ((d.drop 96).take 64), ecdh e (d.take 64) with
    | true, some secret =>
      let (tx, rx) := linkKeys first secret
      if portState s p == 2 then
        admitPeer (s.setPort p { x with txKey := tx, rxKey := rx, eph := none, peerKeyx := d, txLseq := 0, rxLseq := 0, kep := 0,
                                        rxKep := 0, nextTx := none, nextRx := none, oldRxKey := none }) p
      else (s.setPort p { x with nextTx := some tx, nextRx := some rx, eph := none, peerKeyx := d }).flushLinks
    | _, _ => authFail s p

/-- An IDENT payload arrives: the neighbour's claim is recorded, and this end's KEYX goes out. -/
def takeIdent (s : State) (p : Nat) (d : List Byte) : State :=
  let dig := sha256 (identKey d)
  let words := (upto 4).map fun n => byteN dig (8 * n) 8
  let s := (s.set LNK_STAT_NBR_DEV (byteN d 0 2) p).set LNK_STAT_NBR_PORT (byteN d 2 2) p
  let s := (upto 4).foldl (fun s n => s.setRg LNK_NBRKEY (BitVec.ofNat 64 (listGet words n 0)) p n) s
  let s := s.setPort p { s.port p with peerIdent := d, nbrKey := words }
  if s.flag RNG_STAT_HALTED then (if portState s p == 2 then authFail s p else s)
  else
    let s := sendKeyx s p
    if (s.port p).peerKeyx.isEmpty then s else takeKeyx s p (s.port p).peerKeyx

/-! Training and its events (R358, R363, R365). -/

/-- LINK_TRAINING_DONE: the lanes that passed, as a mask, and whether at full rate. -/
def trainingDone (s : State) (p lanes : Nat) (full : Bool) : State :=
  let st := portState s p
  let enough := laneCount lanes ≥ minLanes s p && (full || s.flag LNK_CFG_HALF_OK p)
  if p ≥ 12 || (st != 1 && st != 5) then s
  -- too few at full rate: the port trains again at half rate
  else if full && !enough && s.flag LNK_CFG_HALF_OK p then s
  else if !enough then (if st == 1 then s.set LNK_STAT_STATE 0 p else portDown (singleFault s none) p true)
  else
    let lanes := lanes % 16
    let was := s.get LNK_STAT_LANES p
    let lost := st == 5 && ((upto 4).any (fun i => was.testBit i && !lanes.testBit i) || (!full && !s.flag LNK_STAT_HALF p))
    let bound := (lanes != 15 && laneCount lanes == minLanes s p) || !full
    let s := (s.set LNK_STAT_LANES lanes p).set LNK_STAT_HALF (b2n !full) p
    let s := if lost then singleFault ((s.stick LNK_STAT_DEGRADED p).siltDev 0x10 [p]) none else s
    let s := if bound then s.stick LNK_STAT_BOUND p else s
    let s := if s.get BOOT_STAT_STAGE == 7 then s.set BOOT_STAT_STAGE 8 else s
    let x := { s.port p with lanes := lanes, full := full }
    if st == 1 then
      startKeyx ((s.set LNK_STAT_STATE 2 p).setPort p { PortSt.init with lanes := lanes, full := full, eq := x.eq }) p
    else
      let s := if lost then traceLink s p 5 else s
      let s := (s.setPort p { x with resends := 0 }).set LNK_STAT_STATE (if x.wasUp then 4 else 3) p
      (if x.wasUp then traceLink s p 3 else s).flushLinks

def execLinkTrainingDone (port lanes : Nat) (full : Bool) (s : State) : Res := .next (trainingDone s port lanes full)

/-- RETRAIN_TIMEOUT: RETRAIN has lasted 1 ms. -/
def execRetrainTimeout (port : Nat) (s : State) : Res :=
  .next (if port < 12 && portState s port == 5 then portDown (singleFault s none) port true else s)

/-- LANE_RECHECK: the second's check of a lane that is dropped or runs at half rate; ten passes in a row start a retrain
to include it. -/
def execLaneRecheck (port lane : Nat) (pass : Bool) (s : State) : Res :=
  .next (
    let x := s.port port
    let narrow := !(s.get LNK_STAT_LANES port).testBit lane || s.flag LNK_STAT_HALF port
    if port ≥ 12 || lane ≥ 4 || portState s port != 4 || !narrow then s
    else
      let n := if pass then lookD x.laneChecks lane 0 + 1 else 0
      let s := s.setPort port { x with laneChecks := ins x.laneChecks lane n }
      if n ≥ 10 then enterRetrain s port else s)

/-- PORT_TRAIN_RETRY. -/
def execPortTrainRetry (port : Nat) (s : State) : Res := .next (portTrain s port)

/-- KEYX_TIMEOUT: the exchange has not completed in 10 ms. -/
def execKeyxTimeout (port : Nat) (s : State) : Res :=
  .next (if port < 12 && (portState s port == 2 || (s.port port).eph.isSome) then authFail s port else s)

/-- REKEY: a direction's LSEQ has passed 2³¹. -/
def execRekey (port : Nat) (s : State) : Res :=
  .next (
    let x := s.port port
    let due := (x.txLseq ≥ 2 ^ 31 && x.nextTx.isNone) || (x.rxLseq ≥ 2 ^ 31 && x.nextRx.isNone)
    if port < 12 && portState s port == 4 && due && x.eph.isNone && x.peerIdent != [] && !s.flag RNG_STAT_HALTED then
      startKeyx (s.setPort port { x with peerIdent := [] }) port
    else s)

/-- EQUALISER_STEP (R367): a window of 10⁶ codewords has ended with `errs` corrected symbols; a step that raised them is
undone, otherwise the setting moves one step; the eye is shown. -/
def execEqualiserStep (port lane errs : Nat) (up : Bool) (height width : Nat) (s : State) : Res :=
  .next (if port ≥ 12 || lane ≥ 4 || portState s port < 2 || portState s port == 6 then s
    else
      let x := s.port port
      let (v, e, d) := lookD x.eq lane (0, 0, 0)
      let st : Int := if up then 1 else -1
      let next := if d != 0 && errs > e then (v - d, errs, 0) else (v + st, errs, st)
      let s := s.setPort port { x with eq := ins x.eq lane next }
      s.setRg LNK_EYE (BitVec.ofNat 64
        (setBits (s.rg LNK_EYE port).toNat (16 * lane) 16 (min 255 height + 256 * min 255 width))) port)

/-- LNK_CFG_WRITE (R363): bounds and expectation; EN = 0 takes the port down; an ISOLATED port returns to DOWN; a port in
DISCOVER meets its expectation. -/
def lnkCfgWrite (s : State) (p v : Nat) : State :=
  let s := s.setRg LNK_CFG (BitVec.ofNat 64 v &&& BitVec.ofNat 64 LNK_CFG.rw) p
  let st := portState s p
  if !s.flag LNK_CFG_EN p then (if st = 0 then s else portDown s p (st == 4 || st == 5))
  else if st = 6 then portDown s p false
  else if st = 3 then admitPeer s p
  else s

/-! Acknowledgements and resends (R357). -/

/-- The other end expects `next`: every earlier frame is acknowledged. -/
def takeAck (s : State) (p next : Nat) : State :=
  let x := s.port p
  let left := x.replay.filter fun f => (f.lseq + 2 ^ 32 - next) % 2 ^ 32 < 2 ^ 31
  let old := if left.any fun f => f.kep != x.kep then x.oldTxKey else none
  if left.length < x.replay.length then (s.setPort p { x with replay := left, resends := 0, oldTxKey := old }).flushLinks else s

/-- Resend every unacknowledged frame, byte for byte; after 8 resends without progress the port retrains. -/
def resend (s : State) (p : Nat) : State :=
  let x := s.port p
  if x.replay.isEmpty then s
  else if x.resends ≥ 8 then enterRetrain s p
  else traceLink ((s.setPort p { x with resends := x.resends + 1 }).bump LNK_CNT_REPLAYS 1 p) p 1

/-- RESEND_TIMEOUT: 1.2 µs without ack progress. -/
def execResendTimeout (port : Nat) (s : State) : Res :=
  .next (if port < 12 && (portState s port == 4 || portState s port == 3) then resend s port else s)

/-- ACK_TIMER: no outgoing frame has carried the acknowledgement for 0.5 µs, or credits are due. -/
def execAckTimer (port : Nat) (s : State) : Res :=
  .next (if port < 12 && (portState s port == 4 || portState s port == 3)
      && ((s.port port).ackDue || (s.port port).freed.any fun kv => kv.2 != 0) then sendCtrl s port false
    else s)

/-! The receiver's checks (R351 to R357). -/

/-- A data frame has failed a check: one NAK for the episode. -/
def badFrame (s : State) (p : Nat) : State :=
  let x := s.port p
  if x.nak then s else traceLink (sendCtrl (s.setPort p { x with nak := true }) p true) p 0

/-- A frame whose tag fails: counted; at the fourth in a second the port falls. -/
def badTag (s : State) (p : Nat) : State :=
  let x := s.port p
  let l := s.time.count :: x.authFails.filter fun t => (s.time.count + 2 ^ 64 - t) % 2 ^ 64 < 1000000000
  let s := (s.setPort p { x with authFails := l }).sat LNK_CNT_AUTH 1 p
  if l.length ≥ 4 then authFail s p else s

/-- The frame's CRC under the number that the receiver expects for it. -/
def crcOk (s : State) (f : RxFrame) (n : Nat) : Bool :=
  f.crc == frameCrc f.ext n s.num (rxHeader f ++ f.payload ++ f.tag)

/-- The payload in clear, if the tag holds under `key`. -/
def openFrame (f : RxFrame) (n key : Nat) : Option (List Byte) :=
  if f.tag != frameTag f.ext f.type n key (rxHeader f) f.payload then none
  else if inClear f.type then some f.payload
  else some (gcmCrypt (keyBytes key) (frameNonce f.type n) f.payload)

/-- The device's ports answer: powered, not fatally faulted, and not in Drowse or Deep (R411, R451). -/
def portsUp (s : State) : Bool :=
  s.pins.por && !s.fatal && !(match s.power.rest with | some r => r.phase == .resting && r.target ≥ 2 | none => false)

/-- The reserved bits are zero, the length is that of the payload where the type carries one, ADDR is as the type has it
with a STATUS of the list, and the type is one of R355's. -/
def fieldsOk (f : RxFrame) : Bool :=
  let n := f.payload.length
  let status := f.addr / 65536
  f.resv == 0 && f.len ≤ 512 &&
  (match f.type with
   | 0 => n == 16 && f.len == 16 && f.addr == 0
   | 1 => n == 68 && f.len == 68 && f.addr == 0
   | 2 => n == 160 && f.len == 160 && f.addr == 0
   | 3 => n == f.len && f.addr == 0
   | 4 => n == f.len && 1 ≤ n
   | 5 => n == 0 && 1 ≤ f.len
   | 6 => n == 4 && f.len == 4 && f.addr < 256
   | 8 => n == 8 && f.len == 8
   | 9 => n == 0 && f.len == 8
   | 7 => n == f.len && f.addr == 0
   | 0xA => n == 0 && f.len == 0 && f.addr < 2048
   | 0xB => n == 0 && f.len == 0 && status ≤ 2
   | 0xC => n == f.len && status ≤ 2
   | 0xD => n == f.len && status ≤ 3
   | 0xE => n == f.len && 16 ≤ n
   | _ => false)

/-- A frame at a port in low-power idle wakes the device from Still (R455). -/
def frameWakes (s : State) : State :=
  match s.power.rest with
  | some r => if r.phase == .resting then wakeBegin s 5 0 else s
  | none => s

/-- A VC3 frame passes its checks: the port's state carries it, its FEC, its CRC, a count above the last accepted one,
its tag and its fields. Answers its payload. -/
def takeCtl (s : State) (f : RxFrame) (type : Nat) : Option (List Byte) × State :=
  let p := f.port
  let st := portState s p
  let carries := if inClear type then st == 2 || st == 4 || st == 3 else st == 3 || st == 4
  if p ≥ 12 || !portsUp s || f.type != type || !carries then (none, s)
  else
    let s := frameWakes s
    let x := s.port p
    let n := extend16 x.rxCtl f.lseq
    if !f.fecOk || !crcOk s f n then (none, s.bump LNK_CNT_CRC 1 p)
    else if (n + 2 ^ 32 - x.rxCtl) % 2 ^ 32 ≥ 2 ^ 31 then (none, s)
    else
      let key := if f.kep == x.rxKep then x.rxKey else (x.nextRx.orElse fun _ => x.oldRxKey).getD x.rxKey
      match openFrame f n key with
      | none => (none, badTag s p)
      | some d =>
        let s := traceFrame (s.setPort p { x with rxCtl := (n + 1) % 2 ^ 32 }) p f.type f.len f.dst f.src f.addr f.eseq 1
        if fieldsOk f then (some d, s) else (none, s.sat LNK_CNT_PROTO 1 p)

/-- CTRL (R355, R357): acknowledgement, credit, and a NAK. -/
def execCtrlFrame (f : RxFrame) (s : State) : Res :=
  .next (
    let r := takeCtl s f 0
    match r.1 with
    | none => r.2
    | some d =>
      let p := f.port
      let x := r.2.port p
      let credit (c : SMap Nat) (v : Nat) : SMap Nat := ins c v (min 1024 (lookD c v 0 + byteN d (4 + 2 * v) 2))
      let s := r.2.setPort p { x with credits := (upto 3).foldl credit x.credits }
      let s := takeAck s p (extend16 x.txLseq (byteN d 0 2))
      let s := if (byteN d 2 1) % 2 = 1 then resend s p else s
      s.flushLinks)

/-- IDENT (R365). -/
def execIdent (f : RxFrame) (s : State) : Res :=
  .next (
    let r := takeCtl s f 1
    match r.1 with
    | none => r.2
    | some d =>
      let s := r.2
      -- a neighbour that starts a rekey is answered with this end's IDENT
      let s := if portState s f.port != 2 && (s.port f.port).peerIdent != [] then startKeyx s f.port else s
      takeIdent s f.port d)

/-- KEYX (R365). -/
def execKeyx (f : RxFrame) (s : State) : Res :=
  .next (
    let r := takeCtl s f 2
    match r.1 with
    | none => r.2
    | some d => takeKeyx r.2 f.port d)

/-! TIME messages (R47). -/

/-- What the local copy shows `d` ns from now. -/
def pcsStamp (s : State) (d : Int) : Nat := ofS 64 ((s.stamp : Int) + d)

/-- TIME_FRAME: a follower's request is answered with t1 and the t4 of its last reply; an upstream message gives the
offset of the exchange before it and is replied to; a reply's arrival is t4. Each stamp is what the local copy shows when
the frame crosses the PCS (R43): `rxAgo` ns ago for the frame that has come, `txIn` ns from now for what answers it. -/
def execTimeFrame (f : RxFrame) (rxAgo txIn : Nat) (s : State) : Res :=
  .next (
    let r := takeCtl s f 3
    match r.1 with
    | none => r.2
    | some d =>
      let s := r.2
      let got := pcsStamp s (-(rxAgo : Int))
      let goes := pcsStamp s txIn
      if d.length = 0 then
        let t4 := match look s.time.t4s f.port with | some t => leBytes 8 t | none => []
        sendCtl s f.port 3 (leBytes 8 goes ++ t4)
      else if d.length = 1 then { s with time := { s.time with t4s := ins s.time.t4s f.port got } }
      else if !s.time.waiting || f.port != s.get TIME_CTRL_UP_PORT || s.flag TIME_CTRL_MASTER then s
      else
        let s := { s with time := { s.time with waiting := false } }
        let s := match s.time.exch with
          | some (t1, t2, t3) => if d.length ≥ 16 then takeOffset s (exchangeOffset t1 t2 t3 (byteN d 8 8)) else s
          | none => s
        let s := sendCtl s f.port 3 [0]
        { s with time := { s.time with exch := some (byteN d 0 8, got, goes) } })

end Sys2Proof.Machine
end

