-- ==== Sys2Proof/Machine/Power.lean ====
section
/-! DEFINITION. Power, sensing and control (chapter 15): sensors, the voltage loop, telemetry, pond lull and REST. -/

namespace Sys2Proof.Machine

open Sys2Proof

def State.pw (s : State) (f : PowerSt → PowerSt) : State := { s with power := f s.power }

/-- Add to a signed 16-bit field's value. -/
def s16 (v : Nat) : Int := toS 16 v

/-! Temperature (R438 to R440, R447). -/

def sensorTemp (s : State) (i : Nat) : Int := s16 (s.get POND_TEMP_TEMP (i / 12) (i % 12))
def sensorGood (s : State) (i : Nat) : Bool := !s.flag POND_TEMP_EXCL (i / 12) (i % 12)

def insI (x : Int) : List Int → List Int
  | [] => [x]
  | y :: l => if x ≤ y then x :: y :: l else y :: insI x l

/-- Twice the median of a list; 0 of none. -/
def median2 (l : List Int) : Int :=
  let s := l.foldr insI []
  let n := s.length
  if n = 0 then 0 else listGet s (n / 2) 0 + listGet s ((n - 1) / 2) 0

/-- A sensor differs by more than 6 °C from the median of its pond's other good sensors. -/
def sensorDiffers (s : State) (i : Nat) : Bool :=
  let others := ((upto 12).map fun k => 12 * (i / 12) + k).filter fun k => k != i && sensorGood s k
  !others.isEmpty && (2 * sensorTemp s i - median2 (others.map (sensorTemp s))).natAbs > 192

/-- Exclude a sensor (R439). -/
def exclude (s : State) (i : Nat) : State :=
  if sensorGood s i then
    singleFault (((s.set POND_TEMP_EXCL 1 (i / 12) (i % 12)).stick PWR_STAT_SENSOR_EXCL).siltDev 0x1 [i]) (some (i / 12))
  else s

/-- The exclusion rules after a sample. -/
def judgeSensor (s : State) (i : Nat) : State :=
  let t := sensorTemp s i
  let n := if sensorDiffers s i then lookD s.power.differ i 0 + 1 else 0
  let s := s.pw fun w => { w with differ := ins w.differ i n }
  if t < -640 || t > 2400 || n ≥ 16 then exclude s i else s

def goodSensors (s : State) (p : Nat) : List Nat := ((upto 12).map fun k => 12 * p + k).filter (sensorGood s)

def maxI (l : List Int) : Option Int :=
  l.foldl (fun m x => match m with | none => some x | some y => some (max x y)) none

/-- The ponds above, below, left and right of `p` (R15). -/
def neighbours (p : Nat) : List Nat :=
  (if p ≥ 12 then [p - 12] else []) ++ (if p < 84 then [p + 12] else []) ++ (if p % 12 ≠ 0 then [p - 1] else [])
    ++ (if p % 12 ≠ 11 then [p + 1] else [])

/-- A pond's temperature (R440): a pond with fewer than 4 good sensors is 80/16 °C above its warmest neighbour. -/
def pondTemp (s : State) (p : Nat) : Int :=
  let own (p : Nat) : Option Int :=
    let l := goodSensors s p
    if l.length < 4 then none else maxI (l.map (sensorTemp s))
  match own p with
  | some t => t
  | none =>
    match maxI ((neighbours p).filterMap own) with
    | some t => t + 80
    | none => Config.blindTemp p

def tjOf (s : State) : Int := (maxI ((upto 96).map (pondTemp s))).getD 0

/-- Package power, mW, over the last millisecond (R438). -/
def packageMw (s : State) : Nat :=
  let l := s.power.rails
  if l.isEmpty then 0 else (l.foldl (fun n r => n + r.foldl (· + ·) 0) 0) / l.length

/-- THERMTRIP_N asserts: every pond regulator is gated, and the fault is fatal (R447). -/
def thermTrip (s : State) : State :=
  let s := { s with pins := { s.pins with thermtrip := true } }
  let s := (upto 96).foldl gatePond s
  if s.pins.por then fatalFault s 2 else s

/-- The device is in the given REST states. -/
def restIn (s : State) (f : Nat → Bool) : Bool :=
  match s.power.rest with | some r => r.phase == .resting && f r.target | none => false

/-- VDD_FAB is within range, as RAIL_STAT has it while the device measures (R513). -/
def fabIn (s : State) : Bool := !s.pins.por || (s.get RAIL_STAT_IN_RANGE).testBit 1

/-- The comparators: any good sensor at 115 °C or more on two samples in a row (R447). -/
def comparators (s : State) (temps : List (Nat × Int)) : State :=
  let hot := (temps.filter fun t => t.1 < 1152 && 1840 ≤ t.2 && sensorGood s t.1).map (·.1)
  let trip := hot.any fun i => s.power.hot.contains i
  let s := s.pw fun w => { w with hot := hot }
  if trip && !s.pins.thermtrip && fabIn s then thermTrip s else s

/-- TEMPERATURE_SAMPLE (R438): sensors in sixteenths of a degree, and the rails' powers in mW. In Drowse and Deep the
comparators alone sample. -/
def execTemperatureSample (temps : List (Nat × Int)) (rails : List Nat) (s : State) : Res :=
  .next (
    let live := s.pins.por && !s.fatal && !restIn s (2 ≤ ·)
    let s := if !live then s
      else
        let l := temps.filter fun t => t.1 < 1152
        let s := l.foldl (fun s t => s.set POND_TEMP_TEMP (ofS 16 (clampI (-32768) 32767 t.2)) (t.1 / 12) (t.1 % 12)) s
        let s := l.foldl (fun s t => judgeSensor s t.1) s
        let s := s.pw fun w => { w with rails := (rails.take 9 :: w.rails).take 10 }
        let s := s.set PWR_STAT_PKG_NOW (min 65535 (packageMw s / 1000))
        s.set PWR_STAT_TJ_NOW (ofS 16 (tjOf s))
    comparators s temps)

/-! Pond regulators (R439, R444). -/

def phaseOk (s : State) (p i : Nat) : Bool := (s.get POND_VREG_PHASE_OK p).testBit i

def goodPhases (s : State) (p : Nat) : List Nat := (upto 8).filter (phaseOk s p)

/-- Disable a phase; a pond left with fewer than 5 is fenced whole. -/
def disablePhase (s : State) (p i : Nat) : State :=
  if !phaseOk s p i then s
  else
    let m := s.get POND_VREG_PHASE_OK p
    let s := s.set POND_VREG_PHASE_OK (m - 2 ^ i) p
    let s := s.set POND_VREG_ILIM (s.get POND_VREG_ILIM p - 8) p
    let s := singleFault ((s.stick PWR_STAT_PHASE_FAIL).silt' 0x1 (hUnit p 0) 0x3FFF 0 [8 * p + i]) (some p)
    if (goodPhases s p).length < 5 then fence s (hUnit p 0) 1 else s

/-- A phase's current against the mean of its pond's good phases: more than 40% apart. -/
def phaseDiffers (l : List (Nat × Nat)) (v : Nat) : Bool :=
  let sum := l.foldl (fun n x => n + x.2) 0
  let n := l.length
  n != 0 && 10 * (max (n * v) sum - min (n * v) sum) > 4 * sum

/-- The phases of one pond at a sample: (phase, mA). -/
def judgePhases (s : State) (p : Nat) (ph : List (Nat × Nat)) : State :=
  let good := ph.filter fun x => x.1 < 8 && phaseOk s p x.1
  good.foldl
    (fun s x =>
      let k := 8 * p + x.1
      let n := if phaseDiffers good x.2 then lookD s.power.phaseDiffer k 0 + 1 else 0
      let s := s.pw fun w => { w with phaseDiffer := ins w.phaseDiffer k n }
      if x.2 > 3000 || n ≥ 10 then disablePhase s p x.1 else s)
    s

/-- The rail share of a pond's current: VIN_POND current times its last good share (R439). -/
def railShare (s : State) (p vin : Nat) : Nat :=
  match look s.power.share p with
  | some (a, v) => if v = 0 then a else vin * a / v
  | none => 0

/-- The pond monitor (a phase has no rail of its own to disagree with, so that R439's words on a phase fall to R444's
test; DEDUCED, log 162): the current of a pond is the sum of its phases, until the monitor is excluded for disagreeing
with the rail by more than 20% for 1 ms; then it is the rail share. -/
def judgeMonitor (s : State) (p vin : Nat) (ph : List (Nat × Nat)) : State :=
  let sum := ph.foldl (fun n x => n + x.2) 0
  if s.power.monExcl.contains p then s.pw fun w => { w with amps := ins w.amps p (railShare s p vin) }
  else
    let sh := railShare s p vin
    let bad := (look s.power.share p).isSome && 5 * (max sum sh - min sum sh) > sh
    let n := if bad then lookD s.power.monDiffer p 0 + 1 else 0
    let s := s.pw fun w => { w with monDiffer := ins w.monDiffer p n
                                    share := if bad then w.share else ins w.share p (sum, vin) }
    if n ≥ 100 then
      let s := s.pw fun w => { w with monExcl := p :: w.monExcl, amps := ins w.amps p sh }
      singleFault ((s.stick PWR_STAT_SENSOR_EXCL).siltDev 0x1 [2000 + p]) (some p)
    else s.pw fun w => { w with amps := ins w.amps p sum }

/-- A pond's current limit in mA. -/
def pondLimit (s : State) (p : Nat) : Nat := 250 * s.get POND_VREG_ILIM p

def lower (v d : Nat) : Nat := max 620 (v - d)
def raise (v d : Nat) : Nat := min 860 (v + d)

def thermalTerm (s : State) (p : Nat) : Nat := lookD s.power.thermal p 860
def currentTerm (s : State) (p : Nat) : Nat := lookD s.power.pondCur p 860

/-- The terms that fall within 10 µs (R445). -/
def fastTerms (s : State) (p : Nat) : State :=
  if lookD s.power.amps p 0 ≥ pondLimit s p then
    s.pw fun w => { w with pondCur := ins w.pondCur p (lower (currentTerm s p) 20) }
  else s

/-! The voltage loop (R443, R445, R446). -/

def vMin (s : State) : Nat := clampN 620 860 (s.get PWR_POND_V_MIN)
def vMax (s : State) : Nat := max (vMin s) (clampN 620 860 (s.get PWR_POND_V_MAX))

def ceilOf (s : State) (p : Nat) : Nat :=
  max 620 ([vMax s, thermalTerm s p, s.power.powerTerm, s.power.vinTerm, currentTerm s p].foldl min 860)

def targetOf (s : State) (p : Nat) : Nat :=
  if s.flag PWR_POND_MODE then vMax s else lookD s.power.target p (vMin s)

/-- The pond is gated: fenced, in lull, or in a REST state (R412, R451, R452). -/
def gated (s : State) (p : Nat) : Bool := hubFenced s p || (s.pond p).lull || s.pins.thermtrip || restIn s fun _ => true

/-- The limit in force, P_eff, in mW (R443), 20 W lower for each °C, in proportion within one (DEDUCED, log 163). -/
def pEff (s : State) : Nat :=
  let pkg := 1000 * clampN 1 950 (s.get PWR_LIMIT_PKG_W)
  let t := s16 (s.get PWR_COOLANT_TEMP)
  if !s.power.coolFresh then min pkg (1000 * s.get PWR_LIMIT_STALE_W)
  else if t ≤ 640 then pkg
  else pkg - 1250 * (t - 640).toNat

/-- The lowest of a pond's terms that are safety limits (R450): those of Tj, of the pond's and the input current, and of
the package's power where its limit is the 950 W. -/
def safeTerm (s : State) (p : Nat) : Nat :=
  [s.power.vinTerm, currentTerm s p, if pEff s = 950000 then s.power.powerTerm else 860].foldl min (thermalTerm s p)

/-- What POND_VREG shows: the ceiling, the voltage, and the thermal hold. A host's V_MIN that a safety limit overrides
sets CLAMP[0] (R450). -/
def setVolt (s : State) (p : Nat) : State :=
  let c := ceilOf s p
  let t := targetOf s p
  let throt := c < t && c == thermalTerm s p
  let s := s.set POND_VREG_CEIL c p
  let s := s.set POND_VREG_VNOW (if gated s p then 0 else max 620 (min t c)) p
  let s := s.set POND_VREG_THROT (b2n throt) p
  if safeTerm s p < vMin s then s.set PWR_LOOP_CLAMP (s.get PWR_LOOP_CLAMP ||| 1) else s

def setVolts (s : State) : State :=
  let s := (upto 96).foldl setVolt s
  s.set PWR_STAT_THROTTLE (b2n ((upto 96).any fun p => s.flag POND_VREG_THROT p))

def vinLimit (s : State) : Nat := 1000 * clampN 1 450 (s.get PWR_LIMIT_VIN_A)

/-- CURRENT_SAMPLE (R438, R444, R445): pond voltages in mV, phases (8 × pond + phase) in mA, and the VIN_POND current. -/
def execCurrentSample (volts : List (Nat × Nat)) (phases : List (Nat × Nat)) (vinMa : Nat) (s : State) : Res :=
  .next (if !s.pins.por || s.fatal || restIn s (2 ≤ ·) then s
    else
      let s := volts.foldl (fun s v => s.pw fun w => { w with volts := ins w.volts v.1 v.2 }) s
      let s := s.pw fun w => { w with vinMa := vinMa }
      let ponds := nubN ((phases.map fun x => x.1 / 8).filter (· < 96))
      let of (p : Nat) := (phases.filter fun x => x.1 / 8 == p).map fun x => (x.1 % 8, x.2)
      let s := ponds.foldl (fun s p => fastTerms (judgeMonitor (judgePhases s p (of p)) p vinMa (of p)) p) s
      let s := if vinMa > vinLimit s then s.pw fun w => { w with vinTerm := lower w.vinTerm 20 } else s
      setVolts s)

/-- CEILING_UPDATE (R445): the millisecond's rises and falls; the measured pace is shown. -/
def execCeilingUpdate (s : State) : Res :=
  .next (if !s.pins.por || s.fatal || s.power.rest.any (fun r => r.phase == .resting) then s
    else
      let pkg := packageMw s
      let lim := pEff s
      let s := (upto 96).foldl
        (fun s p =>
          let t := pondTemp s p
          let th := thermalTerm s p
          let th := if t ≥ 1600 then lower th 20 else if t < 1552 then raise th 10 else th
          let cu := currentTerm s p
          let cu := if 10 * lookD s.power.amps p 0 < 9 * pondLimit s p then raise cu 10 else cu
          s.pw fun w => { w with thermal := ins w.thermal p th, pondCur := ins w.pondCur p cu })
        s
      let s := s.pw fun w => { w with
        powerTerm := if pkg > lim then lower w.powerTerm 10 else if 100 * pkg < 95 * lim then raise w.powerTerm 10 else w.powerTerm
        vinTerm := if 100 * w.vinMa < 95 * vinLimit s then raise w.vinTerm 10 else w.vinTerm }
      let s := setVolts s
      let s := s.pw fun w => { w with powerHeld := pkg > lim && (upto 96).all fun p => ceilOf s p == 620 }
      (upto 96).foldl
        (fun s p => if gated s p then s.set POND_PACE_RATE 0 p else let (v, s) := s.fresh; s.set POND_PACE_RATE (v % 65536) p)
        s)

/-- VOLTAGE_TARGET_UPDATE (R446): regions (8 × pond + region) with the nanoseconds of the 100 µs window in which they had
a started command. -/
def execVoltageTargetUpdate (busy : List (Nat × Nat)) (s : State) : Res :=
  .next (if !s.pins.por || s.fatal || s.power.rest.any (fun r => r.phase == .resting) then s
    else
      let step (s : State) (p : Nat) : State :=
        let b := (busy.filter fun x => x.1 / 8 == p).map (·.2)
        let t := clampN (vMin s) (vMax s) (lookD s.power.target p (vMin s))
        let up := b.any (· > 95000)
        let want := if up then t + 10 else if b.all (· < 50000) then t - 10 else t
        let t' := clampN (vMin s) (vMax s) want
        let calls := if s.flag PWR_POND_MODE then vMax s else t'
        let n := if calls > ceilOf s p || (up && want > ceilOf s p) then lookD s.power.unmet p 0 + 1 else 0
        (s.pw fun w => { w with target := ins w.target p t', unmet := ins w.unmet p n }).set POND_VREG_UNMET (b2n (n ≥ 100)) p
      setVolts ((upto 96).foldl step s))

/-! The coolant (R443). -/

def coolantWrite (s : State) (v : Nat) : State :=
  (s.set PWR_COOLANT_TEMP v).pw fun w => { w with coolant := some s.time.count, coolFresh := true }

def execPwrCoolantWrite (value : Nat) (s : State) : Res := .next (coolantWrite s (value % 65536))

/-- PWR_COOLANT.AGE_MS. -/
def coolantAge (s : State) : Nat :=
  match s.power.coolant with
  | none => 0xFFFFFFFF
  | some t => min 0xFFFFFFFF ((s.time.count + 2 ^ 64 - t) % 2 ^ 64 / 1000000)

/-- COOLANT_STALE: 2 s have passed without a write; not checked in Drowse and Deep. -/
def execCoolantStale (s : State) : Res :=
  .next (if !s.pins.por || restIn s (2 ≤ ·) then s
    else (s.stick PWR_STAT_COOL_STALE).pw fun w => { w with coolFresh := false })

/-! Rails (R506, R507). -/

/-- RAIL_OUT_OF_RANGE: the rail has measured `mv` for 10 µs. -/
def execRailOutOfRange (rail mv : Nat) (s : State) : Res :=
  -- THERMTRIP_N stays asserted until VDD_FAB falls below 0.3 V (R510)
  let s : State := if rail == 1 && mv < 300 then { s with pins := { s.pins with thermtrip := false } } else s
  .next (if !s.pins.por || rail ≥ 9 then s
    else
      let (lo, hi) := railRange rail
      let bit (f : Fld) (s : State) := s.set f (s.get f ||| 2 ^ rail)
      let inr := s.get RAIL_STAT_IN_RANGE
      let s := s.set RAIL_STAT_IN_RANGE (if lo ≤ mv ∧ mv ≤ hi then inr ||| 2 ^ rail else if inr.testBit rail then inr - 2 ^ rail else inr)
      let s := if mv < lo then bit RAIL_STAT_UV s else if mv > hi then bit RAIL_STAT_OV s else s
      if rail == 1 && mv < 660 then fatalFault s 3 else s)

/-! Telemetry (R441). -/

def telLog2 (s : State) : Nat := let n := s.get TEL_CFG_LOG2N; if 4 ≤ n ∧ n ≤ 15 then n else 4

/-- Rail `k`'s power over the last millisecond. -/
def railMw (s : State) (k : Nat) : Nat :=
  let l := s.power.rails
  if l.isEmpty then 0 else (l.foldl (fun n r => n + listGet r k 0) 0) / l.length

def ceCount (s : State) (c : Nat) : Nat := s.get MCTL_CNT_CE c

/-- The largest centre offset of a controller's lanes. -/
def maxCentre (s : State) (c : Nat) : Nat :=
  (upto 8).foldl (fun m k => ((s.chan (8 * c + k)).centres.foldl (fun m x => max m x.2.natAbs) m)) 0

/-- The bytes of record number `seq`. -/
def telRecord (s : State) (seq : Nat) : List Byte :=
  let flags := b2n s.power.resumed + 2 * b2n (s.flag PWR_STAT_THROTTLE) + 4 * b2n (!s.power.coolFresh)
  let pond (p : Nat) := leBytes 2 (ofS 16 (pondTemp s p)) ++ leBytes 2 (lookD s.power.volts p 0)
    ++ leBytes 2 (min 65535 (lookD s.power.amps p 0 / 10)) ++ leBytes 2 (s.get POND_PACE_RATE p)
  let eye (p k : Nat) := ((upto 4).map fun l => bits (s.rg LNK_EYE p).toNat (16 * l + k) 8).foldl min 255
  let port (p : Nat) := leBytes 4 (eye p 0 + 2 ^ 8 * eye p 8 + 2 ^ 16 * s.get LNK_STAT_LANES p + 2 ^ 20 * portState s p)
  let ctrl (c : Nat) := leBytes 4 (min 65535 ((ceCount s c + 2 ^ 32 - listGet s.power.telCe c 0) % 2 ^ 32) + 2 ^ 16 * min 255 (maxCentre s c))
  leBytes 8 s.stamp ++ leBytes 4 seq ++ leBytes 1 (s.get PWR_STAT_STATE) ++ leBytes 1 flags ++ leBytes 2 (s.get PWR_STAT_TJ_NOW)
    ++ leBytes 4 (packageMw s) ++ leBytes 4 s.power.vinMa ++ leBytes 40 0 ++ ((upto 9).flatMap fun k => leBytes 4 (railMw s k))
    ++ leBytes 28 0 ++ (upto 96).flatMap pond ++ (upto 12).flatMap port ++ (upto 12).flatMap ctrl ++ leBytes 32 0

/-- Write a record at a fabric address: here, to the host, or to another device. -/
def telWrite (s : State) (fa : Nat) (d : List Byte) : State :=
  let a := fa % 2 ^ 43
  let dev := fa / 2 ^ 43
  let fail (s : State) := s.stick PWR_STAT_TEL_ERR
  if dev != s.me then
    (s.request .telemetry 4 dev a 512 (d.take 512)).request .telemetry 4 dev (a + 512) 512 (d.drop 512)
  else
    match areaOf a with
    | .host =>
      if hostOpen s then s.hostReq .telemetry true a d.length d none else fail s
    | .main => let r := s.wrMain a d; if r.2 then fail r.1 else r.1
    | .scratch p o => if inUser s p o && inUser s p (o + 1023) then let r := s.wrScratch a d; if r.2 then fail r.1 else r.1 else fail s
    | _ => fail s

/-- TELEMETRY_RECORD. -/
def execTelemetryRecord (s : State) : Res :=
  .next (if !s.pins.por || s.fatal || s.get PWR_STAT_STATE != 0 || !s.flag TEL_CFG_EN then s
    else
      let seq := s.get TEL_HEAD_SEQ
      let d := telRecord s seq
      let s := s.pw fun w => { w with resumed := false, telCe := (upto 12).map (ceCount s) }
      telWrite (s.bump TEL_HEAD_SEQ 1) (s.get TEL_BASE_BASE * 1024 + 1024 * (seq % 2 ^ telLog2 s)) d)

/-! Pond lull (R452). -/

/-- A pond's cache, TLB, walk and range caches and streams, emptied. -/
def emptyPond (x : PondSt) : PondSt :=
  { x with lines := [], fills := [], streams := [], tlb := [], walk := [], ranges := [], depth := 0, pfIssued := 0, pfHit := 0 }

/-- No stage is live, and no sampling request waits, at a pond. -/
def pondQuiet (s : State) (p : Nat) : Bool := pondIdle s p && !anyLive (s.trough p) && !(s.tmsgs.any fun m => m.dstDev == s.me && m.dst == p)

/-- POND_LULL: LULL_US has passed with the pond idle; its cache, TLB, streams and predictor bits are emptied. -/
def execPondLull (p : Nat) (s : State) : Res :=
  .next (if p ≥ 96 || !running s || hubFenced s p || (s.pond p).lull || (s.pond p).wakeWait || s.get PWR_POND_LULL_US == 0 || !pondQuiet s p then s
    else
      let s := s.setPond p { emptyPond (s.pond p) with lull := true }
      let s := { s with mcs := s.mcs.map fun (kx : Nat × McSt) => if kx.1 / 2 == p then (kx.1, { kx.2 with pred := [] }) else kx }
      gatePond s p)

/-- POND_WAKE: a trigger wakes the pond; it waits for its supply and then for the next beacon. -/
def execPondWake (p : Nat) (s : State) : Res := .next (if p < 96 && running s then wakePond s p else s)

/-- POND_SUPPLY_GOOD (R52, R444): the supply is good; phases that failed their self-test are disabled; the regions wait
for the next beacon. A pond that wakes with the device from REST has its self-test before WAKE_COMPLETE. -/
def execPondSupplyGood (p : Nat) (bad : List Nat) (s : State) : Res :=
  .next (if p < 96 && (s.pond p).wakeWait || s.power.rest.any (·.phase == .waking) then
      let s := bad.foldl (fun s i => if i < 8 then disablePhase s p i else s) s
      if !(s.pond p).wakeWait then s else
      let s := setVolt s p
      if s.time.resync.contains p then s else { s with time := { s.time with resync := s.time.resync ++ [p] } }
    else s)

/-! REST (R453 to R456). -/

def restCmd (s : State) (r : RestSt) : Option Cmd := s.findCmd r.queue r.seq

/-- REST: the quiescence wait begins. -/
def execRest (q : Nat) (s : State) : Res :=
  .next (match readyCmd s q 0xE0, s.power.rest with
    | some c, none =>
      if !unitUp s q then s
      else
        let s := s.updCmd q c.seq fun c => { c with phase := .running }
        s.pw fun w => { w with rest := some ⟨q, c.seq, .quiescing, 0, 255, 0⟩ }
    | _, _ => s)

/-- Quiescence (R454). -/
def quiescent (s : State) (r : RestSt) : Bool :=
  !(s.queues.any fun kx => kx.2.started.any fun c => !(kx.1 == r.queue && c.seq == r.seq))
    && !(s.gcs.any fun kx => kx.2.run.isSome) && s.link.outst.isEmpty && s.host.reqs.isEmpty
    && !(s.troughs.any fun kx => anyLive kx.2) && s.tmsgs.isEmpty && !s.flag SNAP_STAT_ARMED && !s.flag SNAP_STAT_DRAINING

/-- The wake record is written at WREC and in PWR_STAT, and REST finishes (R455). -/
def restEnd (s : State) (r : RestSt) (state cause thr : Nat) : State :=
  let s := (s.set PWR_STAT_STATE 0).set PWR_STAT_LAST_CAUSE cause
  let s := (s.set PWR_STAT_LAST_THR thr).set PWR_STAT_LAST_STATE state
  let s := s.pw fun w => { w with rest := none, resumed := true }
  match restCmd s r with
  | none => s
  | some c =>
    let wrec := cf c.raw.toNat 40 0 43
    let d := leBytes 8 s.stamp ++ leBytes 1 state ++ leBytes 1 cause ++ leBytes 1 thr ++ leBytes 5 0
    let s := runBody s r.queue { c with phase := .ready } (if wrec = 0 then pure () else bytesAtRetire wrec d)
    match oldest s r.queue with
    | some o =>
      match o.phase with
      | .done st => if o.seq == r.seq then retireOldest s r.queue o st id else s
      | _ => s
    | none => s

/-- The deepest allowed state whose break-even, in ns, is at most D. -/
def restTarget (allow : Nat) (d : Option Int) : Option Nat :=
  let fits (k ns : Nat) : Bool := allow.testBit k && (match d with | none => true | some d => (ns : Int) ≤ d)
  if fits 2 300000000 then some 3 else if fits 1 20000000 then some 2 else if fits 0 400000 then some 1 else none

/-- REST_COMMIT. -/
def execRestCommit (s : State) : Res :=
  .next (match s.power.rest with
    | none => s
    | some r =>
      match restCmd s r with
      | none => s
      | some c =>
        if r.phase != .quiescing || !quiescent s r || !running s then s
        else
          let next := cf c.raw.toNat 16 0 64
          let d : Option Int := if next = 0 then none else some ((next : Int) - s.time.count)
          match restTarget (cf c.raw.toNat 24 0 3) d with
          | none => restEnd s r 0 8 0
          | some t => (s.set PWR_STAT_STATE 4).pw fun w => { w with rest := some { r with phase := .entering, target := t } })

/-- REST_QUIESCENCE_TIMEOUT: quiescence did not come within WAIT_US. -/
def execRestQuiescenceTimeout (s : State) : Res :=
  .next (match s.power.rest with
    | some r => if r.phase == .quiescing && running s then restEnd s r 0 7 0 else s
    | none => s)

/-- Scratch segments that Still does not keep. -/
def loseSegments (s : State) (retain : Nat) : State :=
  let gone (p o : Nat) : Bool := match areaOf (scratchBase p + o) with | .scratch _ o => !retain.testBit (o / 2 ^ 20) | _ => false
  let lost := (upto 24).filter fun m => !retain.testBit m
  let s := (upto 96).foldl
    (fun s p => lost.foldl (fun s m => s.makeStale (scratchBase p + m * 2 ^ 20) (scratchBase p + (m + 1) * 2 ^ 20)) s) s
  let s := { s with troughs := s.troughs.map fun (kx : Nat × TroughSt) => (kx.1, { kx.2 with slots := kx.2.slots.filter fun ie => !gone kx.1 (slotPa s kx.1 ie.1 - scratchBase kx.1) }) }
  let hotLost := (upto 96).any fun p => hotNow s p != 0 && lost.any fun m => hotBase s p / 2 ^ 20 ≤ m && m < hotBase s p / 2 ^ 20 + hotNow s p
  if hotLost then { s with hot := ⟨[], [], false⟩ }.set HOT_STAT_ACTIVE 0 else s

/-- Bands of main memory that Drowse and Deep do not keep. -/
def loseBands (s : State) (pasr : Nat) : State :=
  let band (a : Nat) : Nat := a / (135 * 2 ^ 30)
  let s := (upto 8).foldl
    (fun s b => if pasr.testBit b then s else s.makeStale (135 * 2 ^ 30 * b) (135 * 2 ^ 30 * (b + 1))) s
  { s with
    poison := s.poison.filter fun g => pasr.testBit (band (256 * g))
    troughs := s.troughs.map fun (kx : Nat × TroughSt) => (kx.1, { kx.2 with recs := kx.2.recs.filter fun ie => pasr.testBit (band (recPa s kx.1 ie.1)) }) }

/-- What every REST state loses: pond caches, TLBs, prefetch streams and predictor bits. -/
def loseCaches (s : State) : State :=
  { s with
    ponds := s.ponds.map fun (kx : Nat × PondSt) => (kx.1, emptyPond kx.2)
    dirs := ([] : SMap (SMap (List Nat)))
    mcs := s.mcs.map fun (kx : Nat × McSt) => (kx.1, { kx.2 with pred := [] }) }

/-- Ports and PCIe go down in Drowse and Deep. -/
def restPorts (s : State) : State :=
  let s := (upto 12).foldl (fun s p => if portState s p == 0 then s else portDown s p (portState s p == 4)) s
  let s := { s with host := { s.host with l0 := false }, boot := { s.boot with ideKeys := [], ideOn := [] } }
  ((s.set HB_STAT_WIDTH 0).set HB_STAT_SPEED 0).set HB_STAT_FLIT 0

/-- REST_STATE_REACHED: the device is in the state; what it does not keep is lost (R451). A cause met on the way wakes
it at once. -/
def execRestStateReached (s : State) : Res :=
  .next (match s.power.rest with
    | none => s
    | some r =>
      if r.phase != .entering then s
      else
        let raw := match restCmd s r with | some c => c.raw.toNat | none => 0
        let s := s.set PWR_STAT_STATE r.target
        let s := s.pw fun w => { w with rest := some { r with phase := .resting } }
        let s := loseCaches s
        let s := if r.target = 1 then loseSegments s (cf raw 32 0 24)
          else
            let s := loseBands (loseSegments s 0) (cf raw 36 0 8)
            restPorts { s with gcs := [], ves := [], mcs := [], pcc := [], pccLast := [], sketches := [] }
        let s := (upto 96).foldl gatePond s
        if r.cause == 255 then s
        else { s.set PWR_STAT_STATE 5 with power := { s.power with rest := some { r with phase := .waking } } })

/-- WAKE_TIMER: the wake time before NEXT. -/
def execWakeTimer (s : State) : Res :=
  .next (match s.power.rest with
    | some r => match restCmd s r with
      | some c => if cf c.raw.toNat 16 0 64 = 0 then s else wakeBegin s 0 0
      | none => s
    | none => s)

/-- WAKE_N: held low for 1 µs. -/
def execWakeN (s : State) : Res := .next (wakeBegin s 1 0)

/-- PWR_CTRL_WAKE: WAKE was written over SMBus. -/
def execPwrCtrlWake (s : State) : Res := .next (wakeBegin s 2 0)

/-- The value of a Drowse threshold's source (R456): sampled, or counted by the Sheepdog. -/
def thrValue (s : State) (readings : List (Nat × Int)) (src : Nat) : Option Int :=
  if src = 0x700 then some (countOf (fun i => (fltSum s).testBit i) (upto 16))
  else if src = 0x701 then some (coolantAge s)
  else if src < 0x480 || (0x500 ≤ src && src ≤ 0x508) || (0x600 ≤ src && src ≤ 0x60B) then
    (readings.find? fun r => r.1 == src).map (·.2)
  else none

def thrCrosses (s : State) (readings : List (Nat × Int)) (n : Nat) : Bool :=
  s.flag PWR_THR_EN n && (match thrValue s readings (s.get PWR_THR_SOURCE n) with
    | none => false
    | some v => let t := toS 32 (s.get PWR_THR_VALUE n); if s.flag PWR_THR_DIR n then v < t else v > t)

/-- DROWSE_SAMPLE: the sources' readings; the lowest crossing threshold is recorded. -/
def execDrowseSample (readings : List (Nat × Int)) (s : State) : Res :=
  .next (if restIn s (· == 2) then
      match (upto 32).find? (thrCrosses s readings) with
      | some n => wakeBegin s 3 n
      | none => s
    else s)

/-- WAKE_COMPLETE: power and memory are back; every region loads the next beacon and writes its marker (R52); after Drowse and Deep the rebuild logs run;
held doorbells are judged, the queues resume, and REST retires. -/
def execWakeComplete (s : State) : Res :=
  .next (match s.power.rest with
    | none => s
    | some r =>
      if r.phase != .waking then s
      else
        let s := (upto 96).foldl (fun s p => s.setPond p { s.pond p with wakeWait := true, lull := false }) s
        let s := { s with time := { s.time with resync := upto 96 } }
        let s := beacon (toBeacon 200 s)
        let s := if 2 ≤ r.target then s.fault.logs.foldl (fun s kl => rebuild s kl.1) s else s
        let s := (upto 96).foldl setVolt (s.pw fun w => { w with rest := none })
        let s := judgeHeld s
        restEnd s r r.target r.cause r.thr)

end Sys2Proof.Machine
end

