-- ==== Sys2Proof/Machine/Access.lean ====
section
/-! DEFINITION. Accesses to configuration space (R522 to R529): how a register reads, which values a write is taken as,
and what the write of each register does. FLASH_OP (R470) and the world description (R529) are here too. -/

namespace Sys2Proof.Machine

open Sys2Proof

/-- How an access to configuration space ends: done, with the value of a read; at an unassigned address (R522); or with
a width or alignment that R526 does not allow. -/
inductive RegAns where
  | ok (v : Nat)
  | unassigned
  | width
  deriving DecidableEq, Repr

/-- An access of `w` bytes at offset `o` is one of R526. -/
def widthOk (o w : Nat) : Bool := (w == 8 && o % 8 == 0) || (w == 4 && o % 4 == 0)

/-- The bits of the register that an access reaches. -/
def carriedMask (o w : Nat) : Nat := if w = 8 then 2 ^ 64 - 1 else if o % 8 = 0 then 2 ^ 32 - 1 else (2 ^ 32 - 1) * 2 ^ 32

/-- A written value in its place in the register. -/
def placed (o w v : Nat) : Nat := if w = 8 then v % 2 ^ 64 else if o % 8 = 0 then v % 2 ^ 32 else v % 2 ^ 32 * 2 ^ 32

/-- The unit of a page is fenced, so that the page reads 0 and takes no write (R528). A fenced hub's semaphores and
barriers are served from the retained store. -/
def pageFenced (s : State) (o : Nat) : Bool :=
  if 0x800000 ≤ o ∧ o < 0xE00000 then
    hubFenced s ((o - 0x800000) / 0x10000) && !(0x1000 ≤ o % 0x10000 && o % 0x10000 < 0x4400)
  else if 0x2000000 ≤ o ∧ o < 0x2C00000 then mcFenced s ((o - 0x2000000) / 0x10000)
  else if 0x4000000 ≤ o ∧ o < 0x5800000 then gcFenced s ((o - 0x4000000) / 0x10000)
  else if 0x6000000 ≤ o ∧ o < 0x7800000 then gcFenced s ((o - 0x6000000) / 0x10000)
  else false

/-- An access to a page of a pond in lull wakes the pond (R452, R528). -/
def wakePage (s : State) (o : Nat) : State :=
  match pondOfPage o with
  | some p => if (s.pond p).lull then wakePond s p else s
  | none => s

/-! Reads. -/

/-- QTAB_STAT.STATE and WAIT_IDX (the register's table): the queue's next entry while it waits for a semaphore or by
FENCE, else its oldest started command. -/
def queueShows (s : State) (q : Nat) : Nat × Nat :=
  let x := s.q q
  let seq := nextSeq s q
  let next := x.started.length < qUsed s q
  let raw := if next && plainOk s (slotAddr s q seq) 64 then s.rdN (slotAddr s q seq) 64 else 0
  if qHalted s q then (7, 0)
  else if !qEn s q then (0, 0)
  else if qUsed s q = 0 then (1, 0)
  else if next && x.joined then (3, cf raw 8 32 6)
  else if next && cf raw 0 9 1 == 1 && !x.started.isEmpty then (4, 0)
  else
    match x.started.head? with
    | none => (2, 0)
    | some c =>
      let craw := c.raw.toNat
      if opcOf craw == 4 && c.phase == .running then (5, 0)
      else if opcOf craw == 2 && c.phase == .running then
        match semRef (cf craw 16 0 64) with
        | some r => (3, if r.far then 0x3F else r.idx)
        | none => (6, 0)
      else (6, 0)

/-- SEM_VAL with its WAITERS count. -/
def semShows (s : State) (off : Nat) : Nat :=
  setBits (s.regAt off 0).toNat 32 16 (min 0xFFFF (s.waitersOf off).length)

/-- SEM_WAITQ: the first four waiters from the front. -/
def semWaitq (s : State) (off : Nat) : Nat :=
  (((s.waitersOf off).take 4).zipIdx).foldl
    (fun n wi => n + (wi.1.queue + 2 ^ 14 * b2n (wi.1.kind == .instr) + 2 ^ 15) * 2 ^ (16 * wi.2)) 0

/-- The silt record that SILT_CTL.IDX names, in SILT_DATAn. -/
def siltShows (s : State) (n : Nat) : Nat :=
  match s.silt[s.get SILT_CTL_IDX]? with
  | some r => byteN r.bytes (8 * n) 8
  | none => 0

/-- A counter set's latched values two by two. -/
def pccShows (s : State) (k n : Nat) : Nat :=
  let l := (s.pccSet k).sample
  listGet l (2 * n) 0 % 2 ^ 32 + 2 ^ 32 * (listGet l (2 * n + 1) 0 % 2 ^ 32)

/-- The counter set of a pond's register, or of a port's. -/
def pccKey (r : Reg) (i j : Nat) : Nat := if r.base < 0x800000 then 10000 + 4 * i + j else 16 * i + j

def veValid (s : State) (g : Nat) : Nat :=
  (upto 16).foldl (fun m k => if (look (s.ve g).progs k).isSome then m + 2 ^ k else m) 0

/-- MC_STEPS of core `m`: the step counts of the active tiles of the context that the core holds (R413). -/
def mcSteps (s : State) (m : Nat) : Nat :=
  let x := s.mc (hGlobal ((look s.ctxs (hMc m)).getD (hMc m)))
  (upto 16).foldl (fun n a => n + (match (x.arr a).active with | some p => p.steps % 16 | none => 0) * 2 ^ (4 * a)) 0

/-- The value that instance (i, j) of register `r` shows. Most registers show what is stored; these are computed. -/
def regShows (s : State) (r : Reg) (i j : Nat) : Nat :=
  let o := r.off i j
  let stored := (s.regAt o r.rstW).toNat
  let is (x : Reg) : Bool := r.base == x.base
  if is TIME_NOW then s.stamp
  else if is TIME_STAT then if s.flag TIME_CTRL_MASTER then setBits stored 1 1 1 else stored
  else if is GC_TIME then s.stamp
  else if is GC_HANDLE then i + 2 ^ 16 * s.me
  else if is SEM_VAL || is FSEM_VAL then semShows s o
  else if is SEM_WAITQ || is FSEM_WAITQ then semWaitq s (o - 8)
  else if is QTAB_STAT then
    let sw := queueShows s (1024 * i + j)
    setBits (setBits stored 0 3 sw.1) 3 6 sw.2
  else if is MC_STEPS then mcSteps s i
  else if is VE_PROG then veValid s i
  else if is FLT_SUM then fltSum s
  else if is ERR_POND0 then errPonds s % 2 ^ 64
  else if is ERR_POND1 then errPonds s / 2 ^ 64
  else if is ERR_EDGE then errEdge s
  else if is PIN_STAT then pinStat s
  else if is PWR_LOOP then setBits stored 8 6 (unmetLoops s)
  else if is PWR_COOLANT then setBits stored 32 32 (min 0xFFFFFFFF (coolantAge s))
  else if is SILT_CTL then setBits stored 32 14 s.silt.length
  else if is SILT_DATA then siltShows s i
  else if is PCC_TAG || is TPCC_TAG then (s.pccSet (pccKey r i j)).tagLatch
  else if is PCC_V01 || is TPCC_V01 then pccShows s (pccKey r i j) 0
  else if is PCC_V23 || is TPCC_V23 then pccShows s (pccKey r i j) 1
  else if is PCC_V45 || is TPCC_V45 then pccShows s (pccKey r i j) 2
  else if is PCC_V67 || is TPCC_V67 then pccShows s (pccKey r i j) 3
  else if is PF_CNT then setBits stored 48 8 (depthOf s i)
  else if is TRC_STAT then setBits (setBits stored 0 25 (traceBase s i)) 32 18 (traceSlots s i)
  else if is UPD_STEP then
    match s.replay with
    | some x => setBits (setBits stored 2 1 (b2n x.skipped)) 3 1 1
    | none => stored
  else if is UPD_CFG then setBits stored 1 1 (b2n s.replay.isSome)
  else (BitVec.ofNat 64 stored &&& ~~~(BitVec.ofNat 64 r.wo)).toNat

/-- A read of `w` bytes at configuration offset `o` (R522, R526, R528). A read that reaches the low half of a counter
set's tag takes its sample first (R488). -/
def readReg (s : State) (o w : Nat) : RegAns × State :=
  let a := 0x70000000000 + o
  if !pageListed o then (.unassigned, s.devErr DEV_ERR_UNASSIGNED a false)
  else if !widthOk o w then (.width, s.devErr DEV_ERR_WIDTH a false)
  else if pageFenced s o then (.ok 0, s)
  else
    let s := wakePage s o
    match regOf (o / 8 * 8) with
    | none => (.ok 0, s)
    | some (r, i, j) =>
      let s := if o % 8 = 0 then
          match pccKeyOf o with
          | some k => pccSampleAt s k
          | none => s
        else s
      let v := regShows s r i j
      (.ok (if w = 8 then v else if o % 8 = 0 then v % 2 ^ 32 else v / 2 ^ 32), s)

/-! Values taken as others. -/

/-- Replace one field of a value. -/
def inFld (f : Fld) (g : Nat → Nat) (v : W64) : W64 := fset f v (g (fget f v))

/-- A size field of a ring: 0 none, else clamped. -/
def logFld (f : Fld) (lo hi : Nat) : W64 → W64 := inFld f fun n => if n = 0 then 0 else clampN lo hi n

/-- A field is at least 1. -/
def least1 (f : Fld) : W64 → W64 := inFld f (max 1)

def atMost (f : Fld) (m : Nat) : W64 → W64 := inFld f (min m)

/-- The field `hi` is at least the field `lo`. -/
def notBelow (hi lo : Fld) (v : W64) : W64 := inFld hi (max (fget lo v)) v

/-- NS_ALPHA: an FP32 value outside (0, 1], a NaN included, is taken as 1.0. -/
def alphaFld : W64 → W64 := inFld NS_ALPHA_ALPHA fun n => if 1 ≤ n ∧ n ≤ 0x3F800000 then n else 0x3F800000

/-- The rules by which a register takes a written value as another (the registers' tables). -/
def takeRules : List (Reg × (W64 → W64)) :=
  [(TIME_CTRL, inFld TIME_CTRL_SLEW_PPM (clampN 1 500)),
   (GSV_REMOTE, least1 GSV_REMOTE_TIMEOUT ∘ inFld GSV_REMOTE_OUTST (clampN 1 256)),
   (HOT_CFG, atMost HOT_CFG_HOT_MIB 8),
   (QNT_CFG, atMost QNT_CFG_ESC_THRESH 32),
   (TRG_CFG, atMost TRG_CFG_SIZE_MIB 8),
   (TRG_SPILL, logFld TRG_SPILL_LOG2N 10 30),
   (PRUNE_CFG, least1 PRUNE_CFG_PERIOD),
   (LS_CFG, notBelow LS_CFG_S_MAX LS_CFG_S_MIN ∘ least1 LS_CFG_INTERVAL),
   (UPD_JRNL, logFld UPD_JRNL_LOG2N 4 20),
   (QTAB_CMPL, logFld QTAB_CMPL_LOG2N 4 20),
   (GC_CFG, atMost GC_CFG_OWN_IMEM 16 ∘ atMost GC_CFG_OWN_DMEM 32),
   (SLAB_CFG, atMost SLAB_CFG_CACHE_MIB 24 ∘ atMost SLAB_CFG_TRACE_MIB 8 ∘ least1 SLAB_CFG_SCRUB_MIN),
   (MEM_PF, notBelow MEM_PF_MAX_DEPTH MEM_PF_MIN_DEPTH),
   (MEM_ECC, inFld MEM_ECC_RADIUS (clampN 1 4)),
   (MEM_SCRUB, notBelow MEM_SCRUB_MAX_H MEM_SCRUB_MIN_H ∘ least1 MEM_SCRUB_MIN_H),
   (MEM_CAL, least1 MEM_CAL_PERIOD_MS ∘ least1 MEM_CAL_DELTA ∘ inFld MEM_CAL_WIN (max 256)),
   (LNK_CFG, inFld LNK_CFG_MIN_LANES (clampN 1 4)),
   (LNK_GCFG, least1 LNK_GCFG_E2E_US),
   (CVU_CTL, inFld CVU_CTL_WIDTH (clampN 1 64)),
   (NS_ALPHA, alphaFld),
   (BSC_CFG, notBelow BSC_CFG_MAX BSC_CFG_MIN ∘ least1 BSC_CFG_MIN),
   (FLT_CFG, inFld FLT_CFG_STALL_US (clampN 50 1000) ∘ least1 FLT_CFG_DIE_UE),
   (SNAP_CFG, inFld SNAP_CFG_SHARE (clampN 1 50)),
   (PWR_LIMIT, (fun v => inFld PWR_LIMIT_STALE_W (min (fget PWR_LIMIT_PKG_W v)) v) ∘ atMost PWR_LIMIT_PKG_W 950
      ∘ atMost PWR_LIMIT_VIN_A 450),
   (PWR_POND, notBelow PWR_POND_V_MAX PWR_POND_V_MIN ∘ inFld PWR_POND_V_MIN (clampN 620 860)
      ∘ inFld PWR_POND_V_MAX (clampN 620 860)),
   (LOOP_TRG, notBelow LOOP_TRG_MAX LOOP_TRG_MIN ∘ least1 LOOP_TRG_MIN),
   (TEL_CFG, inFld TEL_CFG_LOG2N (fun n => if 4 ≤ n then n else 4) ∘ inFld TEL_CFG_PERIOD_MS (clampN 1 1000)),
   (OBS_CFG, inFld OBS_CFG_SHARE (clampN 5 50) ∘ atMost OBS_CFG_SAMPLE_LOG2 20)]

/-- The adaptive loop whose bounds a register holds (R448). -/
def boundLoop : List (Nat × Nat) :=
  [(PWR_LIMIT.base, 0), (PWR_POND.base, 0), (LNK_CFG.base, 1), (MEM_CFG.base, 2), (MEM_SCRUB.base, 3), (MEM_PF.base, 4),
   (LOOP_TRG.base, 5)]

/-- A joined value as the register's own rules take it. -/
def takenAs (r : Reg) (v : W64) : W64 :=
  match takeRules.find? fun x => x.1.base == r.base with
  | some x => x.2 v
  | none => v

/-- A bound that is taken as another value sets its loop's CLAMP bit (R450). -/
def noteClamp (s : State) (r : Reg) (wrote took : W64) : State :=
  match boundLoop.find? fun x => x.1 == r.base with
  | some (_, k) => if wrote == took then s else s.set PWR_LOOP_CLAMP (s.get PWR_LOOP_CLAMP ||| 2 ^ k)
  | none => s

/-! FLASH_OP (R470). -/

def flashBytes (s : State) : Nat := s.get FLASH_STAT_SIZE_MIB * 2 ^ 20

/-- The range lies in the slot that did not boot. -/
def inOtherSlot (s : State) (a n : Nat) : Bool :=
  let half := flashBytes s / 2
  let lo := (1 - s.get BOOT_STAT_SLOT) * half
  lo ≤ a && a + n ≤ lo + half

/-- A write of FLASH_OP whose OP field is `op`, with the FADDR and LEN it carries or holds. While an operation runs it is
ignored and sets ERR (R481). -/
def flashOpWrite (s : State) (op fa len : Nat) : State :=
  if s.flag FLASH_OP_BUSY then s.stick FLASH_OP_ERR
  else
    let s := (s.set FLASH_OP_FADDR fa).set FLASH_OP_LEN len
    let start (n : Nat) : State := { s with boot := { s.boot with flashOp := some (op, fa, n) } }.set FLASH_OP_BUSY 1
    let buf := s.get FLASH_BUF_BUF
    let bufOk := areaOf buf == .main && areaOf (buf + (len - 1)) == .main
    -- on a failed boot the device has left the flash to the board (R469)
    if s.get BOOT_STAT_ERR != 0 || op = 0 || 4 < op then s.stick FLASH_OP_ERR
    else if op = 1 then if len = 0 || !bufOk || flashBytes s < fa + len then s.stick FLASH_OP_ERR else start len
    else if op = 2 then
      if len = 0 || !bufOk then s.stick FLASH_OP_ERR
      else if !inOtherSlot s fa len then s.stick FLASH_OP_REFUSED
      else start len
    else
      let sector := if op = 3 then 4096 else 65536
      if fa % sector != 0 then s.stick FLASH_OP_ERR
      else if !inOtherSlot s fa sector then s.stick FLASH_OP_REFUSED
      else start sector

/-! The world description (R529). -/

/-- The PCIe port is disabled and its PHY powered down (R369); IDE keys end with the link (R475). -/
def pcieDisable (s : State) : State :=
  let s := ((s.set HB_STAT_WIDTH 0).set HB_STAT_SPEED 0).set HB_STAT_FLIT 0
  { s with host := { s.host with disabled := true, l0 := false }, boot := { s.boot with ideKeys := [], ideOn := [] } }

/-- The commit's check, and the description as one whole. -/
def wdApply (s : State) : State :=
  let s := s.set WD_STAT_PENDING 0
  if s.flag WD_SELF_IS_BELL != (s.get WD_SELF_BELL_DEV == s.get WD_SELF_DEVICE) then s.stick WD_STAT_REFUSED
  else
    let s := (s.set WD_STAT_DONE 1).set BOOT_STAT_STAGE 10
    if s.flag WD_SELF_IS_BELL then s else pcieDisable s

/-- A write of COMMIT: held until READY; a second one is refused. -/
def wdCommit (s : State) : State :=
  if s.flag WD_STAT_DONE || s.flag WD_STAT_PENDING then s.stick WD_STAT_REFUSED
  else if s.get BOOT_STAT_STAGE < 9 then s.set WD_STAT_PENDING 1
  else wdApply s

/-! LNK_GCFG. -/

/-- ROUTE_EN before the commit is taken as 0 and sets EARLY; EXT changes only while ROUTE_EN is 0. When routed traffic
begins, waiting frames go: every stream has counted from 0, since none was sent before (R360). -/
def lnkGcfgWrite (s : State) (old v : W64) : State :=
  let early := fget LNK_GCFG_ROUTE_EN v == 1 && !s.flag WD_STAT_DONE
  let s := if early then s.stick WD_STAT_EARLY else s
  let v := if early then fset LNK_GCFG_ROUTE_EN v 0 else v
  let was := fget LNK_GCFG_ROUTE_EN old == 1
  let v := if was then fset LNK_GCFG_EXT v (fget LNK_GCFG_EXT old) else v
  let s := s.setRg LNK_GCFG v
  if !was && fget LNK_GCFG_ROUTE_EN v == 1 then s.flushLinks else s

/-! Writes. -/

/-- What the write of a register does beyond its fields: `old` before the write, `v` the value as taken (RW fields joined
with the half not carried), `c` the carried bits alone, `m` their mask. None: the fields take `v`, nothing more. -/
def regAction (s : State) (r : Reg) (i j : Nat) (old v c : W64) (m : Nat) : Option State :=
  let o := r.off i j
  let q := 1024 * i + j
  let is (x : Reg) : Bool := r.base == x.base
  let low := m.testBit 0
  let act (f : Fld) : Bool := fget f c == 1
  let keep := s.setRegAt o v
  if is QTAB_CFG then some (qcfgWrite s q v.toNat)
  else if is QTAB_TAIL then some (if low then tailWrite s q (c.toNat % 2 ^ 32) else s)
  else if is QTAB_HEAD then some (if qEn s q then s else keep)
  else if is QTAB_CHEAD then some (if low && !m.testBit 32 then s else cheadWrite s q (v.toNat / 2 ^ 32))
  else if is QTAB_CTRL then
    let s := if act QTAB_CTRL_RESUME then resumeQueue s q else s
    some (if act QTAB_CTRL_DISCARD then discardQueue s q else s)
  else if is SEM_VAL || is FSEM_VAL then
    let s := s.setRegAt o (old &&& ~~~(c &&& BitVec.ofNat 64 r.w1c))
    some (if low then semValWrite s o (c.toNat % 2 ^ 32) else s)
  else if is FSEM_SIG then some (if low then fsemSigWrite s i (c.toNat % 2 ^ 32) else s)
  else if is TIME_CTRL then some (timeCtrlWrite s v)
  else if is TIME_EPOCH then some (timeEpochWrite s c.toNat)
  else if is MEM_TLBINV then some (tlbInvWrite s c.toNat)
  else if is MEM_TDT then some { keep with rem := keep.rem.filter fun (kv : Nat × Nat) => kv.1 / 4096 != i || old == v }
  else if is SNAP_CTRL then some (snapArm s v.toNat)
  else if is SNAP_RST then
    let w1c := BitVec.ofNat 64 r.w1c
    some (snapRestore s ((v &&& ~~~w1c) ||| (c &&& w1c)).toNat)
  else if is SILT_CTL then some (siltCtlWrite s v.toNat)
  else if is OBS_CAPTURE then some (obsCaptureWrite s v.toNat)
  else if is FLT_CTRL then some (if act FLT_CTRL_WRST then warmStart s else s)
  else if is PWR_COOLANT then some (if low then coolantWrite s (c.toNat % 2 ^ 16) else s)
  else if is PWR_CTRL then some (if act PWR_CTRL_WAKE then wakeBegin s 2 0 else s)
  else if is LNK_CFG then some (lnkCfgWrite s i v.toNat)
  else if is LNK_GCFG then some (lnkGcfgWrite s old v)
  else if is LNK_ROUTE then some keep.flushLinks
  else if is CVU_POLY || is CVU_INIT || is CVU_XOR || is CVU_CTL then some (if i ≥ 14 then s else keep)
  else if is WD_SELF then some (if s.flag WD_STAT_DONE then s else keep)
  else if is WD_CTRL then some (if act WD_CTRL_COMMIT then wdCommit s else s)
  else if is UPD_STEP then some (if act UPD_STEP_LNF then s.set UPD_STEP_LNF 1 else s)
  else if is SLAB_CFG then some (if pondIdle keep i then slabReconfig keep i else keep)
  else if is HOT_CFG then some ((upto 96).foldl (fun s p => if pondIdle s p then slabReconfig s p else s) keep)
  else if is TRC_PTR then
    let head := s.get TRC_PTR_HEAD i
    some (if (head + 2 ^ 32 - fget TRC_PTR_TAIL v) % 2 ^ 32 < 2 ^ 31 then keep else s.setRegAt o (fset TRC_PTR_TAIL v head))
  else if is FLASH_OP then
    if low || s.flag FLASH_OP_BUSY then
      let s := s.setRegAt o (old &&& ~~~(c &&& BitVec.ofNat 64 r.w1c))
      some (flashOpWrite s (fget FLASH_OP_OP c) (fget FLASH_OP_FADDR v) (fget FLASH_OP_LEN v))
    else some keep
  else none

/-- A write carries a part of a WO field that spans both halves: it has no effect on the field (R526). -/
def partialWo (r : Reg) (w : Nat) : Bool := w == 4 && (r.base == TIME_EPOCH.base || r.base == MEM_TLBINV.base)

/-- A register takes a write of the carried bits `c` (R526): RW fields take the joined value as their rules take it, W1C
bits are cleared, and the register's own action follows. -/
def writeFields (s : State) (r : Reg) (i j : Nat) (m : Nat) (c : W64) : State :=
  let o := r.off i j
  let rw := BitVec.ofNat 64 r.rw
  let w1c := BitVec.ofNat 64 r.w1c
  let old := s.regAt o r.rstW
  let joined := (old &&& ~~~BitVec.ofNat 64 m) ||| c
  let took := takenAs r joined
  let s := noteClamp s r (joined &&& rw) (took &&& rw)
  -- RW fields as taken; WO and W1S bits as carried
  let v := ((old &&& ~~~rw) ||| (took &&& rw)) &&& ~~~(c &&& w1c)
  let wo := BitVec.ofNat 64 r.wo
  match regAction s r i j old (v ||| (c &&& (wo &&& ~~~rw))) c m with
  | some s' => s'
  | none => s.setRegAt o v

/-- A write of `w` bytes at configuration offset `o`, by whichever path of R525: the words "written only by firmware" of
GC_CFG (R286) oblige the writer, and no check of the device follows from them (DEDUCED, log 152) (R522, R526, R528). -/
def writeReg (s : State) (o w value : Nat) : RegAns × State :=
  let a := 0x70000000000 + o
  if !pageListed o then (.unassigned, s.devErr DEV_ERR_UNASSIGNED a true)
  else if !widthOk o w then (.width, s.devErr DEV_ERR_WIDTH a true)
  else if pageFenced s o then (.ok 0, s)
  else
    let s := wakePage s o
    match regOf (o / 8 * 8) with
    | none => (.ok 0, s)
    | some (r, i, j) =>
      let m := carriedMask o w
      let c := BitVec.ofNat 64 (placed o w value)
      if partialWo r w then
        let s := s.devErr DEV_ERR_WIDTH a true
        -- ALL and SPACE lie wholly in the low half: a purge of a whole space needs no VA
        (.ok 0, if r.base == MEM_TLBINV.base && m.testBit 0 && c.toNat.testBit 1 then tlbInvWrite s c.toNat else s)
      else (.ok 0, writeFields s r i j m c)

/-- LNK_CFG_WRITE (R363). -/
def execLnkCfgWrite (port value : Nat) (s : State) : Res :=
  .next (if port < 12 then (writeReg s (LNK_CFG.off port) 8 value).2 else s)

/-- REGISTER_WRITE (R526): an access by one of the paths of R525. -/
def execRegisterWrite (w : RegWrite) (s : State) : Res := .next (writeReg s w.off w.width w.value).2

end Sys2Proof.Machine
end

