-- ==== Sys2Proof/Machine/Boot.lean ====
section
/-! DEFINITION. Boot (chapter 16): the flash and its slots (R460 to R464), configuration records (R465, R466), the choice
of a slot (R467), the boot's steps and its failures (R468, R469), the identity (R471 to R473), the random source (R474),
flash operations (R470), and the world description's commit (R529). -/

namespace Sys2Proof.Machine

open Sys2Proof

def State.bt (s : State) (f : BootSt → BootSt) : State := { s with boot := f s.boot }

/-- Bytes of the flash. -/
def flashRead (s : State) (a n : Nat) : List Byte := (upto n).map fun k => lookD s.boot.flash (a + k) 0xFF

def flashPut (m : SMap Byte) (a : Nat) (b : Byte) : SMap Byte := cellPut m a b 0xFF

/-- Write 8-byte registers from a string of bytes. -/
def putBytes (s : State) (r : Reg) (d : List Byte) : State :=
  (upto r.n1).foldl (fun s n => s.setRg r (BitVec.ofNat 64 (byteN d (8 * n) 8)) n) s

/-! Slots (R461 to R464). -/

structure Slot where
  base : Nat
  imageLen : Nat
  updateSeq : Nat
  chainOff : Nat
  fwOff : Nat
  fwLen : Nat
  recOff : Nat
  recLen : Nat
  bus8 : Bool
  clk : Nat
  bodyDigest : List Byte
  deriving DecidableEq, Repr

/-- The header at the start of slot `n`, if it is well formed. -/
def slotHeader (s : State) (n : Nat) : Option Slot :=
  let half := flashBytes s / 2
  let h := flashRead s (n * half) 256
  let clk := byteN h 37 1
  let x : Slot := ⟨n * half, byteN h 8 4, byteN h 12 4, byteN h 16 4, byteN h 20 4, byteN h 24 4, byteN h 28 4, byteN h 32 4,
    byteN h 36 1 % 2 == 1, if 25 ≤ clk ∧ clk ≤ 200 then clk else 25, (h.drop 48).take 32⟩
  let ok := byteN h 0 4 == 0x47525053 && byteN h 4 2 == 1 && byteN h 6 2 == 256 && x.imageLen % 16 == 0 && x.imageLen ≤ half
    && x.chainOff % 16 == 0 && x.fwOff % 16 == 0 && x.recOff % 16 == 0
    && 256 ≤ x.chainOff && x.chainOff + 576 ≤ x.fwOff && x.fwOff + x.fwLen ≤ x.recOff && x.recOff + x.recLen ≤ x.imageLen
  if ok then some x else none

/-- A certificate of role `role` issued by `issuer` (R463): its public key. -/
def certKey (c : List Byte) (role : Nat) (issuer : List Byte) : Option (List Byte) :=
  if byteN c 0 4 == 0x54524353 && byteN c 4 1 == role && (c.drop 80).take 32 == sha256 issuer
      && ecdsaVerify issuer (sha256 (c.take 128)) ((c.drop 128).take 64) then
    some ((c.drop 16).take 64)
  else none

/-- The keys of a slot's chain: owner, image, firmware. -/
def slotKeys (s : State) (x : Slot) : Option (List Byte × List Byte × List Byte) := do
  let cert (k : Nat) : List Byte := flashRead s (x.base + x.chainOff + 192 * k) 192
  let owner ← certKey (cert 0) 1 Config.rootKey
  let image ← certKey (cert 1) 2 owner
  let fw ← certKey (cert 2) 3 Config.rootKey
  return (owner, image, fw)

/-- A slot is eligible (R467): its header is well formed, and its chain and header signature pass. -/
def slotEligible (s : State) (n : Nat) : Option (Slot × List Byte × List Byte) := do
  let x ← slotHeader s n
  let (owner, image, fw) ← slotKeys s x
  let h := flashRead s x.base 256
  if ecdsaVerify image (sha256 (h.take 192)) ((h.drop 192).take 64) then return (x, owner, fw) else none

/-- The body passes: BODY_DIGEST, the firmware header's signature, and the digest of the code that it signs. -/
def bodyPasses (s : State) (x : Slot) (fwKey : List Byte) : Bool :=
  let fw := flashRead s (x.base + x.fwOff) 128
  let code := byteN fw 4 4
  sha256 (flashRead s (x.base + 256) (x.imageLen - 256)) == x.bodyDigest
    && 128 + code ≤ x.fwLen && ecdsaVerify fwKey (sha256 (fw.take 64)) ((fw.drop 64).take 64)
    && sha256 (flashRead s (x.base + x.fwOff + 128) code) == (fw.drop 8).take 32

/-! Configuration records (R465, R466). -/

structure Rec where
  type : Nat
  crit : Bool
  body : List Byte
  /-- the stored records end inside it, or END is not the last -/
  broken : Bool
  deriving DecidableEq, Repr

def records : Nat → List Byte → List Rec
  | 0, _ => []
  | f + 1, d =>
    if d.isEmpty then []
    else
      let type := byteN d 0 2
      let len := byteN d 2 2
      let whole := 8 + roundUp 8 len
      let rest := d.drop whole
      let r : Rec := ⟨type % 2 ^ 15, type.testBit 15, (d.drop 8).take len, d.length < whole || (type % 2 ^ 15 == 0xFF && !rest.isEmpty)⟩
      r :: records f rest

/-- The body has its type's format. -/
def recordOk (r : Rec) : Bool :=
  let n := r.body.length
  !r.broken && match r.type with
    | 1 => n % 16 == 0 && (upto (n / 16)).all fun k =>
        match areaOf (byteN r.body (16 * k) 8) with
        | .config o => !(0x10000 ≤ o && o < 0x20000)
        | _ => false
    | 2 => n == 192
    | 4 => n == 96
    | 5 => n == 8
    | 6 => 1 ≤ n
    | 8 => n == 2048
    | 10 => 3 ≤ n && byteN r.body 2 1 % 4 != 3
    | 3 | 7 | 9 => 1 ≤ n
    | 0xFF => n == 0
    | _ => false

/-- Apply one record. The bodies of MEM_SEED and TRIM are Svetlegar's: a TRIM record leaves trim codes that the spec does
not give. -/
def applyRecord (s : State) (r : Rec) : State :=
  let b := r.body
  match r.type with
  | 1 => (upto (b.length / 16)).foldl
      (fun s k => (writeReg s (byteN b (16 * k) 8 - 0x70000000000) 8 (byteN b (16 * k + 8) 8)).2) s
  | 2 => s.pw fun w => { w with target := (upto 96).map fun p => (p, clampN 620 860 (byteN b (2 * p) 2)) }
  | 3 => s.bt fun t => { t with seedRec := b }
  | 4 => s.bt fun t => { t with linkRec := b }
  | 5 =>
    let s := s.bt fun t => { t with pcieId := byteN b 0 8 }
    { s with host := { s.host with vendorId := byteN b 0 2, subVendorId := byteN b 2 2, subsystemId := byteN b 4 2, revisionId := byteN b 6 1 } }
  | 6 => s.set MEM_CFG_RATE (byteN b 0 1 % 4)
  | 7 =>
    let s := s.bt fun t => { t with trimRec := b }
    (upto 96).foldl
      (fun s p =>
        let l := (upto 7).map fun i => Config.trimCode b (7 * p + i) % 256
        let s := s.setPond p { s.pond p with trims := l, trimBoot := l }
        s.set POND_PACE_TRIM_MAX (l.foldl max 0) p) s
  | 10 => s.bt fun t => { t with smb0 := byteN b 0 1 % 128, smb1 := byteN b 1 1 % 128, smbSpeed := byteN b 2 1 % 4 }
  | _ => s

/-- Apply the records in stored order: skipped ones are counted; a CRIT one that fails ends the boot. -/
def applyRecords (s : State) : List Rec → State × Bool
  | [] => (s, true)
  | r :: rs =>
    if recordOk r then applyRecords (applyRecord s r) rs
    else if r.crit then (s, false)
    else applyRecords (s.sat BOOT_STAT_SKIPPED 1) rs

/-! The device certificate (R473). -/

/-- One DER element: its tag, its contents, and what follows. -/
def derOne (d : List Byte) : Option (Nat × List Byte × List Byte) :=
  let l := byteN d 1 1
  let (n, skip) := if l < 0x80 then (l, 2)
    else
      let k := l - 0x80
      (beNat ((d.drop 2).take k), 2 + k)
  if d.length < 2 || d.length < skip + n then none else some (byteN d 0 1, (d.drop skip).take n, d.drop (skip + n))

def derAll : Nat → List Byte → List (Nat × List Byte)
  | 0, _ => []
  | f + 1, d => match derOne d with
    | some (t, c, rest) => (t, c) :: derAll f rest
    | none => []

/-- The public key of the last certificate of a chain: X and Y of its subject's point. -/
def leafKey (chain : List Byte) : Option (List Byte) := do
  let cert ← (derAll chain.length chain).getLast?
  let (_, tbs, _) ← derOne cert.2
  let fields := (derAll 16 tbs).filter fun x => x.1 != 0xA0
  let spki ← fields[5]?
  let point ← (derAll 4 spki.2)[1]?
  if point.2.take 2 == [0, 4] && point.2.length == 66 then return point.2.drop 2 else none

/-! The boot (R468, R469). -/

/-- A failed boot stops at its step with its cause, and FAULT_N is asserted until POR_N. -/
def bootFail (s : State) (stage err : Nat) : State :=
  let s := (s.set BOOT_STAT_STAGE stage).set BOOT_STAT_ERR err
  let r := BootSt.reset
  { s with pins := { s.pins with fault := true }, boot := { s.boot with smb0 := r.smb0, smb1 := r.smb1, smbSpeed := r.smbSpeed } }

/-- What the ROM shows of the booted slot. -/
def showSlot (s : State) (n : Nat) (x : Slot) (owner : List Byte) : State :=
  let fw := flashRead s (x.base + x.fwOff) 40
  let s := ((s.set BOOT_STAT_SLOT n).set BOOT_STAT_UPDATE_SEQ x.updateSeq).set BOOT_VER_FW_VERSION (byteN fw 0 4)
  let s := (s.set FLASH_STAT_BUS_8D (b2n x.bus8)).set FLASH_STAT_CLK_MHZ x.clk
  let s := putBytes s OWNER_DIG (sha256 owner)
  let s := putBytes s IMAGE_DIG (sha256 (flashRead s x.base x.imageLen))
  let s := putBytes s CONFIG_DIG (sha256 (flashRead s (x.base + x.recOff) x.recLen))
  s.bt fun t => { t with codeDig := (fw.drop 8).take 32 }

/-- The identity key from helper data: d = (HKDF mod (n − 1)) + 1 (R471). -/
def identityKey (helper : List Byte) : Nat :=
  let info : List Byte := [0x57, 0x47, 0x58, 0x39, 0x2D, 0x49, 0x44]
  beNat (hkdf (Config.pufSeed helper) [] info 40) % (n256 - 1) + 1

def bodyOf (l : List Rec) (type : Nat) : Option (List Byte) := (l.find? fun r => r.type == type && recordOk r).map (·.body)

/-- PUF (R471 to R473): reconstruct with the record's helper data, or enrol; compare the device certificate. None: the
reconstruction fails its checks. -/
def identify (s : State) (l : List Rec) (pufOk : Bool) : Option State :=
  let helper := bodyOf l 8
  if helper.isSome && !pufOk then none
  else
    let h := helper.getD ((Config.pufHelper ++ List.replicate 2048 0).take 2048)
    let d := identityKey h
    let s := if helper.isSome then s else putBytes (s.set BOOT_STAT_ENROLLED 1) PUF_HELPER h
    let key := pubKey d
    let s := putBytes s ID_PUBKEY key
    let s := s.bt fun t => { t with idKey := some d }
    some (match bodyOf l 9 with
      | none => s.set BOOT_STAT_NO_CERT 1
      | some c => if leafKey c == some key then s.bt fun t => { t with chain := c } else s.set BOOT_STAT_CERT_MISMATCH 1)

/-- From the chosen slot to the training of memory: identity, random source, memory keys (R344), records. -/
def bootFrom (s : State) (n : Nat) (x : Slot) (owner : List Byte) (b : BootInput) : State :=
  let s := showSlot s n x owner
  let recs := records (x.recLen + 1) (flashRead s (x.base + x.recOff) x.recLen)
  match identify s recs b.pufOk with
  | none => bootFail s 4 4
  | some s =>
    if !b.rngOk then bootFail s 5 5
    else
      let (k, s) := randomBytes ((s.set RNG_STAT_SEEDED 1).set BOOT_STAT_STAGE 6) 64
      let s := { s with memKey := k }
      let s := (upto 96).foldl
        (fun s p => slabSizes s p (s.get SLAB_CFG_CACHE_MIB p) (s.get TRG_CFG_SIZE_MIB p) (s.get HOT_CFG_HOT_MIB)
          (s.get SLAB_CFG_TRACE_MIB p)) s
      match applyRecords s recs with
      | (s, false) => bootFail s 6 3
      | (s, true) =>
        let s := (setVolts s).set BOOT_STAT_STAGE 7
        let s := b.badBanks.foldl (fun s x => if x.1 < 192 ∧ x.2 < 9 then fenceBank s (x.1 / 2) (x.1 % 2) x.2 else s) s
        let s := b.badStacks.foldl
          (fun s c => if c < 12 then
              (upto 8).foldl (fun s k => (upto 3).foldl (fun s rg => retireDie s (8 * c + k) rg) s) s
            else s) s
        (upto 12).foldl portTrain s

/-- The ROM's choice (R467): the eligible slots in the order it tries them. -/
def slotOrder (s : State) : List (Nat × Slot × List Byte × List Byte) :=
  match slotEligible s 0, slotEligible s 1 with
  | none, none => []
  | some a, none => [(0, a)]
  | none, some b => [(1, b)]
  | some a, some b => if b.1.updateSeq > a.1.updateSeq then [(1, b), (0, a)] else [(0, a), (1, b)]

def boot (s : State) (b : BootInput) : State :=
  match slotOrder s with
  | [] => bootFail s (if (slotHeader s 0).isSome || (slotHeader s 1).isSome then 2 else 1) 1
  | [(n, x, owner, fw)] => if bodyPasses s x fw then bootFrom s n x owner b else bootFail s 3 2
  | (n, x, owner, fw) :: (m, y, owner', fw') :: _ =>
    if bodyPasses s x fw then bootFrom s n x owner b
    else
      let s := s.set BOOT_STAT_FALLBACK 1
      if bodyPasses s y fw' then bootFrom s m y owner' b else bootFail s 3 2

/-- POR_N_RELEASE (R468): the time base starts at 0, the ROM runs, and the boot goes as far as the training of memory.
The board may have programmed the flash meanwhile (R469). -/
def execPorNRelease (b : BootInput) (s : State) : Res :=
  .next (if s.pins.por then s
    else
      let s := { s with pins := { s.pins with por := true, tapIr := .bypass, hiz := false } }
      let s := match b.flash with
        | some l => s.bt fun t => { t with flash := l.foldl (fun m (c : Nat × BitVec 8) => flashPut m c.1 c.2) [] }
        | none => s
      let s := ((s.set BOOT_VER_ROM_VERSION Config.romVersion).set RAIL_STAT_IN_RANGE 0x1FF).set FLASH_STAT_SIZE_MIB b.density
      boot s b)

/-- Bytes of an interrupted or failed program or erase are unspecified. -/
def flashSpoil (s : State) : State :=
  match s.boot.flashOp with
  | some (op, a, n) =>
    if op = 1 then s.makeStale (s.get FLASH_BUF_BUF) (s.get FLASH_BUF_BUF + n)
    else { s.bt (fun t => { t with flash := (upto n).foldl (fun m k => flashPut m (a + k) (Config.freeByte s.free (a + k))) t.flash })
           with free := s.free + 1 }
  | none => s

/-- POR_N_ASSERT (R509): all work stops. What the device held is gone; the flash, the commands that wait, and the lands
that others drive stay. -/
def execPorNAssert (s : State) : Res :=
  .next (
    let s := if (s.boot.flashOp.map (·.1)) == some 1 then s else flashSpoil s
    let r := State.reset
    { r with
      pending := s.pending
      boot := { r.boot with flash := s.boot.flash }
      pins := { r.pins with wrst := s.pins.wrst, wake := s.pins.wake, perst := s.pins.perst, ppsIn := s.pins.ppsIn,
                            thermtrip := s.pins.thermtrip, boundary := s.pins.boundary }
      free := s.free })

/-- BOOT_READY: memory is written with zeros and the ports are up; a held commit is applied (R468, R529). -/
def execBootReady (s : State) : Res :=
  .next (if !s.pins.por || s.get BOOT_STAT_ERR != 0 || (s.get BOOT_STAT_STAGE != 7 && s.get BOOT_STAT_STAGE != 8) then s
    else
      let s := s.set BOOT_STAT_STAGE 9
      if s.flag WD_STAT_PENDING then wdApply s else s)

/-- WORLD_DESCRIPTION_COMMIT (R529). -/
def execWorldDescriptionCommit (s : State) : Res := .next (if s.pins.por then wdCommit s else s)

/-! Flash operations (R470). -/

/-- A write of FLASH_OP: FADDR and LEN as its value carries them. -/
def flashCmd (op value : Nat) (s : State) : State :=
  if s.pins.por then flashOpWrite s op (bits value 8 32) (bits value 40 24) else s

/-- FLASH_READ. -/
def execFlashRead (value : Nat) (s : State) : Res := .next (flashCmd 1 value s)
/-- FLASH_PROGRAM. -/
def execFlashProgram (value : Nat) (s : State) : Res := .next (flashCmd 2 value s)
/-- FLASH_ERASE_4K. -/
def execFlashErase4k (value : Nat) (s : State) : Res := .next (flashCmd 3 value s)
/-- FLASH_ERASE_64K. -/
def execFlashErase64k (value : Nat) (s : State) : Res := .next (flashCmd 4 value s)

/-- A finished operation's effect: a read fills FLASH_BUF, a program clears bits of erased bytes, an erase sets them. The
Boolean says whether it succeeded. -/
def flashEffect (s : State) (op a n : Nat) : State × Bool :=
  let buf := s.get FLASH_BUF_BUF
  if op = 1 then
    let r := s.wrMain buf (flashRead s a n)
    (r.1, !r.2)
  else if op = 2 then
    if ueRange s buf n then (s, false)
    else
      let d := s.rdBytes buf n
      let m := (upto n).foldl (fun m k => flashPut m (a + k) (lookD m (a + k) 0xFF &&& listGet d k 0xFF)) s.boot.flash
      (s.bt fun t => { t with flash := m }, true)
  else (s.bt fun t => { t with flash := t.flash.filter fun c => !(a ≤ c.1 && c.1 < a + n) }, true)

/-- FLASH_OP_DONE: BUSY clears; on failure ERR is set, and what the operation left is unspecified. -/
def execFlashOpDone (ok : Bool) (s : State) : Res :=
  .next (match s.boot.flashOp with
    | none => s
    | some (op, a, n) =>
      let (s, fine) := if ok then flashEffect s op a n else (flashSpoil s, false)
      let s := (s.set FLASH_OP_BUSY 0).bt fun t => { t with flashOp := none }
      if fine then s else s.stick FLASH_OP_ERR)

/-! The random source (R474). -/

/-- DRBG_RESEED: due every 10 s or 2²⁰ requests. After a failed test the DRBG refuses until POR_N. -/
def execDrbgReseed (healthy : Bool) (s : State) : Res :=
  .next (if !s.pins.por || !s.flag RNG_STAT_SEEDED || s.flag RNG_STAT_HALTED then s
    else if s.boot.rngBad then s.set RNG_STAT_HALTED 1
    else if !healthy then ((s.stick RNG_STAT_HEALTH_FAIL).set RNG_STAT_HALTED 1).bt fun t => { t with rngBad := true }
    else s.bump RNG_STAT_RESEEDS 1)

/-- RNG_HEALTH_FAILURE: a continuous test has failed. -/
def execRngHealthFailure (s : State) : Res :=
  .next (if !s.pins.por || !s.flag RNG_STAT_SEEDED then s
    else (s.stick RNG_STAT_HEALTH_FAIL).bt fun t => { t with rngBad := true })

end Sys2Proof.Machine
end

