-- ==== Sys2Proof/Machine/Gc.lean ====
section
/-! DEFINITION. General cores: instruction words (R266, R267), core memories and the region table (R261 to R265), the
checked accesses of a program (R269, R271, R273), exceptions and the handler (R280 to R283), and the start and end of a
GRUN (R285). -/

namespace Sys2Proof.Machine

open Sys2Proof

/-! Instruction words. -/

/-- The instructions of R267. -/
inductive GcOp where
  | add | sub | mul | and_ | or_ | xor | shl | shr | cmplu
  | fadd | fsub | fmul | fdiv | fsqrt | fcmplt | fcvti | icvtf
  | fence | yield | halt | tret | trap
  | addk | andk | ork | shlk | shrk | sark | hik
  | ld8 | ld16 | ld32 | ld64 | st8 | st16 | st32 | st64
  | breq | brne | brlt | brge | brltu | brgeu | call | callr
  | crr | crw | issue | sig | wait | trywait | dec | sumr
  deriving DecidableEq, Repr

/-- Bits [10:6], [15:11], [20:16], [31:21] and [31:16] of a word (R266). -/
def wX (w : Nat) : Nat := bits w 6 5
def wY (w : Nat) : Nat := bits w 11 5
def wZ (w : Nat) : Nat := bits w 16 5
def wFn (w : Nat) : Nat := bits w 21 11
def wImm (w : Nat) : Nat := bits w 16 16

/-- sext() of IMM, modulo 2^64. -/
def wSext (w : Nat) : Nat := ofS 64 (toS 16 (wImm w))

/-- IMM of format D, signed, modulo 2^64. -/
def wLong (w : Nat) : Nat := ofS 64 (toS 21 (bits w 11 21))

/-- The group of an opcode whose FN selects. -/
def decGroup (op fn : Nat) : Option GcOp :=
  match op, fn with
  | 0x00, 0x000 => some .add
  | 0x00, 0x001 => some .sub
  | 0x00, 0x002 => some .mul
  | 0x00, 0x004 => some .and_
  | 0x00, 0x005 => some .or_
  | 0x00, 0x006 => some .xor
  | 0x00, 0x008 => some .shl
  | 0x00, 0x009 => some .shr
  | 0x00, 0x00C => some .cmplu
  | 0x01, 0x000 => some .fadd
  | 0x01, 0x001 => some .fsub
  | 0x01, 0x002 => some .fmul
  | 0x01, 0x003 => some .fdiv
  | 0x01, 0x004 => some .fsqrt
  | 0x01, 0x008 => some .fcmplt
  | 0x01, 0x010 => some .fcvti
  | 0x01, 0x011 => some .icvtf
  | 0x02, 0x000 => some .fence
  | 0x02, 0x001 => some .yield
  | 0x02, 0x002 => some .halt
  | 0x02, 0x003 => some .tret
  | 0x30, 0x000 => some .issue
  | 0x30, 0x001 => some .issue
  | 0x31, 0x000 => some .sig
  | 0x32, 0x000 => some .wait
  | 0x33, 0x000 => some .trywait
  | 0x34, 0x000 => some .dec
  | _, _ => none

/-- The opcodes of one instruction each. -/
def decSingle (op : Nat) : Option GcOp :=
  match op with
  | 0x03 => some .trap
  | 0x04 => some .addk
  | 0x05 => some .andk
  | 0x06 => some .ork
  | 0x07 => some .shlk
  | 0x08 => some .shrk
  | 0x09 => some .sark
  | 0x0A => some .hik
  | 0x10 => some .ld8
  | 0x11 => some .ld16
  | 0x12 => some .ld32
  | 0x14 => some .ld64
  | 0x18 => some .st8
  | 0x19 => some .st16
  | 0x1A => some .st32
  | 0x1B => some .st64
  | 0x20 => some .breq
  | 0x21 => some .brne
  | 0x22 => some .brlt
  | 0x23 => some .brge
  | 0x24 => some .brltu
  | 0x25 => some .brgeu
  | 0x28 => some .call
  | 0x29 => some .callr
  | 0x2C => some .crr
  | 0x2D => some .crw
  | 0x35 => some .sumr
  | _ => none

/-- Fields that the instruction does not use are zero (R266, R267). -/
def unusedZero (o : GcOp) (w : Nat) : Bool :=
  match o with
  | .fsqrt | .fcvti | .icvtf => wZ w == 0
  | .fence | .tret => wX w == 0 && wY w == 0 && wZ w == 0
  | .yield | .halt => wX w == 0 && wZ w == 0
  | .trap => wX w == 0 && wY w == 0
  | .shlk | .shrk | .sark => bits w 22 10 == 0
  | .hik => wY w == 0
  | .crr | .crw => wY w == 0 && bits w 28 4 == 0
  | .sumr => wY w == 0 && bits w 20 12 == 0
  | _ => true

/-- The instruction a word spells; none: ILLEGAL. -/
def decodeGc (w : Nat) : Option GcOp :=
  let o := match decGroup (bits w 0 6) (wFn w) with
    | some o => some o
    | none => decSingle (bits w 0 6)
  match o with
  | some o => if unusedZero o w then some o else none
  | none => none

/-- The encoder's tables: an instruction has format A (R266). -/
def gcFmtA : GcOp → Bool
  | .add | .sub | .mul | .and_ | .or_ | .xor | .shl | .shr | .cmplu => true
  | .fadd | .fsub | .fmul | .fdiv | .fsqrt | .fcmplt | .fcvti | .icvtf => true
  | .fence | .yield | .halt | .tret => true
  | .issue | .sig | .wait | .trywait | .dec => true
  | _ => false

/-- OP and FN of an instruction (R267). -/
def gcCode : GcOp → Nat × Nat
  | .add => (0x00, 0x000)
  | .sub => (0x00, 0x001)
  | .mul => (0x00, 0x002)
  | .and_ => (0x00, 0x004)
  | .or_ => (0x00, 0x005)
  | .xor => (0x00, 0x006)
  | .shl => (0x00, 0x008)
  | .shr => (0x00, 0x009)
  | .cmplu => (0x00, 0x00C)
  | .fadd => (0x01, 0x000)
  | .fsub => (0x01, 0x001)
  | .fmul => (0x01, 0x002)
  | .fdiv => (0x01, 0x003)
  | .fsqrt => (0x01, 0x004)
  | .fcmplt => (0x01, 0x008)
  | .fcvti => (0x01, 0x010)
  | .icvtf => (0x01, 0x011)
  | .fence => (0x02, 0x000)
  | .yield => (0x02, 0x001)
  | .halt => (0x02, 0x002)
  | .tret => (0x02, 0x003)
  | .trap => (0x03, 0)
  | .addk => (0x04, 0)
  | .andk => (0x05, 0)
  | .ork => (0x06, 0)
  | .shlk => (0x07, 0)
  | .shrk => (0x08, 0)
  | .sark => (0x09, 0)
  | .hik => (0x0A, 0)
  | .ld8 => (0x10, 0)
  | .ld16 => (0x11, 0)
  | .ld32 => (0x12, 0)
  | .ld64 => (0x14, 0)
  | .st8 => (0x18, 0)
  | .st16 => (0x19, 0)
  | .st32 => (0x1A, 0)
  | .st64 => (0x1B, 0)
  | .breq => (0x20, 0)
  | .brne => (0x21, 0)
  | .brlt => (0x22, 0)
  | .brge => (0x23, 0)
  | .brltu => (0x24, 0)
  | .brgeu => (0x25, 0)
  | .call => (0x28, 0)
  | .callr => (0x29, 0)
  | .crr => (0x2C, 0)
  | .crw => (0x2D, 0)
  | .issue => (0x30, 0)
  | .sig => (0x31, 0)
  | .wait => (0x32, 0)
  | .trywait => (0x33, 0)
  | .dec => (0x34, 0)
  | .sumr => (0x35, 0)

/-- The fields `x` (bits [10:6]), `y` ([15:11]), `z` ([20:16]) and the constant `imm` that an instruction's word admits:
a field it does not use is 0. For ISSUE `imm` is bit 0 of FN; for CALL it is the 21-bit constant. -/
def gcFields (o : GcOp) (x y z imm : Nat) : Bool :=
  decide (x < 32) && decide (y < 32) && decide (z < 32) && (gcFmtA o || z == 0)
    && (match o with
      | .issue => decide (imm < 2)
      | .call => y == 0 && decide (imm < 2 ^ 21)
      | .fsqrt | .fcvti | .icvtf => z == 0 && imm == 0
      | .fence | .tret => x == 0 && y == 0 && z == 0 && imm == 0
      | .yield | .halt => x == 0 && z == 0 && imm == 0
      | .trap => x == 0 && y == 0 && decide (imm < 2 ^ 16)
      | .shlk | .shrk | .sark => decide (imm < 64)
      | .hik => y == 0 && decide (imm < 2 ^ 16)
      | .crr | .crw => y == 0 && decide (imm < 4096)
      | .sumr => y == 0 && decide (imm < 16)
      | o => if gcFmtA o then imm == 0 else decide (imm < 2 ^ 16))

/-- The word of an instruction with the fields of R266. -/
def gcWord (o : GcOp) (x y z imm : Nat) : Nat :=
  if o = .call then (gcCode o).1 + 2 ^ 6 * x + 2 ^ 11 * imm
  else if gcFmtA o then (gcCode o).1 + 2 ^ 6 * x + 2 ^ 11 * y + 2 ^ 16 * z + 2 ^ 21 * ((gcCode o).2 + imm)
  else (gcCode o).1 + 2 ^ 6 * x + 2 ^ 11 * y + 2 ^ 16 * imm

/-! Exceptions (R280). -/

inductive GcExc where
  | illegal | priv | fetch | load | store | misalign | memUe | semRef | semUnder | issueBad | effectLimit | replay
  | trap (service : Nat)
  | haltCode
  deriving DecidableEq, Repr

def GcExc.code : GcExc → Nat
  | .illegal => 0x01
  | .priv => 0x02
  | .fetch => 0x03
  | .load => 0x04
  | .store => 0x05
  | .misalign => 0x06
  | .memUe => 0x07
  | .semRef => 0x08
  | .semUnder => 0x09
  | .issueBad => 0x0A
  | .effectLimit => 0x0B
  | .replay => 0x0C
  | .trap _ => 0x0D
  | .haltCode => 0x0E

/-- The status a job-mode GRUN completes with; none: it enters the handler. -/
def GcExc.jobStatus : GcExc → Option Nat
  | .illegal | .priv | .semRef | .issueBad | .effectLimit | .haltCode => some 0x10
  | .fetch | .load | .store | .misalign => some 0x11
  | .memUe => some 0x30
  | .semUnder => some 0x12
  | .replay => some 0x3F
  | .trap _ => none

/-- The mode of core `g`: true in owner mode. -/
def ownerMode (s : State) (g : Nat) : Bool := s.flag GC_STAT_MODE g

/-- The GRUN of core `g` completes with a status; the core is free. -/
def endGrun (s : State) (g status : Nat) : State :=
  match (s.gc g).run with
  | none => s
  | some r =>
    let s := s.gcUnblock g
    let s := s.setGc g { s.gc g with run := none, storeUe := none }
    let s := ((s.set GC_STAT_RUNNING 0 g).set GC_STAT_BLOCKED 0 g).set GC_STAT_INH 0 g
    s.updCmd r.queue r.seq fun c => { c with phase := .done status }

/-- Enter the owner handler (R282). A TRAP is an instruction that retires. -/
def enterHandler (s : State) (g : Nat) (e : GcExc) : State :=
  let pc := (s.gc g).pc
  let s := s.set GC_ECAUSE_PMODE (b2n (ownerMode s g)) g
  let s := match e with
    | .trap n => (s.set GC_EPC_VALUE (pc + 4) g).set GC_ECAUSE_SERVICE n g
    | _ => s
  let s := (s.set GC_STAT_MODE 1 g).set GC_STAT_INH 1 g
  let s := s.gcCount g 5 1
  let vec := 4 * s.get GC_EVEC_VEC g
  match e with
  | .trap _ => s.gcAdvance g vec
  | _ => let s := s.gcUnblock g; s.setGc g { s.gc g with pc := vec }

/-- Raise an exception on core `g`, with the faulting address if there is one (R280 to R282). -/
def gcRaise (s : State) (g : Nat) (e : GcExc) (addr : Option Nat) : State :=
  let s := (s.set GC_EPC_VALUE (s.gc g).pc g).set GC_ECAUSE_CODE e.code g
  let s := match addr with
    | some a => s.set GC_EVAL_VALUE a g
    | none => s
  if s.flag GC_STAT_INH g then endGrun (s.stick GC_STAT_DOUBLE g) g 0x3F
  else
    match ownerMode s g, e.jobStatus with
    | false, some st => endGrun (s.stick GC_STAT_JOB_EXC g) g st
    | _, _ => enterHandler s g e

/-! Core memories and the region table. -/

/-- Bytes of a core memory. -/
def cellsAt (m : SMap Byte) (o n : Nat) : List Byte := (upto n).map fun i => lookD m (o + i) 0

def putCells (m : SMap Byte) : Nat → List Byte → SMap Byte
  | _, [] => m
  | o, b :: bs => putCells (cellPut m o b 0) (o + 1) bs

/-- Instruction memory as the core's own loads see it: with the stores that are not yet fetchable. -/
def imemSeen (x : GcState) : SMap Byte := x.ipend.foldl (fun m ob => cellPut m ob.1 ob.2 0) x.imem

/-- The stores to instruction memory become fetchable (R263), and the fetch buffer is emptied (R314). -/
def GcState.fenced (x : GcState) : GcState := { x with imem := imemSeen x, ipend := [], fbuf := [] }

/-- A matching entry of the region table grants access `kind` (RGN_LIM's R, W or X) at address `a` (R265). -/
def rgnOk (s : State) (g : Nat) (kind : Fld) (a : Nat) : Bool :=
  (upto 16).any fun n => s.flag RGN_LIM_V g n && s.flag kind g n
    && s.get RGN_BASE_BASE g n ≤ bits a 12 31 && bits a 12 31 ≤ s.get RGN_LIM_LIMIT g n

/-- Bit 63 of an address: core memory (R261). -/
def isCore (a : Nat) : Bool := a.testBit 63
def coreOff (a : Nat) : Nat := a - 2 ^ 63

/-- Who a program's accesses are: owner mode untranslated and in every partition, job mode in its queue's space. -/
def gcCtx (s : State) (g : Nat) (r : GcRun) : Ctx :=
  if ownerMode s g then ⟨g / 4, 0, false, true, r.queue⟩ else ctxOfQ s r.queue

/-- What an access failure is for a program: the kind's fault, or MEM_UE. The state notes an unassigned address
(R522). -/
def gcAccErr (s : State) (kind : GcExc) (a : Nat) (wr : Bool) : AccErr → (GcExc × Option Nat) × State
  | .refused => ((kind, some a), s)
  | .config _ => ((kind, some a), s)
  | .unassigned b => ((kind, some a), s.devErr DEV_ERR_UNASSIGNED b wr)
  | .hostWin b => ((kind, some a), if s.isBell then s else s.devErr DEV_ERR_UNASSIGNED b wr)
  | .ue _ => ((.memUe, some a), s)

/-- A load's answer, or why it faults. -/
abbrev GcAns := Except (GcExc × Option Nat) (List Byte)

/-- Read main memory or scratch at address `a` in the core's mode; the tensors read are noted (R322). -/
def gcReadMem (s : State) (g : Nat) (r : GcRun) (a n : Nat) : GcAns × State :=
  let c := gcCtx s g r
  match resolve s c a n false with
  | (.error er, s) => let x := gcAccErr s .load a false er; (.error x.1, x.2)
  | (.ok parts, s) =>
    let s := parts.foldl (fun s p => touch s p.1) s
    if parts.any fun p => ueRange s p.1 p.2 then (.error (.memUe, some a), s)
    else
      let (tags, s) := demandParts s c a parts
      (.ok (parts.flatMap fun p => s.rdBytes p.1 p.2), s.updCmd r.queue r.seq (·.noteTags tags))

def isConfig (a : Nat) : Bool := match areaOf a with | .config _ => true | _ => false
def configOff (a : Nat) : Nat := a - 0x70000000000

/-- An owner-mode load of configuration space (R525, R526). -/
def gcReadConfig (s : State) (a n : Nat) : GcAns × State :=
  match readReg s (configOff a) n with
  | (.ok v, s) => (.ok (leBytes n v), s)
  | (.unassigned, s) => (.error (.load, some a), s)
  | (.width, s) => (.error (.misalign, some a), s)

/-- A read of `n` bytes that lie in one naturally aligned block (R261, R263, R265). -/
def gcRead (s : State) (g : Nat) (r : GcRun) (a n : Nat) : GcAns × State :=
  let x := s.gc g
  let own := ownerMode s g
  if isCore a then
    let o := coreOff a
    if o + n ≤ 0x10000 && own then (.ok (cellsAt (imemSeen x) o n), s)
    else if 0x10000 ≤ o && o + n ≤ 0x30000 && (own || 0x10000 + 4096 * r.ownDmem ≤ o) then
      (.ok (cellsAt x.dmem (o - 0x10000) n), s)
    else (.error (.load, some a), s)
  else if 2 ^ 43 ≤ a then (.error (.load, some a), s)
  else if own && isConfig a then gcReadConfig s a n
  else if !own && (isConfig a || !rgnOk s g RGN_LIM_R a) then (.error (.load, some a), s)
  else gcReadMem s g r a n

/-- A misaligned access of owner mode in configuration space also sets DEV_ERR (R526). -/
def misaligned (s : State) (g a n : Nat) (wr : Bool) : State :=
  if ownerMode s g && a < 2 ^ 43 && isConfig a then
    (if wr then (writeReg s (configOff a) n 0).2 else (readReg s (configOff a) n).2)
  else s

/-- A load of `n` bytes, naturally aligned (R267). -/
def gcLoad (s : State) (g : Nat) (r : GcRun) (a n : Nat) : GcAns × State :=
  if a % n != 0 then (.error (.misalign, some a), misaligned s g a n false) else gcRead s g r a n

/-- A store's answer: why it faults, if it does. An uncorrectable error is kept for a later report (R271). -/
def gcWriteMem (s : State) (g : Nat) (r : GcRun) (a : Nat) (d : List Byte) : Option (GcExc × Option Nat) × State :=
  match resolve s (gcCtx s g r) a d.length true with
  | (.error er, s) => let x := gcAccErr s .store a true er; (some x.1, x.2)
  | (.ok parts, s) =>
    match parts with
    | [] => (none, s)
    | p :: _ =>
      let (t, bad) := (touch s p.1).wrLocal p.1 d
      let x := t.gc g
      (none, if bad && x.storeUe.isNone then t.setGc g { x with storeUe := some a } else t)

def gcWriteConfig (s : State) (a : Nat) (d : List Byte) : Option (GcExc × Option Nat) × State :=
  match writeReg s (configOff a) d.length (leNat d) with
  | (.ok _, s) => (none, s)
  | (.unassigned, s) => (some (.store, some a), s)
  | (.width, s) => (some (.misalign, some a), s)

/-- A store, naturally aligned (R261, R263, R265, R267). -/
def gcStore (s : State) (g : Nat) (r : GcRun) (a : Nat) (d : List Byte) : Option (GcExc × Option Nat) × State :=
  let x := s.gc g
  let own := ownerMode s g
  let n := d.length
  if a % n != 0 then (some (.misalign, some a), misaligned s g a n true)
  else if isCore a then
    let o := coreOff a
    if o + n ≤ 0x10000 && own then
      (none, s.setGc g { x with ipend := x.ipend ++ d.zipIdx.map fun bi => (o + bi.2, bi.1) })
    else if 0x10000 ≤ o && o + n ≤ 0x30000 && (own || 0x10000 + 4096 * r.ownDmem ≤ o) then
      (none, s.setGc g { x with dmem := putCells x.dmem (o - 0x10000) d })
    else (some (.store, some a), s)
  else if 2 ^ 43 ≤ a then (some (.store, some a), s)
  else if own && isConfig a then gcWriteConfig s a d
  else if !own && (isConfig a || !rgnOk s g RGN_LIM_W a) then (some (.store, some a), s)
  else gcWriteMem s g r a d

/-! Fetch. -/

/-- Replace a line of the full fetch buffer: which one is left open (R259). -/
def fillLine (s : State) (g line : Nat) (d : List Byte) : State :=
  let x := s.gc g
  if x.fbuf.length < 8 then s.setGc g { x with fbuf := (line, d) :: x.fbuf }
  else
    let k := Config.freeNat s.free % 8
    { s with free := s.free + 1 }.setGc g { x with fbuf := (line, d) :: x.fbuf.eraseIdx k }

/-- Fetch from a scratch window through the 8-line buffer (R259, R314). -/
def fetchScratch (s : State) (g a : Nat) : Except (GcExc × Option Nat) Nat × State :=
  let x := s.gc g
  match x.fbuf.find? fun l => l.1 == a / 64 with
  | some l => (.ok (byteN l.2 (a % 64) 4), s)
  | none =>
    let base := a / 64 * 64
    let s := touch s base
    if ueRange s base 64 then (.error (.memUe, some a), s)
    else
      let d := s.rdBytes base 64
      (.ok (byteN d (a % 64) 4), fillLine s g (a / 64) d)

/-- Fetch the word at the core's pc (R263, R265). -/
def gcFetch (s : State) (g : Nat) (r : GcRun) : Except (GcExc × Option Nat) Nat × State :=
  let x := s.gc g
  let a := x.pc
  let own := ownerMode s g
  let bad : Except (GcExc × Option Nat) Nat := .error (.fetch, some a)
  if a % 4 != 0 then (bad, s)
  else if isCore a then
    let o := coreOff a
    if o + 4 ≤ 0x10000 && (own || 4096 * r.ownImem ≤ o) then (.ok (leNat (cellsAt x.imem o 4)), s) else (bad, s)
  else if 2 ^ 43 ≤ a then (bad, s)
  else if !own && !rgnOk s g RGN_LIM_X a then (bad, s)
  else
    match areaOf a with
    | .scratch p o => if (if own then inScratch s p o else inUser s p o) then fetchScratch s g a else (bad, s)
    | .unassigned => (bad, s.devErr DEV_ERR_UNASSIGNED a false)
    | _ => (bad, s)

/-! One instruction. -/

/-- What an instruction does. -/
inductive GcOut where
  /-- it retires, and the core goes on at `pc` -/
  | go (s : State) (pc : Nat)
  | exc (e : GcExc) (addr : Option Nat) (s : State)
  /-- the core has blocked, moved or ended as the state says -/
  | keep (s : State)

/-- The GRUN of core `g`, where its next instruction can execute: not blocked, but for an ISSUE on a full ring, which
tries again. -/
def gcRunning (s : State) (g : Nat) (op : GcOp) : Option GcRun :=
  let x := s.gc g
  match x.run with
  | none => none
  | some r =>
    if unitUp s r.queue && (x.blocked == .no || (x.blocked == .issue && op == .issue)) then some r else none

/-- Apply what an instruction does. -/
def gcApply (g : Nat) : GcOut → State
  | .go s pc => s.gcAdvance g pc
  | .exc e a s => gcRaise s g e a
  | .keep s => s

/-- Core `g` executes its next instruction, if it is `op`. A fetch that faults, and a word that spells no instruction,
take their exception in whatever row the event names. -/
def gcStep (s : State) (g : Nat) (op : GcOp) (body : State → GcRun → Nat → GcOut) : State :=
  match gcRunning s g op with
  | none => s
  | some r =>
    match gcFetch s g r with
    | (.error e, t) => gcRaise t g e.1 e.2
    | (.ok w, t) =>
      match decodeGc w with
      | none => gcRaise t g .illegal none
      | some o => if o == op then gcApply g (body t r w) else s

/-- The value of a register of core `g`. -/
def gval (s : State) (g r : Nat) : W64 := (s.gc g).rd r

/-- An instruction that writes RD and goes on: `f` gives the value from the state and the word. -/
def putReg (s : State) (g rd : Nat) (v : W64) : State := s.setGc g ((s.gc g).wr rd v)

def pcNext (s : State) (g : Nat) : Nat := (s.gc g).pc + 4

/-- An instruction of three registers (format A). -/
def gcAlu (g : Nat) (f : W64 → W64 → W64) (s : State) (_ : GcRun) (w : Nat) : GcOut :=
  .go (putReg s g (wX w) (f (gval s g (wY w)) (gval s g (wZ w)))) (pcNext s g)

/-- An instruction of a register and a constant (format B). -/
def gcImm (g : Nat) (f : W64 → Nat → W64) (s : State) (_ : GcRun) (w : Nat) : GcOut :=
  .go (putReg s g (wX w) (f (gval s g (wY w)) w)) (pcNext s g)

/-- The FP32 code in bits [31:0] of a register (R268). -/
def lo32 (v : W64) : Nat := v.toNat % 2 ^ 32

def fpRes (n : Nat) : W64 := BitVec.ofNat 64 (n % 2 ^ 32)

/-- A branch (format C): RA and RB are compared. -/
def gcBranch (g : Nat) (f : W64 → W64 → Bool) (s : State) (_ : GcRun) (w : Nat) : GcOut :=
  .go s (if f (gval s g (wY w)) (gval s g (wX w)) then (s.gc g).pc + 4 * wSext w else pcNext s g)

/-- The address RA + sext(IMM). -/
def gcAddr (s : State) (g w : Nat) : Nat := ((gval s g (wY w)).toNat + wSext w) % 2 ^ 64

/-- An address of scratch or main memory counts in PCC3. -/
def countsLoad (a : Nat) : Bool := !isCore a && !isConfig a

/-- A load of `n` bytes into RD. -/
def gcLd (g n : Nat) (s : State) (r : GcRun) (w : Nat) : GcOut :=
  let a := gcAddr s g w
  match gcLoad s g r a n with
  | (.error e, t) => .exc e.1 e.2 t
  | (.ok d, t) =>
    let t := if countsLoad a then t.gcCount g 3 1 else t
    .go (putReg t g (wX w) (BitVec.ofNat 64 (leNat d))) (pcNext t g)

/-- A store of the low `n` bytes of RB. -/
def gcSt (g n : Nat) (s : State) (r : GcRun) (w : Nat) : GcOut :=
  match gcStore s g r (gcAddr s g w) (leBytes n (gval s g (wX w)).toNat) with
  | (some e, t) => .exc e.1 e.2 t
  | (none, t) => .go t (pcNext t g)

/-- An uncorrectable error of an earlier store is reported first (R271). -/
def ueFirst (g : Nat) (s : State) (k : State → GcOut) : GcOut :=
  match (s.gc g).storeUe with
  | some a => .exc .memUe (some a) (s.setGc g { s.gc g with storeUe := none })
  | none => k s

/-- An effect instruction (R277, R278): a recorded one returns its result; another acts. -/
def gcEffect (g kind : Nat) (s : State) (r : GcRun) (w : Nat) (act : State → GcOut) : GcOut :=
  match (s.jent r.queue r.seq).effects[r.ord]? with
  | some (k, v) =>
    if k = kind then
      let x := s.gc g
      let s := s.setGc g { (x.wr (wX w) (BitVec.ofNat 64 v)) with run := some { r with ord := r.ord + 1 } }
      .go (s.gcCount g 2 1) (pcNext s g)
    else .exc .replay none s
  | none => if r.ord ≥ 16384 then .exc .effectLimit none s else act s

/-! The start of a GRUN (R285). -/

/-- Read part of a program image as its mode addresses memory; the status with which the GRUN ends if it cannot. The
region table governs the accesses that R265 lists, not this one. -/
def readImage (s : State) (g q : Nat) (own : Bool) (a n : Nat) : Except Nat (List Byte) × State :=
  let c : Ctx := if own then ⟨g / 4, 0, false, true, q⟩ else ctxOfQ s q
  if n = 0 then (.ok [], s)
  else if isConfig a || isConfig (a + n - 1) then (.error 0x10, s)
  else
    match resolve s c a n false with
    | (.error er, s) =>
      (match er with
        | .ue _ => (.error 0x30, s)
        | .unassigned b => (.error 0x10, s.devErr DEV_ERR_UNASSIGNED b false)
        | _ => (.error 0x10, s))
    | (.ok parts, s) =>
      let s := parts.foldl (fun s p => touch s p.1) s
      if parts.any fun p => ueRange s p.1 p.2 then (.error 0x30, s)
      else
        let (tags, s) := demandParts s c a parts
        (.ok (parts.flatMap fun p => s.rdBytes p.1 p.2),
          (s.q q).started.foldl (fun s c => if opcOf c.raw.toNat == 8 && c.phase == .ready then
            s.updCmd q c.seq (·.noteTags tags) else s) s)

/-- The header of an image: CODE_LEN, DATA_LEN, ENTRY, IMAGE_ID; none where a length, ENTRY or a reserved field is
wrong for parts of `ipart` and `dpart` bytes. -/
def imageHeader (h : List Byte) (ipart dpart : Nat) : Option (Nat × Nat × Nat × Nat) :=
  let code := byteN h 0 4
  let dat := byteN h 4 4
  let entry := byteN h 8 4
  if code % 4 == 0 && 4 ≤ code && code ≤ ipart && dat ≤ dpart && entry % 4 == 0 && entry < code
      && byteN h 12 4 == 0 && byteN h 24 40 == 0 then some (code, dat, entry, byteN h 16 8)
  else none

/-- The status registers of a core whose GRUN starts (R264, R286). -/
def startStat (s : State) (g q seq : Nat) (own : Bool) : State :=
  let s := (((s.set GC_STAT_MODE (b2n own) g).set GC_STAT_INH 0 g).set GC_STAT_RUNNING 1 g).set GC_STAT_BLOCKED 0 g
  ((s.set GC_RUN_QUEUE q g).set GC_RUN_SEQ seq g).set GC_RUN_ORDINAL (s.jent q seq).effects.length g

/-- The core's state at the first instruction: memories loaded, registers of R260. -/
def loadCore (x : GcState) (run : GcRun) (img : Nat × Nat × Nat) (code : Option (List Byte)) (dat : List Byte)
    (dbase pc : Nat) (args : List Nat) : GcState :=
  let x := x.fenced
  { x with
    g := (upto 4).map fun i => (i + 1, BitVec.ofNat 64 (listGet args i 0))
    pc := pc
    imem := match code with | some d => putCells x.imem img.2.2 d | none => x.imem
    dmem := putCells x.dmem dbase dat
    image := if code.isSome then some img else x.image
    run := some run, blocked := .no, storeUe := none }

/-- A GRUN starts on core `g`: the image is loaded and the core runs from ENTRY, or the GRUN completes at once. The code
is not loaded again where the core's last loaded code came from the same IMAGE with the same IMAGE_ID, whatever the
mode's part is now; the code base is the base of that part (R285; DEDUCED, log 151). -/
def grunStart (s : State) (q : Nat) (c : Cmd) : State :=
  let g := hGlobal (s.qget QTAB_CFG_CONSUMER q)
  let raw := c.raw.toNat
  let fail (st : Nat) (s : State) : State := s.updCmd q c.seq fun c => { c with phase := .done st }
  let image := cf raw 16 0 43
  let own := s.flag GC_CFG_OWNER_V g && s.get GC_CFG_OWNER_Q g == q
  let oi := min 16 (s.get GC_CFG_OWN_IMEM g)
  let od := min 32 (s.get GC_CFG_OWN_DMEM g)
  let ibase := if own then 0 else 4096 * oi
  let dbase := if own then 0 else 4096 * od
  let ipart := if own then 4096 * oi else 0x10000 - 4096 * oi
  let dpart := if own then 4096 * od else 0x20000 - 4096 * od
  match readImage s g q own image 64 with
  | (.error st, s) => fail st s
  | (.ok h, s) =>
    match imageHeader h ipart dpart with
    | none => fail 0x10 s
    | some (code, dat, entry, id) =>
      let known := match (s.gc g).image with | some l => l.1 == image && l.2.1 == id | none => false
      match readImage s g q own (image + 64) (if known then 0 else code) with
      | (.error st, s) => fail st s
      | (.ok cb, s) =>
        match readImage s g q own (image + 64 + roundUp 64 code) dat with
        | (.error st, s) => fail st s
        | (.ok db, s) =>
          let run : GcRun := ⟨q, c.seq, hGlobal (homeOfQ s q), 0, oi, od⟩
          let x := loadCore (s.gc g) run (image, id, ibase) (if known then none else some cb) db dbase
            (2 ^ 63 + ibase + entry) ((upto 4).map fun i => cf raw (24 + 8 * i) 0 64)
          (startStat (s.setGc g x) g q c.seq own).updCmd q c.seq fun c => { c with phase := .running }

/-- GRUN (R285). -/
def execGrun (q : Nat) (s : State) : Res :=
  .next (match unitCmd s q 8 with | none => s | some c => grunStart s q c)

end Sys2Proof.Machine
end

