-- ==== Sys2Proof/Machine/GcInstr.lean ====
section
/-! DEFINITION. The instructions of the general cores (R267 to R284): each row is core `g` executing its next
instruction. -/

namespace Sys2Proof.Machine

open Sys2Proof

/-! Integer arithmetic, modulo 2^64 (R267). -/

def execAdd (g : Nat) (s : State) : Res := .next (gcStep s g .add (gcAlu g fun a b => a + b))

def execSub (g : Nat) (s : State) : Res := .next (gcStep s g .sub (gcAlu g fun a b => a - b))

def execMul (g : Nat) (s : State) : Res := .next (gcStep s g .mul (gcAlu g fun a b => a * b))

def execAnd (g : Nat) (s : State) : Res := .next (gcStep s g .and_ (gcAlu g fun a b => a &&& b))

def execOr (g : Nat) (s : State) : Res := .next (gcStep s g .or_ (gcAlu g fun a b => a ||| b))

def execXor (g : Nat) (s : State) : Res := .next (gcStep s g .xor (gcAlu g fun a b => a ^^^ b))

def execShl (g : Nat) (s : State) : Res := .next (gcStep s g .shl (gcAlu g fun a b => a <<< (b.toNat % 64)))

def execShr (g : Nat) (s : State) : Res := .next (gcStep s g .shr (gcAlu g fun a b => a >>> (b.toNat % 64)))

def execCmplu (g : Nat) (s : State) : Res :=
  .next (gcStep s g .cmplu (gcAlu g fun a b => if a.toNat < b.toNat then 1 else 0))

/-! FP32 (R268). -/

def execFadd (g : Nat) (s : State) : Res :=
  .next (gcStep s g .fadd (gcAlu g fun a b => fpRes (fp32.addC (lo32 a) (lo32 b))))

def execFsub (g : Nat) (s : State) : Res :=
  .next (gcStep s g .fsub (gcAlu g fun a b => fpRes (fp32.subC (lo32 a) (lo32 b))))

def execFmul (g : Nat) (s : State) : Res :=
  .next (gcStep s g .fmul (gcAlu g fun a b => fpRes (fp32.mulC (lo32 a) (lo32 b))))

def execFdiv (g : Nat) (s : State) : Res :=
  .next (gcStep s g .fdiv (gcAlu g fun a b => fpRes (fp32.divC (lo32 a) (lo32 b))))

def execFsqrt (g : Nat) (s : State) : Res := .next (gcStep s g .fsqrt (gcAlu g fun a _ => fpRes (fp32.sqrtC (lo32 a))))

def execFcmplt (g : Nat) (s : State) : Res :=
  .next (gcStep s g .fcmplt (gcAlu g fun a b => if (f32 (lo32 a)).lt (f32 (lo32 b)) then 1 else 0))

def execFcvti (g : Nat) (s : State) : Res :=
  .next (gcStep s g .fcvti (gcAlu g fun a _ => BitVec.ofInt 64 (fcvti (lo32 a))))

def execIcvtf (g : Nat) (s : State) : Res := .next (gcStep s g .icvtf (gcAlu g fun a _ => fpRes (f32ofInt a.toInt)))

/-! Constants. -/

def execAddk (g : Nat) (s : State) : Res := .next (gcStep s g .addk (gcImm g fun a w => a + BitVec.ofNat 64 (wSext w)))

def execAndk (g : Nat) (s : State) : Res := .next (gcStep s g .andk (gcImm g fun a w => a &&& BitVec.ofNat 64 (wImm w)))

def execOrk (g : Nat) (s : State) : Res := .next (gcStep s g .ork (gcImm g fun a w => a ||| BitVec.ofNat 64 (wImm w)))

def execShlk (g : Nat) (s : State) : Res := .next (gcStep s g .shlk (gcImm g fun a w => a <<< (wImm w % 64)))

def execShrk (g : Nat) (s : State) : Res := .next (gcStep s g .shrk (gcImm g fun a w => a >>> (wImm w % 64)))

def execSark (g : Nat) (s : State) : Res := .next (gcStep s g .sark (gcImm g fun a w => a.sshiftRight (wImm w % 64)))

def execHik (g : Nat) (s : State) : Res := .next (gcStep s g .hik (gcImm g fun _ w => BitVec.ofNat 64 (wSext w) <<< 16))

/-! Loads and stores. -/

def execLd8 (g : Nat) (s : State) : Res := .next (gcStep s g .ld8 (gcLd g 1))

def execLd16 (g : Nat) (s : State) : Res := .next (gcStep s g .ld16 (gcLd g 2))

def execLd32 (g : Nat) (s : State) : Res := .next (gcStep s g .ld32 (gcLd g 4))

def execLd64 (g : Nat) (s : State) : Res := .next (gcStep s g .ld64 (gcLd g 8))

def execSt8 (g : Nat) (s : State) : Res := .next (gcStep s g .st8 (gcSt g 1))

def execSt16 (g : Nat) (s : State) : Res := .next (gcStep s g .st16 (gcSt g 2))

def execSt32 (g : Nat) (s : State) : Res := .next (gcStep s g .st32 (gcSt g 4))

def execSt64 (g : Nat) (s : State) : Res := .next (gcStep s g .st64 (gcSt g 8))

/-! Branches and calls. A target outside the fetchable spaces faults when it is fetched (R267). -/

def execBreq (g : Nat) (s : State) : Res := .next (gcStep s g .breq (gcBranch g fun a b => a == b))

def execBrne (g : Nat) (s : State) : Res := .next (gcStep s g .brne (gcBranch g fun a b => a != b))

def execBrlt (g : Nat) (s : State) : Res := .next (gcStep s g .brlt (gcBranch g fun a b => a.toInt < b.toInt))

def execBrge (g : Nat) (s : State) : Res := .next (gcStep s g .brge (gcBranch g fun a b => a.toInt ≥ b.toInt))

def execBrltu (g : Nat) (s : State) : Res := .next (gcStep s g .brltu (gcBranch g fun a b => a.toNat < b.toNat))

def execBrgeu (g : Nat) (s : State) : Res := .next (gcStep s g .brgeu (gcBranch g fun a b => a.toNat ≥ b.toNat))

/-- CALL: the word's own 21-bit constant. -/
def callBody (g : Nat) (s : State) (_ : GcRun) (w : Nat) : GcOut :=
  .go (putReg s g (wX w) (BitVec.ofNat 64 (pcNext s g))) ((s.gc g).pc + 4 * wLong w)

def execCall (g : Nat) (s : State) : Res := .next (gcStep s g .call (callBody g))

/-- CALLR: the target is taken before RD is written. -/
def callrBody (g : Nat) (s : State) (_ : GcRun) (w : Nat) : GcOut :=
  .go (putReg s g (wX w) (BitVec.ofNat 64 (pcNext s g))) (gcAddr s g w / 4 * 4)

def execCallr (g : Nat) (s : State) : Res := .next (gcStep s g .callr (callrBody g))

/-! Ordering, waiting and the end (R271, R272, R283). -/

def fenceBody (g : Nat) (s : State) (_ : GcRun) (_ : Nat) : GcOut :=
  ueFirst g s fun s => .go (s.setGc g (s.gc g).fenced) (pcNext s g)

def execFence (g : Nat) (s : State) : Res := .next (gcStep s g .fence (fenceBody g))

def yieldBody (g : Nat) (s : State) (_ : GcRun) (w : Nat) : GcOut :=
  let n := (gval s g (wY w)).toNat
  if n = 0 then .go s (pcNext s g) else .keep (s.gcBlock g (.yield (s.stamp + n)))

def execYield (g : Nat) (s : State) : Res := .next (gcStep s g .yield (yieldBody g))

/-- YIELD_TIMEOUT: RA nanoseconds have passed on the global count. -/
def execYieldTimeout (g : Nat) (s : State) : Res :=
  .next (
    match (s.gc g).run, (s.gc g).blocked with
    | some r, .yield n => if unitUp s r.queue && n ≤ s.stamp then s.gcAdvance g (pcNext s g) else s
    | _, _ => s)

/-- The statuses that HALT may give (R283, R302). -/
def haltOk (own : Bool) (st : Nat) : Bool :=
  if own then [0x00, 0x10, 0x11, 0x12, 0x13, 0x20, 0x30, 0x3F].contains st else st == 0 || st == 0x3F

def haltBody (g : Nat) (s : State) (_ : GcRun) (w : Nat) : GcOut :=
  ueFirst g s fun s =>
    let s := s.setGc g (s.gc g).fenced
    let st := (gval s g (wY w)).toNat % 256
    if haltOk (ownerMode s g) st then .keep (endGrun (s.gcAdvance g (pcNext s g)) g st) else .exc .haltCode none s

def execHalt (g : Nat) (s : State) : Res := .next (gcStep s g .halt (haltBody g))

def tretBody (g : Nat) (s : State) (_ : GcRun) (_ : Nat) : GcOut :=
  if !ownerMode s g then .exc .priv none s
  else .go ((s.set GC_STAT_MODE (s.get GC_ECAUSE_PMODE g) g).set GC_STAT_INH 0 g) (s.get GC_EPC_VALUE g)

def execTret (g : Nat) (s : State) : Res := .next (gcStep s g .tret (tretBody g))

def execTrap (g : Nat) (s : State) : Res := .next (gcStep s g .trap fun s _ w => .exc (.trap (wImm w)) none s)

/-! Control registers (R284). -/

/-- The configuration offset of control register `n` of core `g`. -/
def crOff (g n : Nat) : Nat := 0x4000000 + 0x10000 * g + 8 * n

/-- The control registers that job mode may read (R286): GC_ISSQ, GC_STAT, GC_HANDLE, GC_RUN, GC_INSTR, GC_TIME. -/
def jobReads (n : Nat) : Bool := [1, 2, 8, 9, 10, 11].contains n

def crrBody (g : Nat) (s : State) (_ : GcRun) (w : Nat) : GcOut :=
  let n := wImm w % 4096
  if (regOf (crOff g n)).isNone then .exc .illegal none s
  else if !ownerMode s g && !jobReads n then .exc .priv none s
  else
    match readReg s (crOff g n) 8 with
    | (.ok v, t) => .go (putReg t g (wX w) (BitVec.ofNat 64 v)) (pcNext t g)
    | (_, t) => .exc .illegal none t

def execCrr (g : Nat) (s : State) : Res := .next (gcStep s g .crr (crrBody g))

def crwBody (g : Nat) (s : State) (_ : GcRun) (w : Nat) : GcOut :=
  let n := wImm w % 4096
  if !ownerMode s g then .exc .priv none s
  else if (regOf (crOff g n)).isNone then .exc .illegal none s
  else
    let t := (writeReg s (crOff g n) 8 (gval s g (wX w)).toNat).2
    .go t (pcNext t g)

def execCrw (g : Nat) (s : State) : Res := .next (gcStep s g .crw (crwBody g))

/-! ISSUE and semaphores (R273 to R278). -/

/-- ISSUE may name queue `q`: it is enabled, and in job mode it lies in GC_ISSQ's range. GC_ISSQ is judged once: an ISSUE
that waits on a full ring is under way, and a write of GC_ISSQ applies to the next one (R288). -/
def issueOk (s : State) (g q : Nat) : Bool :=
  q < 16384 && qEn s q && (ownerMode s g || (s.gc g).blocked == .issue
    || (s.get GC_ISSQ_BASE g ≤ q && q < s.get GC_ISSQ_BASE g + s.get GC_ISSQ_COUNT g))

/-- The slot write and the doorbell, as one step (R295). -/
def issueAppend (g q rd : Nat) (s : State) (cmd : List Byte) : GcOut :=
  let t := qTail s q
  let a := slotAddr s q t
  if !plainOk s a 64 then .exc .store (some a) s
  else
    match (touch s a).wrLocal a cmd with
    | (_, true) => .exc .memUe (some a) s
    | (u, false) => .keep (((doorbell u q ((t + 1) % 2 ^ 32)).gcCount g 4 1).effectDone g effIssue rd 1)

def issueAct (g : Nat) (r : GcRun) (w : Nat) (s : State) : GcOut :=
  let a := (gval s g (wY w)).toNat
  let q := (gval s g (wZ w)).toNat
  if a % 64 != 0 then .exc .misalign (some a) s
  else if (if isCore a then coreOff a < 0x10000 else isConfig a) then .exc .load (some a) s
  else
    match gcRead s g r a 64 with
    | (.error e, t) => .exc e.1 e.2 t
    | (.ok cmd, t) =>
      if !issueOk t g q then .exc .issueBad none t
      else if qFree t q = 0 then
        (if wFn w % 2 = 1 then .keep (t.effectDone g effIssue (wX w) 0)
         else .keep (if (t.gc g).blocked == .issue then t else t.gcBlock g .issue))
      else issueAppend g q (wX w) t cmd

def execIssue (g : Nat) (s : State) : Res :=
  .next (gcStep s g .issue fun s r w => ueFirst g s fun s => gcEffect g effIssue s r w (issueAct g r w))

/-- RA as a reference for a signal, with RB in its range (R274). -/
def sigRef (v n : Nat) : Option SemRef := if n < 2 ^ 32 then semRefSig v n else none

/-- RA as a reference for WAIT, TRYWAIT or DEC, with RB in its range. -/
def ownRef (s : State) (r : GcRun) (v n : Nat) : Option SemRef :=
  if n < 2 ^ 32 then semRefOwn v n (hGc r.home) s.me else none

def sigAct (g : Nat) (r : GcRun) (w : Nat) (s : State) : GcOut :=
  let n := (gval s g (wZ w)).toNat
  match sigRef (gval s g (wY w)).toNat n with
  | none => .exc .semRef none s
  | some ref => .keep ((s.signalRef ref n ⟨0, hGc g, s.me, r.seq⟩).effectDone g effSig (wX w) 0)

def execSig (g : Nat) (s : State) : Res :=
  .next (gcStep s g .sig fun s r w => ueFirst g s fun s => gcEffect g effSig s r w (sigAct g r w))

def waitAct (g : Nat) (r : GcRun) (w : Nat) (s : State) : GcOut :=
  let n := (gval s g (wZ w)).toNat
  match ownRef s r (gval s g (wY w)).toNat n with
  | none => .exc .semRef none s
  | some ref => .keep ((s.gcBlock g (.wait (wX w))).semJoin ref.off ⟨.instr, r.queue, r.seq, n⟩)

def execWait (g : Nat) (s : State) : Res :=
  .next (gcStep s g .wait fun s r w => gcEffect g effWait s r w (waitAct g r w))

def trywaitAct (g : Nat) (r : GcRun) (w : Nat) (s : State) : GcOut :=
  let n := (gval s g (wZ w)).toNat
  match ownRef s r (gval s g (wY w)).toNat n with
  | none => .exc .semRef none s
  | some ref =>
    match s.semTry ref.off n with
    | some t => .keep (t.effectDone g effTry (wX w) 1)
    | none => .keep (s.effectDone g effTry (wX w) 0)

def execTrywait (g : Nat) (s : State) : Res :=
  .next (gcStep s g .trywait fun s r w => gcEffect g effTry s r w (trywaitAct g r w))

def decAct (g : Nat) (r : GcRun) (w : Nat) (s : State) : GcOut :=
  let n := (gval s g (wZ w)).toNat
  match ownRef s r (gval s g (wY w)).toNat n with
  | none => .exc .semRef none s
  | some ref =>
    match s.semDec ref.off n with
    | (t, true) => .keep (t.effectDone g effDec (wX w) 0)
    | (t, false) => .exc .semUnder none t

def execDec (g : Nat) (s : State) : Res :=
  .next (gcStep s g .dec fun s r w => gcEffect g effDec s r w (decAct g r w))

/-- SUMR: the summary register of the home core, whole (R275, R276). -/
def sumrBody (g : Nat) (s : State) (r : GcRun) (w : Nat) : GcOut :=
  .go (putReg s g (wX w) (s.rg VE_SUM r.home (wImm w % 16))) (pcNext s g)

def execSumr (g : Nat) (s : State) : Res := .next (gcStep s g .sumr (sumrBody g))

end Sys2Proof.Machine
end

