-- ==== Sys2Proof/Machine/Links.lean ====
section
/-! DEFINITION. Data frames at their arrival (chapter 12): the checks of one link (R357, R359), transit and paths (R361,
R363), streams with their order and duplicates (R360), what each frame type does at its destination (R355), answers, and
the loss of a destination (R422). -/

namespace Sys2Proof.Machine

open Sys2Proof

/-! One link (R357). -/

/-- The state of the port carries a data frame. -/
def carriesData (s : State) (f : RxFrame) : Bool :=
  portState s f.port == 4
    || (portState s f.port == 3 && rxByPath f && (f.type == 8 || f.type == 9 || f.type == 0xB || f.type == 0xC))

/-- Units of 64 bytes that a frame fills. -/
def rxUnits (f : RxFrame) : Nat := ((if f.ext then 56 else 32) + f.payload.length + 63) / 64

/-- The port delivers a frame: the expected LSEQ advances, with the key where LSEQ wraps (R365), the frame's buffer
space is freed, an acknowledgement is due, and LACK is taken. -/
def deliver (s : State) (f : RxFrame) : State :=
  let p := f.port
  let x := s.port p
  let vc := vcOf f.type
  let x := { x with
    rxLseq := (x.rxLseq + 1) % 2 ^ 32
    rxAlive := ins x.rxAlive vc ((lookD x.rxAlive vc 0 + 1) % 256)
    freed := ins x.freed vc (lookD x.freed vc 0 + rxUnits f)
    nak := false
    ackDue := true }
  let x := if x.rxLseq = 0 then
      match x.nextRx with
      | some k => { x with rxKey := k, oldRxKey := some x.rxKey, nextRx := none, rxKep := 1 - x.rxKep }
      | none => x
    else x
  let s := traceFrame (s.setPort p x) p f.type f.len f.dst f.src f.addr f.eseq 1
  takeAck s p (extend16 (s.port p).txLseq ((f.lack + 1) % 65536))

/-- A data frame at its port (R357): delivered with its payload in clear, or discarded. -/
def takeData (s : State) (f : RxFrame) : Option (List Byte) × State :=
  let p := f.port
  if p ≥ 12 || !portsUp s || !carriesData s f then (none, s)
  else
    let s := frameWakes s
    let x := s.port p
    let n := extend16 x.rxLseq f.lseq
    if !f.fecOk || !crcOk s f n then (none, badFrame (s.bump LNK_CNT_CRC 1 p) p)
    else if n != x.rxLseq then
      if (n + 2 ^ 32 - x.rxLseq) % 2 ^ 32 ≥ 2 ^ 31 then (none, s.setPort p { x with ackDue := true })
      else (none, badFrame s p)
    else if !f.ext && f.alive != lookD x.rxAlive (vcOf f.type) 0 then (none, badFrame s p)
    else
      let opened := if f.kep == x.rxKep then openFrame f n x.rxKey else none
      match opened with
      | none =>
        let s := badTag s p
        (none, if carriesData s f then badFrame s p else s)
      | some d =>
        let s := deliver s f
        if fieldsOk f && (!rxByPath f || f.type == 8 || f.type == 9 || f.type == 0xB || f.type == 0xC) then (some d, s)
        else (none, s.sat LNK_CNT_PROTO 1 p)

/-! Transit. -/

/-- Send a frame on: by its destination, or by its path with this arrival port noted. Until it goes it stands in its
port's receive buffer (R356). -/
def passOn (s : State) (f : RxFrame) (d : List Byte) : State :=
  let rp := if rxByPath f then pathOf (pathNibbles f.rpath ++ [f.port]) else f.rpath
  let x := s.port f.port
  let vc := vcOf f.type
  let s := s.setPort f.port { x with freed := ins x.freed vc (lookD x.freed vc 0 - rxUnits f) }
  s.sendFrame ⟨f.type, true, f.len, 0, 0, 0, f.dst, f.src, f.eseq, f.addr, 0, rp,
    if f.ext then f.path else 2 ^ 48 - 1, d, some (f.port, rxUnits f)⟩

/-! Streams (R360). -/

/-- A path-routed request at its target (R363): it is a duplicate if its ESEQ is among the 32,768 up to the last one that
came by its path. DESIGN CHOICE (log entry 135): R360 counts streams by devices' numbers, which a path-routed sender and
target may not have; a path stands for the sender. -/
def pathRequest (s : State) (f : RxFrame) : Bool × State :=
  let k := (1 + pathBack f) * 2 ^ 16 + f.src * 4 + vcOf f.type
  match look s.link.rx k with
  | some e =>
    if (f.eseq + 65536 - e) % 65536 < 32768 then
      (false, { s with link := { s.link with rx := ins s.link.rx k ((f.eseq + 1) % 65536) } })
    else (true, s)
  | none => (false, { s with link := { s.link with rx := ins s.link.rx k ((f.eseq + 1) % 65536) } })

/-- A frame of `type` arrives; `late` is the state if the frame must wait in its port, or its payload makes it another
frame than the command names; `act` is what it does here, given whether it is a duplicate. A frame of the reserved type
0xF is discarded and counted. -/
def receive (s : State) (f : RxFrame) (type : Nat) (late : List Byte → Option State) (act : State → Bool → List Byte → State) : State :=
  if f.type == 0xF then (takeData s f).2
  else if f.type != type then s
  else
    match takeData s f with
    | (none, t) => t
    | (some d, t) =>
      match late d with
      | some s' => s'
      | none =>
      if rxByPath f then
        if f.path % 16 == 15 then
          let (dup, t) := if vcOf f.type = 0 then pathRequest t f else (false, t)
          (act t dup d).flushLinks
        else if f.path % 16 < 12 then passOn t f d
        else t.sat LNK_CNT_PROTO 1 f.port
      else if f.dst != t.num then passOn t f d
      else
        let k := f.src * 4 + vcOf f.type
        let e := lookD t.link.rx k 0
        let ahead := (f.eseq + 65536 - e) % 65536
        if ahead = 0 then
          (act { t with link := { t.link with rx := ins t.link.rx k ((e + 1) % 65536) } } false d).flushLinks
        else if ahead < 32768 then t.flushLinks
        else (act t true d).flushLinks

/-! Requests at their destination (R355). -/

/-- Where a WRITE or READ_REQ reaches. -/
inductive FrameAt where
  | here
  | host
  | nowhere
  deriving DecidableEq, Repr

def frameAt (s : State) (a n : Nat) : FrameAt :=
  match areaOf a with
  | .main => if areaOf (a + n - 1) == .main then .here else .nowhere
  | .scratch p o => if o + n ≤ 0x2000000 && inUser s p o && inUser s p (o + n - 1) then .here else .nowhere
  | .host => if hostOpen s && areaOf (a + n - 1) == .host then .host else .nowhere
  | _ => .nowhere

/-- A refused access to an unassigned address is recorded (R522). -/
def noteRefused (s : State) (a : Nat) (write : Bool) : State :=
  if areaOf a == .unassigned then s.devErr DEV_ERR_UNASSIGNED a write else s

/-- An access to scratch wakes the pond (R452). -/
def wakeScratch (s : State) (a : Nat) : State :=
  match areaOf a with
  | .scratch p _ => if (s.pond p).lull then wakePond s p else s
  | _ => s

/-- WRITE. -/
def execWriteFrame (f : RxFrame) (s : State) : Res :=
  .next (receive s f 4 (fun _ => none) fun s dup d =>
    if dup then
      if s.host.reqs.any fun r => r.write && r.frame == some (f.src, f.eseq) then s else answer s f 0xB 0 []
    else
      match frameAt s f.addr d.length with
      | .here =>
        let r := (wakeScratch s f.addr).wrLocal f.addr d
        answer r.1 f 0xB (if r.2 then 2 else 0) []
      | .host => s.hostReq .posted true f.addr d.length d (some (f.src, f.eseq))
      | .nowhere => answer (noteRefused s f.addr true) f 0xB 1 [])

/-- READ_REQ. -/
def execReadReq (f : RxFrame) (s : State) : Res :=
  .next (receive s f 5 (fun _ => none) fun s _ _ =>
    match frameAt s f.addr f.len with
    | .here =>
      let s := wakeScratch s f.addr
      if ueRange s f.addr f.len then answer s f 0xC 2 [] else answer s f 0xC 0 (s.rdBytes f.addr f.len)
    | .host => s.hostReq .posted false f.addr f.len [] (some (f.src, f.eseq))
    | .nowhere => answer (noteRefused s f.addr false) f 0xC 1 [])

/-- SIGNAL (R308). -/
def execSignalFrame (f : RxFrame) (s : State) : Res :=
  .next (receive s f 6 (fun _ => none) fun s dup d =>
    let s := if dup || leNat d = 0 then s else s.semSignal (semOffFar f.addr) (leNat d) ⟨3, 0, f.src, 0⟩
    answer s f 0xB 0 [])

/-- A sampling request for this device whose pond cannot serve it now: the request wakes a lulled pond (R452) and waits in
its port. -/
def sampleLate (s : State) (f : RxFrame) (d : List Byte) : Option State :=
  let p := requestPond s d
  if f.dst != s.num || rxByPath f || homeReady s p then none else some (wakeHome s p)

/-- SAMPLE_REQ (R77, R78): the reply's packets, each with the request's ESEQ. -/
def execSampleReq (f : RxFrame) (s : State) : Res :=
  .next (receive s f 7 (sampleLate s f) fun s _ d =>
    let (st, packets, s) := serveSample s d
    if packets.isEmpty then answer s f 0xD st [] else packets.foldl (fun s b => answer s f 0xD st b) s)

/-- A MGMT frame is admitted (R363): from any source until the world description names the bellwether, then from it
only. -/
def mgmtAdmits (s : State) (src : Nat) : Bool := !s.flag WD_STAT_DONE || src == s.get WD_SELF_BELL_DEV

/-- MGMT_WR. -/
def execMgmtWr (f : RxFrame) (s : State) : Res :=
  .next (receive s f 8 (fun _ => none) fun s dup d =>
    if dup then answer s f 0xB 0 []
    else if !mgmtAdmits s f.src then answer s f 0xB 1 []
    else
      match areaOf f.addr with
      | .config o =>
        let (r, s) := writeReg s o 8 (leNat d)
        answer s f 0xB (match r with | .ok _ => 0 | _ => 1) []
      | _ => answer (noteRefused s f.addr true) f 0xB 1 [])

/-- MGMT_RD. -/
def execMgmtRd (f : RxFrame) (s : State) : Res :=
  .next (receive s f 9 (fun _ => none) fun s _ _ =>
    if !mgmtAdmits s f.src then answer s f 0xC 1 []
    else
      match areaOf f.addr with
      | .config o =>
        if tailHeld s o then { s with fault := { s.fault with heldReads := s.fault.heldReads ++ [.frame f o] } }
        else
        match readReg s o 8 with
        | (.ok v, s) => answer s f 0xC 0 (leBytes 8 v)
        | (_, s) => answer s f 0xC 1 []
      | _ => answer (noteRefused s f.addr false) f 0xC 1 [])

/-- IRQ (R375): the bellwether raises the vector. -/
def execIrqFrame (f : RxFrame) (s : State) : Res :=
  .next (receive s f 0xA (fun _ => none) fun s dup _ =>
    if !s.isBell then answer s f 0xB 1 []
    else answer (if dup then s else (s.bump HB_FWD_IRQS 1).msixRaise f.addr) f 0xB 0 [])

/-! Answers. -/

/-- Part `k` of a host read that waited is answered: with its last part the read has its data; one that fails makes it
an unsupported request. -/
def hostAnswer (s : State) (id k : Nat) (ok : Bool) (data : List Byte) : State :=
  match s.host.waits.find? fun w => w.id == id with
  | none => s
  | some w =>
    let rest := s.host.waits.filter fun x => x.id != id
    let got := ins w.got k data
    if !ok then { s with host := { s.host with waits := rest, reply := none } }
    else if got.length < w.parts then { s with host := { s.host with waits := { w with got := got } :: rest } }
    else
      let d := got.flatMap (·.2)
      -- a 4-byte read of a register takes its half of the 8 bytes carried
      let d := if d.length = 8 && w.access.width = 4 then (d.drop (w.access.off % 8)).take 4 else d
      { s with host := { s.host with waits := rest, reply := some d } }

/-- What an answer does for whoever asked (R355). `st` is the status that a command ends with. -/
def settle (s : State) (who : Requester) (st : Nat) (data : List Byte) : State :=
  match who with
  | .cmd q seq idx => answerCmd s q seq idx st data
  | .posted => s
  | .host id k => hostAnswer s id k (st == 0) data
  | .drain => drainAck s st
  | .telemetry => if st = 0 then s else s.stick PWR_STAT_TEL_ERR
  | .sampling id =>
    match s.samps.find? fun r => r.id == id with
    | none => s
    | some r => if st = 0 then s else answerCmd { s with samps := s.samps.filter fun x => x.id != id } r.queue r.seq r.key st []

/-- The outstanding request that a response answers. -/
def answeredReq (s : State) (f : RxFrame) : Option Outstanding :=
  let fits (t : Nat) : Bool :=
    match f.type with
    | 0xB => t == 4 || t == 6 || t == 8 || t == 0xA
    | 0xC => t == 5 || t == 9
    | _ => t == 7
  s.link.outst.find? fun o => fits o.frame.type && o.frame.eseq == f.addr % 65536
    && o.frame.dst == (if rxByPath f then 0x1FFF else f.src)

/-- A request is answered and outstanding no more. -/
def closeReq (s : State) (o : Outstanding) : State :=
  let tx := s.link.tx.map fun (kt : Nat × TxStream) =>
    if kt.1 == streamKey o.frame then (kt.1, { kt.2 with hold := kt.2.hold.filter (· != o.frame.eseq) }) else kt
  { s with link := { s.link with outst := s.link.outst.erase o, tx := tx } }

/-- A WRITE_ACK or READ_RSP completes its request. -/
def response (f : RxFrame) (s : State) (dup : Bool) (d : List Byte) : State :=
  match answeredReq s f with
  | some o => if dup then s else settle (closeReq s o) o.who (statusOf (bits f.addr 16 8)) d
  | none => s

/-- WRITE_ACK. -/
def execWriteAck (f : RxFrame) (s : State) : Res := .next (receive s f 0xB (fun _ => none) (response f))

/-- READ_RSP. -/
def execReadRsp (f : RxFrame) (s : State) : Res := .next (receive s f 0xC (fun _ => none) (response f))

/-- SAMPLE_RSP (R77): a packet of the reply; the request is answered with its last one. -/
def execSampleRsp (f : RxFrame) (s : State) : Res :=
  .next (receive s f 0xD (fun _ => none) fun s dup d =>
    match answeredReq s f with
    | some o =>
      if dup then s
      else
        match o.who with
        | .sampling id =>
          let s := sampReply s id (bits f.addr 16 8) d
          if s.samps.any fun r => r.id == id then s else closeReq s o
        | _ => s
    | none => s)

/-! COLL frames (R391). -/

/-- The kind of chunk: 0 data, 1 acknowledgement, 2 DONE, 3 ABORT. -/
def collKind (d : List Byte) : Nat :=
  let fl := byteN d 1 1
  if fl &&& flAck != 0 then 1 else if fl &&& flAbort != 0 then 3 else if fl &&& flDone != 0 then 2 else 0

/-- A chunk of the kind; a duplicate is acknowledged again and not applied. -/
def collFrame (kind : Nat) (f : RxFrame) (s : State) : State :=
  receive s f 0xE (fun d => if collKind d == kind then none else some s) fun s dup d =>
    if !dup then colReceive s f.src f.addr f.eseq d
    else if kind = 1 then s
    else colSendAck s f.src (colMsgOf f.src f.addr d) ((lookD s.link.rx (f.src * 4 + 2) 0 + 65535) % 65536)

/-- COLL_CHUNK. -/
def execCollChunk (f : RxFrame) (s : State) : Res := .next (collFrame 0 f s)
/-- COLL_ACK. -/
def execCollAck (f : RxFrame) (s : State) : Res := .next (collFrame 1 f s)
/-- COLL_DONE. -/
def execCollDone (f : RxFrame) (s : State) : Res := .next (collFrame 2 f s)
/-- COLL_ABORT. -/
def execCollAbort (f : RxFrame) (s : State) : Res := .next (collFrame 3 f s)

/-! The loss of a destination (R360, R422). -/

/-- Trough messages to a lost device end their commands as answers with 0x3F; their ABORTs to it need no answer. -/
def loseTroughs (s : State) (d : Nat) : State :=
  let gone := s.tmsgs.filter fun m => !m.ack && m.dstDev == d && m.dev == s.me
  let s := { s with tmsgs := s.tmsgs.filter (fun m => m.dstDev != d), tresent := s.tresent.filter fun m => m.dstDev != d }
  gone.foldl (fun s m => stageAnswer s m.queue m.seq (if m.kind == .abort then 0 else 0x3F) id) s

/-- A collective of a group with the lost device ends with 0x3F here, and ABORT goes to the other members. -/
def loseBody (q d : Nat) : EM Unit := do
  let raw := (← get).cmd.raw.toNat
  let gi := cf raw 16 0 6
  let g ← tryCatch (useGroup q gi) fun _ => do
    colHold q
    return ⟨0, 0, []⟩
  if g.members.contains d then
    let cseq ← takeCseq q gi
    let c : Col := ⟨q, gi, { g with members := g.members.filter (· != d) }, cseq, opcOf raw, colCount raw⟩
    colAbortAll c
    onS fun s => { s with colIn := s.colIn.filter fun m => !(m.group == gi && m.cseq == cseq % 2 ^ 16) }
    onS (·.stick COL_STAT_ABORTED)
    emStop 0x3F
  else colHold q

def loseCollectives (s : State) (d : Nat) : State :=
  let l := s.queues.flatMap fun kx => (kx.2.started.filter fun c =>
    c.phase == .ready && 0xC1 ≤ opcOf c.raw.toNat && opcOf c.raw.toNat ≤ 0xC7 && (s.jent kx.1 c.seq).bound.isSome).map
      fun c => (kx.1, c)
  l.foldl (fun s qc => runBody s qc.1 qc.2 (loseBody qc.1 d)) s

/-- The device-loss path. -/
def loseDevice (s : State) (d : Nat) : State :=
  let s := ((s.set LNK_DLOST_DEV d).set LNK_DLOST_VALID 1).stick FLT_STAT_DEVLOST
  let s := s.siltDev 0x12 [d]
  let gone := s.link.outst.filter fun o => o.frame.dst == d
  let s := { s with link := { s.link with
    outst := s.link.outst.filter fun o => o.frame.dst != d
    waitq := s.link.waitq.filter fun f => !(f.dst == d && f.src == s.num) } }
  let s := gone.foldl (fun s o => settle s o.who 0x3F []) s
  let s := loseTroughs (loseTroughs s d) d
  (loseCollectives s d).flushLinks

/-- A trough message to another device that has no answer in E2E_US: it is sent once more, and then the destination is
lost (R212, R360). -/
def troughTimeout (s : State) (dst n : Nat) : State :=
  match (s.tmsgs.filter fun m => !m.ack && m.dstDev == dst && dst != s.me)[n]? with
  | none => s
  | some m => if s.tresent.contains m then loseDevice s dst else { s with tresent := m :: s.tresent }

/-- E2E_TIMEOUT: the request of that stream and ESEQ has no response in E2E_US; it is sent once more, and then the
destination is lost. `seq` is the ESEQ with the virtual channel above it; channel 4 names the trough messages to `dst`,
which the frame table gives no type (log 147), by their place. -/
def execE2eTimeout (dst seq : Nat) (s : State) : Res :=
  let vc := seq / 65536
  let eseq := seq % 65536
  .next (
    if !portsUp s then s
    else if vc = 4 then troughTimeout s dst eseq
    else
      match s.link.outst.find? fun o => streamKey o.frame == dst * 4 + vc && o.frame.eseq == eseq with
      | none => s
      | some o =>
        if o.resent then loseDevice s dst
        else
          let s := { s with link := { s.link with
            outst := s.link.outst.map fun x => if x == o then { x with resent := true } else x } }
          if s.link.waitq.any fun f => f == o.frame then s else s.sendFrame o.frame)

end Sys2Proof.Machine
end

