-- ==== Sys2Proof/Machine/HostBridge.lean ====
section
/-! DEFINITION. The host bridge (R369 to R376): the PCIe endpoint's state, MSI-X, host accesses through BAR0 and BAR2,
the host window, and the resets of the endpoint. -/

namespace Sys2Proof.Machine

open Sys2Proof

def State.hb (s : State) (f : HostSt → HostSt) : State := { s with host := f s.host }

/-- The endpoint takes requests of the host: its link is up and the device runs. -/
def pcieUp (s : State) : Bool := s.pins.por && s.host.l0 && !s.host.disabled

/-- Requests to memory are served, in D0. -/
def pcieServes (s : State) : Bool := pcieUp s && !s.host.d3hot

/-! MSI-X (R375). -/

def msixMasked (s : State) (v : Nat) : Bool :=
  !s.host.msixEn || s.host.msixMask || (lookD s.host.msix (4 * v + 3) 1) % 2 == 1

/-- Pending vectors that are masked no more are sent, in rising order. -/
def msixFlush (s : State) : State :=
  let go := sortBy id (s.host.pba.filter (!msixMasked s ·))
  { s with irqs := s.irqs ++ go, host := { s.host with pba := s.host.pba.filter (msixMasked s ·) } }

/-- Word `k` of the MSI-X table: address low and high, data, and control, whose bit 0 masks the vector and is 1 after
reset. -/
def msixWord (s : State) (k : Nat) : Nat := lookD s.host.msix k (if k % 4 = 3 then 1 else 0)

def msixRead (s : State) (o w : Nat) : Nat :=
  if w = 8 then msixWord s (o / 4) + 2 ^ 32 * msixWord s (o / 4 + 1) else msixWord s (o / 4)

def msixPut (s : State) (k v : Nat) : State :=
  s.hb fun h => { h with msix := ins h.msix k (if k % 4 = 3 then v % 2 else v % 2 ^ 32) }

def msixWrite (s : State) (o w v : Nat) : State :=
  msixFlush (if w = 8 then msixPut (msixPut s (o / 4) v) (o / 4 + 1) (v / 2 ^ 32) else msixPut s (o / 4) v)

/-- The pending-bit array from byte `o`. -/
def pbaRead (s : State) (o w : Nat) : Nat :=
  (upto (8 * w)).foldl (fun n i => n + b2n (s.host.pba.contains (8 * o + i)) * 2 ^ i) 0

/-! Host accesses. -/

/-- A read completes with its bytes; none: as an unsupported request. -/
def hostReply (s : State) (r : Option (List Byte)) : State := s.hb fun h => { h with reply := r }

/-- An access that is not served: a read completes as an unsupported request, a write is dropped. -/
def unsupported (s : State) (a : HostAccess) : State := if a.write then s else hostReply s none

/-- A host access wakes the device from Still (R455). -/
def hostWakes (s : State) : State :=
  match s.power.rest with
  | some r => if r.phase == .resting then wakeBegin s 4 0 else s
  | none => s

/-- The bytes of a host write make the access's width. -/
def accessOk (a : HostAccess) : Bool := !a.write || a.data.length == a.width

/-- A host access to this device's configuration space. A read of QTAB_TAIL waits for held doorbells (R374). -/
def hostConfig (s : State) (a : HostAccess) (o : Nat) : State :=
  if a.write then (writeReg s o a.width (leNat a.data)).2
  else if tailHeld s o then { s with fault := { s.fault with heldReads := s.fault.heldReads ++ [.host a o] } }
  else
    match readReg s o a.width with
    | (.ok v, s) => hostReply s (some (leBytes a.width v))
    | (_, s) => hostReply s none

/-- BAR0 (R371): configuration space below 0x3FF_0000, the MSI-X table and its pending bits. Before READY only the
device, boot, power, fault and silt pages answer (R468). -/
def bar0 (s : State) (a : HostAccess) : State :=
  let o := a.off
  if !pcieServes s || !accessOk a || o + a.width > 0x4000000 then unsupported s a
  else
    let s := hostWakes s
    if s.get BOOT_STAT_STAGE < 9 && 0x50000 ≤ o then unsupported s a
    else if !widthOk o a.width then
      unsupported (if o < 0x3FF0000 && pageListed o then s.devErr DEV_ERR_WIDTH (0x70000000000 + o) a.write else s) a
    else if o < 0x3FF0000 then hostConfig s a o
    else if o < 0x3FF8000 then
      if a.write then msixWrite s (o - 0x3FF0000) a.width (leNat a.data)
      else hostReply s (some (leBytes a.width (msixRead s (o - 0x3FF0000) a.width)))
    else if a.write then s
    else hostReply s (some (leBytes a.width (if o < 0x3FF8100 then pbaRead s (o - 0x3FF8000) a.width else 0)))

/-- BAR0_ACCESS. -/
def execBar0Access (a : HostAccess) (s : State) : Res := .next (bar0 s a)

/-- A host access at a local address of this device. Reads reach all populated scratch (debug reads, R316, R496). -/
def hostLocal (s : State) (a : HostAccess) (la : Nat) : State :=
  let n := a.width
  match areaOf la with
  | .config o =>
    if !widthOk o n then unsupported (s.devErr DEV_ERR_WIDTH la a.write) a else hostConfig s a o
  | .main =>
    if areaOf (la + n - 1) != .main then unsupported s a
    else if a.write then (s.wrMain la a.data).1
    else hostReply s (if ueRange s la n then none else some (s.rdBytes la n))
  | .scratch p o =>
    let s := wakeScratch s la
    if a.write then
      if inUser s p o && inUser s p (o + n - 1) && o + n ≤ 0x2000000 then (s.wrScratch la a.data).1 else s
    else hostReply s (if inScratch s p o && inScratch s p (o + n - 1) && o + n ≤ 0x2000000 && !ueRange s la n
      then some (s.rdBytes la n) else none)
  | .host => unsupported s a
  | .unassigned => unsupported (s.devErr DEV_ERR_UNASSIGNED la a.write) a

/-- A read that waits for another device's answers, in so many parts. -/
def waitFor (s : State) (a : HostAccess) (parts : Nat) : Nat × State :=
  let id := s.host.nextId
  (id, s.hb fun h => { h with waits := h.waits ++ [⟨id, a, parts, []⟩], nextId := id + 1 })

/-- The request of a host access to another device: WRITE or READ_REQ, or a MGMT frame for configuration space, by
destination or by path. A MGMT frame carries 8 bytes (R355): a 4-byte write cannot be carried. A read of more than 512
bytes is carried as several frames. -/
def hostRemote (s : State) (a : HostAccess) (dev la : Nat) (path : Option Nat) : State :=
  let send (s : State) (who : Requester) (type addr len : Nat) (d : List Byte) : State :=
    match path with
    | some p => s.requestPath who type p addr len d
    | none => s.request who type dev addr len d
  match areaOf la with
  | .config o =>
    if !widthOk o a.width || (a.write && a.width != 8) then unsupported (s.devErr DEV_ERR_WIDTH la a.write) a
    else if a.write then
      let s := if (QTAB_TAIL.find o).isSome then s.bump HB_FWD_DOORBELLS 1 else s
      send s .posted 8 la 8 a.data
    else
      let (id, s) := waitFor s a 1
      send s (.host id 0) 9 (la / 8 * 8) 8 []
  | _ =>
    -- a path reaches configuration space only
    if path.isSome then unsupported s a
    else if a.write then send s .posted 4 la a.width a.data
    else
      let parts := chunks la a.width
      let (id, s) := waitFor s a parts.length
      (parts.zipIdx).foldl (fun s pk => send s (.host id pk.2) 5 pk.1.1 pk.1.2 []) s

/-- BAR2 (R372). -/
def bar2 (s : State) (a : HostAccess) : State :=
  let n := a.off / 2 ^ 36
  let low := a.off % 2 ^ 36
  if !pcieServes s || !accessOk a || n ≥ 16 || a.width = 0 || a.width > (if a.write then 512 else 4096) || s.get BOOT_STAT_STAGE < 9 then unsupported s a
  else
    let s := hostWakes s
    if !s.flag HB_WIN_V n then unsupported (s.stick HB_STAT_UNMAPPED) a
    else if s.flag HB_WIN_PATH n then hostRemote s a 0x1FFF (0x70 * 2 ^ 36 + low) (some (s.get HB_PATH_PATH n))
    else
      let la := s.get HB_WIN_BASE n * 2 ^ 36 + low
      if s.get HB_WIN_DEVICE n == s.me then hostLocal s a la else hostRemote s a (s.get HB_WIN_DEVICE n) la none

/-- BAR2_ACCESS. -/
def execBar2Access (a : HostAccess) (s : State) : Res := .next (bar2 s a)

/-! The host window (R373, R376). -/

/-- End a host-window request: its requester here, or the frame of another device, is answered. `st` is the command
status. -/
def endHostReq (s : State) (r : HostReq) (st : Nat) (data : List Byte) : State :=
  let s := s.hb fun h => { h with reqs := h.reqs.erase r }
  match r.frame with
  | none => settle s r.who st data
  | some (src, eseq) =>
    let status := if st = 0 then 0 else if st = 0x30 then 2 else 1
    let d := if r.write || st != 0 then [] else data
    let (g, s) := s.newFrame (if r.write then 0xB else 0xC) src (eseq + 65536 * status) d.length d
    s.sendFrame g

/-- HOST_WINDOW_COMPLETION. -/
def execHostWindowCompletion (id : Nat) (r : HostReply) (s : State) : Res :=
  .next (match s.host.reqs.find? fun q => q.id == id with
    | none => s
    | some q =>
      match r with
      | .done d => endHostReq s q 0 (if q.write then [] else (d ++ List.replicate q.len 0).take q.len)
      | .timeout => endHostReq (s.stick HB_STAT_CPL_TO) q 0x11 []
      | .unsupported => endHostReq (s.stick HB_STAT_UR) q 0x11 []
      | .abort => endHostReq (s.stick HB_STAT_UR) q 0x11 [])

/-- Requests outstanding in the host window complete with status 0x11. -/
def dropHostReqs (s : State) : State := s.host.reqs.foldl (fun s r => endHostReq s r 0x11 []) s

/-- The effects of a function level reset (R376): the endpoint's configuration registers, the MSI-X table, HB_WINn and
HB_HOSTWIN are cleared, and nothing else in the device. -/
def flr (s : State) : State :=
  let h := HostSt.reset
  let s := s.hb fun x =>
    { h with vendorId := x.vendorId, subVendorId := x.subVendorId, subsystemId := x.subsystemId, revisionId := x.revisionId,
             disabled := x.disabled, l0 := x.l0, reqs := x.reqs, waits := x.waits, nextId := x.nextId, aer := x.aer, reply := x.reply }
  let s := (upto 16).foldl (fun s n => s.setRg HB_WIN 0 n) s
  let s := s.setRg HB_HOSTWIN 0
  (dropHostReqs s).stick HB_STAT_FLR

/-- FUNCTION_LEVEL_RESET. -/
def execFunctionLevelReset (s : State) : Res := .next (if pcieUp s then flr s else s)

/-- POISONED_TLP: `id` is the host-window read that it completes, if it is a completion. -/
def execPoisonedTlp (id : Option Nat) (s : State) : Res :=
  .next (if !pcieUp s then s
    else
      let s := (s.stick HB_STAT_POISONED).hb fun h => { h with aer := h.aer ++ [id.getD 0] }
      match s.host.reqs.find? fun q => some q.id == id && !q.write with
      | some q => endHostReq s q 0x30 []
      | none => s)

/-! The link (R369, R512). -/

/-- PE_PERST_N low acts on the bellwether, and on a device whose description does not yet name one: the endpoint and its
link are reset with the effects of R376. -/
def execPePerstN (s : State) : Res :=
  .next (if !s.pins.por || s.host.disabled || (s.flag WD_STAT_DONE && !s.isBell) then s
    else
      let s := flr s
      let s := ((s.set HB_STAT_WIDTH 0).set HB_STAT_SPEED 0).set HB_STAT_FLIT 0
      { s.hb (fun h => { h with l0 := false }) with
        pins := { s.pins with perst := false }, boot := { s.boot with ideKeys := [], ideOn := [] } })

/-- PCIE_TRAINING_TIMEOUT: 200 ms have passed without L0. -/
def execPcieTrainingTimeout (s : State) : Res :=
  .next (if s.pins.por && !s.host.l0 then pcieDisable s else s)

/-- PCIE_L0_REACHED: the endpoint is enabled at the boot's CONFIG step (R468). -/
def execPcieL0Reached (width speed : Nat) (flit : Bool) (s : State) : Res :=
  .next (if !s.pins.por || s.host.disabled || s.get BOOT_STAT_STAGE < 6 || !(width == 4 || width == 8 || width == 16)
      || speed < 1 || 6 < speed then s
    else
      let s := ((s.set HB_STAT_WIDTH width).set HB_STAT_SPEED speed).set HB_STAT_FLIT (b2n (flit && speed == 6))
      { s.hb (fun h => { h with l0 := true }) with pins := { s.pins with perst := true } })

/-- PCIE_CONFIG_WRITE (R370): what the host changes in the endpoint's configuration registers. Sizes above those that the
endpoint supports change nothing. -/
def pcieCfg (w : PcieCfgWrite) (h : HostSt) : HostSt :=
  match w with
  | .busMaster on => { h with busMaster := on }
  | .msixEnable on => { h with msixEn := on }
  | .msixMask on => { h with msixMask := on }
  | .powerState d3 => { h with d3hot := d3 }
  | .bar0 b => { h with bar0 := b % 2 ^ 64 / 2 ^ 26 * 2 ^ 26 }
  | .bar2 b => { h with bar2 := b % 2 ^ 64 / 2 ^ 40 * 2 ^ 40 }
  | .maxPayload c => if c ≤ 2 then { h with maxPayload := c } else h
  | .maxReadRequest c => if c ≤ 5 then { h with maxRead := c } else h
  | .aspmL1 on => { h with aspmL1 := on }

def execPcieConfigWrite (w : PcieCfgWrite) (s : State) : Res :=
  .next (if pcieUp s then msixFlush (s.hb (pcieCfg w)) else s)

end Sys2Proof.Machine
end

