-- ==== Sys2Proof/Machine/Sideband.lean ====
section
/-! DEFINITION. The sideband: SMBus register access (R479), the SPDM responder and IDE key management (R476, R477), and
the TAP (R515). -/

namespace Sys2Proof.Machine

open Sys2Proof

/-! SMBus (R479). -/

/-- The Sheepdog serves the boot, power, fault and silt pages in every state; the others need A0 and a working fabric. -/
def smbReaches (s : State) (o : Nat) : Bool :=
  (0x10000 ≤ o && o < 0x50000) || (s.get PWR_STAT_STATE == 0 && !s.fatal && s.get BOOT_STAT_ERR == 0)

/-- The status of an access to the access address: 0 done, 1 unreachable now, 2 not in configuration space; and its
offset. -/
def smbAt (s : State) : Nat × Nat :=
  let a := s.boot.smbAddr
  match areaOf a with
  | .config o => if a % 8 != 0 || !pageListed o then (2, 0) else if smbReaches s o then (0, o) else (1, 0)
  | _ => (2, 0)

def smbAdvance (s : State) : State := s.bt fun t => { t with smbAddr := t.smbAddr + 8 }

/-- SMBUS_SET_ADDRESS: command 0x20. -/
def execSmbusSetAddress (a : Nat) (s : State) : Res :=
  .next (if s.pins.por then s.bt fun t => { t with smbAddr := a % 2 ^ 64 } else s)

/-- SMBUS_READ: command 0x21. The status of a write that was not performed comes with the next read. -/
def execSmbusRead (bus : Nat) (s : State) : Res :=
  .next (if !s.pins.por || bus ≥ 2 then s
    else
      let (st, o) := smbAt s
      let (v, s) := if st = 0 then
          match readReg s o 8 with
          | (.ok v, s) => (v, s)
          | (_, s) => (0, s)
        else (0, s)
      let st := if s.boot.smbStat != 0 then s.boot.smbStat else st
      smbAdvance (s.bt fun t => { t with smbStat := 0, smbReply := some (st, v) }))

/-- SMBUS_WRITE: command 0x22, on SMB0 only. -/
def execSmbusWrite (value bus : Nat) (s : State) : Res :=
  .next (if !s.pins.por || bus ≥ 2 then s
    else if bus = 1 then s.bt fun t => { t with smbStat := 3 }
    else
      let (st, o) := smbAt s
      if st != 0 then s.bt fun t => { t with smbStat := st } else smbAdvance (writeReg s o 8 value).2)

/-! Attestation (R476). -/

/-- The report with a requester's nonce; the signature's own random number is free. -/
def attestation (s : State) (nonce : List Byte) : List Byte × State :=
  let (k, s) := s.fresh
  let d := s.boot.idKey.getD 0
  let bytesOf (r : Reg) : List Byte := (upto r.n1).flatMap fun n => leBytes 8 (s.rg r n).toNat
  let slot := s.get BOOT_STAT_SLOT + 2 * s.get BOOT_STAT_FALLBACK + 4 * s.get BOOT_STAT_CERT_MISMATCH
    + 8 * s.get BOOT_STAT_ENROLLED
  let body := leBytes 4 0x54544153 ++ leBytes 4 1 ++ leBytes 4 (s.get BOOT_VER_ROM_VERSION) ++ leBytes 4 (s.get BOOT_VER_FW_VERSION)
    ++ leBytes 4 (s.get BOOT_STAT_UPDATE_SEQ) ++ leBytes 1 slot ++ leBytes 1 (s.get BOOT_STAT_STAGE) ++ leBytes 2 s.num
    ++ leBytes 8 s.stamp ++ (nonce ++ List.replicate 32 0).take 32 ++ bytesOf IMAGE_DIG ++ bytesOf CONFIG_DIG ++ bytesOf OWNER_DIG
    ++ bytesOf ID_PUBKEY ++ leBytes 32 0
  (body ++ ecdsaSign d (k % (n256 - 1) + 1) (sha256 body), s)

/-! SPDM (R477), with the numbers of DSP0274. -/

def SpdmSt.init : SpdmSt := ⟨0, none, false, 0⟩

def errInvalid : Nat := 1
def errSession : Nat := 2
def errBusy : Nat := 3
def errUnexpected : Nat := 4
def errUnspecified : Nat := 5
def errUnsupported : Nat := 7
def errSessionLimit : Nat := 0x0A

/-- The transport that a message came by: 0 DOE, 1 MCTP. -/
def spdmWay (m : SpdmMsg) : Nat := b2n m.mctp

def spdmSt (s : State) (w : Nat) : SpdmSt := lookD s.boot.spdm w SpdmSt.init

def putSpdm (s : State) (w : Nat) (x : SpdmSt) : State := s.bt fun t => { t with spdm := ins t.spdm w x }

def spdmSay (s : State) (r : SpdmReply) : State := s.bt fun t => { t with spdmReply := some r }

/-- Slot 0: length, the root certificate's digest, and the DEV_CERT chain. -/
def spdmChain (s : State) : List Byte :=
  let c := s.boot.chain
  let root := match derOne c with
    | some (_, _, rest) => c.take (c.length - rest.length)
    | none => c
  leBytes 2 (36 + c.length) ++ leBytes 2 0 ++ sha256 root ++ c

/-- The measurement of an index. -/
def measurement (s : State) (i : Nat) (nonce : List Byte) : Option (List Byte) × State :=
  let bytesOf (r : Reg) : List Byte := (upto r.n1).flatMap fun n => leBytes 8 (s.rg r n).toNat
  match i with
  | 1 => (some (leBytes 4 (s.get BOOT_VER_ROM_VERSION)), s)
  | 2 => (some (leBytes 4 (s.get BOOT_VER_FW_VERSION) ++ s.boot.codeDig), s)
  | 3 => (some (bytesOf IMAGE_DIG), s)
  | 4 => (some (bytesOf CONFIG_DIG), s)
  | 5 => (some (bytesOf OWNER_DIG), s)
  | 0x10 => let (r, s) := attestation s nonce; (some r, s)
  | _ => (none, s)

/-- The measurements of a list of indices. -/
def measureAll (s : State) (nonce : List Byte) : List Nat → List (Nat × List Byte) × State
  | [] => ([], s)
  | i :: l =>
    match measurement s i nonce with
    | (some d, s) =>
      let (r, s) := measureAll s nonce l
      ((i, d) :: r, s)
    | (none, s) => measureAll s nonce l

/-- The request belongs to the session of its transport, completed by FINISH. -/
def inSession (x : SpdmSt) (m : SpdmMsg) : Bool := x.session == some m.session && x.finished

/-- What a request does once it has been let in. -/
def spdmServe (s : State) (m : SpdmMsg) : State :=
  let b := m.bytes
  let w := spdmWay m
  let x := spdmSt s w
  let p1 := byteN b 2 1
  let p2 := byteN b 3 1
  let err (n : Nat) := spdmSay s (.error n)
  let chain := spdmChain s
  match byteN b 1 1 with
  | 0x84 => spdmSay (putSpdm s w { SpdmSt.init with phase := 1, sessions := x.sessions }) (.version [0x12])
  | 0xE1 => if x.phase < 1 then err errUnexpected else spdmSay (putSpdm s w { x with phase := max 2 x.phase }) (.capabilities 0x22F6)
  | 0xE3 =>
    if x.phase < 2 then err errUnexpected else spdmSay (putSpdm s w { x with phase := 3 }) (.algorithms 0x10 0x01 0x08 0x02)
  | 0x81 => if x.phase < 3 then err errUnexpected
    else spdmSay s (.digests (if s.boot.chain.isEmpty then [] else sha256 chain))
  | 0x82 =>
    let off := byteN b 4 2
    if x.phase < 3 then err errUnexpected
    else if p1 != 0 || s.boot.chain.isEmpty || chain.length ≤ off then err errInvalid
    else
      let d := (chain.drop off).take (byteN b 6 2)
      spdmSay s (.certificate d (chain.length - off - d.length))
  | 0x83 =>
    if x.phase < 3 then err errUnexpected
    else if p1 != 0 || s.boot.chain.isEmpty || b.length < 36 then err errInvalid
    else if s.flag RNG_STAT_HALTED then err errUnspecified
    else
      let (n, s) := randomBytes s 32
      let (sig, s) := randomBytes s 64
      spdmSay s (.challengeAuth (sha256 chain) n sig)
  | 0xE0 =>
    let signed := p1 % 2 == 1
    let nonce := (b.drop 4).take 32
    if x.phase < 3 then err errUnexpected
    else if signed && b.length < 36 then err errInvalid
    else if p2 == 0x10 && !signed then err errInvalid
    else if signed && s.flag RNG_STAT_HALTED then err errUnspecified
    else
      let (l, s) := if p2 = 0 then ([(0, [6])], s)
        else if p2 = 0xFF then measureAll s nonce (if signed then [1, 2, 3, 4, 5, 0x10] else [1, 2, 3, 4, 5])
        else measureAll s nonce [p2]
      if l.isEmpty then spdmSay s (.error errInvalid)
      else
        let (n, s) := randomBytes s 32
        let (sig, s) := if signed then randomBytes s 64 else ([], s)
        spdmSay s (.measurements l n sig)
  | 0xE4 =>
    if x.phase < 3 then err errUnexpected
    else if x.session.isSome then err errSessionLimit
    else if p2 != 0 || b.length < 104 then err errInvalid
    else if s.flag RNG_STAT_HALTED then err errUnspecified
    else
      let (id, s) := s.fresh
      let (e, s) := s.fresh
      let (sig, s) := randomBytes s 64
      let session := byteN b 4 2 + 65536 * (id % 65536)
      spdmSay (putSpdm s w { x with session := some session, finished := false, sessions := x.sessions + 1 })
        (.keyExchange session (pubKey (e % (n256 - 1) + 1)) sig)
  | 0xE5 => if x.session == some m.session && !x.finished then spdmSay (putSpdm s w { x with finished := true }) .finish
    else err errSession
  | 0xE8 => if inSession x m then spdmSay s .heartbeat else err errSession
  | 0xEC => if inSession x m then spdmSay (putSpdm s w { x with session := none, finished := false }) .endSession else err errSession
  | _ => err errUnsupported

/-- A request reaches the responder: over MCTP while the device runs, over DOE while the bellwether's PCIe link is up.
Before STAGE 5 it is busy. -/
def spdmHears (s : State) (m : SpdmMsg) : Bool := s.pins.por && (m.mctp || pcieUp s)

def spdmRequest (s : State) (m : SpdmMsg) : State :=
  if !spdmHears s m then s
  else if s.get BOOT_STAT_STAGE < 5 then spdmSay s (.error errBusy)
  else spdmServe s m

/-- A request of one code. -/
def spdmRow (code : Nat) (m : SpdmMsg) (s : State) : Res := .next (if byteN m.bytes 1 1 == code then spdmRequest s m else s)

/-- GET_VERSION. -/
def execGetVersion (m : SpdmMsg) (s : State) : Res := spdmRow 0x84 m s
/-- GET_CAPABILITIES. -/
def execGetCapabilities (m : SpdmMsg) (s : State) : Res := spdmRow 0xE1 m s
/-- NEGOTIATE_ALGORITHMS. -/
def execNegotiateAlgorithms (m : SpdmMsg) (s : State) : Res := spdmRow 0xE3 m s
/-- GET_DIGESTS. -/
def execGetDigests (m : SpdmMsg) (s : State) : Res := spdmRow 0x81 m s
/-- GET_CERTIFICATE. -/
def execGetCertificate (m : SpdmMsg) (s : State) : Res := spdmRow 0x82 m s
/-- CHALLENGE. -/
def execChallenge (m : SpdmMsg) (s : State) : Res := spdmRow 0x83 m s
/-- GET_MEASUREMENTS. -/
def execGetMeasurements (m : SpdmMsg) (s : State) : Res := spdmRow 0xE0 m s
/-- KEY_EXCHANGE. -/
def execKeyExchange (m : SpdmMsg) (s : State) : Res := spdmRow 0xE4 m s
/-- FINISH. -/
def execFinish (m : SpdmMsg) (s : State) : Res := spdmRow 0xE5 m s
/-- HEARTBEAT. -/
def execHeartbeat (m : SpdmMsg) (s : State) : Res := spdmRow 0xE8 m s
/-- END_SESSION. -/
def execEndSession (m : SpdmMsg) (s : State) : Res := spdmRow 0xEC m s

/-- MCTP (R479): a transaction on SMB0 carries an SPDM message. -/
def execMctp (m : SpdmMsg) (s : State) : Res := .next (if m.mctp then spdmRequest s m else s)

/-! IDE key management (R477): secured DOE only. A message is its protocol, its object, two reserved bytes, the stream, a
reserved byte, the key's place (bit 0 key set, bit 1 direction, bits 7 to 4 sub-stream), the port, and for KEY_PROG the
32-byte key and the 8-byte first IV. -/

def keyPlace (b : List Byte) : Nat :=
  let v := byteN b 6 1
  16 * (v / 16) + 2 * (v / 2 % 2) + v % 2

/-- An IDE_KM message with this object number. -/
def ideRow (object : Nat) (m : SpdmMsg) (s : State) (act : State → State) : Res :=
  .next (if byteN m.bytes 1 1 != object || !spdmHears s m then s
    else if s.get BOOT_STAT_STAGE < 5 then spdmSay s (.error errBusy)
    else if m.mctp then spdmSay s (.error errUnsupported)
    else if !inSession (spdmSt s 0) m then spdmSay s (.error errSession)
    else act s)

/-- QUERY. -/
def execQuery (m : SpdmMsg) (s : State) : Res := ideRow 0 m s fun s => spdmSay s (.queryResp (byteN m.bytes 4 1))

/-- KEY_PROG: status 0 done, 1 a message of another length, 3 a place that the one selective stream has not. -/
def execKeyProg (m : SpdmMsg) (s : State) : Res :=
  ideRow 2 m s fun s =>
    if m.bytes.length != 48 then spdmSay s (.keyProgAck 1)
    else if byteN m.bytes 6 1 / 16 ≥ 3 then spdmSay s (.keyProgAck 3)
    else spdmSay (s.bt fun t => { t with ideKeys := ins t.ideKeys (keyPlace m.bytes) ((m.bytes.drop 8).take 40) }) (.keyProgAck 0)

/-- K_SET_GO: the key set comes into use. -/
def execKSetGo (m : SpdmMsg) (s : State) : Res :=
  ideRow 4 m s fun s =>
    let k := keyPlace m.bytes
    let on := fun (t : BootSt) => if (look t.ideKeys k).isSome then k :: t.ideOn.filter (fun j => j / 2 != k / 2) else t.ideOn
    spdmSay (s.bt fun t => { t with ideOn := on t }) .goStopAck

/-- K_SET_STOP: the key set is in use no more. -/
def execKSetStop (m : SpdmMsg) (s : State) : Res :=
  ideRow 5 m s fun s => spdmSay (s.bt fun t => { t with ideOn := t.ideOn.filter (· != keyPlace m.bytes) }) .goStopAck

/-! The TAP (R515). -/

/-- An instruction selects the boundary register. -/
def tapSelects (i : TapInstr) : Bool := i == .sample || i == .extest || i == .extestPulse || i == .extestTrain

/-- TAP_INSTRUCTION: every instruction but BYPASS takes effect only while POR_N is low. -/
def execTapInstruction (t : TapOp) (s : State) : Res :=
  let pins := s.pins
  .next (match t with
    | .reset => { s with pins := { pins with tapIr := .bypass, hiz := false } }
    | .instr i =>
      if pins.por then { s with pins := { pins with tapIr := .bypass, hiz := false } }
      else { s with pins := { pins with tapIr := i, hiz := i == .highz } }
    | .shiftBoundary b => if tapSelects pins.tapIr && !pins.por then { s with pins := { pins with boundary := b } } else s)

end Sys2Proof.Machine
end

