-- ==== Sys2Proof/Machine/Dispatch.lean ====
section
/-! DEFINITION. Which meaning each command has: one arm per constructor of Instr. -/

namespace Sys2Proof.Machine

open Sys2Proof

def exec (i : Instr) (s : State) : Host.Outcome State Fault Refusal :=
  match i with
  | .tailDoorbell q value => Sys2Proof.Machine.execTailDoorbell q value s
  | .qtabCfgWrite q value => Sys2Proof.Machine.execQtabCfgWrite q value s
  | .resume q => Sys2Proof.Machine.execResume q s
  | .discard q => Sys2Proof.Machine.execDiscard q s
  | .qtabCheadWrite q value => Sys2Proof.Machine.execQtabCheadWrite q value s
  | .commandStart q => Sys2Proof.Machine.execCommandStart q s
  | .commandRetire q => Sys2Proof.Machine.execCommandRetire q s
  | .nop q => Sys2Proof.Machine.execNop q s
  | .signal q => Sys2Proof.Machine.execSignal q s
  | .waitsem q => Sys2Proof.Machine.execWaitsem q s
  | .decsem q => Sys2Proof.Machine.execDecsem q s
  | .barrier q => Sys2Proof.Machine.execBarrier q s
  | .barInit q => Sys2Proof.Machine.execBarInit q s
  | .semset q => Sys2Proof.Machine.execSemset q s
  | .semValWrite off value => Sys2Proof.Machine.execSemValWrite off value s
  | .fsemSigWrite n amount => Sys2Proof.Machine.execFsemSigWrite n amount s
  | .grun q => Sys2Proof.Machine.execGrun q s
  | .add g => Sys2Proof.Machine.execAdd g s
  | .sub g => Sys2Proof.Machine.execSub g s
  | .mul g => Sys2Proof.Machine.execMul g s
  | .and_ g => Sys2Proof.Machine.execAnd g s
  | .or_ g => Sys2Proof.Machine.execOr g s
  | .xor g => Sys2Proof.Machine.execXor g s
  | .shl g => Sys2Proof.Machine.execShl g s
  | .shr g => Sys2Proof.Machine.execShr g s
  | .cmplu g => Sys2Proof.Machine.execCmplu g s
  | .fadd g => Sys2Proof.Machine.execFadd g s
  | .fsub g => Sys2Proof.Machine.execFsub g s
  | .fmul g => Sys2Proof.Machine.execFmul g s
  | .fdiv g => Sys2Proof.Machine.execFdiv g s
  | .fsqrt g => Sys2Proof.Machine.execFsqrt g s
  | .fcmplt g => Sys2Proof.Machine.execFcmplt g s
  | .fcvti g => Sys2Proof.Machine.execFcvti g s
  | .icvtf g => Sys2Proof.Machine.execIcvtf g s
  | .fence g => Sys2Proof.Machine.execFence g s
  | .yield g => Sys2Proof.Machine.execYield g s
  | .yieldTimeout g => Sys2Proof.Machine.execYieldTimeout g s
  | .halt g => Sys2Proof.Machine.execHalt g s
  | .tret g => Sys2Proof.Machine.execTret g s
  | .trap g => Sys2Proof.Machine.execTrap g s
  | .addk g => Sys2Proof.Machine.execAddk g s
  | .andk g => Sys2Proof.Machine.execAndk g s
  | .ork g => Sys2Proof.Machine.execOrk g s
  | .shlk g => Sys2Proof.Machine.execShlk g s
  | .shrk g => Sys2Proof.Machine.execShrk g s
  | .sark g => Sys2Proof.Machine.execSark g s
  | .hik g => Sys2Proof.Machine.execHik g s
  | .ld8 g => Sys2Proof.Machine.execLd8 g s
  | .ld16 g => Sys2Proof.Machine.execLd16 g s
  | .ld32 g => Sys2Proof.Machine.execLd32 g s
  | .ld64 g => Sys2Proof.Machine.execLd64 g s
  | .st8 g => Sys2Proof.Machine.execSt8 g s
  | .st16 g => Sys2Proof.Machine.execSt16 g s
  | .st32 g => Sys2Proof.Machine.execSt32 g s
  | .st64 g => Sys2Proof.Machine.execSt64 g s
  | .breq g => Sys2Proof.Machine.execBreq g s
  | .brne g => Sys2Proof.Machine.execBrne g s
  | .brlt g => Sys2Proof.Machine.execBrlt g s
  | .brge g => Sys2Proof.Machine.execBrge g s
  | .brltu g => Sys2Proof.Machine.execBrltu g s
  | .brgeu g => Sys2Proof.Machine.execBrgeu g s
  | .call g => Sys2Proof.Machine.execCall g s
  | .callr g => Sys2Proof.Machine.execCallr g s
  | .crr g => Sys2Proof.Machine.execCrr g s
  | .crw g => Sys2Proof.Machine.execCrw g s
  | .issue g => Sys2Proof.Machine.execIssue g s
  | .sig g => Sys2Proof.Machine.execSig g s
  | .wait g => Sys2Proof.Machine.execWait g s
  | .trywait g => Sys2Proof.Machine.execTrywait g s
  | .dec g => Sys2Proof.Machine.execDec g s
  | .sumr g => Sys2Proof.Machine.execSumr g s
  | .sample q => Sys2Proof.Machine.execSample q s
  | .samplingTimeout id => Sys2Proof.Machine.execSamplingTimeout id s
  | .gather q => Sys2Proof.Machine.execGather q s
  | .tableSwitch q => Sys2Proof.Machine.execTableSwitch q s
  | .hotRefresh q => Sys2Proof.Machine.execHotRefresh q s
  | .mload q => Sys2Proof.Machine.execMload q s
  | .planeSwap m array => Sys2Proof.Machine.execPlaneSwap m array s
  | .mmul q => Sys2Proof.Machine.execMmul q s
  | .mstore q => Sys2Proof.Machine.execMstore q s
  | .vpload q => Sys2Proof.Machine.execVpload q s
  | .vexec q => Sys2Proof.Machine.execVexec q s
  | .vtrans q => Sys2Proof.Machine.execVtrans q s
  | .vmask q => Sys2Proof.Machine.execVmask q s
  | .treset q => Sys2Proof.Machine.execTreset q s
  | .tscatEmax q => Sys2Proof.Machine.execTscatEmax q s
  | .tscatAdd q => Sys2Proof.Machine.execTscatAdd q s
  | .texchEsend q => Sys2Proof.Machine.execTexchEsend q s
  | .texchEfetch q => Sys2Proof.Machine.execTexchEfetch q s
  | .texchAsend q => Sys2Proof.Machine.execTexchAsend q s
  | .tmerge q => Sys2Proof.Machine.execTmerge q s
  | .tcodec q => Sys2Proof.Machine.execTcodec q s
  | .troughContribution m => Sys2Proof.Machine.execTroughContribution m s
  | .troughExponentMessage m => Sys2Proof.Machine.execTroughExponentMessage m s
  | .prepare m => Sys2Proof.Machine.execPrepare m s
  | .commit m => Sys2Proof.Machine.execCommit m s
  | .abort m => Sys2Proof.Machine.execAbort m s
  | .troughBackgroundEvict p => Sys2Proof.Machine.execTroughBackgroundEvict p s
  | .spillThresholdAdjust p => Sys2Proof.Machine.execSpillThresholdAdjust p s
  | .pruneMask q => Sys2Proof.Machine.execPruneMask q s
  | .prunePack q => Sys2Proof.Machine.execPrunePack q s
  | .update q => Sys2Proof.Machine.execUpdate q s
  | .rowUpdate q => Sys2Proof.Machine.execRowUpdate q s
  | .flagLocal q => Sys2Proof.Machine.execFlagLocal q s
  | .stepClose q => Sys2Proof.Machine.execStepClose q s
  | .pcSwitch q => Sys2Proof.Machine.execPcSwitch q s
  | .replayBegin q => Sys2Proof.Machine.execReplayBegin q s
  | .replayEnd q => Sys2Proof.Machine.execReplayEnd q s
  | .xfer q => Sys2Proof.Machine.execXfer q s
  | .allreduce q => Sys2Proof.Machine.execAllreduce q s
  | .reduceScatter q => Sys2Proof.Machine.execReduceScatter q s
  | .allgather q => Sys2Proof.Machine.execAllgather q s
  | .alltoall q => Sys2Proof.Machine.execAlltoall q s
  | .broadcast q => Sys2Proof.Machine.execBroadcast q s
  | .maxreduce q => Sys2Proof.Machine.execMaxreduce q s
  | .permute q => Sys2Proof.Machine.execPermute q s
  | .seedsSet q => Sys2Proof.Machine.execSeedsSet q s
  | .collChunk f => Sys2Proof.Machine.execCollChunk f s
  | .collAck f => Sys2Proof.Machine.execCollAck f s
  | .collDone f => Sys2Proof.Machine.execCollDone f s
  | .collAbort f => Sys2Proof.Machine.execCollAbort f s
  | .rest q => Sys2Proof.Machine.execRest q s
  | .restCommit => Sys2Proof.Machine.execRestCommit s
  | .restQuiescenceTimeout => Sys2Proof.Machine.execRestQuiescenceTimeout s
  | .wakeTimer => Sys2Proof.Machine.execWakeTimer s
  | .wakeN => Sys2Proof.Machine.execWakeN s
  | .pwrCtrlWake => Sys2Proof.Machine.execPwrCtrlWake s
  | .drowseSample readings => Sys2Proof.Machine.execDrowseSample readings s
  | .wakeComplete => Sys2Proof.Machine.execWakeComplete s
  | .pondLull p => Sys2Proof.Machine.execPondLull p s
  | .pondWake p => Sys2Proof.Machine.execPondWake p s
  | .timeBeacon => Sys2Proof.Machine.execTimeBeacon s
  | .interpolationStop => Sys2Proof.Machine.execInterpolationStop s
  | .timeEpochWrite value => Sys2Proof.Machine.execTimeEpochWrite value s
  | .timeExchange => Sys2Proof.Machine.execTimeExchange s
  | .timeFrame f rxAgo txIn => Sys2Proof.Machine.execTimeFrame f rxAgo txIn s
  | .timePpsIn => Sys2Proof.Machine.execTimePpsIn s
  | .ppsMissing => Sys2Proof.Machine.execPpsMissing s
  | .timePpsOut => Sys2Proof.Machine.execTimePpsOut s
  | .timePpsOutFall => Sys2Proof.Machine.execTimePpsOutFall s
  | .trimRaise p region => Sys2Proof.Machine.execTrimRaise p region s
  | .trimLower p region => Sys2Proof.Machine.execTrimLower p region s
  | .uvHold p => Sys2Proof.Machine.execUvHold p s
  | .uvHoldRelease p => Sys2Proof.Machine.execUvHoldRelease p s
  | .uvHoldTimeout p => Sys2Proof.Machine.execUvHoldTimeout p s
  | .ctrlFrame f => Sys2Proof.Machine.execCtrlFrame f s
  | .ident f => Sys2Proof.Machine.execIdent f s
  | .keyx f => Sys2Proof.Machine.execKeyx f s
  | .keyxTimeout port => Sys2Proof.Machine.execKeyxTimeout port s
  | .writeFrame f => Sys2Proof.Machine.execWriteFrame f s
  | .readReq f => Sys2Proof.Machine.execReadReq f s
  | .signalFrame f => Sys2Proof.Machine.execSignalFrame f s
  | .sampleReq f => Sys2Proof.Machine.execSampleReq f s
  | .mgmtWr f => Sys2Proof.Machine.execMgmtWr f s
  | .mgmtRd f => Sys2Proof.Machine.execMgmtRd f s
  | .irqFrame f => Sys2Proof.Machine.execIrqFrame f s
  | .writeAck f => Sys2Proof.Machine.execWriteAck f s
  | .readRsp f => Sys2Proof.Machine.execReadRsp f s
  | .sampleRsp f => Sys2Proof.Machine.execSampleRsp f s
  | .ackTimer port => Sys2Proof.Machine.execAckTimer port s
  | .resendTimeout port => Sys2Proof.Machine.execResendTimeout port s
  | .linkTrainingDone port lanes full => Sys2Proof.Machine.execLinkTrainingDone port lanes full s
  | .retrainTimeout port => Sys2Proof.Machine.execRetrainTimeout port s
  | .laneRecheck port lane pass => Sys2Proof.Machine.execLaneRecheck port lane pass s
  | .portTrainRetry port => Sys2Proof.Machine.execPortTrainRetry port s
  | .equaliserStep port lane errs up height width => Sys2Proof.Machine.execEqualiserStep port lane errs up height width s
  | .rekey port => Sys2Proof.Machine.execRekey port s
  | .e2eTimeout dst seq => Sys2Proof.Machine.execE2eTimeout dst seq s
  | .lnkCfgWrite port value => Sys2Proof.Machine.execLnkCfgWrite port value s
  | .bar0Access a => Sys2Proof.Machine.execBar0Access a s
  | .bar2Access a => Sys2Proof.Machine.execBar2Access a s
  | .hostWindowCompletion id r => Sys2Proof.Machine.execHostWindowCompletion id r s
  | .functionLevelReset => Sys2Proof.Machine.execFunctionLevelReset s
  | .poisonedTlp id => Sys2Proof.Machine.execPoisonedTlp id s
  | .pePerstN => Sys2Proof.Machine.execPePerstN s
  | .pcieTrainingTimeout => Sys2Proof.Machine.execPcieTrainingTimeout s
  | .memoryRead r => Sys2Proof.Machine.execMemoryRead r s
  | .memoryWrite r => Sys2Proof.Machine.execMemoryWrite r s
  | .invalidation p line => Sys2Proof.Machine.execInvalidation p line s
  | .pondCacheFill p line => Sys2Proof.Machine.execPondCacheFill p line s
  | .prefetchDepthAdjust p => Sys2Proof.Machine.execPrefetchDepthAdjust p s
  | .patrolScrub chan block e sample last => Sys2Proof.Machine.execPatrolScrub chan block e sample last s
  | .slabScrub p off e => Sys2Proof.Machine.execSlabScrub p off e s
  | .slabRead p off e => Sys2Proof.Machine.execSlabRead p off e s
  | .calibrationProbe chan => Sys2Proof.Machine.execCalibrationProbe chan s
  | .probePhaseEnd chan => Sys2Proof.Machine.execProbePhaseEnd chan s
  | .probeAbandon chan => Sys2Proof.Machine.execProbeAbandon chan s
  | .tlbInvalidate value => Sys2Proof.Machine.execTlbInvalidate value s
  | .tlbInvalidateDone => Sys2Proof.Machine.execTlbInvalidateDone s
  | .slabReconfigure p => Sys2Proof.Machine.execSlabReconfigure p s
  | .regionFence handle cause => Sys2Proof.Machine.execRegionFence handle cause s
  | .stallLimit q => Sys2Proof.Machine.execStallLimit q s
  | .contextSwitch unit incoming => Sys2Proof.Machine.execContextSwitch unit incoming s
  | .fatalFault cause => Sys2Proof.Machine.execFatalFault cause s
  | .warmReset => Sys2Proof.Machine.execWarmReset s
  | .wrstN => Sys2Proof.Machine.execWrstN s
  | .warmResetDone lost => Sys2Proof.Machine.execWarmResetDone lost s
  | .snapshotArm value => Sys2Proof.Machine.execSnapshotArm value s
  | .snapshotBufferRelease => Sys2Proof.Machine.execSnapshotBufferRelease s
  | .snapshotDone => Sys2Proof.Machine.execSnapshotDone s
  | .snapshotRestore value => Sys2Proof.Machine.execSnapshotRestore value s
  | .siltUnfreeze => Sys2Proof.Machine.execSiltUnfreeze s
  | .temperatureSample temps rails => Sys2Proof.Machine.execTemperatureSample temps rails s
  | .currentSample volts phases vinMa => Sys2Proof.Machine.execCurrentSample volts phases vinMa s
  | .railOutOfRange rail mv => Sys2Proof.Machine.execRailOutOfRange rail mv s
  | .ceilingUpdate => Sys2Proof.Machine.execCeilingUpdate s
  | .voltageTargetUpdate busy => Sys2Proof.Machine.execVoltageTargetUpdate busy s
  | .pwrCoolantWrite value => Sys2Proof.Machine.execPwrCoolantWrite value s
  | .coolantStale => Sys2Proof.Machine.execCoolantStale s
  | .telemetryRecord => Sys2Proof.Machine.execTelemetryRecord s
  | .porNRelease b => Sys2Proof.Machine.execPorNRelease b s
  | .porNAssert => Sys2Proof.Machine.execPorNAssert s
  | .bootReady => Sys2Proof.Machine.execBootReady s
  | .worldDescriptionCommit => Sys2Proof.Machine.execWorldDescriptionCommit s
  | .flashRead value => Sys2Proof.Machine.execFlashRead value s
  | .flashProgram value => Sys2Proof.Machine.execFlashProgram value s
  | .flashErase4k value => Sys2Proof.Machine.execFlashErase4k value s
  | .flashErase64k value => Sys2Proof.Machine.execFlashErase64k value s
  | .flashOpDone ok => Sys2Proof.Machine.execFlashOpDone ok s
  | .smbusSetAddress a => Sys2Proof.Machine.execSmbusSetAddress a s
  | .smbusRead bus => Sys2Proof.Machine.execSmbusRead bus s
  | .smbusWrite value bus => Sys2Proof.Machine.execSmbusWrite value bus s
  | .mctp m => Sys2Proof.Machine.execMctp m s
  | .getVersion m => Sys2Proof.Machine.execGetVersion m s
  | .getCapabilities m => Sys2Proof.Machine.execGetCapabilities m s
  | .negotiateAlgorithms m => Sys2Proof.Machine.execNegotiateAlgorithms m s
  | .getDigests m => Sys2Proof.Machine.execGetDigests m s
  | .getCertificate m => Sys2Proof.Machine.execGetCertificate m s
  | .challenge m => Sys2Proof.Machine.execChallenge m s
  | .getMeasurements m => Sys2Proof.Machine.execGetMeasurements m s
  | .keyExchange m => Sys2Proof.Machine.execKeyExchange m s
  | .finish m => Sys2Proof.Machine.execFinish m s
  | .endSession m => Sys2Proof.Machine.execEndSession m s
  | .heartbeat m => Sys2Proof.Machine.execHeartbeat m s
  | .query m => Sys2Proof.Machine.execQuery m s
  | .keyProg m => Sys2Proof.Machine.execKeyProg m s
  | .kSetGo m => Sys2Proof.Machine.execKSetGo m s
  | .kSetStop m => Sys2Proof.Machine.execKSetStop m s
  | .drbgReseed healthy => Sys2Proof.Machine.execDrbgReseed healthy s
  | .rngHealthFailure => Sys2Proof.Machine.execRngHealthFailure s
  | .obsCapture value => Sys2Proof.Machine.execObsCapture value s
  | .pccSample off => Sys2Proof.Machine.execPccSample off s
  | .traceBudgetWindow => Sys2Proof.Machine.execTraceBudgetWindow s
  | .registerWrite w => Sys2Proof.Machine.execRegisterWrite w s
  | .homeAcknowledgement m => Sys2Proof.Machine.execHomeAcknowledgement m s
  | .snapshotDrain n => Sys2Proof.Machine.execSnapshotDrain n s
  | .restStateReached => Sys2Proof.Machine.execRestStateReached s
  | .pondSupplyGood p bad => Sys2Proof.Machine.execPondSupplyGood p bad s
  | .pcieL0Reached width speed flit => Sys2Proof.Machine.execPcieL0Reached width speed flit s
  | .pcieConfigWrite w => Sys2Proof.Machine.execPcieConfigWrite w s
  | .collAckTimer src => Sys2Proof.Machine.execCollAckTimer src s
  | .perBankRefresh chan bank mr4 => Sys2Proof.Machine.execPerBankRefresh chan bank mr4 s
  | .tapInstruction t => Sys2Proof.Machine.execTapInstruction t s
  | .wrstNRise => Sys2Proof.Machine.execWrstNRise s

end Sys2Proof.Machine
end

