-- ==== Sys2Proof/Safety.lean ====
section
/-! DEFINITION. The terms in which statements say what a step changes and leaves unchanged. -/

namespace Sys2Proof.Machine

open Sys2Proof

/-- A step that goes on: neither a fault nor a refusal. -/
def goesOn (s : State) : Prop := ∃ t, step s = .next t

/-! What stays. -/

/-- Registers at the configuration offsets in `l` may differ; every other register holds the same value. -/
def regsBut (l : List Nat) (s u : State) : Prop := ∀ o, o ∉ l → ∀ v, u.regAt o v = s.regAt o v

/-- Nothing but the registers at the offsets in `l` differs: memory, queues, units and every other part are the same. -/
def onlyRegs (l : List Nat) (s u : State) : Prop := regsBut l s u ∧ { u with regs := s.regs } = s

/-- Every byte of memory reads as before. -/
def memKept (s u : State) : Prop := ∀ a, u.rd8 a = s.rd8 a

/-- Every byte of memory outside the `n` bytes at `a` reads as before. -/
def memBut (a n : Nat) (s u : State) : Prop := ∀ b, b < a ∨ a + n ≤ b → u.rd8 b = s.rd8 b

/-- Every byte of main memory reads as before. -/
def mainKept (s u : State) : Prop := ∀ a, a < 0x10E00000000 → u.rd8 a = s.rd8 a

/-- Every byte of main memory outside the `n` bytes at `a` reads as before. -/
def mainBut (a n : Nat) (s u : State) : Prop := ∀ b, b < 0x10E00000000 → b < a ∨ a + n ≤ b → u.rd8 b = s.rd8 b

/-- Main memory is unchanged, and every other byte where no port traces its frames. -/
def linkMem (s u : State) : Prop := mainKept s u ∧ (s.flag OBS_CFG_LNK_EN = false → memKept s u)

/-- The bytes at `a` read as `d`. -/
def memHolds (a : Nat) (d : List Byte) (u : State) : Prop := ∀ k, k < d.length → u.rd8 (a + k) = (d[k]?).getD 0

/-! General cores. -/

/-- Core `g` can execute, its pc holds the word `w`, and the word spells `op`; `r` is its GRUN and `t` the state after
the fetch. -/
def executes (s : State) (g : Nat) (op : GcOp) (r : GcRun) (w : Nat) (t : State) : Prop :=
  gcRunning s g op = some r ∧ gcFetch s g r = (.ok w, t) ∧ decodeGc w = some op

/-- From `t` to `u` core `g`, whose GRUN is `r`, retires an instruction: its own state becomes `x` with the pc at `pc`,
GC_INSTR and the GRUN's PCC0 count one more, and nothing else changes. -/
def retires (g : Nat) (r : GcRun) (x : GcState) (pc : Nat) (t u : State) : Prop :=
  u.gc g = { x with pc := pc % 2 ^ 64 }
    ∧ u.get GC_INSTR_COUNT g = (t.get GC_INSTR_COUNT g + 1) % 2 ^ 64
    ∧ (∀ k, k ≠ g → u.gc k = t.gc k)
    ∧ u.queues = (t.updCmd r.queue r.seq fun c => c.count 0 1).queues
    ∧ regsBut [GC_INSTR.off g] t u
    ∧ { u with regs := t.regs, gcs := t.gcs, queues := t.queues } = t

/-- The row completes: RD takes `v`, the core goes on at pc + 4, and nothing else changes. -/
def writesRd (i : Instr) (s : State) (g : Nat) (r : GcRun) (w : Nat) (t : State) (v : W64) : Prop :=
  ∃ u, exec i s = .next u ∧ retires g r ((t.gc g).wr (wX w) v) ((t.gc g).pc + 4) t u

/-- The row completes: the core goes on at `pc`, and nothing else changes. -/
def jumps (i : Instr) (s : State) (g : Nat) (r : GcRun) (t : State) (pc : Nat) : Prop :=
  ∃ u, exec i s = .next u ∧ retires g r (t.gc g) pc t u

/-- The rows of the general cores' instructions, each with the instruction it names. -/
def gcRows : List (GcOp × (Nat → Instr)) :=
  [(.add, .add), (.sub, .sub), (.mul, .mul), (.and_, .and_), (.or_, .or_), (.xor, .xor), (.shl, .shl), (.shr, .shr),
   (.cmplu, .cmplu), (.fadd, .fadd), (.fsub, .fsub), (.fmul, .fmul), (.fdiv, .fdiv), (.fsqrt, .fsqrt),
   (.fcmplt, .fcmplt), (.fcvti, .fcvti), (.icvtf, .icvtf), (.fence, .fence), (.yield, .yield), (.halt, .halt),
   (.tret, .tret), (.trap, .trap), (.addk, .addk), (.andk, .andk), (.ork, .ork), (.shlk, .shlk), (.shrk, .shrk),
   (.sark, .sark), (.hik, .hik), (.ld8, .ld8), (.ld16, .ld16), (.ld32, .ld32), (.ld64, .ld64), (.st8, .st8),
   (.st16, .st16), (.st32, .st32), (.st64, .st64), (.breq, .breq), (.brne, .brne), (.brlt, .brlt), (.brge, .brge),
   (.brltu, .brltu), (.brgeu, .brgeu), (.call, .call), (.callr, .callr), (.crr, .crr), (.crw, .crw),
   (.issue, .issue), (.sig, .sig), (.wait, .wait), (.trywait, .trywait), (.dec, .dec), (.sumr, .sumr)]

/-! Commands of units. -/

/-- The counters that the demand reads and the prefetches of pond `p` advance. -/
def readCounts (p : Nat) : List Nat := [PC_CNT.off p, PF_CNT.off p]

/-- The `n` bytes at job address `a` of queue `q` are untranslated main memory without an error, and no replay confines
the queue's writes. -/
def plainMem (s : State) (q a n : Nat) : Prop :=
  transOfQ s q = false ∧ s.replay = none ∧ a + n ≤ 0x10E00000000
    ∧ ∀ b, a ≤ b → b < a + n → poisonedAt s b = false ∧ retiredAt s b = false

/-- Queue `q` uses local addresses, no replay confines its writes, and no byte of memory has an error. -/
def freeMem (s : State) (q : Nat) : Prop :=
  transOfQ s q = false ∧ s.replay = none ∧ s.poison = [] ∧ s.badLines = [] ∧ ∀ a, retiredAt s a = false

/-- The `n` bytes at `a` lie in main memory. -/
abbrev inMain (a n : Nat) : Prop := a + n ≤ 0x10E00000000

/-- The `n` bytes at `a` and the `m` bytes at `b` do not overlap. -/
abbrev apart (a n b m : Nat) : Prop := a + n ≤ b ∨ b + m ≤ a

/-- The partition table at `part` has one range: every node or row key is device `dev`'s, at local row key + `base`. -/
abbrev oneOwner (s : State) (part ranges dev base : Nat) : Prop :=
  ranges = 1 ∧ inMain part 16 ∧ bits (s.rdN part 16) 0 40 = 0 ∧ bits (s.rdN part 16) 40 13 = dev
    ∧ bits (s.rdN part 16) 64 40 = base

/-- The bytes that trough `p` uses for a slot or record, before or after, may differ; every other byte reads as before. -/
def troughMem (p : Nat) (s u : State) : Prop :=
  ∀ b, (∀ ie ∈ (s.trough p).slots ++ (u.trough p).slots, b < slotPa s p ie.1 ∨ slotPa s p ie.1 + 512 ≤ b) →
    (∀ ie ∈ (s.trough p).recs ++ (u.trough p).recs, b < recPa s p ie.1 ∨ recPa s p ie.1 + 512 ≤ b) → u.rd8 b = s.rd8 b

/-- No started command has something still to ask for. -/
abbrev noAsks (s : State) : Prop := ∀ kx ∈ s.queues, ∀ c ∈ kx.2.started, c.todo = []

/-- What a unit does for command `c` of queue `q` in state `s` comes to its end, in `e`: every operand could be read and
written, and the command is well formed. -/
def bodyEnds (s : State) (q : Nat) (c : Cmd) (body : EM Unit) (e : Eng) : Prop :=
  body.run ⟨s, c, ctxOfQ s q, false⟩ = (.ok (), e)

/-! Frames. -/

/-- In `s`, frame `f` of type `type` passes its port's checks, is for this device, and is the next of its stream; `d` is
its payload in clear, and `t` the state in which it is taken. -/
def arrives (s : State) (f : RxFrame) (type : Nat) (d : List Byte) (t : State) : Prop :=
  f.type = type ∧ rxByPath f = false ∧ ∃ r, takeData s f = (some d, r) ∧ f.dst = r.num
    ∧ (f.eseq + 65536 - lookD r.link.rx (f.src * 4 + vcOf f.type) 0) % 65536 = 0
    ∧ t = { r with link := { r.link with
        rx := ins r.link.rx (f.src * 4 + vcOf f.type) ((lookD r.link.rx (f.src * 4 + vcOf f.type) 0 + 1) % 65536) } }

/-- The command has finished with a status and waits to retire. -/
def commandDone (u : State) (q : Nat) (c : Cmd) (st : Nat) : Prop :=
  ∃ c', u.findCmd q c.seq = some c' ∧ c'.raw = c.raw ∧ c'.phase = .done st

end Sys2Proof.Machine
end

