-- ==== Sys2Proof/Certificates/Slice0/Obligations.lean ====
section
/-! DEFINITION. The statements about the model. `s` is the state before a command and `u` the state after it; `executes`,
`retires`, `writesRd`, `onlyRegs` and the other words they share are in Safety.lean. -/

open Sys2Proof Sys2Proof.Machine

/-- General-core words: encoding then decoding gives the instruction and every field back. For every instruction of R267 and every value its format's fields admit (five-bit registers, a 16-bit constant; the fields it does not use zero), the word that gcWord writes is below 2^32, decodes to that instruction, and its fields read back as written. -/
def Obligations.GcEncodingAgrees : Prop :=
  ∀ (o : GcOp) (x y z imm : Nat), gcFields o x y z imm = true →
    gcWord o x y z imm < 2 ^ 32 ∧ decodeGc (gcWord o x y z imm) = some o ∧ wX (gcWord o x y z imm) = x
      ∧ (o = .call → gcWord o x y z imm / 2 ^ 11 = imm) ∧ (o ≠ .call → wY (gcWord o x y z imm) = y)
      ∧ (gcFmtA o = true → wZ (gcWord o x y z imm) = z)
      ∧ (gcFmtA o = false → o ≠ .call → wImm (gcWord o x y z imm) = imm)

/-- General registers: g0 reads as zero and discards writes; any other register reads what was last written. Writing register n of a general core with v: register 0 still reads 0 whatever n is; a register k other than 0 reads v if k is n and its former value if not. -/
def Obligations.GcGeneralRegisters : Prop :=
  ∀ (x : GcState) (n k : Nat) (v : W64),
    (x.wr n v).rd 0 = 0 ∧ (k ≠ 0 → (x.wr n v).rd k = if k = n then v else x.rd k)

/-- ADD, SUB, MUL, AND, OR, XOR, SHL, SHR, CMPLU complete: RD takes the result modulo 2^64 and nothing else changes. Where core g can execute and the word at its pc spells the instruction, the command answers a next state: RD takes the result of RA and RB given by the table of R267 (a write to g0 discarded), the core goes on at pc + 4, GC_INSTR and the GRUN's PCC0 count one, and every other register of the core, special register, queue, core and byte of memory stays. -/
def Obligations.GcIntegerInstructions : Prop :=
  ∀ (s t : State) (g w : Nat) (r : GcRun),
    ∀ row ∈ ([(.add, .add, fun a b => BitVec.ofNat 64 (a.toNat + b.toNat)),
        (.sub, .sub, fun a b => BitVec.ofInt 64 ((a.toNat : Int) - b.toNat)),
        (.mul, .mul, fun a b => BitVec.ofNat 64 (a.toNat * b.toNat)),
        (.and_, .and_, fun a b => a &&& b), (.or_, .or_, fun a b => a ||| b), (.xor, .xor, fun a b => a ^^^ b),
        (.shl, .shl, fun a b => BitVec.ofNat 64 (a.toNat * 2 ^ (b.toNat % 64))),
        (.shr, .shr, fun a b => BitVec.ofNat 64 (a.toNat / 2 ^ (b.toNat % 64))),
        (.cmplu, .cmplu, fun a b => if a.toNat < b.toNat then 1 else 0)]
        : List (GcOp × (Nat → Instr) × (W64 → W64 → W64))),
      executes s g row.1 r w t →
        writesRd (row.2.1 g) s g r w t (row.2.2 (gval t g (wY w)) (gval t g (wZ w)))

/-- ADDK, ANDK, ORK, SHLK, SHRK, SARK, HIK complete: RD takes the result of RA and the 16-bit constant. As for the integer instructions, with IMM in bits [31:16] of the word sign-extended for ADDK and HIK, zero-extended for ANDK and ORK, and its low six bits the shift of SHLK, SHRK and SARK (arithmetic: the floor of the signed quotient). -/
def Obligations.GcConstantInstructions : Prop :=
  ∀ (s t : State) (g w : Nat) (r : GcRun),
    ∀ row ∈ ([(.addk, .addk, fun a i => BitVec.ofInt 64 (a.toInt + toS 16 i)),
        (.andk, .andk, fun a i => a &&& BitVec.ofNat 64 i), (.ork, .ork, fun a i => a ||| BitVec.ofNat 64 i),
        (.shlk, .shlk, fun a i => BitVec.ofNat 64 (a.toNat * 2 ^ (i % 64))),
        (.shrk, .shrk, fun a i => BitVec.ofNat 64 (a.toNat / 2 ^ (i % 64))),
        (.sark, .sark, fun a i => BitVec.ofInt 64 (a.toInt / 2 ^ (i % 64))),
        (.hik, .hik, fun _ i => BitVec.ofInt 64 (toS 16 i * 2 ^ 16))]
        : List (GcOp × (Nat → Instr) × (W64 → Nat → W64))),
      executes s g row.1 r w t →
        writesRd (row.2.1 g) s g r w t (row.2.2 (gval t g (wY w)) (w / 2 ^ 16 % 2 ^ 16))

/-- FADD to FSQRT, FCMPLT, FCVTI, ICVTF complete: one rounding of the low words, canonical NaN, saturation. As for the integer instructions. The operands are the FP32 codes in bits [31:0]; RD takes the rounded exact result with zeros above it. A NaN operand gives 0x7FC00000 in the arithmetic instructions and 0 in FCMPLT and FCVTI; FSQRT of a value below zero gives that NaN; FCVTI gives a value in [-2^63, 2^63 - 1]; every FP32 result is below 2^32. -/
def Obligations.GcFloatInstructions : Prop :=
  (∀ (s t : State) (g w : Nat) (r : GcRun),
    ∀ row ∈ ([(.fadd, .fadd, fun x y => BitVec.ofNat 64 (fp32.enc ((f32 x).add (f32 y)) % 2 ^ 32)),
        (.fsub, .fsub, fun x y => BitVec.ofNat 64 (fp32.enc ((f32 x).sub (f32 y)) % 2 ^ 32)),
        (.fmul, .fmul, fun x y => BitVec.ofNat 64 (fp32.enc ((f32 x).mul (f32 y)) % 2 ^ 32)),
        (.fdiv, .fdiv, fun x y => BitVec.ofNat 64 (fp32.div (f32 x) (f32 y) % 2 ^ 32)),
        (.fsqrt, .fsqrt, fun x _ => BitVec.ofNat 64 (fp32.sqrt (f32 x) % 2 ^ 32)),
        (.fcmplt, .fcmplt, fun x y => if (f32 x).lt (f32 y) then 1 else 0),
        (.fcvti, .fcvti, fun x _ => BitVec.ofInt 64 (fcvti x))]
        : List (GcOp × (Nat → Instr) × (Nat → Nat → W64))),
      executes s g row.1 r w t →
        writesRd (row.2.1 g) s g r w t (row.2.2 ((gval t g (wY w)).toNat % 2 ^ 32) ((gval t g (wZ w)).toNat % 2 ^ 32)))
  ∧ (∀ (s t : State) (g w : Nat) (r : GcRun), executes s g .icvtf r w t →
      writesRd (.icvtf g) s g r w t (BitVec.ofNat 64 (f32ofInt (gval t g (wY w)).toInt % 2 ^ 32)))
  ∧ (∀ x y : Nat, (f32 x = .nan ∨ f32 y = .nan) →
      fp32.enc ((f32 x).add (f32 y)) = 0x7FC00000 ∧ fp32.enc ((f32 x).sub (f32 y)) = 0x7FC00000
        ∧ fp32.enc ((f32 x).mul (f32 y)) = 0x7FC00000 ∧ fp32.div (f32 x) (f32 y) = 0x7FC00000
        ∧ (f32 x).lt (f32 y) = false)
  ∧ (∀ x : Nat, f32 x = .nan → fp32.sqrt (f32 x) = 0x7FC00000 ∧ fcvti x = 0)
  ∧ (∀ m e, m ≠ 0 → fp32.sqrt (.fin true m e) = 0x7FC00000)
  ∧ (∀ x : Nat, -(2 ^ 63) ≤ fcvti x ∧ fcvti x ≤ 2 ^ 63 - 1)

/-- BREQ, BRNE, BRLT, BRGE, BRLTU, BRGEU complete: the pc alone depends on the comparison of RA with RB. Where the branch can execute, the core goes on at pc + 4 times the sign-extended constant if RA and RB compare as the instruction says (RA in bits [15:11], RB in bits [10:6]), else at pc + 4; nothing but the pc, GC_INSTR and PCC0 changes. -/
def Obligations.GcBranches : Prop :=
  ∀ (s t : State) (g w : Nat) (r : GcRun),
    ∀ row ∈ ([(.breq, .breq, fun a b => decide (a.toNat = b.toNat)), (.brne, .brne, fun a b => decide (a.toNat ≠ b.toNat)),
        (.brlt, .brlt, fun a b => decide (a.toInt < b.toInt)), (.brge, .brge, fun a b => decide (b.toInt ≤ a.toInt)),
        (.brltu, .brltu, fun a b => decide (a.toNat < b.toNat)), (.brgeu, .brgeu, fun a b => decide (b.toNat ≤ a.toNat))]
        : List (GcOp × (Nat → Instr) × (W64 → W64 → Bool))),
      executes s g row.1 r w t →
        jumps (row.2.1 g) s g r t
          (if row.2.2 (gval t g (wY w)) (gval t g (wX w)) then (t.gc g).pc + 4 * ofS 64 (toS 16 (w / 2 ^ 16 % 2 ^ 16))
           else (t.gc g).pc + 4)

/-- CALL and CALLR complete: RD takes pc + 4 and the core goes on at the target. CALL goes on at pc + 4 times its signed 21-bit constant. CALLR goes on at RA + the sign-extended constant, taken before RD is written, with bits [1:0] cleared. RD takes the address of the next instruction; nothing else changes. -/
def Obligations.GcCalls : Prop :=
  ∀ (s t : State) (g w : Nat) (r : GcRun),
    (executes s g .call r w t → ∃ u, exec (.call g) s = .next u
      ∧ retires g r ((t.gc g).wr (wX w) (BitVec.ofNat 64 ((t.gc g).pc + 4)))
          ((t.gc g).pc + 4 * ofS 64 (toS 21 (w / 2 ^ 11 % 2 ^ 21))) t u)
    ∧ (executes s g .callr r w t → ∃ u, exec (.callr g) s = .next u
      ∧ retires g r ((t.gc g).wr (wX w) (BitVec.ofNat 64 ((t.gc g).pc + 4)))
          (((gval t g (wY w)).toNat + ofS 64 (toS 16 (w / 2 ^ 16 % 2 ^ 16))) % 2 ^ 64 / 4 * 4) t u)

/-- LD8, LD16, LD32, LD64 complete: RD takes the zero-extended data, memory is unchanged; a misaligned load takes MISALIGN. The address is RA + the sign-extended constant modulo 2^64. Where it is a multiple of the width and the read answers bytes d (see GcReadAnswers for what it answers), RD takes them little-endian and zero-extended, the core goes on at pc + 4, PCC3 counts a load of scratch or main memory, every byte of memory reads as before, and nothing else changes after the read. Where the address is misaligned, the core takes MISALIGN with that address. -/
def Obligations.GcLoads : Prop :=
  ∀ (s t v : State) (g w : Nat) (r : GcRun) (d : List Byte),
    ∀ row ∈ ([(1, .ld8, .ld8), (2, .ld16, .ld16), (4, .ld32, .ld32), (8, .ld64, .ld64)]
        : List (Nat × GcOp × (Nat → Instr))),
      let a := ((gval t g (wY w)).toNat + ofS 64 (toS 16 (w / 2 ^ 16 % 2 ^ 16))) % 2 ^ 64
      executes s g row.2.1 r w t →
        (a % row.1 = 0 → gcRead t g r a row.1 = (.ok d, v) → ∃ u, exec (row.2.2 g) s = .next u
          ∧ retires g r ((v.gc g).wr (wX w) (BitVec.ofNat 64 (leNat d))) ((v.gc g).pc + 4)
              (if countsLoad a then v.gcCount g 3 1 else v) u
          ∧ memKept s u)
        ∧ (a % row.1 ≠ 0 →
            exec (row.2.2 g) s = .next (gcRaise (misaligned t g a row.1 false) g .misalign (some a)))

/-- What a load reads: core data memory of the mode, main memory with the core's rights, and LOAD where they are denied. For an aligned access of 1, 2, 4 or 8 bytes: data memory (bit 63 set, offsets 0x1_0000 to 0x2_FFFF) answers its bytes to owner mode, and to job mode from the owner's part up, and faults with LOAD below it; main memory without an error answers its bytes to owner mode; job mode without a region entry that grants R faults with LOAD; no memory byte changes. -/
def Obligations.GcReadAnswers : Prop :=
  ∀ (t : State) (g n : Nat) (r : GcRun), n = 1 ∨ n = 2 ∨ n = 4 ∨ n = 8 →
    (∀ o, 0x10000 ≤ o → o + n ≤ 0x30000 →
      (ownerMode t g = true ∨ 0x10000 + 4096 * r.ownDmem ≤ o →
        gcRead t g r (2 ^ 63 + o) n = (.ok (cellsAt (t.gc g).dmem (o - 0x10000) n), t))
      ∧ (ownerMode t g = false → o < 0x10000 + 4096 * r.ownDmem →
        gcRead t g r (2 ^ 63 + o) n = (.error (.load, some (2 ^ 63 + o)), t)))
    ∧ (∀ a, a % n = 0 → a + n ≤ 0x10E00000000 → ownerMode t g = true → ueRange t a n = false →
        ∃ v, gcRead t g r a n = (.ok (t.rdBytes a n), v) ∧ memKept t v)
    ∧ (∀ a, a < 2 ^ 43 → ownerMode t g = false → rgnOk t g RGN_LIM_R a = false →
        gcRead t g r a n = (.error (.load, some a), t))

/-- ST8, ST16, ST32, ST64 complete: exactly the addressed bytes of main memory or data memory take RB. The address a is RA + the sign-extended constant modulo 2^64, the data the low bytes of RB, little-endian. In owner mode, aligned and inside main memory, in a block that is neither poisoned nor retired, the n bytes at a take the data and every other byte of memory reads as before; the registers but GC_INSTR stay, and the core goes on at pc + 4. In data memory that the mode reaches, the core's data memory alone changes. A job-mode store to instruction memory or outside every region entry that grants W takes STORE, a misaligned one MISALIGN, and writes nothing. -/
def Obligations.GcStores : Prop :=
  ∀ (s t : State) (g w : Nat) (r : GcRun),
    ∀ row ∈ ([(1, .st8, .st8), (2, .st16, .st16), (4, .st32, .st32), (8, .st64, .st64)]
        : List (Nat × GcOp × (Nat → Instr))),
      let n := row.1
      let a := ((gval t g (wY w)).toNat + ofS 64 (toS 16 (w / 2 ^ 16 % 2 ^ 16))) % 2 ^ 64
      let d := leBytes n (gval t g (wX w)).toNat
      executes s g row.2.1 r w t →
        (ownerMode t g = true → a % n = 0 → a + n ≤ 0x10E00000000 → retiredAt t a = false → poisonedAt t a = false →
          ∃ u, exec (row.2.2 g) s = .next u ∧ memHolds a d u ∧ memBut a n s u
            ∧ (u.gc g) = { t.gc g with pc := ((t.gc g).pc + 4) % 2 ^ 64 }
            ∧ (∀ k, k ≠ g → u.gc k = t.gc k) ∧ regsBut [GC_INSTR.off g] t u)
        ∧ (∀ o, a = 2 ^ 63 + o → a % n = 0 → 0x10000 ≤ o → o + n ≤ 0x30000 →
            (ownerMode t g = true ∨ 0x10000 + 4096 * r.ownDmem ≤ o) →
            ∃ u, exec (row.2.2 g) s = .next u
              ∧ retires g r { t.gc g with dmem := putCells (t.gc g).dmem (o - 0x10000) d } ((t.gc g).pc + 4) t u)
        ∧ (∀ o, a = 2 ^ 63 + o → a % n = 0 → o + n ≤ 0x10000 → ownerMode t g = false →
            exec (row.2.2 g) s = .next (gcRaise t g .store (some a)))
        ∧ (a < 2 ^ 43 → a % n = 0 → ownerMode t g = false → rgnOk t g RGN_LIM_W a = false →
            exec (row.2.2 g) s = .next (gcRaise t g .store (some a)))
        ∧ (a % n ≠ 0 → exec (row.2.2 g) s = .next (gcRaise (misaligned t g a n true) g .misalign (some a)))

/-- FENCE, YIELD, YIELD_TIMEOUT and SUMR complete. FENCE with no unreported error makes the core's stores to instruction memory fetchable, empties the fetch buffer and goes on; with one it takes MEM_UE with that store's address. YIELD with RA = 0 goes on at once; else the core blocks until RA nanoseconds on from its copy of the count, and only its blocked state and GC_STAT.BLOCKED change. YIELD_TIMEOUT, once that time has come, goes on at pc + 4 with BLOCKED clear. SUMR reads the whole summary register of the home core. -/
def Obligations.GcFenceYieldSumr : Prop :=
  ∀ (s t : State) (g w : Nat) (r : GcRun),
    (executes s g .fence r w t → (t.gc g).storeUe = none → ∃ u, exec (.fence g) s = .next u
      ∧ retires g r { t.gc g with imem := imemSeen (t.gc g), ipend := [], fbuf := [] } ((t.gc g).pc + 4) t u)
    ∧ (∀ a, executes s g .fence r w t → (t.gc g).storeUe = some a →
        exec (.fence g) s = .next (gcRaise (t.setGc g { t.gc g with storeUe := none }) g .memUe (some a)))
    ∧ (executes s g .yield r w t → (gval t g (wY w)).toNat = 0 → jumps (.yield g) s g r t ((t.gc g).pc + 4))
    ∧ (executes s g .yield r w t → (gval t g (wY w)).toNat ≠ 0 → ∃ u, exec (.yield g) s = .next u
      ∧ u.gc g = { t.gc g with blocked := .yield (t.stamp + (gval t g (wY w)).toNat), since := t.stamp }
      ∧ u.get GC_STAT_BLOCKED g = 1 ∧ (∀ k, k ≠ g → u.gc k = t.gc k) ∧ regsBut [GC_STAT.off g] t u
      ∧ { u with regs := t.regs, gcs := t.gcs } = t)
    ∧ (∀ n, (s.gc g).run = some r → (s.gc g).blocked = .yield n → unitUp s r.queue = true → n ≤ s.stamp →
      ∃ u, exec (.yieldTimeout g) s = .next u
        ∧ u.gc g = { s.gc g with blocked := .no, pc := ((s.gc g).pc + 4) % 2 ^ 64 }
        ∧ u.get GC_STAT_BLOCKED g = 0 ∧ u.get GC_INSTR_COUNT g = (s.get GC_INSTR_COUNT g + 1) % 2 ^ 64
        ∧ (∀ k, k ≠ g → u.gc k = s.gc k) ∧ regsBut [GC_STAT.off g, GC_INSTR.off g] s u
        ∧ { u with regs := s.regs, gcs := s.gcs, queues := s.queues } = s)
    ∧ (executes s g .sumr r w t → writesRd (.sumr g) s g r w t (t.rg VE_SUM r.home (w / 2 ^ 16 % 16)))

/-- HALT ends the GRUN with status RA[7:0]; a status that the mode may not give raises HALT_CODE; it waits as FENCE does. With no unreported error of an earlier store: where RA[7:0] is a status the mode may give (job mode 0x00 or 0x3F; owner mode any code of R302 but 0x01), the core is free (no GRUN; RUNNING, BLOCKED and INH clear), the GRUN's command has finished with that status, earlier stores to instruction memory are fetchable, and no other core, no memory byte and no register but GC_STAT and GC_INSTR changes. Any other value raises HALT_CODE. An unreported error is raised first. -/
def Obligations.GcHalt : Prop :=
  ∀ (s t : State) (g w : Nat) (r : GcRun), executes s g .halt r w t →
    let st := (gval t g (wY w)).toNat % 256
    let may := if ownerMode t g then st ∈ [0x00, 0x10, 0x11, 0x12, 0x13, 0x20, 0x30, 0x3F] else st = 0 ∨ st = 0x3F
    ((t.gc g).storeUe = none → may → ∃ u, exec (.halt g) s = .next u
      ∧ (u.gc g).run = none ∧ u.get GC_STAT_RUNNING g = 0 ∧ u.get GC_STAT_BLOCKED g = 0 ∧ u.get GC_STAT_INH g = 0
      ∧ (∀ c, t.findCmd r.queue r.seq = some c →
          ∃ c', u.findCmd r.queue r.seq = some c' ∧ c'.raw = c.raw ∧ c'.phase = .done st)
      ∧ (u.gc g).imem = imemSeen (t.gc g) ∧ (u.gc g).ipend = [] ∧ (u.gc g).g = (t.gc g).g
      ∧ (u.gc g).dmem = (t.gc g).dmem ∧ (∀ k, k ≠ g → u.gc k = t.gc k)
      ∧ regsBut [GC_STAT.off g, GC_INSTR.off g] t u ∧ memKept s u)
    ∧ ((t.gc g).storeUe = none → ¬may →
        exec (.halt g) s = .next (gcRaise (t.setGc g (t.gc g).fenced) g .haltCode none))
    ∧ (∀ a, (t.gc g).storeUe = some a →
        exec (.halt g) s = .next (gcRaise (t.setGc g { t.gc g with storeUe := none }) g .memUe (some a)))

/-- TRAP enters the owner handler, TRET returns from it, and a second exception in the handler ends the GRUN. TRAP with INH clear: ECAUSE.PMODE is the mode it was in, EPC is pc + 4, ECAUSE.SERVICE is the constant and CODE is 0x0D, the core is in owner mode with INH set and goes on at GC_EVEC; only EPC, ECAUSE, GC_STAT and GC_INSTR change among the registers, and memory and the core's registers stay. TRET in owner mode goes on at EPC in mode PMODE and clears INH; only GC_STAT and GC_INSTR change. Any exception with INH set ends the GRUN with status 0x3F, sets DOUBLE, and leaves the core free, with INH clear, for its next GRUN. -/
def Obligations.GcTrapAndReturn : Prop :=
  (∀ (s t : State) (g w : Nat) (r : GcRun), executes s g .trap r w t → t.flag GC_STAT_INH g = false →
    ∃ u, exec (.trap g) s = .next u
      ∧ u.get GC_ECAUSE_PMODE g = t.get GC_STAT_MODE g ∧ u.get GC_EPC_VALUE g = ((t.gc g).pc + 4) % 2 ^ 64
      ∧ u.get GC_ECAUSE_SERVICE g = w / 2 ^ 16 % 2 ^ 16 ∧ u.get GC_ECAUSE_CODE g = 0x0D
      ∧ u.get GC_STAT_MODE g = 1 ∧ u.get GC_STAT_INH g = 1
      ∧ u.gc g = { t.gc g with pc := 4 * t.get GC_EVEC_VEC g }
      ∧ u.get GC_INSTR_COUNT g = (t.get GC_INSTR_COUNT g + 1) % 2 ^ 64
      ∧ (∀ k, k ≠ g → u.gc k = t.gc k)
      ∧ regsBut [GC_EPC.off g, GC_ECAUSE.off g, GC_STAT.off g, GC_INSTR.off g] t u
      ∧ { u with regs := t.regs, gcs := t.gcs, queues := t.queues } = t)
  ∧ (∀ (s t : State) (g w : Nat) (r : GcRun), executes s g .tret r w t → ownerMode t g = true →
    ∃ u, exec (.tret g) s = .next u
      ∧ u.get GC_STAT_MODE g = t.get GC_ECAUSE_PMODE g ∧ u.get GC_STAT_INH g = 0
      ∧ u.gc g = { t.gc g with pc := t.get GC_EPC_VALUE g }
      ∧ u.get GC_INSTR_COUNT g = (t.get GC_INSTR_COUNT g + 1) % 2 ^ 64
      ∧ (∀ k, k ≠ g → u.gc k = t.gc k) ∧ regsBut [GC_STAT.off g, GC_INSTR.off g] t u
      ∧ { u with regs := t.regs, gcs := t.gcs, queues := t.queues } = t)
  ∧ (∀ (s : State) (g : Nat) (e : GcExc) (addr : Option Nat) (r : GcRun), (s.gc g).run = some r →
    s.flag GC_STAT_INH g = true → ∃ u, u = gcRaise s g e addr
      ∧ u.get GC_STAT_DOUBLE g = 1 ∧ u.get GC_STAT_RUNNING g = 0 ∧ u.get GC_STAT_INH g = 0 ∧ (u.gc g).run = none
      ∧ (u.gc g).blocked = .no
      ∧ ∀ c, s.findCmd r.queue r.seq = some c → ∃ c', u.findCmd r.queue r.seq = some c' ∧ c'.phase = .done 0x3F)

/-- What an exception records; in job mode it ends the GRUN, in owner mode it enters the handler. With INH clear, every exception but TRAP: EPC is the pc, ECAUSE.CODE the code of R280, EVAL the faulting address if there is one and unchanged if not. In job mode the GRUN's command finishes with the table's status, JOB_EXC is set and the core is free. In owner mode the core enters the handler at GC_EVEC with INH set. No byte of memory, no other core, and no register but EPC, ECAUSE, EVAL and GC_STAT changes. -/
def Obligations.GcExceptions : Prop :=
  ∀ (s : State) (g : Nat) (e : GcExc) (addr : Option Nat) (r : GcRun), (s.gc g).run = some r → (s.gc g).blocked = .no →
    s.flag GC_STAT_INH g = false → (∀ n, e ≠ .trap n) →
    let u := gcRaise s g e addr
    u.get GC_EPC_VALUE g = (s.gc g).pc % 2 ^ 64 ∧ u.get GC_ECAUSE_CODE g = e.code
      ∧ u.get GC_EVAL_VALUE g = (match addr with | some a => a % 2 ^ 64 | none => s.get GC_EVAL_VALUE g)
      ∧ (ownerMode s g = false → ∀ st, e.jobStatus = some st →
          u.get GC_STAT_JOB_EXC g = 1 ∧ u.get GC_STAT_RUNNING g = 0 ∧ (u.gc g).run = none
            ∧ ∀ c, s.findCmd r.queue r.seq = some c →
                ∃ c', u.findCmd r.queue r.seq = some c' ∧ c'.phase = .done st)
      ∧ (ownerMode s g = true →
          u.get GC_ECAUSE_PMODE g = 1 ∧ u.get GC_STAT_MODE g = 1 ∧ u.get GC_STAT_INH g = 1
            ∧ u.gc g = { s.gc g with pc := 4 * s.get GC_EVEC_VEC g })
      ∧ (∀ k, k ≠ g → u.gc k = s.gc k) ∧ memKept s u
      ∧ regsBut [GC_EPC.off g, GC_ECAUSE.off g, GC_EVAL.off g, GC_STAT.off g] s u

/-- Every general-core row: a word that spells no instruction takes ILLEGAL, a fetch that is denied takes FETCH or MEM_UE. Whatever row names the core's next instruction: if the word at the pc spells none, the core takes ILLEGAL; if the fetch fails, it takes the fetch's exception with its address; and while the core cannot execute, or its word spells another instruction than the row's, the row leaves the state as it is. -/
def Obligations.GcIllegalAndFetch : Prop :=
  ∀ row ∈ gcRows, ∀ (s t : State) (g w : Nat) (r : GcRun) (e : GcExc × Option Nat),
    (gcRunning s g row.1 = some r → gcFetch s g r = (.ok w, t) → decodeGc w = none →
      exec (row.2 g) s = .next (gcRaise t g .illegal none))
    ∧ (gcRunning s g row.1 = some r → gcFetch s g r = (.error e, t) → exec (row.2 g) s = .next (gcRaise t g e.1 e.2))
    ∧ (gcRunning s g row.1 = none → exec (row.2 g) s = .next s)
    ∧ (∀ o, o ≠ row.1 → gcRunning s g row.1 = some r → gcFetch s g r = (.ok w, t) → decodeGc w = some o →
        exec (row.2 g) s = .next s)

/-- CRR and CRW complete: the register at offset 8n of the core's page, in the mode that may; PRIV and ILLEGAL otherwise. CRR of an existing register, in owner mode or for GC_ISSQ, GC_STAT, GC_HANDLE, GC_RUN, GC_INSTR and GC_TIME in job mode, puts the register's value in RD and goes on. CRW of an existing register in owner mode writes RB to it, as a 64-bit write of the page does, and goes on. In job mode any CRW and any other CRR take PRIV; a number with no register takes ILLEGAL. -/
def Obligations.GcControlRegisters : Prop :=
  ∀ (s t : State) (g w : Nat) (r : GcRun),
    let n := w / 2 ^ 16 % 2 ^ 12
    let o := 0x4000000 + 0x10000 * g + 8 * n
    (executes s g .crr r w t →
      (∀ v x, (regOf o).isSome = true → (ownerMode t g = true ∨ n ∈ [1, 2, 8, 9, 10, 11]) →
          readReg t o 8 = (.ok x, v) → ∃ u, exec (.crr g) s = .next u
            ∧ retires g r ((v.gc g).wr (wX w) (BitVec.ofNat 64 x)) ((v.gc g).pc + 4) v u)
      ∧ ((regOf o).isSome = true → ownerMode t g = false → n ∉ [1, 2, 8, 9, 10, 11] →
          exec (.crr g) s = .next (gcRaise t g .priv none))
      ∧ (regOf o = none → exec (.crr g) s = .next (gcRaise t g .illegal none)))
    ∧ (executes s g .crw r w t →
      (ownerMode t g = false → exec (.crw g) s = .next (gcRaise t g .priv none))
      ∧ (ownerMode t g = true → regOf o = none → exec (.crw g) s = .next (gcRaise t g .illegal none))
      ∧ (ownerMode t g = true → (regOf o).isSome = true →
          ∃ u, exec (.crw g) s = .next u
            ∧ u = (writeReg t o 8 (gval t g (wX w)).toNat).2.gcAdvance g
                (((writeReg t o 8 (gval t g (wX w)).toNat).2.gc g).pc + 4)))

/-- A recorded effect instruction returns its record and does not act; another kind raises REPLAY; the 16,385th raises EFFECT_LIMIT. For ISSUE, SIG, WAIT, TRYWAIT and DEC (for ISSUE and SIG with no unreported error of a store): where the GRUN's effect record holds an entry at its ordinal of the same kind, RD takes the recorded result, the ordinal advances, the core goes on at pc + 4, and no semaphore, queue register, ring or other part of the state changes but GC_INSTR and the GRUN's counters. An entry of another kind raises REPLAY. With no entry and 16,384 already executed, EFFECT_LIMIT is raised. -/
def Obligations.GcEffectReplay : Prop :=
  ∀ (s t : State) (g w : Nat) (r : GcRun),
    ∀ row ∈ ([(0x30, .issue, .issue), (0x31, .sig, .sig), (0x32, .wait, .wait), (0x33, .trywait, .trywait),
        (0x34, .dec, .dec)] : List (Nat × GcOp × (Nat → Instr))),
      executes s g row.2.1 r w t → (row.1 = 0x30 ∨ row.1 = 0x31 → (t.gc g).storeUe = none) → (t.gc g).blocked = .no →
        (∀ v, (t.jent r.queue r.seq).effects[r.ord]? = some (row.1, v) →
          ∃ u, exec (row.2.2 g) s = .next u
            ∧ retires g r { (t.gc g).wr (wX w) (BitVec.ofNat 64 v) with run := some { r with ord := r.ord + 1 } }
                ((t.gc g).pc + 4) (t.updCmd r.queue r.seq fun c => c.count 2 1) u)
        ∧ (∀ k v, (t.jent r.queue r.seq).effects[r.ord]? = some (k, v) → k ≠ row.1 →
            exec (row.2.2 g) s = .next (gcRaise t g .replay none))
        ∧ ((t.jent r.queue r.seq).effects[r.ord]? = none → 16384 ≤ r.ord →
            exec (row.2.2 g) s = .next (gcRaise t g .effectLimit none))

/-- An effect instruction records its kind and result in the step in which it takes effect. When an effect instruction of a core that is not blocked takes effect with a result, in that same step the GRUN's effect record grows by one entry (kind, result), RD takes the result, the ordinal advances, GC_RUN.ORDINAL counts the entries (modulo 2^15), the core goes on at pc + 4 and GC_INSTR counts one; no other register, core or byte of memory changes. -/
def Obligations.GcEffectRecord : Prop :=
  ∀ (t : State) (g kind rd v : Nat) (r : GcRun), (t.gc g).run = some r → (t.gc g).blocked = .no →
    let u := t.effectDone g kind rd v
    (u.jent r.queue r.seq).effects = (t.jent r.queue r.seq).effects ++ [(kind, v)]
      ∧ u.gc g = { (t.gc g).wr rd (BitVec.ofNat 64 v) with
          run := some { r with ord := r.ord + 1 }, pc := ((t.gc g).pc + 4) % 2 ^ 64 }
      ∧ u.get GC_RUN_ORDINAL g = ((t.jent r.queue r.seq).effects.length + 1) % 2 ^ 15
      ∧ u.get GC_INSTR_COUNT g = (t.get GC_INSTR_COUNT g + 1) % 2 ^ 64
      ∧ (∀ k, k ≠ g → u.gc k = t.gc k) ∧ regsBut [GC_RUN.off g, GC_INSTR.off g] t u
      ∧ { u with regs := t.regs, gcs := t.gcs, queues := t.queues } = t

/-- SIG, WAIT, TRYWAIT and DEC complete on their semaphore; a bad reference raises SEM_REF, an underflow SEM_UNDER. With no recorded entry at the ordinal and no unreported store error. RA is the reference, RB the amount. SIG signals the semaphore by RB and RD takes 0. TRYWAIT subtracts RB and RD takes 1 where no waiter is queued and the value suffices; otherwise RD takes 0 and the value stays. DEC subtracts RB and RD takes 0 where the value suffices; otherwise SEM_UNDER is raised with the UNDER bits set. WAIT blocks the core as a waiter for RB, to be served in its turn. A reference that may not be named raises SEM_REF. -/
def Obligations.GcSemaphoreInstructions : Prop :=
  ∀ (s t : State) (g w : Nat) (r : GcRun),
    let a := (gval t g (wY w)).toNat
    let n := (gval t g (wZ w)).toNat
    let fresh := (t.jent r.queue r.seq).effects[r.ord]? = none ∧ r.ord < 16384
    (executes s g .sig r w t → (t.gc g).storeUe = none → fresh →
      (∀ ref, n < 2 ^ 32 → semRefSig a n = some ref →
        ∃ v u, v = t.signalRef ref n ⟨0, hGc g, t.me, r.seq⟩ ∧ exec (.sig g) s = .next u
          ∧ u = v.effectDone g 0x31 (wX w) 0)
      ∧ ((2 ^ 32 ≤ n ∨ semRefSig a n = none) → exec (.sig g) s = .next (gcRaise t g .semRef none)))
    ∧ (executes s g .trywait r w t → fresh → ∀ ref, n < 2 ^ 32 → semRefOwn a n (hGc r.home) t.me = some ref →
      (t.waitersOf ref.off = [] → n ≤ semValue t ref.off → ∃ u, exec (.trywait g) s = .next u
          ∧ semValue u ref.off = semValue t ref.off - n ∧ u = (semPut t ref.off (semValue t ref.off - n)).effectDone g 0x33 (wX w) 1)
      ∧ ((t.waitersOf ref.off ≠ [] ∨ semValue t ref.off < n) → ∃ u, exec (.trywait g) s = .next u
          ∧ u = t.effectDone g 0x33 (wX w) 0))
    ∧ (executes s g .dec r w t → fresh → ∀ ref, n < 2 ^ 32 → semRefOwn a n (hGc r.home) t.me = some ref →
      (n ≤ semValue t ref.off → ∃ u, exec (.dec g) s = .next u
          ∧ u = (t.semSet ref.off (semValue t ref.off - n)).effectDone g 0x34 (wX w) 0)
      ∧ (semValue t ref.off < n →
          exec (.dec g) s = .next (gcRaise ((semOr t ref.off 49).stick QBLK_ERR_SEM_UNDER) g .semUnder none)))
    ∧ (executes s g .wait r w t → fresh → ∀ ref, n < 2 ^ 32 → semRefOwn a n (hGc r.home) t.me = some ref →
      ∃ u, exec (.wait g) s = .next u
        ∧ ((t.waitersOf ref.off ≠ [] → (∀ x ∈ (t.waitersOf ref.off).head?, semValue t ref.off < x.n) →
              (u.gc g).blocked = .wait (wX w) ∧ (u.gc g).pc = (t.gc g).pc ∧ u.get GC_STAT_BLOCKED g = 1
                ∧ u.waitersOf ref.off = t.waitersOf ref.off ++ [⟨.instr, r.queue, r.seq, n⟩] ∧ memKept t u)
          ∧ (t.waitersOf ref.off = [] → semValue t ref.off < n →
              (u.gc g).blocked = .wait (wX w) ∧ (u.gc g).pc = (t.gc g).pc ∧ u.get GC_STAT_BLOCKED g = 1
                ∧ u.waitersOf ref.off = [⟨.instr, r.queue, r.seq, n⟩] ∧ memKept t u)
          ∧ (t.waitersOf ref.off = [] → n ≤ semValue t ref.off → runnerOf t r.queue r.seq = some g →
              u = (semPut ((t.gcBlock g (.wait (wX w))).setWaiters ref.off []) ref.off
                    (semValue t ref.off - n)).effectDone g 0x32 (wX w) 0)))
    ∧ (∀ row ∈ ([(.wait, .wait), (.trywait, .trywait), (.dec, .dec)] : List (GcOp × (Nat → Instr))),
        executes s g row.1 r w t → fresh → (2 ^ 32 ≤ n ∨ semRefOwn a n (hGc r.home) t.me = none) →
        exec (row.2 g) s = .next (gcRaise t g .semRef none))

/-- ISSUE completes: the command is appended at the queue's tail with its SEQ, or RD = 0 on a full ring. With no recorded entry and no unreported store error, a 64-byte-aligned RA that is readable in the mode and is not in instruction memory: a queue RB that may not be named raises ISSUE_BAD. On a full ring, FN bit 0 set gives RD = 0 and appends nothing; clear, the core blocks and tries again. Otherwise, where the slot takes the bytes without an error, RD = 1, TAIL advances by one, the slot holds the command with its SEQ in bytes 8 to 11, and no other byte of memory changes. A misaligned RA raises MISALIGN with that address. -/
def Obligations.GcIssue : Prop :=
  ∀ (s t v : State) (g w : Nat) (r : GcRun) (d : List Byte),
    let a := (gval t g (wY w)).toNat
    let q := (gval t g (wZ w)).toNat
    executes s g .issue r w t → (t.gc g).storeUe = none → (t.gc g).blocked = .no →
    (t.jent r.queue r.seq).effects[r.ord]? = none → r.ord < 16384 →
    (a % 64 ≠ 0 → exec (.issue g) s = .next (gcRaise t g .misalign (some a)))
    ∧ (a % 64 = 0 → (isCore a = true → 0x10000 ≤ coreOff a) → (isCore a = false → isConfig a = false) →
      gcRead t g r a 64 = (.ok d, v) →
      (issueOk v g q = false → exec (.issue g) s = .next (gcRaise v g .issueBad none))
      ∧ (issueOk v g q = true → qFree v q = 0 → w / 2 ^ 21 % 2 = 1 →
          ∃ u, exec (.issue g) s = .next u ∧ u = v.effectDone g 0x30 (wX w) 0)
      ∧ (issueOk v g q = true → qFree v q = 0 → w / 2 ^ 21 % 2 = 0 →
          ∃ u, exec (.issue g) s = .next u ∧ (u.gc g).blocked = .issue ∧ (u.gc g).pc = (t.gc g).pc
            ∧ u.get GC_STAT_BLOCKED g = 1 ∧ memKept t u)
      ∧ (issueOk v g q = true → qFree v q ≠ 0 → plainOk v (slotAddr v q (qTail v q)) 64 = true →
          ueRange v (slotAddr v q (qTail v q)) 64 = false →
          ∃ u, exec (.issue g) s = .next u
            ∧ u.qget QTAB_TAIL_TAIL q = (v.qget QTAB_TAIL_TAIL q + 1) % 2 ^ 32
            ∧ memHolds (slotAddr v q (qTail v q)) (d.take 8 ++ leBytes 4 (qTail v q) ++ (d.drop 12).take 52) u
            ∧ memBut (slotAddr v q (qTail v q)) 64 t u
            ∧ (u.jent r.queue r.seq).effects = (t.jent r.queue r.seq).effects ++ [(0x30, 1)]
            ∧ (u.gc g).rd (wX w) = (if wX w = 0 then 0 else 1) ∧ (u.gc g).pc = ((t.gc g).pc + 4) % 2 ^ 64
            ∧ (∀ k, k ≠ g → u.gc k = t.gc k)))

/-- GRUN starts: memories loaded at the mode's parts, g1 to g4 the arguments, every other register zero, the pc at ENTRY. Where the core can take queue q's GRUN. Its image in untranslated main memory without an error, with a good header: the core runs that command from the base of its mode's part of instruction memory plus ENTRY; g1 to g4 hold ARG0 to ARG3 and every other register 0; the part of data memory starts with the image's data, and, unless the core's last code came from the same IMAGE with the same IMAGE_ID, the part of instruction memory with its code; GC_STAT shows the mode and RUNNING, GC_RUN the queue and SEQ; other cores and memory stay. The same wherever the image lies, if its header, code and data can be read. A header that breaks a bound or a reserved field ends the command with status 0x10, one that cannot be read with the status of that read; and where the core cannot take a GRUN nothing changes. -/
def Obligations.GcGrunStart : Prop :=
  ∀ (s : State) (q : Nat), (unitCmd s q 8 = none → exec (.grun q) s = .next s) ∧ ∀ (c : Cmd), unitCmd s q 8 = some c →
    let g := hGlobal (s.qget QTAB_CFG_CONSUMER q)
    let own := s.flag GC_CFG_OWNER_V g && s.get GC_CFG_OWNER_Q g == q
    let oi := min 16 (s.get GC_CFG_OWN_IMEM g)
    let od := min 32 (s.get GC_CFG_OWN_DMEM g)
    let ibase := if own then 0 else 4096 * oi
    let dbase := if own then 0 else 4096 * od
    let ipart := if own then 4096 * oi else 0x10000 - 4096 * oi
    let dpart := if own then 4096 * od else 0x20000 - 4096 * od
    let image := cf c.raw.toNat 16 0 43
    let known (id : Nat) : Bool := match (s.gc g).image with | some l => l.1 == image && l.2.1 == id | none => false
    let runs (u : State) (k : Bool) (entry : Nat) (cb db : List Byte) : Prop :=
      (u.gc g).run = some ⟨q, c.seq, hGlobal (homeOfQ s q), 0, oi, od⟩
        ∧ (u.gc g).pc = 2 ^ 63 + ibase + entry ∧ (u.gc g).blocked = .no
        ∧ (∀ i, i < 4 → gval u g (i + 1) = BitVec.ofNat 64 (cf c.raw.toNat (24 + 8 * i) 0 64))
        ∧ (∀ k, k = 0 ∨ 5 ≤ k → gval u g k = 0)
        ∧ (k = false → cellsAt (u.gc g).imem ibase cb.length = cb)
        ∧ (k = true → (u.gc g).imem = imemSeen (s.gc g))
        ∧ cellsAt (u.gc g).dmem dbase db.length = db
        ∧ u.get GC_STAT_MODE g = b2n own ∧ u.get GC_STAT_RUNNING g = 1 ∧ u.get GC_STAT_INH g = 0
        ∧ u.get GC_RUN_QUEUE g = q % 2 ^ 14 ∧ u.get GC_RUN_SEQ g = c.seq % 2 ^ 32
        ∧ (∀ k, k ≠ g → u.gc k = s.gc k) ∧ memKept s u
    (∀ code dat entry id, (own = true ∨ transOfQ s q = false) →
      imageHeader (s.rdBytes image 64) ipart dpart = some (code, dat, entry, id) →
      image + 64 + roundUp 64 code + dat ≤ 0x10E00000000 →
      (∀ b, image ≤ b → b < image + 64 + roundUp 64 code + dat → poisonedAt s b = false ∧ retiredAt s b = false) →
      ∃ u, exec (.grun q) s = .next u
        ∧ runs u (known id) entry (s.rdBytes (image + 64) code) (s.rdBytes (image + 64 + roundUp 64 code) dat))
    ∧ (∀ (s1 : State) (n : Nat), readImage s g q own image 64 = (.error n, s1) → ∃ u, exec (.grun q) s = .next u
      ∧ u = s1.updCmd q c.seq fun c => { c with phase := .done n })
    ∧ (∀ (s1 : State) (h : List Byte), readImage s g q own image 64 = (.ok h, s1) →
      (imageHeader h ipart dpart = none → ∃ u, exec (.grun q) s = .next u
        ∧ u = s1.updCmd q c.seq fun c => { c with phase := .done 0x10 })
      ∧ ∀ (s2 s3 : State) (code dat entry id : Nat) (cb db : List Byte),
        imageHeader h ipart dpart = some (code, dat, entry, id) →
        readImage s1 g q own (image + 64) (if known id then 0 else code) = (.ok cb, s2) →
        readImage s2 g q own (image + 64 + roundUp 64 code) dat = (.ok db, s3) →
        ∃ u, exec (.grun q) s = .next u ∧ runs u (known id) entry cb db)

/-- Queue registers: doorbells, QTAB_CFG, CHEAD, RESUME and DISCARD of an empty queue complete. For a queue 0 to 16,383. TAIL_DOORBELL: while EN = 0 it sets TAIL; while EN = 1 and a warm reset or a committed REST holds the queues, it is kept to be judged later; else a value that would exceed the free entries sets BAD_DB and changes nothing else, and another, where every new slot takes its SEQ, sets TAIL and changes no other register, with no memory byte changed outside bytes 8 to 11 of the new slots. QTAB_CFG_WRITE of a bad value sets QBLK_ERR.DESC; of a locked one CFG_LOCK; of an acceptable one with no entries waiting, the register takes it. QTAB_CHEAD_WRITE sets CHEAD. RESUME of a halted queue sets STATE to 0; of another it changes nothing; so does DISCARD of a queue that is not halted. -/
def Obligations.QueueDoorbell : Prop :=
  ∀ (s : State) (q v : Nat), q < 16384 →
    let t := s.qget QTAB_TAIL_TAIL q
    let m := (v % 2 ^ 32 + 2 ^ 32 - t) % 2 ^ 32
    let stat := QTAB_STAT.off (q / 1024) (q % 1024)
    let tail := QTAB_TAIL.off (q / 1024) (q % 1024)
    (queuesHeld s = true → s.qflag QTAB_CFG_EN q = true → ∃ u, exec (.tailDoorbell q v) s = .next u
      ∧ u.fault.held = s.fault.held ++ [(q, v % 2 ^ 32)] ∧ regsBut [PWR_STAT.off] s u ∧ u.queues = s.queues ∧ memKept s u)
    ∧ (s.qflag QTAB_CFG_EN q = false → ∃ u, exec (.tailDoorbell q v) s = .next u
      ∧ u.qget QTAB_TAIL_TAIL q = v % 2 ^ 32 ∧ onlyRegs [tail] s u)
    ∧ (queuesHeld s = false → s.qflag QTAB_CFG_EN q = true → qFree s q < m → ∃ u, exec (.tailDoorbell q v) s = .next u
      ∧ u.qget QTAB_STAT_BAD_DB q = 1 ∧ onlyRegs [stat] s u)
    ∧ (queuesHeld s = false → s.qflag QTAB_CFG_EN q = true → m ≤ qFree s q → seqsOk s q t m = true →
      ∃ u, exec (.tailDoorbell q v) s = .next u ∧ u.qget QTAB_TAIL_TAIL q = v % 2 ^ 32 ∧ regsBut [tail] s u
        ∧ (u.queues = s.queues ∧ u.waiters = s.waiters ∧ u.gcs = s.gcs)
        ∧ ∀ b, (∀ k, k < m → b < slotAddr s q ((t + k) % 2 ^ 32) + 8 ∨ slotAddr s q ((t + k) % 2 ^ 32) + 12 ≤ b) →
            u.rd8 b = s.rd8 b)
    ∧ (qcfgBad (v % 2 ^ 43) = true → ∃ u, exec (.qtabCfgWrite q v) s = .next u
      ∧ u.get QBLK_ERR_DESC = 1 ∧ onlyRegs [QBLK_ERR.off] s u)
    ∧ (qcfgBad (v % 2 ^ 43) = false → s.qflag QTAB_CFG_EN q = true → v % 2 = 0 →
        s.qget QTAB_TAIL_TAIL q ≠ s.qget QTAB_HEAD_HEAD q → ∃ u, exec (.qtabCfgWrite q v) s = .next u
      ∧ u.qget QTAB_STAT_CFG_LOCK q = 1 ∧ onlyRegs [stat] s u)
    ∧ (qcfgBad (v % 2 ^ 43) = false → s.qget QTAB_TAIL_TAIL q = s.qget QTAB_HEAD_HEAD q →
        (v % 2 ^ 43 / 2 = (s.rg QTAB_CFG (q / 1024) (q % 1024)).toNat / 2 ∨ s.qflag QTAB_CFG_EN q = false) →
      ∃ u, exec (.qtabCfgWrite q v) s = .next u ∧ u.rg QTAB_CFG (q / 1024) (q % 1024) = BitVec.ofNat 64 (v % 2 ^ 43)
        ∧ regsBut [QTAB_CFG.off (q / 1024) (q % 1024)] s u ∧ memKept s u)
    ∧ ((s.q q).discarding = false → ∃ u, exec (.qtabCheadWrite q v) s = .next u
      ∧ u.qget QTAB_CHEAD_CHEAD q = v % 2 ^ 32 ∧ u.qget QTAB_CHEAD_CTAIL q = s.qget QTAB_CHEAD_CTAIL q
      ∧ onlyRegs [QTAB_CHEAD.off (q / 1024) (q % 1024)] s u)
    ∧ (qHalted s q = true → (s.q q).discarding = false → ∃ u, exec (.resume q) s = .next u
      ∧ u.qget QTAB_STAT_STATE q = 0 ∧ u.qget QTAB_STAT_HALT_STATUS q = s.qget QTAB_STAT_HALT_STATUS q
      ∧ onlyRegs [stat] s u)
    ∧ (qHalted s q = false → exec (.resume q) s = .next s ∧ exec (.discard q) s = .next s)

/-- DISCARD of a halted queue: every accepted, unretired entry retires without effect with its completion record, and the queue resumes. For every halted queue 0 to 16,383. Where its completion ring, if it has one, has room for every record: HEAD reaches TAIL, LAST_SEQ is the last entry's, CTAIL counts a record for each, no command is left started, no wait of the queue is left at any semaphore, STATE is 0, and no other queue's TAIL or HEAD changes. With no completion ring, and entries that are control commands, not traced, that ask for no interrupt, no byte of memory changes. Where the ring has room for fewer records, that many entries retire, and the DISCARD waits with CWAIT set. A queue that is not halted: see QueueDoorbell. -/
def Obligations.QueueDiscard : Prop :=
  ∀ (s : State) (q : Nat), q < 16384 → qHalted s q = true → (s.q q).started.length ≤ qUsed s q →
    (∀ kx ∈ s.waiters, isSemVal kx.1 = true) →
    let room := cmplN s q - (s.qget QTAB_CHEAD_CTAIL q + 2 ^ 32 - s.qget QTAB_CHEAD_CHEAD q) % 2 ^ 32
    (cmplN s q = 0 ∨ qUsed s q ≤ room → ∃ u, exec (.discard q) s = .next u
      ∧ u.qget QTAB_HEAD_HEAD q = s.qget QTAB_TAIL_TAIL q ∧ u.qget QTAB_TAIL_TAIL q = s.qget QTAB_TAIL_TAIL q
      ∧ (qUsed s q ≠ 0 → u.qget QTAB_HEAD_LAST_SEQ q = (s.qget QTAB_TAIL_TAIL q + 2 ^ 32 - 1) % 2 ^ 32)
      ∧ u.qget QTAB_CHEAD_CTAIL q
          = (if cmplN s q = 0 then s.qget QTAB_CHEAD_CTAIL q else (s.qget QTAB_CHEAD_CTAIL q + qUsed s q) % 2 ^ 32)
      ∧ (u.q q).started = [] ∧ (u.q q).discarding = false ∧ u.qget QTAB_STAT_STATE q = 0
      ∧ (∀ off, ∀ w ∈ u.waitersOf off, w.queue ≠ q)
      ∧ (∀ k, k < 16384 → k ≠ q → u.qget QTAB_HEAD_HEAD k = s.qget QTAB_HEAD_HEAD k
          ∧ u.qget QTAB_TAIL_TAIL k = s.qget QTAB_TAIL_TAIL k)
      ∧ (cmplN s q = 0 → (∀ c ∈ (s.q q).started, opcOf c.raw.toNat < 0x40 ∧ cmdTraced s c.raw.toNat = false) →
          (∀ k, opcOf (s.rdN (slotAddr s q k) 64) < 0x40 ∧ cf (s.rdN (slotAddr s q k) 64) 0 10 1 = 0) → memKept s u))
    ∧ (cmplN s q ≠ 0 → room < qUsed s q → ∃ u, exec (.discard q) s = .next u
      ∧ u.qget QTAB_HEAD_HEAD q = (s.qget QTAB_HEAD_HEAD q + room) % 2 ^ 32
      ∧ u.qget QTAB_CHEAD_CTAIL q = (s.qget QTAB_CHEAD_CTAIL q + room) % 2 ^ 32
      ∧ (u.q q).discarding = true ∧ u.qget QTAB_STAT_CWAIT q = 1 ∧ u.qget QTAB_STAT_STATE q = 7)

/-- COMMAND_START: the head entry starts with its SEQ; a bad header or body finishes it with 0x10, an unreadable slot with 0x11 or 0x30. For a queue whose head entry may come to its start. Where its slot cannot be reached, or meets an uncorrectable error, the entry starts finished with 0x11 or 0x30; where its header breaks R298, finished with 0x10. FENCE with an earlier command started: nothing changes. A header wait not on record joins its semaphore's waiters once, the value and every register staying while it waits; with no waiter queued and a sufficient value it is taken, the value falls by n, and the entry goes on to its start. With no FENCE and no wait due, the entry starts when its engine is free for it and it has its turn, and the engine's turns pass to it; else nothing changes. It starts finished with 0x10 where its body is bad or it is a second REST, and else ready (a collective may be refused at once). To start is: the queue's started commands grow by one, with the next SEQ and the slot's 64 bytes. -/
def Obligations.CommandStart : Prop :=
  ∀ (s : State) (q : Nat), headReady s q = true → ((s.q q).started.map (·.seq) ++ [nextSeq s q]).Nodup →
    let seq := nextSeq s q
    let a := slotAddr s q seq
    let raw := s.rdN a 64
    let read : Bool := plainOk s a 64 && !ueRange s a 64 && headerOk raw (consumerOf s q)
    let fenced : Bool := cf raw 0 9 1 == 1 && !(s.q q).started.isEmpty
    let wait : Bool := cf raw 8 39 1 == 1 && !(s.jent q seq).waitTaken
    let off := semOffLocal (s.qget QTAB_CFG_SEMCORE q) (cf raw 8 32 6)
    let n := if cf raw 8 48 8 = 0 then 256 else cf raw 8 48 8
    let key := turnKey (consumerOf s q) (opcOf raw)
    let turn : Bool := canTake s q raw && hasTurn s q key (wantsTurn s key)
    let bad : Bool := !bodyOk raw || controlBad s q raw || (opcOf raw == 0xE0 && restStarted s)
    let begun (u : State) (r : Nat) : Prop :=
      (u.q q).started.map (fun c => (c.seq, c.raw)) =
        (s.q q).started.map (fun c => (c.seq, c.raw)) ++ [(seq, BitVec.ofNat 512 r)]
    let starts (u : State) : Prop := begun u raw ∧ u.turns = ins s.turns key q
      ∧ (bad = true → ∃ c, (u.q q).started.getLast? = some c ∧ c.phase = .done 0x10)
      ∧ (bad = false → isCol raw = false → ∃ c, (u.q q).started.getLast? = some c ∧ c.phase = .ready)
    (plainOk s a 64 = false → ∃ u, exec (.commandStart q) s = .next u ∧ begun u 0
      ∧ ∃ c, (u.q q).started.getLast? = some c ∧ c.phase = .done 0x11 ∧ c.ringErr = true)
    ∧ (plainOk s a 64 = true → ueRange s a 64 = true → ∃ u, exec (.commandStart q) s = .next u ∧ begun u 0
      ∧ ∃ c, (u.q q).started.getLast? = some c ∧ c.phase = .done 0x30 ∧ c.ringErr = true)
    ∧ (plainOk s a 64 = true → ueRange s a 64 = false → headerOk raw (consumerOf s q) = false →
      ∃ u, exec (.commandStart q) s = .next u ∧ begun u raw
        ∧ ∃ c, (u.q q).started.getLast? = some c ∧ c.phase = .done 0x10)
    ∧ (read = true → fenced = true → exec (.commandStart q) s = .next s)
    ∧ (read = true → fenced = false → wait = true → (s.q q).joined = true → exec (.commandStart q) s = .next s)
    ∧ (read = true → fenced = false → wait = true → (s.q q).joined = false →
        (match s.waitersOf off with | [] => semValue s off < n | w :: _ => semValue s off < w.n) →
      ∃ u, exec (.commandStart q) s = .next u ∧ u.waitersOf off = s.waitersOf off ++ [⟨.header, q, seq, n⟩]
        ∧ (u.q q).joined = true ∧ (u.q q).started = (s.q q).started ∧ u.regs = s.regs ∧ memKept s u)
    ∧ (read = true → fenced = false → wait = true → (s.q q).joined = false → s.waitersOf off = [] → n ≤ semValue s off →
        isSemVal off = true → turn = true →
      ∃ u, exec (.commandStart q) s = .next u ∧ starts u ∧ semValue u off = semValue s off - n ∧ u.waitersOf off = [])
    ∧ (read = true → fenced = false → wait = false → turn = false → exec (.commandStart q) s = .next s)
    ∧ (read = true → fenced = false → wait = false → turn = true →
      ∃ u, exec (.commandStart q) s = .next u ∧ starts u ∧ ∀ o, u.waitersOf o = s.waitersOf o)

/-- COMMAND_RETIRE: the oldest finished command retires in order; a status that does not signal halts the queue. For every queue 0 to 16,383. Where its oldest started command has finished with a status and its completion ring, if a record is due, is not full: HEAD advances by one, LAST_SEQ is its SEQ, it leaves the started commands and the others keep their order, CTAIL counts the record if one is due, and CWAIT clears. A status other than 0x00, 0x01 and 0x20 halts the queue with that status and SEQ in QTAB_STAT; one of those leaves STATE as it was. An accumulating command whose stage is prepared everywhere retires only after its COMMITs: its retirement is put on record and a COMMIT goes to every home. With a full ring CWAIT is set and nothing else changes. While no command has finished, or the queue may not retire, nothing changes. -/
def Obligations.CommandRetire : Prop :=
  ∀ (s : State) (q : Nat), q < 16384 →
    (oldest s q = none → exec (.commandRetire q) s = .next s)
    ∧ ∀ (c : Cmd) (st : Nat), oldest s q = some c →
      let staged : Bool := st == 0 && c.stage == 3 && accumulates c.raw.toNat
      let due : Bool := !signals st || (!c.ringErr && cf c.raw.toNat 0 8 1 == 1)
      ((c.phase = .ready ∨ c.phase = .running) → exec (.commandRetire q) s = .next s)
      ∧ (c.phase = .done st → (mustRecord c st && cmplFull s q) = true → ∃ u, exec (.commandRetire q) s = .next u
        ∧ u.qget QTAB_STAT_CWAIT q = 1 ∧ onlyRegs [QTAB_STAT.off (q / 1024) (q % 1024)] s u)
      ∧ (c.phase = .done st → staged = true → (mustRecord c st && cmplFull s q) = false →
        ∃ u, exec (.commandRetire q) s = .next u
          ∧ u.tmsgs = s.tmsgs ++ (homesOf c).map (stageMsg s q c .commit) ∧ (u.jent q c.seq).retired = true
          ∧ (u.q q).started.map (fun d => (d.seq, d.raw)) = (s.q q).started.map (fun d => (d.seq, d.raw))
          ∧ u.regs = s.regs ∧ memKept s u)
      ∧ (c.phase = .done st → staged = false → (mustRecord c st && cmplFull s q) = false →
        ∃ u, exec (.commandRetire q) s = .next u
          ∧ u.qget QTAB_HEAD_HEAD q = (s.qget QTAB_HEAD_HEAD q + 1) % 2 ^ 32
          ∧ u.qget QTAB_HEAD_LAST_SEQ q = c.seq % 2 ^ 32
          ∧ (u.q q).started.map (fun d => (d.seq, d.raw)) = ((s.q q).started.drop 1).map (fun d => (d.seq, d.raw))
          ∧ u.qget QTAB_CHEAD_CTAIL q = (if due = true ∧ cmplN s q ≠ 0 then (s.qget QTAB_CHEAD_CTAIL q + 1) % 2 ^ 32
              else s.qget QTAB_CHEAD_CTAIL q)
          ∧ u.qget QTAB_STAT_CWAIT q = 0
          ∧ (signals st = true → u.qget QTAB_STAT_STATE q = s.qget QTAB_STAT_STATE q)
          ∧ (signals st = false → u.qget QTAB_STAT_STATE q = 7 ∧ u.qget QTAB_STAT_HALT_STATUS q = st % 2 ^ 8
              ∧ u.qget QTAB_STAT_HALT_SEQ q = c.seq % 2 ^ 32))

/-- NOP, SIGNAL, DECSEM, SEMSET, BAR_INIT complete: the effect is judged and applied in the retirement step. For every queue 0 to 16,383 whose oldest started command is the ready command of the row. With no completion record due, or with room for one, it retires with status 0x00 and its effect, applied once: NOP none; SIGNAL a signal of the referenced semaphore by N; DECSEM a decrement by N where the value suffices, else status 0x12 and the UNDER bits; SEMSET the value N; BAR_INIT the barrier's COUNT where no arrival is pending, else status 0x10. HEAD advances by one, LAST_SEQ is its SEQ, and it leaves the started commands. With a record due and a full ring, CWAIT is set and nothing else changes. -/
def Obligations.ControlAtRetire : Prop :=
  ∀ (s : State) (q : Nat) (c : Cmd), q < 16384 →
    let raw := c.raw.toNat
    let n := cf raw 24 0 32
    let p := cf raw 16 0 8
    let i := cf raw 17 0 6
    let room (st : Nat) : Prop := (mustRecord c st && cmplFull s q) = false
    let out (u : State) : Prop :=
      u.qget QTAB_HEAD_HEAD q = (s.qget QTAB_HEAD_HEAD q + 1) % 2 ^ 32 ∧ u.qget QTAB_HEAD_LAST_SEQ q = c.seq % 2 ^ 32
        ∧ (u.q q).started.map (fun d => (d.seq, d.raw)) = ((s.q q).started.drop 1).map (fun d => (d.seq, d.raw))
    (atRetire s q 0 = some c → room 0 → ∃ u, exec (.nop q) s = .next u ∧ u = retireStep s q c 0 id ∧ out u)
    ∧ (∀ ref, atRetire s q 1 = some c → semRef (cf raw 16 0 64) = some ref → room 0 →
        ∃ u, exec (.signal q) s = .next u
          ∧ u = retireStep s q c 0 (fun t => t.signalRef ref n (cmdSrc s q c.seq)) ∧ out u)
    ∧ (∀ ref, atRetire s q 3 = some c → semRef (cf raw 16 0 64) = some ref → n ≤ semValue s ref.off → room 0 →
        ∃ u, exec (.decsem q) s = .next u
          ∧ u = retireStep s q c 0 (fun t => (t.semDec ref.off n).1) ∧ out u)
    ∧ (∀ ref, atRetire s q 3 = some c → semRef (cf raw 16 0 64) = some ref → semValue s ref.off < n → room 0x12 →
        ∃ u, exec (.decsem q) s = .next u ∧ u.qget QTAB_STAT_STATE q = 7 ∧ u.qget QTAB_STAT_HALT_STATUS q = 0x12
          ∧ u.get QBLK_ERR_SEM_UNDER = 1 ∧ (u.regAt ref.off 0).getLsbD 49 = true
          ∧ semValue u ref.off = semValue s ref.off ∧ out u)
    ∧ (∀ ref, atRetire s q 6 = some c → semRef (cf raw 16 0 64) = some ref → room 0 →
        ∃ u, exec (.semset q) s = .next u ∧ u = retireStep s q c 0 (fun t => t.semSet ref.off n) ∧ out u)
    ∧ (atRetire s q 5 = some c → (s.bar p i).cur = [] → (s.bar p i).nxt = [] → room 0 →
        ∃ u, exec (.barInit q) s = .next u ∧ u = retireStep s q c 0 (fun t => t.set BAR_STAT_COUNT (cf raw 18 0 7) p i)
          ∧ u.get BAR_STAT_COUNT p i = cf raw 18 0 7 ∧ out u)
    ∧ (atRetire s q 5 = some c → ((s.bar p i).cur ≠ [] ∨ (s.bar p i).nxt ≠ []) → room 0x10 →
        ∃ u, exec (.barInit q) s = .next u ∧ u.qget QTAB_STAT_STATE q = 7 ∧ u.qget QTAB_STAT_HALT_STATUS q = 0x10 ∧ out u)
    ∧ (∀ row ∈ ([(0, .nop), (1, .signal), (6, .semset)] : List (Nat × (Nat → Instr))), atRetire s q row.1 = some c →
        (row.1 = 0 ∨ (semRef (cf raw 16 0 64)).isSome = true) → ¬room 0 →
        ∃ u, exec (row.2 q) s = .next u ∧ u.qget QTAB_STAT_CWAIT q = 1
          ∧ onlyRegs [QTAB_STAT.off (q / 1024) (q % 1024)] s u)

/-- WAITSEM joins the waiters once; BARRIER arrives once, completes its round when all have arrived, and counts an overrun. For the first ready WAITSEM of a running queue whose wait is not on record: with no waiter queued and a sufficient value the value falls by N, the wait is on record and the command finishes with 0x00; with waiters queued whose first is not served, or too small a value, it waits at the end of the line and the value stays. A wait on record is not taken again. For a BARRIER: an arrival the round has not seen is counted, and the round completes when COUNT have arrived (GEN advances by one modulo 4, the next round's arrivals become current); a participant who has arrived in both rounds finishes with 0x13 and sets OVR. No byte of memory changes. -/
def Obligations.WaitsemAndBarrier : Prop :=
  (∀ (s : State) (q : Nat) (c : Cmd) (ref : SemRef), readyCmd s q 2 = some c →
    semRef (cf c.raw.toNat 16 0 64) = some ref →
    let n := cf c.raw.toNat 24 0 32
    ((s.jent q c.seq).semTaken = true → ∃ u, exec (.waitsem q) s = .next u
      ∧ u = s.updCmd q c.seq fun c => { c with phase := .done 0 })
    ∧ ((s.jent q c.seq).semTaken = false → s.waitersOf ref.off = [] → n ≤ semValue s ref.off →
      ∃ u, exec (.waitsem q) s = .next u ∧ semValue u ref.off = semValue s ref.off - n
        ∧ u.waitersOf ref.off = [] ∧ (u.jent q c.seq).semTaken = true
        ∧ (∃ c', u.findCmd q c.seq = some c' ∧ c'.phase = .done 0)
        ∧ regsBut [ref.off] s u ∧ memKept s u ∧ u.gcs = s.gcs)
    ∧ ((s.jent q c.seq).semTaken = false →
        (match s.waitersOf ref.off with | [] => semValue s ref.off < n | w :: _ => semValue s ref.off < w.n) →
      ∃ u, exec (.waitsem q) s = .next u ∧ u.waitersOf ref.off = s.waitersOf ref.off ++ [⟨.command, q, c.seq, n⟩]
        ∧ (∃ c', u.findCmd q c.seq = some c' ∧ c'.phase = .running)
        ∧ u.regs = s.regs ∧ memKept s u ∧ u.gcs = s.gcs))
  ∧ (∀ (s : State) (q : Nat) (c : Cmd), readyCmd s q 4 = some c → s.findCmd q c.seq = some c →
    (s.jent q c.seq).arrival = none →
    let p := cf c.raw.toNat 16 0 8
    let i := cf c.raw.toNat 17 0 6
    let part := cf c.raw.toNat 18 0 6
    let b := s.bar p i
    ((∀ x ∈ b.cur, x.part ≠ part) → (∀ x ∈ b.nxt, x.part ≠ part) → b.cur.length + 1 < s.get BAR_STAT_COUNT p i →
      b.cur.length < 64 → ∃ u, exec (.barrier q) s = .next u
        ∧ (u.bar p i) = { b with cur := b.cur ++ [⟨part, q, c.seq⟩] }
        ∧ u.get BAR_STAT_ARRIVED p i = b.cur.length + 1 ∧ u.get BAR_STAT_GEN p i = s.get BAR_STAT_GEN p i
        ∧ (u.jent q c.seq).arrival = some (s.get BAR_STAT_GEN p i)
        ∧ (∃ c', u.findCmd q c.seq = some c' ∧ c'.phase = if cf c.raw.toNat 18 7 1 = 1 then .done 0 else .running)
        ∧ regsBut [BAR_STAT.off p i, BAR_MASK.off p i] s u ∧ memKept s u)
    ∧ ((∀ x ∈ b.cur, x.part ≠ part) → (∀ x ∈ b.nxt, x.part ≠ part) → b.cur.length + 1 = s.get BAR_STAT_COUNT p i →
      ∃ u, exec (.barrier q) s = .next u ∧ (u.bar p i) = ⟨b.nxt, []⟩
        ∧ u.get BAR_STAT_GEN p i = (s.get BAR_STAT_GEN p i + 1) % 4
        ∧ (∃ c', u.findCmd q c.seq = some c' ∧ c'.phase = .done 0)
        ∧ regsBut [BAR_STAT.off p i, BAR_MASK.off p i] s u ∧ memKept s u)
    ∧ ((∃ x ∈ b.cur, x.part = part) → (∃ x ∈ b.nxt, x.part = part) →
      (∀ x ∈ b.cur ++ b.nxt, ¬(x.part = part ∧ x.queue = q ∧ x.seq = c.seq)) → ∃ u, exec (.barrier q) s = .next u
        ∧ u.get BAR_STAT_OVR p i = 1 ∧ (u.bar p i) = b
        ∧ (∃ c', u.findCmd q c.seq = some c' ∧ c'.phase = .done 0x13)
        ∧ regsBut [BAR_STAT.off p i] s u ∧ memKept s u))

/-- SEM_VAL_WRITE and FSEM_SIG_WRITE complete: set or saturating signal, SEM_LAST and the OVF bits, range refusals. A write of VALUE at the offset of a semaphore with no waiter: a value in its range replaces VALUE and no other register changes; one out of range sets QBLK_ERR.SEM_RANGE and leaves VALUE. An offset of no semaphore changes nothing. A signal of far semaphore n (0 to 255) with no waiter, by a nonzero amount: VALUE is the sum, or the maximum with OVF and QBLK_ERR.SEM_OVF set where the sum exceeds it, and SEM_LAST names the host. A signal by 0 changes nothing. No memory byte changes. -/
def Obligations.SemaphoreRegisterWrites : Prop :=
  (∀ (s : State) (off v : Nat), isSemVal off = true → s.waitersOf off = [] →
    (v % 2 ^ 32 ≤ semMax off → ∃ u, exec (.semValWrite off v) s = .next u ∧ semValue u off = v % 2 ^ 32
      ∧ onlyRegs [off] s u)
    ∧ (semMax off < v % 2 ^ 32 → ∃ u, exec (.semValWrite off v) s = .next u ∧ u.get QBLK_ERR_SEM_RANGE = 1
      ∧ onlyRegs [QBLK_ERR.off] s u))
  ∧ (∀ (s : State) (off v : Nat), isSemVal off = false → exec (.semValWrite off v) s = .next s)
  ∧ (∀ (s : State) (n a : Nat), n < 256 → s.waitersOf (FSEM_VAL.off n) = [] → a % 2 ^ 32 ≠ 0 →
    ∃ u, exec (.fsemSigWrite n a) s = .next u
      ∧ semValue u (FSEM_VAL.off n) = min 0xFFFFFFFF (semValue s (FSEM_VAL.off n) + a % 2 ^ 32)
      ∧ u.get FSEM_LAST_SRC n = 2
      ∧ (0xFFFFFFFF < semValue s (FSEM_VAL.off n) + a % 2 ^ 32 →
          u.get FSEM_VAL_OVF n = 1 ∧ u.get QBLK_ERR_SEM_OVF = 1)
      ∧ (semValue s (FSEM_VAL.off n) + a % 2 ^ 32 ≤ 0xFFFFFFFF →
          u.get FSEM_VAL_OVF n = s.get FSEM_VAL_OVF n ∧ u.get QBLK_ERR_SEM_OVF = s.get QBLK_ERR_SEM_OVF)
      ∧ onlyRegs [FSEM_VAL.off n, FSEM_LAST.off n, QBLK_ERR.off] s u)
  ∧ (∀ (s : State) (n a : Nat), a % 2 ^ 32 = 0 → exec (.fsemSigWrite n a) s = .next s)

/-- Unit commands: what a unit did stays, and its command finishes with the status the work came to. For each of the 17 rows that the list names: where the unit can take the queue's command and its work comes to its end with no answer awaited, the row answers the state the work reached, the command finished with status 0x00, or 0x30 if a write met an uncorrectable error; where the work stops with a status, the same with that status (HOT_REFRESH works with the list that it keeps from its start). Where the unit cannot take a command of the row, the state is unchanged. -/
def Obligations.UnitCommandsEnd : Prop :=
  ∀ (s : State) (q : Nat) (c : Cmd) (e : Eng),
    ∀ row ∈ ([(0x22, .mstore, mstoreBody), (0x40, .vpload, vploadBody), (0x42, .vtrans, vtransBody),
        (0x60, .sample, fun _ => sampleBody), (0x70, .tableSwitch, switchBody), (0x71, .hotRefresh, fun _ => hotRefreshBody),
        (0x80, .treset, tresetBody), (0x83, .tmerge, tmergeBody), (0x90, .tcodec, fun _ => tcodecBody),
        (0xA0, .update, updateBody), (0xA2, .flagLocal, fun _ => flagLocalBody), (0xA4, .pcSwitch, fun _ => pcSwitchBody),
        (0xA5, .replayBegin, replayBeginBody), (0xA6, .replayEnd, fun _ => replayEndBody),
        (0xB0, .pruneMask, fun _ => pruneMaskBody), (0xB1, .prunePack, fun _ => prunePackBody),
        (0xC0, .xfer, fun _ => xferBody)] : List (Nat × (Nat → Instr) × (Nat → EM Unit))),
      (unitCmd s q row.1 = none → exec (row.2.1 q) s = .next s)
      ∧ let c' := if row.1 = 0x71 then hotTaken s c else c
        let s' := if row.1 = 0x71 then putCmd s q c' else s
        (unitCmd s q row.1 = some c → bodyEnds s' q c' (row.2.2 q) e → e.cmd.waits = 0 →
          ∃ u, exec (row.2.1 q) s = .next u
            ∧ u = putCmd e.s q { e.cmd with phase := .done (if e.bad then 0x30 else 0) })
        ∧ (∀ n, unitCmd s q row.1 = some c → (row.2.2 q).run ⟨s', c', ctxOfQ s' q, false⟩ = (.error (.status n), e) →
          e.bad = false → e.cmd.waits = 0 →
          ∃ u, exec (row.2.1 q) s = .next u ∧ u = putCmd e.s q { e.cmd with phase := .done n })

/-- MLOAD, PLANE_SWAP, MMUL, MSTORE complete: shadow planes, active planes, accumulators, and exactly the stored bytes. MLOAD, its shadow planes free and its tiles readable: each targeted array's shadow plane holds this command's tiles; active planes, accumulators and memory stay. PLANE_SWAP with a loaded shadow plane that no earlier MMUL keeps back: the array's active plane is that plane and its shadow is empty; MC_STEPS of a core that holds its own context shows the plane's step count, and everything but the core's planes stays. MMUL that finds its operands: planes and memory stay, and accumulators outside the command's region stay. MSTORE of FP32 accumulators to untranslated main memory, rows not overlapping: the bytes of each row are its accumulators, little-endian, and no byte outside the rows changes. MLOAD whose descriptors and tiles lie in error-free main memory, each descriptor fit for the mode, finishes with 0x00, and each array's shadow plane holds the tile of its number: the K and N indices, the tensor scale, and in the BF16x3 split its part. MMUL with active planes, its K and accumulator indices in bounds, and fitting A tiles in error-free main memory finishes with 0x00. -/
def Obligations.MatrixCommands : Prop :=
  (∀ (s : State) (q : Nat) (c : Cmd) (e : Eng), unitCmd s q 0x20 = some c → shadowBusy s q c.raw.toNat = false →
    bodyEnds s q c (mloadBody q) e → ∃ u, exec (.mload q) s = .next u
      ∧ (∀ a ∈ maskBits (cf c.raw.toNat 16 0 16), ∃ p, ((u.mc (mcHome s q)).arr a).shadow = some p
          ∧ p.queue = q ∧ p.seq = c.seq ∧ p.mode = cf c.raw.toNat 18 0 2)
      ∧ (∀ a, ((u.mc (mcHome s q)).arr a).active = ((s.mc (mcHome s q)).arr a).active)
      ∧ (u.mc (mcHome s q)).acc = (s.mc (mcHome s q)).acc ∧ (∀ m, m ≠ mcHome s q → u.mc m = s.mc m) ∧ memKept s u)
  ∧ (∀ (s : State) (q : Nat) (c : Cmd), unitCmd s q 0x20 = some c → shadowBusy s q c.raw.toNat = false → c.waits = 0 →
    freeMem s q →
    let raw := c.raw.toNat
    let mode := cf raw 18 0 2
    let x3 := cf raw 18 2 1
    let arrs := maskBits (cf raw 16 0 16)
    let kt := cf raw 32 0 16
    let at_ (t : Nat) : Nat := cf raw 24 0 43 + t * cf raw 20 0 32
    let desc (t : Nat) : Desc := descOf (s.rdN (at_ t) 16)
    (∀ t, t < mloadTiles mode x3 arrs → inMain (at_ t) 16 ∧ mloadDescOk mode x3 (desc t) = true
      ∧ inMain (at_ t) (if mode = 2 then 16 + 256 + 32 * (desc t).slot + 256 else (desc t).size)) →
    ∃ u, exec (.mload q) s = .next u ∧ commandDone u q c 0
      ∧ (∀ t, t < mloadTiles mode x3 arrs →
          let holds (i : Nat) (k : Nat) (part : Nat) : Prop :=
            ∃ p b, ((u.mc (mcHome s q)).arr (listGet arrs i 0)).shadow = some p ∧ p.tiles[k]? = some (some b)
              ∧ b.k = cf raw 34 0 16 + t % kt ∧ b.n = cf raw 36 0 16 + t / kt ∧ b.part = part
              ∧ b.t = (if x3 = 1 ∧ mode = 0 then f32one else (desc t).t)
          (mode = 1 → holds (t / 4) (t % 4) 0)
          ∧ (mode = 2 ∨ (mode = 0 ∧ x3 = 0) → holds t 0 0)
          ∧ (mode = 0 ∧ x3 = 1 → ∀ p, p < 3 → holds (3 * t + p) 0 (p + 1)))
      ∧ (∀ a, ((u.mc (mcHome s q)).arr a).active = ((s.mc (mcHome s q)).arr a).active)
      ∧ (u.mc (mcHome s q)).acc = (s.mc (mcHome s q)).acc ∧ memKept s u)
  ∧ (∀ (s : State) (m a : Nat) (p : Plane), ((s.mc m).arr a).shadow = some p → planeNeeded s a p = false →
    ∃ u, exec (.planeSwap m a) s = .next u
      ∧ (u.mc m).arr a = ⟨some p, none⟩ ∧ (∀ b, b ≠ a → (u.mc m).arr b = (s.mc m).arr b)
      ∧ (u.mc m).acc = (s.mc m).acc ∧ (∀ k, k ≠ m → u.mc k = s.mc k) ∧ { u with mcs := s.mcs } = s
      ∧ (m < 192 → a < 16 → look s.ctxs (hMc m) = none → bits (regShows u MC_STEPS m 0) (4 * a) 4 = p.steps % 16))
  ∧ (∀ (s : State) (m a : Nat), ((s.mc m).arr a).shadow = none → exec (.planeSwap m a) s = .next s)
  ∧ (∀ (s : State) (q : Nat) (c : Cmd) (e : Eng), unitCmd s q 0x21 = some c → mmWaits s q c = false →
    bodyEnds s q c (mmulBody q) e → ∃ u, exec (.mmul q) s = .next u
      ∧ (u.mc (mcHome s q)).arrays = (s.mc (mcHome s q)).arrays ∧ (∀ m, m ≠ mcHome s q → u.mc m = s.mc m) ∧ memKept s u
      ∧ (∀ i, i ∉ mmRegion ((maskBits (cf c.raw.toNat 16 0 16)).flatMap fun a =>
              match ((s.mc (mcHome s q)).arr a).active with | some p => feedsOf a p | none => [])
            (cf c.raw.toNat 20 0 32) (cf c.raw.toNat 40 0 32) (cf c.raw.toNat 44 0 32) →
          lookD (u.mc (mcHome s q)).acc i 0 = lookD (s.mc (mcHome s q)).acc i 0))
  ∧ (∀ (s : State) (q : Nat) (c : Cmd), unitCmd s q 0x21 = some c → mmWaits s q c = false → c.waits = 0 → freeMem s q →
    let raw := c.raw.toNat
    let rows := cf raw 20 0 32
    let arrs := maskBits (cf raw 16 0 16)
    let fs := arrs.flatMap fun a => match ((s.mc (mcHome s q)).arr a).active with | some p => feedsOf a p | none => []
    let at_ (ik : Nat × Nat) : Nat := cf raw 24 0 43 + (ik.1 * cf raw 36 0 16 + ik.2) * cf raw 32 0 32
    (∀ a ∈ arrs, ((s.mc (mcHome s q)).arr a).active.isSome = true) →
    (∀ f ∈ fs, f.k < cf raw 36 0 16 ∧ feedMax rows (cf raw 40 0 32) (cf raw 44 0 32) f < 196608
      ∧ ∀ ik ∈ feedTiles rows f, inMain (at_ ik) 16 ∧ aTileOk f (descOf (s.rdN (at_ ik) 16)) = true
        ∧ inMain (at_ ik) ((descOf (s.rdN (at_ ik) 16)).size + 128)) →
    ∃ u, exec (.mmul q) s = .next u ∧ commandDone u q c 0
      ∧ (u.mc (mcHome s q)).arrays = (s.mc (mcHome s q)).arrays ∧ memKept s u)
  ∧ (∀ (s : State) (q : Nat) (c : Cmd), unitCmd s q 0x22 = some c →
    let raw := c.raw.toNat
    let rows := cf raw 20 0 32
    let cols := cf raw 24 0 16
    let base := cf raw 28 0 32
    let ldi := cf raw 32 0 32
    let pitch := if cf raw 36 0 32 = 0 then 4 * cols else cf raw 36 0 32
    let dest := cf raw 40 0 43
    cf raw 16 0 1 = 0 → rows ≠ 0 → cols ≠ 0 → 4 * cols ≤ pitch → base + (rows - 1) * ldi + (cols - 1) < 196608 →
    c.waits = 0 → plainMem s q dest ((rows - 1) * pitch + 4 * cols) →
    ∃ u, exec (.mstore q) s = .next u ∧ commandDone u q c 0
      ∧ (∀ r k, r < rows → k < cols →
          memHolds (dest + r * pitch + 4 * k) (leBytes 4 (lookD (s.mc (mcHome s q)).acc (base + r * ldi + k) 0)) u)
      ∧ (∀ b, (∀ r, r < rows → b < dest + r * pitch ∨ dest + r * pitch + 4 * cols ≤ b) → u.rd8 b = s.rd8 b)
      ∧ u.mcs = s.mcs ∧ u.regs = s.regs)

/-- VPLOAD, VEXEC, VTRANS, VMASK complete: programs, transposes and masks; masks and summaries change only at retirement. VPLOAD of an image that passes its checks, from untranslated main memory: the slot holds the 192 bytes, and the tiles, masks and memory stay. VTRANS from untranslated main memory to the tile space: byte k of element (r, c) of the source is byte k of element (c, r) of the destination; masks and memory stay. VMASK sets, complements, intersects, unites, loads or stores a mask: the new mask is kept for the retirement step, or the 8192 bytes are stored. VEXEC that finds its operands: masks and summary registers stay until it retires, and other cores' vector state stays. VEXEC of a loaded program with valid descriptors and selectors, its descriptors, streams, summaries and deltas in error-free main memory or the tile space and its ranges in order, finishes with 0x00; main memory outside its output streams stays. -/
def Obligations.VectorCommands : Prop :=
  (∀ (s : State) (q : Nat) (c : Cmd), unitCmd s q 0x40 = some c →
    let a := cf c.raw.toNat 24 0 43
    c.waits = 0 → plainMem s q a 192 → imageOk (s.rdBytes a 192) = true → ∃ u, exec (.vpload q) s = .next u ∧ commandDone u q c 0
      ∧ look (u.ve (veHome s q)).progs (cf c.raw.toNat 16 0 4) = some (s.rdBytes a 192)
      ∧ (u.ve (veHome s q)).tiles = (s.ve (veHome s q)).tiles ∧ (u.ve (veHome s q)).masks = (s.ve (veHome s q)).masks
      ∧ (∀ g, g ≠ veHome s q → u.ve g = s.ve g) ∧ memKept s u)
  ∧ (∀ (s : State) (q : Nat) (c : Cmd) (sa da : Nat), unitCmd s q 0x42 = some c →
    let raw := c.raw.toNat
    let w := 2 ^ cf raw 16 0 2
    let rows := cf raw 18 0 16
    let cols := cf raw 20 0 16
    let sp := if cf raw 32 0 32 = 0 then cols * w else cf raw 32 0 32
    let dp := if cf raw 36 0 32 = 0 then rows * w else cf raw 36 0 32
    operandAddr (cf raw 24 0 64) = some (false, sa) → operandAddr (cf raw 40 0 64) = some (true, da) →
    rows ≠ 0 → cols ≠ 0 → rows * w ≤ dp → da + (cols - 1) * dp + rows * w ≤ 65536 →
    c.waits = 0 → plainMem s q sa ((rows - 1) * sp + cols * w) → ∃ u, exec (.vtrans q) s = .next u ∧ commandDone u q c 0
      ∧ (∀ r k j, r < rows → k < cols → j < w →
          lookD (u.ve (veHome s q)).tiles (da + k * dp + r * w + j) 0 = s.rd8 (sa + r * sp + k * w + j))
      ∧ (u.ve (veHome s q)).masks = (s.ve (veHome s q)).masks ∧ (∀ g, g ≠ veHome s q → u.ve g = s.ve g) ∧ memKept s u)
  ∧ (∀ (s : State) (q : Nat) (c : Cmd), unitCmd s q 0x43 = some c → maskPending s q c = false →
    let raw := c.raw.toNat
    let op := cf raw 16 0 3
    let md := cf raw 17 0 3
    let ma := maskOf (s.ve (veHome s q)) (cf raw 18 0 3)
    let mb := maskOf (s.ve (veHome s q)) (cf raw 19 0 3)
    let a := cf raw 24 0 43
    (op < 5 → c.waits = 0 → (op = 4 → plainMem s q a 8192) → ∃ u, exec (.vmask q) s = .next u ∧ commandDone u q c 0
      ∧ u.ves = s.ves ∧ memKept s u
      ∧ ∃ c', u.findCmd q c.seq = some c' ∧ RetFx.mask (veHome s q) md
          (if op = 0 then 2 ^ cf raw 20 0 32 - 1 else if op = 1 then 2 ^ 65536 - 1 - ma else if op = 2 then ma &&& mb
            else if op = 3 then ma ||| mb else s.rdN a 8192) ∈ c'.fx)
    ∧ (op = 5 → c.waits = 0 → plainMem s q a 8192 → ∃ u, exec (.vmask q) s = .next u ∧ commandDone u q c 0 ∧ u.ves = s.ves
      ∧ memHolds a (leBytes 8192 (maskOf (s.ve (veHome s q)) md)) u ∧ memBut a 8192 s u))
  ∧ (∀ (s : State) (q : Nat) (c : Cmd) (e : Eng), unitCmd s q 0x41 = some c → maskPending s q c = false →
    bodyEnds s q c (vexecBody q) e → e.cmd.waits = 0 → ∃ u, exec (.vexec q) s = .next u
      ∧ commandDone u q c (if e.bad then 0x30 else 0)
      ∧ (u.ve (veHome s q)).masks = (s.ve (veHome s q)).masks ∧ (u.ve (veHome s q)).progs = (s.ve (veHome s q)).progs
      ∧ (∀ g, g ≠ veHome s q → u.ve g = s.ve g)
      ∧ (∀ g i, g < 384 → i < 16 → u.rg VE_SUM g i = s.rg VE_SUM g i))
  ∧ (∀ (s : State) (q : Nat) (c : Cmd) (img : List Byte) (sels : List (Nat × Nat × Nat)), unitCmd s q 0x41 = some c →
    maskPending s q c = false → c.waits = 0 → freeMem s q →
    let raw := c.raw.toNat
    let p := Prog.ofBytes img
    let n := cf raw 18 0 16
    let rowlen := if cf raw 20 0 16 = 0 then n else cf raw 20 0 16
    let sd := cf raw 24 0 43
    let nd := p.nin + p.nout
    let x : Shape := ⟨n, rowlen, (n + rowlen - 1) / rowlen,
      (upto n).filter fun i => (maskOf (s.ve (veHome s q)) (cf raw 16 4 3)).testBit i⟩
    let ds := (upto nd).map fun k => strmOf p.cls (decide (k ≥ p.nin)) (s.rdN (sd + 32 * k) 32)
    let ss := ds.filterMap id
    look (s.ve (veHome s q)).progs (cf raw 16 0 4) = some img → selsOf p (cf raw 32 0 64) = some sels →
    inMain sd (32 * nd) → ds.all (·.isSome) = true → rangesOk x sd nd ss = true →
    (∀ y ∈ ss, (y.tile = false → y.mode ≠ 4 → inMain y.addr (strmSpan y x))
      ∧ (y.sums ≠ 0 → inMain y.sums (8 * x.nbAll) ∧ inMain (deltasAt y.sums x.nbAll) (4 * x.nbAll))) →
    ∃ u, exec (.vexec q) s = .next u ∧ commandDone u q c 0
      ∧ (u.ve (veHome s q)).masks = (s.ve (veHome s q)).masks ∧ (u.ve (veHome s q)).progs = (s.ve (veHome s q)).progs
      ∧ (∀ g, g ≠ veHome s q → u.ve g = s.ve g) ∧ (∀ g i, g < 384 → i < 16 → u.rg VE_SUM g i = s.rg VE_SUM g i)
      ∧ (∀ b, (∀ y ∈ ss, y.out = true → y.tile = false → y.mode ≠ 4 → b < y.addr ∨ y.addr + strmSpan y x ≤ b) →
          u.rd8 b = s.rd8 b))

/-- SAMPLE, SAMPLING_TIMEOUT, GATHER, TABLE_SWITCH, HOT_REFRESH complete. SAMPLING_TIMEOUT of an outstanding request counts in SMP_CNT.RTO and ends the SAMPLE with 0x3F, its requests gone; of none it changes nothing. TABLE_SWITCH of a loaded table whose old version is not live, with no gather in flight: the new base and version are current, the former ones old and live until the command retires; with gathers in flight the command stays. GATHER that finds its rows finishes with status 0x00 bound to a version, and one that waits on a commit changes nothing. HOT_REFRESH that finds its rows fills the shadow half and leaves the active one; one that clears, or with HOT_CFG.EN = 0, empties it. SAMPLE that finds its graph leaves tables and replicas as they were; one unweighted hop over a graph of one range owned here, all of it in error-free main memory, writes the hop's block at OUT and nothing else. GATHER of a bound version of a table of one range owned here, rows, keys and destinations in error-free main memory and apart: in MODE 0 each key's row, or zeros for padding, lies at DEST; in MODE 1 its elements there and its scale at SCALE; nothing outside changes. -/
def Obligations.GraphCommands : Prop :=
  (∀ (s : State) (id : Nat) (r : SampReq), s.samps.find? (fun r => r.id == id) = some r →
    ∃ u, exec (.samplingTimeout id) s = .next u
      ∧ u.get SMP_CNT_RTO (pondOfQ s r.queue) = min 65535 (s.get SMP_CNT_RTO (pondOfQ s r.queue) + 1)
      ∧ (∀ x ∈ u.samps, ¬(x.queue = r.queue ∧ x.seq = r.seq))
      ∧ (∀ c, s.findCmd r.queue r.seq = some c → c.phase = .running → commandDone u r.queue c 0x3F)
      ∧ regsBut [SMP_CNT.off (pondOfQ s r.queue)] s u ∧ memKept s u)
  ∧ (∀ (s : State) (id : Nat), s.samps.find? (fun r => r.id == id) = none → exec (.samplingTimeout id) s = .next s)
  ∧ (∀ (s : State) (q : Nat) (c : Cmd) (e : Eng) (x : TableSt), unitCmd s q 0x70 = some c →
    bodyEnds s q c (switchBody q) e → look s.tables (cf c.raw.toNat 16 0 12) = some x →
    (s.jent q c.seq).bound = none → e.cmd.waits = 0 → ∃ u, exec (.tableSwitch q) s = .next u
      ∧ look u.tables (cf c.raw.toNat 16 0 12)
          = some ⟨cf c.raw.toNat 24 0 43, cf c.raw.toNat 18 0 16, x.baseCur, x.verCur, true, 0, 0⟩
      ∧ x.oldLive = false ∧ x.verCur ≠ cf c.raw.toNat 18 0 16
      ∧ (∀ t, t ≠ cf c.raw.toNat 16 0 12 → look u.tables t = look s.tables t)
      ∧ (u.jent q c.seq).bound = some (cf c.raw.toNat 18 0 16) ∧ commandDone u q c (if e.bad then 0x30 else 0))
  ∧ (∀ (s : State) (q : Nat) (c : Cmd), unitCmd s q 0x68 = some c →
    ((bindGather s q c).jent q c.seq).bound = none → committing s (cf c.raw.toNat 16 0 12) = true →
    exec (.gather q) s = .next s)
  ∧ (∀ (s : State) (q : Nat) (c : Cmd) (e : Eng), unitCmd s q 0x68 = some c →
    ((bindGather s q c).jent q c.seq).bound ≠ none →
    bodyEnds (bindGather s q c) q c (gatherBody q) e → e.bad = false → e.cmd.waits = 0 →
    ∃ u, exec (.gather q) s = .next u ∧ commandDone u q c 0
      ∧ (u.jent q c.seq).bound = ((bindGather s q c).jent q c.seq).bound ∧ u.hot = s.hot)
  ∧ (∀ (s : State) (q : Nat) (c : Cmd) (e : Eng), unitCmd s q 0x71 = some c →
    bodyEnds (putCmd s q (hotTaken s c)) q (hotTaken s c) hotRefreshBody e →
    e.bad = false → e.cmd.waits = 0 → ∃ u, exec (.hotRefresh q) s = .next u ∧ commandDone u q c 0
      ∧ u.hot.active = s.hot.active ∧ u.hot.ready = s.hot.ready
      ∧ ∃ c', u.findCmd q c.seq = some c' ∧ RetFx.hotReady ∈ c'.fx)
  ∧ (∀ (s : State) (q : Nat) (c : Cmd) (e : Eng), unitCmd s q 0x60 = some c → bodyEnds s q c sampleBody e →
    e.bad = false → e.cmd.waits = 0 → ∃ u, exec (.sample q) s = .next u ∧ commandDone u q c 0
      ∧ u.tables = s.tables ∧ u.hot = s.hot ∧ u.gcs = s.gcs)
  ∧ (∀ (s : State) (q : Nat) (c : Cmd) (x : TableSt), unitCmd s q 0x70 = some c → c.waits = 0 → freeMem s q →
    let t := cf c.raw.toNat 16 0 12
    look s.tables t = some x → (s.jent q c.seq).bound = none → inMain (tableAddr s t) 64 →
    (tdescOf (s.rdN (tableAddr s t) 64)).ok = true → x.oldLive = false → x.verCur ≠ cf c.raw.toNat 18 0 16 →
    ∃ u, exec (.tableSwitch q) s = .next u
      ∧ look u.tables t = some ⟨cf c.raw.toNat 24 0 43, cf c.raw.toNat 18 0 16, x.baseCur, x.verCur, true, 0, x.flightCur⟩
      ∧ (u.jent q c.seq).bound = some (cf c.raw.toNat 18 0 16) ∧ memBut (tableAddr s t) 64 s u
      ∧ (x.flightCur = 0 → commandDone u q c 0)
      ∧ (x.flightCur ≠ 0 → u.findCmd q c.seq = s.findCmd q c.seq))
  ∧ (∀ (s : State) (q : Nat) (c : Cmd), unitCmd s q 0x71 = some c → c.waits = 0 → c.bnd = [] →
    cf c.raw.toNat 16 0 1 = 1 ∨ s.flag HOT_CFG_EN = false → ∃ u, exec (.hotRefresh q) s = .next u ∧ commandDone u q c 0
      ∧ u.hot.shadow = [] ∧ u.hot.active = s.hot.active ∧ memKept s u
      ∧ ∃ c', u.findCmd q c.seq = some c' ∧ RetFx.hotReady ∈ c'.fx)
  ∧ (∀ (s : State) (q : Nat) (c : Cmd), unitCmd s q 0x60 = some c → c.waits = 0 → freeMem s q →
    let raw := c.raw.toNat
    let g := graphOf (s.rdN (graphAddr s (cf raw 16 0 8)) 64)
    let fan := cf raw 20 0 8
    let n := cf raw 32 0 32
    let l := (upto n).map fun i => s.rdN (cf raw 24 0 43 + 5 * i) 5
    let base := bits (s.rdN g.part 16) 64 40
    let row (nid : Nat) : Nat := nid + base
    let e0 (nid : Nat) : Nat := s.rdN (g.off + 8 * row nid) 8
    let deg (nid : Nat) : Nat := s.rdN (g.off + 8 * row nid + 8) 8 - e0 nid
    let kn (nid : Nat) : Nat := nodeKey (stepKey (s.rg GSV_KEY (cf raw 19 0 4)).toNat (cf raw 48 0 64)) 1 nid
    let picks (nid : Nat) : List Nat := if fan = 0 ∨ deg nid ≤ fan then upto (deg nid) else sortBy id (floyd (kn nid) (deg nid) fan)
    let drawn (nid : Nat) : Drawn :=
      if nid = padId then ⟨[], [], 0, 0⟩ else ⟨(picks nid).map fun p => s.rdN (g.col + 5 * (e0 nid + p)) 5, [], 0, 0⟩
    let blk := (hopBlock 1 (cf raw 19 4 1 == 1) false false ⟨nubN l, n - (nubN l).length⟩ ((nubN l).map drawn)).1
    cf raw 17 0 3 = 1 → cf raw 18 0 1 = 0 → cf raw 19 5 1 = 0 →
    inMain (graphAddr s (cf raw 16 0 8)) 64 → graphOk (s.rdN (graphAddr s (cf raw 16 0 8)) 64) = true →
    oneOwner s g.part g.ranges s.me base → inMain (cf raw 24 0 43) (5 * n) →
    (∀ nid ∈ l, nid ≠ padId → nid < g.nodes ∧ row nid < g.rows ∧ inMain (g.off + 8 * row nid) 16
      ∧ e0 nid ≤ s.rdN (g.off + 8 * row nid + 8) 8 ∧ deg nid < 2 ^ 32 ∧ inMain (g.col + 5 * e0 nid) (5 * deg nid)) →
    blk.length ≤ cf raw 36 0 32 → inMain (cf raw 40 0 43) blk.length →
    ∃ u, exec (.sample q) s = .next u ∧ commandDone u q c 0 ∧ memHolds (cf raw 40 0 43) blk u
      ∧ memBut (cf raw 40 0 43) blk.length s u ∧ u.tables = s.tables ∧ u.hot = s.hot)
  ∧ (∀ (s : State) (q : Nat) (c : Cmd) (x : TableSt) (ver : Nat), unitCmd s q 0x68 = some c → c.waits = 0 → freeMem s q →
    let raw := c.raw.toNat
    let t := cf raw 16 0 12
    let mode := cf raw 18 0 2
    let d := tdescOf (s.rdN (tableAddr s t) 64)
    let hd := s.rdN (cf raw 24 0 43) 64
    let n := if cf raw 19 0 1 = 1 then bits hd 64 32 else cf raw 20 0 32
    let list := if cf raw 19 0 1 = 1 then cf raw 24 0 43 + bits hd 256 32 else cf raw 24 0 43
    let key (i : Nat) : Nat := s.rdN (list + 5 * i) 5
    let lb := bits (s.rdN d.part 16) 64 40
    let src (i : Nat) : Nat := (if x.verCur = ver then x.baseCur else x.baseOld) + d.stride * (key i + lb)
    let len := if mode = 0 then d.rowBytes else d.elemBytes
    let dest := cf raw 32 0 43
    let scale := cf raw 40 0 43
    let ds := cf raw 48 0 32
    let pitch := if ds ≠ 0 then ds else if mode = 0 then d.stride else d.elemBytes
    let dn := if mode = 2 then (n + 31) / 32 * ((d.elems + 31) / 32) * tileSize d.fmt else (n - 1) * pitch + len
    let sn := if mode = 0 then 0 else 4 * n
    let clear (a k : Nat) : Prop := inMain a k ∧ apart a k dest dn ∧ apart a k scale sn
    look s.tables t = some x → (s.jent q c.seq).bound = some ver → mode ≤ 2 →
    inMain (tableAddr s t) 64 → d.ok = true → (mode = 2 → fmtScaled d.fmt = true ∨ fmtBase d.fmt < 2) →
    (mode = 2 ∨ ds = 0 ∨ (ds % 16 = 0 ∧ len ≤ ds)) → (cf raw 19 0 1 = 1 → inMain (cf raw 24 0 43) 64) →
    inMain list (5 * n) → oneOwner s d.part d.ranges s.me lb → clear d.part 16 →
    (cf raw 19 1 1 = 0 ∨ s.hot.active = []) →
    (∀ i, i < n → key i ≠ padId → key i + lb < d.rows ∧ clear (src i) d.rowBytes) →
    inMain dest dn → inMain scale sn → apart dest dn scale sn →
    ∃ u, exec (.gather q) s = .next u ∧ commandDone u q c 0
      ∧ (mode = 0 → ∀ i, i < n →
          memHolds (dest + pitch * i) (if key i = padId then List.replicate d.rowBytes 0 else s.rdBytes (src i) d.rowBytes) u)
      ∧ (mode = 1 → ∀ i, i < n →
          memHolds (dest + pitch * i) (if key i = padId then List.replicate d.elemBytes 0
            else s.rdBytes (src i + 16) d.elemBytes) u
          ∧ memHolds (scale + 4 * i) (if key i = padId then List.replicate 4 0 else s.rdBytes (src i + 4) 4) u)
      ∧ (∀ b, b < dest ∨ dest + dn ≤ b → b < scale ∨ scale + sn ≤ b → u.rd8 b = s.rd8 b)
      ∧ (u.jent q c.seq).bound = some ver ∧ u.hot = s.hot)

/-- UPDATE, ROW_UPDATE, FLAG_LOCAL, PC_SWITCH complete: the other buffer, the rows, the step flag, the pending switch. FLAG_LOCAL outside a replay: SF takes LNF, AGREED is 1, nothing else in UPD_STEP changes, and no memory byte does. PC_SWITCH of a valid descriptor in main memory whose slot is not current: only bit 1 of byte 18 changes, and it is set. UPDATE that finds its operands, in an agreed step: it finishes with 0x00 without touching step, optimizer or loss-scale registers; untranslated, it writes nothing outside masters, moments and working copy of its blocks in the buffer that is not current; one that ends with 0x20 started in a step whose flag is set. ROW_UPDATE waits, its commit under way, while a gather has bound the table; else, its work done, it finishes with 0x00 and leaves the step registers alone. On error-free main memory each completes under its checks alone: PC_SWITCH of a valid descriptor for the other slot; UPDATE of an agreed step, its bound descriptor and record in order, no snapshot holding the buffer; ROW_UPDATE of a loaded table, its record and redo slot in order, every listed row the table's own. Both of these end with 0x00, or 0x20 if the bound step flag is set. -/
def Obligations.UpdateCommands : Prop :=
  (∀ (s : State) (q : Nat) (c : Cmd), unitCmd s q 0xA2 = some c → s.replay = none → c.waits = 0 →
    ∃ u, exec (.flagLocal q) s = .next u ∧ commandDone u q c 0
      ∧ u.get UPD_STEP_SF = s.get UPD_STEP_LNF ∧ u.get UPD_STEP_AGREED = 1
      ∧ u.get UPD_STEP_LNF = s.get UPD_STEP_LNF ∧ u.get UPD_STEP_CUR = s.get UPD_STEP_CUR
      ∧ regsBut [UPD_STEP.off] s u ∧ memKept s u)
  ∧ (∀ (s : State) (q : Nat) (c : Cmd) (e : Eng), unitCmd s q 0xA4 = some c → bodyEnds s q c pcSwitchBody e →
    let a := pctAddr s (cf c.raw.toNat 16 0 12)
    a + 32 ≤ 0x10E00000000 → e.bad = false → e.cmd.waits = 0 →
    ∃ u, exec (.pcSwitch q) s = .next u ∧ commandDone u q c 0
      ∧ u.rd8 (a + 18) = s.rd8 (a + 18) ||| 2 ∧ memBut (a + 18) 1 s u
      ∧ regsBut (readCounts (pondOfQ s q)) s u)
  ∧ (∀ (s : State) (q : Nat) (c : Cmd) (e : Eng) (bs : List Byte), unitCmd s q 0xA0 = some c →
    bodyEnds s q c (updateBody q) e → look c.buf 1 = some bs → e.bad = false → e.cmd.waits = 0 →
    let d := pdescOf (leNat bs)
    let dst := d.base (1 - listGet c.bnd 2 0)
    let b0 := cf c.raw.toNat 20 0 32
    let bn := cf c.raw.toNat 24 0 32
    ∃ u, exec (.update q) s = .next u ∧ commandDone u q c 0
      ∧ regsBut (UPD_STAT.off :: NUM_STAT.off :: readCounts (pondOfQ s q)) s u ∧ u.tables = s.tables ∧ u.troughs = s.troughs
      ∧ (transOfQ s q = false → ∀ x,
          (∀ b, b0 ≤ b → b < b0 + bn →
            ∀ r ∈ ([(dst + 192 * b, 192), (dst + d.moff + momEntry b, 4), (dst + d.moff + momSlot d b, slotBytes momFmt),
                (dst + d.roff + momEntry b, 4), (dst + d.roff + momSlot d b, slotBytes momFmt),
                ((workAt d dst b).1, 16), ((workAt d dst b).2.1, 4), ((workAt d dst b).2.2, workLen d)] : List (Nat × Nat)),
              x < r.1 ∨ r.1 + r.2 ≤ x) → u.rd8 x = s.rd8 x))
  ∧ (∀ (s : State) (q : Nat) (c : Cmd) (e : Eng), unitCmd s q 0xA0 = some c →
    (updateBody q).run ⟨s, c, ctxOfQ s q, false⟩ = (.error (.status 0x20), e) → e.bad = false → e.cmd.waits = 0 →
    ∃ u, exec (.update q) s = .next u ∧ commandDone u q c 0x20 ∧ listGet c.bnd 3 0 = 1)
  ∧ (∀ (s : State) (q : Nat) (c : Cmd), unitCmd s q 0xA1 = some c →
    gathersBound (putCmd s q { c with stage := 1 }) (cf c.raw.toNat 16 0 12) = true →
    ∃ u, exec (.rowUpdate q) s = .next u ∧ { u with queues := s.queues } = s
      ∧ ∃ c', u.findCmd q c.seq = some c' ∧ c'.stage = 1 ∧ c'.phase = .ready)
  ∧ (∀ (s : State) (q : Nat) (c : Cmd) (e : Eng), unitCmd s q 0xA1 = some c →
    gathersBound (putCmd s q { c with stage := 1 }) (cf c.raw.toNat 16 0 12) = false →
    bodyEnds (putCmd s q { c with stage := 1 }) q { c with stage := 1 } (rowUpdateBody q) e → e.bad = false →
    e.cmd.waits = 0 → ∃ u, exec (.rowUpdate q) s = .next u ∧ commandDone u q c 0
      ∧ regsBut (UPD_STAT.off :: NUM_STAT.off :: SNAP_STAT.off :: readCounts (pondOfQ s q)) s u ∧ u.troughs = s.troughs)
  ∧ (∀ (s : State) (q : Nat) (c : Cmd), unitCmd s q 0xA4 = some c → c.waits = 0 → freeMem s q →
    let a := pctAddr s (cf c.raw.toNat 16 0 12)
    let v := s.rdN a 32
    let dim := bits v 128 10
    inMain a 32 → v.testBit 146 = true → 128 ≤ dim → dim ≤ 512 → dim % 32 = 0 → bits v 43 21 = 0 → bits v 107 21 = 0 →
    bits v 138 6 = 0 → bits v 147 45 = 0 → cf c.raw.toNat 18 0 1 ≠ bits v 144 1 →
    ∃ u, exec (.pcSwitch q) s = .next u ∧ commandDone u q c 0 ∧ u.rd8 (a + 18) = s.rd8 (a + 18) ||| 2
      ∧ memBut (a + 18) 1 s u)
  ∧ (∀ (s : State) (q : Nat) (c : Cmd) (bs h : List Byte), unitCmd s q 0xA0 = some c → c.waits = 0 → freeMem s q →
    let raw := c.raw.toNat
    let d := pdescOf (leNat bs)
    let cur := listGet c.bnd 2 0
    let b0 := cf raw 20 0 32
    let bn := cf raw 24 0 32
    let mine (o b : Nat) : List (Nat × Nat) :=
      [(o + 192 * b, 192), (o + d.moff + momEntry b, 4), (o + d.moff + momSlot d b, slotBytes momFmt),
        (o + d.roff + momEntry b, 4), (o + d.roff + momSlot d b, slotBytes momFmt),
        ((workAt d o b).1, 16), ((workAt d o b).2.1, 4), ((workAt d o b).2.2, workLen d)]
    look c.buf 1 = some bs → look c.buf 0 = some h → byteN h 20 12 = 0 → cf raw 40 0 43 % 32 = 0 → listGet c.bnd 4 0 = 1 →
    d.ok = true → b0 + bn ≤ d.blocks → snapHolds s (cf raw 16 0 12) (1 - cur) = false →
    inMain (cf raw 32 0 43) (128 * bn) →
    (∀ b, b0 ≤ b → b < b0 + bn → (∀ r ∈ mine (d.base cur) b ++ mine (d.base (1 - cur)) b, inMain r.1 r.2)
      ∧ (d.prune = true → inMain (d.mask + maskHalf s (listGet c.bnd 0 0) * d.half + (b / d.akt * d.k + 32 * (b % d.akt)) / 8) 4)) →
    ∃ u, exec (.update q) s = .next u ∧ commandDone u q c (if listGet c.bnd 3 0 = 1 then 0x20 else 0)
      ∧ (∀ x, (∀ b, b0 ≤ b → b < b0 + bn → ∀ r ∈ mine (d.base (1 - cur)) b, x < r.1 ∨ r.1 + r.2 ≤ x) → u.rd8 x = s.rd8 x))
  ∧ (∀ (s : State) (q : Nat) (c : Cmd) (x : TableSt) (h : List Byte), unitCmd s q 0xA1 = some c → c.waits = 0 → freeMem s q →
    let raw := c.raw.toNat
    let t := cf raw 16 0 12
    let n := cf raw 20 0 32
    let list := cf raw 24 0 43
    let ms := cf raw 40 0 32
    let d := tdescOf (s.rdN (tableAddr s t) 64)
    let mb := (rowMom d.elems).2 + (rowMom d.elems).1
    let esz := 16 + 16 * ((d.elems + 3) / 4)
    let pond := hPond (homeOfQ s q)
    let slot := redoAddr s pond
    let lrow (i : Nat) : Nat := s.rdN (list + esz * i) 5
    let ranges (i : Nat) : List (Nat × Nat) :=
      [(x.baseCur + d.stride * lrow i, d.rowBytes), (cf raw 32 0 43 + ms * lrow i, mb), (slot, 64 + d.rowBytes + mb)]
    gathersBound (putCmd s q { c with stage := 1 }) t = false → look s.tables t = some x → inMain (tableAddr s t) 64 →
    d.ok = true → d.learnable = true → (d.fmt = 0 ∨ d.fmt = 1 ∨ d.fmt = 3) → look c.buf 0 = some h → byteN h 20 12 = 0 →
    cf raw 48 0 43 % 32 = 0 → list % 16 = 0 → mb ≤ ms → d.stride + ms + 64 ≤ s.get UPD_REDO_SIZE pond * 65536 →
    c.reissued = false → s.snap.tables = [] → inMain list (esz * n) →
    (∀ i, i < n → s.rdN (list + esz * i + 10) 2 % 4096 = t ∧ lrow i < d.rows
      ∧ ∀ r ∈ ranges i, inMain r.1 r.2 ∧ apart r.1 r.2 list (esz * n)) →
    ∃ u, exec (.rowUpdate q) s = .next u ∧ commandDone u q c (if listGet c.bnd 3 0 = 1 then 0x20 else 0)
      ∧ (∀ y, (∀ i, i < n → ∀ r ∈ ranges i, y < r.1 ∨ r.1 + r.2 ≤ y) → u.rd8 y = s.rd8 y))

/-- STEP_CLOSE completes in its retirement step: the counters, the loss scale and the flags of the step it closes. For the ready STEP_CLOSE at the head of a queue 0 to 16,383, started with AGREED = 1 outside a replay and with no replay now, its table list in error-free main memory, no completion record due or room for one, and t, s, CUR and SF the values bound at its start: it retires; DATA counts one more; OPT is t unless SF was set, when it stays; CUR is the other buffer; LNF, SF and AGREED are 0. With SF set the loss scale becomes s less one, not below LS_CFG.S_MIN, CLEAN is 0, and the skip counters count. During a replay, or started in one or with AGREED = 0, it retires with status 0x10 and DATA, OPT, UPD_STEP and LS_STATE stay. -/
def Obligations.StepClose : Prop :=
  (∀ (s : State) (q : Nat) (c : Cmd) (t ls cur sf : Nat), q < 16384 → atRetire s q 0xA3 = some c → unitUp s q = true →
    freeMem s q → c.bnd = [t, ls, cur, sf, 1, 0] → t < 2 ^ 64 → ls < 64 → cur < 2 → sf < 2 →
    (mustRecord c (if sf = 1 then 0x20 else 0) && cmplFull s q) = false →
    inMain (cf c.raw.toNat 32 0 43) (2 * cf c.raw.toNat 40 0 5) →
    ∃ u, exec (.stepClose q) s = .next u
      ∧ u.qget QTAB_HEAD_HEAD q = (s.qget QTAB_HEAD_HEAD q + 1) % 2 ^ 32
      ∧ u.get UPD_DATA_DATA = (s.get UPD_DATA_DATA + 1) % 2 ^ 64
      ∧ u.get UPD_OPT_OPT = (if sf = 1 then s.get UPD_OPT_OPT else t)
      ∧ u.get UPD_STEP_CUR = 1 - cur ∧ u.get UPD_STEP_LNF = 0 ∧ u.get UPD_STEP_SF = 0
      ∧ u.get UPD_STEP_AGREED = 0
      ∧ (sf = 1 → u.get LS_STATE_S = max (s.get LS_CFG_S_MIN) (ls - 1) ∧ u.get LS_STATE_CLEAN = 0
          ∧ u.get UPD_SKIPS_SKIPS = (s.get UPD_SKIPS_SKIPS + 1) % 2 ^ 64
          ∧ u.get LS_STATE_CONSEC = min 65535 (s.get LS_STATE_CONSEC + 1))
      ∧ (sf = 0 → u.get LS_STATE_CONSEC = 0 ∧ u.get UPD_SKIPS_SKIPS = s.get UPD_SKIPS_SKIPS))
  ∧ (∀ (s : State) (q : Nat) (c : Cmd), q < 16384 → atRetire s q 0xA3 = some c → unitUp s q = true →
    (s.replay.isSome = true ∨ listGet c.bnd 5 0 = 1 ∨ listGet c.bnd 4 0 = 0) →
    (mustRecord c 0x10 && cmplFull s q) = false →
    ∃ u, exec (.stepClose q) s = .next u ∧ u.qget QTAB_STAT_STATE q = 7 ∧ u.qget QTAB_STAT_HALT_STATUS q = 0x10
      ∧ u.get UPD_DATA_DATA = s.get UPD_DATA_DATA ∧ u.get UPD_OPT_OPT = s.get UPD_OPT_OPT
      ∧ u.rg UPD_STEP = s.rg UPD_STEP ∧ u.rg LS_STATE = s.rg LS_STATE)

/-- REPLAY_BEGIN, REPLAY_END, PRUNE_MASK, PRUNE_PACK complete. REPLAY_BEGIN that finds its record: the replay is under way with the DATA number, side area and log the command names, and UPD_CFG.REPLAY is 1. REPLAY_END, untranslated to main memory: the replay is over, REPLAY is 0, and nothing but the 32 bytes of its result change. PRUNE_MASK at a step that is no multiple of PRUNE_CFG.PERIOD writes nothing; at another it writes, per K-vector of K elements, K a multiple of 8 of the pattern's groups, K / 8 mask bytes whose bits are those of R217, in half (t div PERIOD) mod 2, and nothing else. PRUNE_PACK that finds its operands finishes with 0x00, and writes, untranslated, only within its output positions, where each holds a 2:4 tile. On error-free main memory each completes under its checks alone: REPLAY_BEGIN whose journal slot holds the data step; REPLAY_END of a replay, its two check logs there; PRUNE_PACK whose source descriptors are equal in pairs, dense and block-scaled, the positions apart from the sources. -/
def Obligations.ReplayAndPrune : Prop :=
  (∀ (s : State) (q : Nat) (c : Cmd) (e : Eng), unitCmd s q 0xA5 = some c → bodyEnds s q c (replayBeginBody q) e →
    e.cmd.waits = 0 →
    ∃ u r, exec (.replayBegin q) s = .next u ∧ commandDone u q c 0 ∧ u.replay = some r
      ∧ r.data = cf c.raw.toNat 16 0 64 ∧ r.side = cf c.raw.toNat 24 0 43 ∧ r.sideSize = cf c.raw.toNat 32 0 64
      ∧ r.rlog.addr = cf c.raw.toNat 40 0 43 ∧ r.rlog.n = 0 ∧ r.seedDigest = cf c.raw.toNat 48 0 64
      ∧ u.get UPD_CFG_REPLAY = 1 ∧ memKept s u ∧ regsBut (UPD_CFG.off :: readCounts (pondOfQ s q)) s u)
  ∧ (∀ (s : State) (q : Nat) (c : Cmd) (e : Eng), unitCmd s q 0xA6 = some c → bodyEnds s q c replayEndBody e →
    e.bad = false → e.cmd.waits = 0 →
    ∃ u, exec (.replayEnd q) s = .next u ∧ commandDone u q c 0 ∧ s.replay ≠ none ∧ u.replay = none ∧ u.get UPD_CFG_REPLAY = 0
      ∧ (transOfQ s q = false → memBut (cf c.raw.toNat 24 0 43) 32 s u)
      ∧ regsBut (UPD_CFG.off :: readCounts (pondOfQ s q)) s u)
  ∧ (∀ (s : State) (q : Nat) (c : Cmd), unitCmd s q 0xB0 = some c → c.waits = 0 →
    let raw := c.raw.toNat
    let per := max 1 (s.get PRUNE_CFG_PERIOD)
    let t := cf raw 48 0 64
    let k := cf raw 20 0 32
    let n := cf raw 24 0 32
    let ms := cf raw 28 0 32
    let pat := cf raw 16 0 2
    let master := cf raw 32 0 43
    let out := cf raw 40 0 43 + t / per % 2 * (n * k / 8)
    (t % per ≠ 0 → ∃ u, exec (.pruneMask q) s = .next u ∧ commandDone u q c 0 ∧ memKept s u ∧ u.regs = s.regs)
    ∧ (t % per = 0 → k % 8 = 0 → k ≠ 0 → n ≠ 0 → pat < 3 →
        plainMem s q master ((n - 1) * ms + 6 * k) → plainMem s q out (n * k / 8) →
        (master + (n - 1) * ms + 6 * k ≤ out ∨ out + n * k / 8 ≤ master) →
        ∃ u, exec (.pruneMask q) s = .next u ∧ commandDone u q c 0
          ∧ (∀ v i, v < n → i < k →
              (u.rd8 (out + v * k / 8 + i / 8)).getLsbD (i % 8) =
                listGet (maskVec pat ((upto k).map fun j => mw48.dec (s.rdN (master + ms * v + 6 * j) 6))) i false)
          ∧ memBut out (n * k / 8) s u))
  ∧ (∀ (s : State) (q : Nat) (c : Cmd) (e : Eng), unitCmd s q 0xB1 = some c → bodyEnds s q c prunePackBody e →
    e.bad = false → e.cmd.waits = 0 →
    let dst := cf c.raw.toNat 40 0 43
    let os := cf c.raw.toNat 36 0 32
    let pairs := cf c.raw.toNat 20 0 32
    let src := cf c.raw.toNat 24 0 43
    let ss := cf c.raw.toNat 32 0 32
    let tile (k : Nat) : Desc := descOf (s.rdN (src + ss * k) 16)
    ∃ u, exec (.prunePack q) s = .next u ∧ commandDone u q c 0 ∧ regsBut (readCounts (pondOfQ s q)) s u
      ∧ (transOfQ s q = false → (∀ k, k < 2 * pairs → apart (src + ss * k) 16 dst (os * pairs)) →
          (∀ i, i < pairs → 528 + 32 * (tile (2 * i)).slot ≤ os) → memBut dst (os * pairs) s u))
  ∧ (∀ (s : State) (q : Nat) (c : Cmd) (a : Nat), unitCmd s q 0xA5 = some c → c.waits = 0 → freeMem s q →
    jrnlAddr s (cf c.raw.toNat 16 0 64) = some a → inMain a 128 → s.rdN a 8 = cf c.raw.toNat 16 0 64 →
    ∃ u r, exec (.replayBegin q) s = .next u ∧ commandDone u q c 0 ∧ u.replay = some r
      ∧ r.data = cf c.raw.toNat 16 0 64 ∧ r.t = s.rdN (a + 8) 8 ∧ r.s = s.rdN (a + 32) 1 % 64
      ∧ r.skipped = (s.rdN (a + 32) 1).testBit 6 ∧ r.key = s.rdN (a + 40) 8 ∧ r.digest = s.rdN (a + 16) 8
      ∧ u.get UPD_CFG_REPLAY = 1 ∧ memKept s u)
  ∧ (∀ (s : State) (q : Nat) (c : Cmd) (r : Replay), unitCmd s q 0xA6 = some c → c.waits = 0 → s.replay = some r →
    freeMem { s with replay := none } q →
    let cap := s.get UPD_CFG_CLOG_MAX
    let n := min cap r.clogN
    let m := min cap r.rlog.n
    let fa := foldLog n (s.rdBytes r.clog (16 * n))
    let fb := foldLog m (s.rdBytes r.rlog.addr (16 * m))
    let same : Prop := ∀ k, lookD fa k (0, 0) = lookD fb k (0, 0)
    let res := cf c.raw.toNat 24 0 43
    inMain r.clog (16 * n) → inMain r.rlog.addr (16 * m) → inMain res 32 →
    ∃ u, exec (.replayEnd q) s = .next u ∧ commandDone u q c 0 ∧ u.replay = none ∧ u.get UPD_CFG_REPLAY = 0
      ∧ memBut res 32 s u
      ∧ (r.digest ≠ r.seedDigest → memHolds res (leBytes 2 2) u)
      ∧ (r.digest = r.seedDigest → r.clogN ≤ cap → r.rlog.n ≤ cap →
          (same → memHolds res (leBytes 2 0) u) ∧ (¬ same → memHolds res (leBytes 2 1) u)))
  ∧ (∀ (s : State) (q : Nat) (c : Cmd), unitCmd s q 0xB1 = some c → c.waits = 0 → freeMem s q →
    let raw := c.raw.toNat
    let pairs := cf raw 20 0 32
    let os := cf raw 36 0 32
    let dst := cf raw 40 0 43
    let mask := cf raw 48 0 43
    let k := 64 * max 1 (Config.pruneK mask)
    let n := Config.pruneN mask
    let src (j : Nat) : Nat := cf raw 24 0 43 + cf raw 32 0 32 * j
    let tile (j : Nat) : Desc := descOf (s.rdN (src j) 16)
    (∀ i, i < pairs → tile (2 * i) = tile (2 * i + 1) ∧ (tile (2 * i)).ok = true ∧ (tile (2 * i)).dense = true
      ∧ (tile (2 * i)).sp = false ∧ (tile (2 * i)).qh = false ∧ fmtScaled (tile (2 * i)).fmt = true
      ∧ 2 * (tile (2 * i)).size ≤ os ∧ inMain (src (2 * i)) (tile (2 * i)).size
      ∧ inMain (src (2 * i + 1)) (tile (2 * i)).size
      ∧ apart (src (2 * i)) 16 dst (os * pairs + 128)
      ∧ ∀ v, v < 32 → inMain (mask + maskHalf s (cf raw 56 0 64) * (n * k / 8) + (32 * (i / (k / 64)) + v) * k / 8
          + 64 * (i % (k / 64)) / 8) 8) →
    inMain dst (os * pairs + 128) → ∃ u, exec (.prunePack q) s = .next u ∧ commandDone u q c 0)

/-- TRESET, TSCAT EMAX and ADD, TEXCH ESEND, EFETCH and ASEND, TMERGE, TCODEC complete at the trough that runs them. TRESET with no stage live: the trough holds no slot, record, reservation or count, its spill area in main memory reads zero, and its size is that of TRG_CFG; other troughs stay. TSCAT and TEXCH that find their operands send one message per segment or remote key: each names the command, its trough and its home or owner; no trough changes; the command waits for as many answers as there are messages, and has finished with 0x00 where there are none. TSCAT ADD counts them per home. TMERGE changes no trough before it retires: its keys leave then. TCODEC finishes with 0x00 and writes, untranslated, only within its destination tiles. On error-free main memory each completes under its checks alone: TSCAT of values or gradients with an index list, its messages those of its rows; TEXCH of a table of one range, a message per key where another device owns it and none where this one does; TMERGE of dense rows, each row its key's converted sum, with ZFILL the others zero; TCODEC, each tile with its descriptor. -/
def Obligations.TroughCommands : Prop :=
  (∀ (s : State) (q : Nat) (c : Cmd), unitCmd s q 0x80 = some c →
    let p := hPond (homeOfQ s q)
    (anyLive (s.trough p) = false → c.waits = 0 → ∃ u, exec (.treset q) s = .next u ∧ commandDone u q c 0
      ∧ (u.trough p).slots = [] ∧ (u.trough p).recs = [] ∧ (u.trough p).resv = [] ∧ (u.trough p).applied = []
      ∧ (u.pond p).trgSize = min 8 (s.get TRG_CFG_SIZE_MIB p) ∧ (∀ k, k ≠ p → u.trough k = s.trough k)
      ∧ (∀ b, b < 0x10E00000000 → recPa s p 0 ≤ b → b < recPa s p (spillN s p) → u.rd8 b = 0)
      ∧ (∀ b, b < 0x10E00000000 → (b < recPa s p 0 ∨ recPa s p (spillN s p) ≤ b) →
          (∀ ie ∈ (s.trough p).recs, b < recPa s p ie.1 ∨ recPa s p ie.1 + 512 ≤ b) → u.rd8 b = s.rd8 b)
      ∧ regsBut [SLAB_STAT.off p, HOT_STAT.off, TRC_PTR.off p, TRG_STAT.off p] s u)
    ∧ (anyLive (s.trough p) = true → c.waits = 0 → ∃ u, exec (.treset q) s = .next u ∧ commandDone u q c 0x10
      ∧ { u with queues := s.queues } = s))
  ∧ (∀ (s : State) (q : Nat) (c : Cmd) (e : Eng), unitCmd s q 0x81 = some c → bodyEnds s q c (tscatBody q) e →
    ∀ row ∈ ([(0, Instr.tscatEmax, TroughKind.emax), (1, Instr.tscatAdd, TroughKind.add)] : List (Nat × (Nat → Instr) × TroughKind)),
    cf c.raw.toNat 16 0 1 = row.1 →
    ∃ u l c', exec (row.2.1 q) s = .next u ∧ u.tmsgs = s.tmsgs ++ l ∧ u.findCmd q c.seq = some c' ∧ c'.raw = c.raw
      ∧ (∀ m ∈ l, m.kind = row.2.2 ∧ m.ack = false ∧ m.dev = s.me ∧ m.queue = q ∧ m.seq = c.seq
          ∧ m.src = hPond (homeOfQ s q) ∧ m.dstDev = s.me ∧ m.dst = homeOf s m.key
          ∧ keyKind m.key = cf c.raw.toNat 16 1 2 ∧ keyTgt m.key = cf c.raw.toNat 18 0 12)
      ∧ c'.stage = 1 ∧ c'.waits = l.length
      ∧ (l = [] → c'.phase = .done 0) ∧ (l ≠ [] → c'.phase = .running ∧ c'.fin = some 0)
      ∧ (row.1 = 1 → l.length < 2 ^ 32 → ∀ p, (∃ m ∈ l, m.dst = p) ↔ ∃ a ∈ c'.aux, a / 2 ^ 32 = 128 * s.me + p)
      ∧ u.troughs = s.troughs ∧ regsBut (readCounts (pondOfQ s q)) s u)
  ∧ (∀ (s : State) (q : Nat) (c : Cmd) (e : Eng),
    ∀ row ∈ ([(0, Instr.texchEsend, TroughKind.esend), (1, Instr.texchEfetch, TroughKind.efetch),
      (2, Instr.texchAsend, TroughKind.asend)] : List (Nat × (Nat → Instr) × TroughKind)),
    unitCmd s q 0x82 = some c → cf c.raw.toNat 16 0 2 = row.1 → bodyEnds s q c (texchBody q row.2.2) e →
    let x := s.trough (hPond (homeOfQ s q))
    ∃ u l c', exec (row.2.1 q) s = .next u ∧ u.tmsgs = s.tmsgs ++ l ∧ u.findCmd q c.seq = some c' ∧ c'.raw = c.raw
      ∧ (∀ m ∈ l, m.kind = row.2.2 ∧ m.ack = false ∧ m.dev = s.me ∧ m.queue = q ∧ m.seq = c.seq ∧ m.dstDev ≠ s.me
          ∧ m.key ∈ committedKeys x 2 (cf c.raw.toNat 18 0 12)
          ∧ (row.1 ≠ 1 → m.e = (keySum x m.key).e ∧ m.nf = (keySum x m.key).nf)
          ∧ (row.1 = 2 → m.w = (keySum x m.key).w ∧ m.count = (keySum x m.key).count))
      ∧ c'.stage = 1 ∧ c'.waits = l.length ∧ (l = [] → c'.phase = .done 0) ∧ (l ≠ [] → c'.phase = .running)
      ∧ u.troughs = s.troughs ∧ regsBut (readCounts (pondOfQ s q)) s u)
  ∧ (∀ (s : State) (q : Nat) (c : Cmd) (e : Eng), unitCmd s q 0x83 = some c → bodyEnds s q c (tmergeBody q) e →
    e.bad = false → e.cmd.waits = 0 →
    let p := hPond (homeOfQ s q)
    ∃ u c' ks, exec (.tmerge q) s = .next u ∧ u.findCmd q c.seq = some c' ∧ c'.raw = c.raw ∧ c'.phase = .done 0
      ∧ RetFx.freeKeys p ks ∈ c'.fx
      ∧ (∀ k ∈ ks, k ∈ committedKeys (s.trough p) (cf c.raw.toNat 16 0 2) (cf c.raw.toNat 18 0 12))
      ∧ u.troughs = s.troughs
      ∧ regsBut (NUM_STAT.off :: UPD_STEP.off :: TRG_STAT.off p :: readCounts (pondOfQ s q)) s u)
  ∧ (∀ (s : State) (q : Nat) (c : Cmd) (e : Eng), unitCmd s q 0x90 = some c → bodyEnds s q c tcodecBody e →
    e.bad = false → e.cmd.waits = 0 →
    let n := cf c.raw.toNat 20 0 32
    let src := cf c.raw.toNat 24 0 43
    let ss := cf c.raw.toNat 32 0 32
    let ds := cf c.raw.toNat 36 0 32
    let dst := cf c.raw.toNat 40 0 43
    ∃ u, exec (.tcodec q) s = .next u ∧ commandDone u q c 0 ∧ regsBut (readCounts (pondOfQ s q)) s u
      ∧ u.troughs = s.troughs
      ∧ (transOfQ s q = false → (src + ss * n + 16 ≤ dst ∨ dst + ds * n ≤ src) → memBut dst (ds * n) s u))
  ∧ (∀ (s : State) (q : Nat) (c : Cmd), unitCmd s q 0x81 = some c → c.waits = 0 → freeMem s q →
    let raw := c.raw.toNat
    let kind := cf raw 16 1 2
    let eb := fmtBytes (cf raw 17 0 8)
    let elems := cf raw 20 0 16
    let pitch := if cf raw 32 0 32 = 0 then elems * eb else cf raw 32 0 32
    let n := cf raw 36 0 32
    let src (i : Nat) : Nat := cf raw 24 0 43 + pitch * i
    let l := (upto n).flatMap fun i => rowMsgs s q c.seq (cf raw 16 0 1 == 1) kind (cf raw 18 0 12)
      (s.rdN (cf raw 40 0 43 + 5 * i) 5) ((upto elems).map fun j => srcElem (cf raw 17 0 8) (s.rdN (src i + eb * j) eb))
    kind ≠ 2 → cf raw 16 3 2 = 0 → inMain (cf raw 40 0 43) (5 * n) → (∀ i, i < n → inMain (src i) (elems * eb)) →
    ∃ u c', exec (if cf raw 16 0 1 = 1 then .tscatAdd q else .tscatEmax q) s = .next u ∧ u.tmsgs = s.tmsgs ++ l
      ∧ u.findCmd q c.seq = some c' ∧ c'.raw = c.raw ∧ c'.stage = 1 ∧ c'.waits = l.length
      ∧ (l = [] → c'.phase = .done 0) ∧ (l ≠ [] → c'.phase = .running) ∧ u.troughs = s.troughs ∧ memKept s u)
  ∧ (∀ (s : State) (q : Nat) (c : Cmd) (y : TableSt) (dev base : Nat), unitCmd s q 0x82 = some c → c.waits = 0 → freeMem s q →
    ∀ row ∈ ([(0, Instr.texchEsend, TroughKind.esend), (1, Instr.texchEfetch, TroughKind.efetch),
      (2, Instr.texchAsend, TroughKind.asend)] : List (Nat × (Nat → Instr) × TroughKind)),
    let tgt := cf c.raw.toNat 18 0 12
    let d := tdescOf (s.rdN (tableAddr s tgt) 64)
    cf c.raw.toNat 16 0 2 = row.1 → look s.tables tgt = some y → inMain (tableAddr s tgt) 64 → d.ok = true →
    oneOwner s d.part d.ranges dev base →
    ∃ u l c', exec (row.2.1 q) s = .next u ∧ u.tmsgs = s.tmsgs ++ l ∧ u.findCmd q c.seq = some c' ∧ c'.raw = c.raw
      ∧ l.map (·.key) = (if dev = s.me then [] else committedKeys (s.trough (hPond (homeOfQ s q))) 2 tgt)
      ∧ (∀ m ∈ l, m.kind = row.2.2 ∧ m.dstDev = dev) ∧ c'.stage = 1 ∧ c'.waits = l.length
      ∧ (l = [] → c'.phase = .done 0) ∧ (l ≠ [] → c'.phase = .running) ∧ u.troughs = s.troughs ∧ memKept s u)
  ∧ (∀ (s : State) (q : Nat) (c : Cmd), unitCmd s q 0x83 = some c → c.waits = 0 → freeMem s q →
    let raw := c.raw.toNat
    let p := hPond (homeOfQ s q)
    let f := if cf raw 16 2 1 = 1 then bf16 else fp32
    let eb := if cf raw 16 2 1 = 1 then 2 else 4
    let tgt := cf raw 18 0 12
    let elems := cf raw 20 0 16
    let pitch := if cf raw 32 0 32 = 0 then elems * eb else cf raw 32 0 32
    let zfill := cf raw 16 3 1
    let at_ (i : Nat) : Nat := cf raw 24 0 43 + pitch * i
    let idxs := (committedKeys (s.trough p) 1 tgt).map keyIdx
    cf raw 16 0 2 = 1 → elems * eb ≤ pitch →
    (∀ i, i ∈ idxs ∨ (zfill = 1 ∧ i < cf raw 36 0 32) → inMain (at_ i) (elems * eb)) →
    ∃ u c', exec (.tmerge q) s = .next u ∧ u.findCmd q c.seq = some c' ∧ c'.raw = c.raw ∧ c'.phase = .done 0
      ∧ RetFx.freeKeys p (committedKeys (s.trough p) 1 tgt) ∈ c'.fx
      ∧ (∀ i ∈ idxs, memHolds (at_ i) ((mergeRow (s.trough p) f 1 tgt i elems).1.flatMap (leBytes eb)) u)
      ∧ (∀ i, zfill = 1 → i < cf raw 36 0 32 → i ∉ idxs → memHolds (at_ i) (List.replicate (elems * eb) 0) u)
      ∧ (∀ b, (∀ i, i ∈ idxs ∨ (zfill = 1 ∧ i < cf raw 36 0 32) → b < at_ i ∨ at_ i + elems * eb ≤ b) → u.rd8 b = s.rd8 b)
      ∧ u.troughs = s.troughs)
  ∧ (∀ (s : State) (q : Nat) (c : Cmd), unitCmd s q 0x90 = some c → c.waits = 0 → freeMem s q →
    let raw := c.raw.toNat
    let n := cf raw 20 0 32
    let src (i : Nat) : Nat := cf raw 24 0 43 + cf raw 32 0 32 * i
    let ds := cf raw 36 0 32
    let dst := cf raw 40 0 43
    let d (i : Nat) : Desc := descOf (s.rdN (src i) 16)
    (∀ i, i < n → (d i).ok = true ∧ (d i).sp = false ∧ fmtBase (d i).fmt ≠ 0 ∧ (cf raw 16 0 1 = 1 ∨ (d i).dense = true)
      ∧ (d i).size ≤ ds ∧ inMain (src i) ((d i).size + 128) ∧ apart (src i) 16 dst (ds * n)) → inMain dst (ds * n) →
    ∃ u, exec (.tcodec q) s = .next u ∧ commandDone u q c 0 ∧ memBut dst (ds * n) s u ∧ u.troughs = s.troughs
      ∧ (cf raw 16 0 1 = 1 → ∀ i, i < n → memHolds (dst + ds * i) (descBytes (d i) true) u)
      ∧ (cf raw 16 0 1 = 0 → ∀ i, i < n → memHolds (dst + ds * i) (descBytes (d i) false) u
          ∨ memHolds (dst + ds * i) (descBytes (d i) true) u))

/-- TROUGH_CONTRIBUTION and TROUGH_EXPONENT_MESSAGE complete: what a contribution leaves in its home slot, and what a home answers. A waiting ADD whose key has a staged slot of its stage at a home that can work: the slot takes the 32 window contributions under its E, one more COUNT, and NF where an element exceeds the window or is not finite; no other slot and no record changes, and the stage counts one more applied contribution. A waiting EMAX for a key that the home holds nothing of, with a free position: a committed slot of the key appears there with W = 0, E the larger of ZERO and the contribution's, and its NF. A lulled home wakes first: the message waits. An EFETCH of another device is answered with the committed E and NF of its key, an ESEND is applied or, where it would raise the E of a nonzero key, refused. -/
def Obligations.TroughContributions : Prop :=
  (∀ (s : State) (m : TroughMsg), isWaiting s m = true → m.dstDev = s.me → m.ack = false → m.kind = .add →
    let x := s.trough m.dst
    (homeReady s m.dst = false → ∃ u, exec (.troughContribution m) s = .next u ∧ u.tmsgs = s.tmsgs
      ∧ u.troughs = s.troughs ∧ { u with ponds := s.ponds } = s)
    ∧ (∀ i t, homeReady s m.dst = true → findEnt x.slots m.key (some (tagOf m)) = some (i, t) → look x.slots i = some t →
      ueRange s (slotPa s m.dst i) 512 = false → t.w.length = 32 →
      let con (k : Nat) := winContrib t.e (f32 (listGet m.w k 0))
      let outside : Bool := (upto 32).any fun k => con k == .exceeds || con k == .nonfinite
      ∃ u t', exec (.troughContribution m) s = .next u
        ∧ (∀ c, s.findCmd m.queue m.seq = some c → c.waits ≠ 1 → u.tmsgs = s.tmsgs.erase m)
        ∧ look (u.trough m.dst).slots i = some t'
        ∧ t'.key = t.key ∧ t'.tag = t.tag ∧ t'.e = t.e ∧ t'.count = min (2 ^ 32 - 1) (t.count + 1)
        ∧ t'.nf = (t.nf || outside)
        ∧ (∀ k, k < 32 → listGet t'.w k 0 = match con k with | .add v => winAdd (listGet t.w k 0) v | _ => listGet t.w k 0)
        ∧ (∀ j, j ≠ i → look (u.trough m.dst).slots j = look x.slots j) ∧ (u.trough m.dst).recs = x.recs
        ∧ lookD (u.trough m.dst).applied (tagOf m) 0 = lookD x.applied (tagOf m) 0 + 1
        ∧ (∀ p, p ≠ m.dst → u.trough p = s.trough p) ∧ troughMem m.dst s u
        ∧ regsBut [TRG_CNT.off m.dst, TRG_STAT.off m.dst, NUM_STAT.off] s u))
  ∧ (∀ (s : State) (m : TroughMsg), isWaiting s m = true → m.dstDev = s.me → m.ack = false → m.kind = .emax →
    homeReady s m.dst = true → trgNow s m.dst ≠ 0 →
    let x := s.trough m.dst
    let cap := trgNow s m.dst * 2048
    (∀ ie ∈ x.slots ++ x.recs, ie.2.key ≠ m.key) → (∃ j, j < 8 ∧ look x.slots ((Config.slotStart m.key + j) % cap) = none) →
    ∃ u i, exec (.troughContribution m) s = .next u
      ∧ (∀ c, s.findCmd m.queue m.seq = some c → c.waits ≠ 1 → u.tmsgs = s.tmsgs.erase m)
      ∧ (∃ j, j < 8 ∧ i = (Config.slotStart m.key + j) % cap) ∧ look x.slots i = none
      ∧ look (u.trough m.dst).slots i = some ⟨m.key, none, zeroW, expMax winZero m.e, m.nf, 0⟩
      ∧ (∀ j, j ≠ i → look (u.trough m.dst).slots j = look x.slots j) ∧ (u.trough m.dst).recs = x.recs
      ∧ (∀ p, p ≠ m.dst → u.trough p = s.trough p) ∧ troughMem m.dst s u
      ∧ regsBut [TRG_CNT.off m.dst, TRG_STAT.off m.dst] s u)
  ∧ (∀ (s : State) (m : TroughMsg), fromAfar s m = true → m.kind = .asend → homeReady s (homeOf s m.key) = true →
    m.e ≠ committedE (s.trough (homeOf s m.key)) m.key →
    ∃ u r, exec (.troughContribution m) s = .next u ∧ u.treply = some r ∧ r.ack = true ∧ r.ok = false
      ∧ r.dstDev = m.srcDev ∧ r.key = m.key ∧ { u with treply := s.treply } = s)
  ∧ (∀ (s : State) (m : TroughMsg), fromAfar s m = true → homeReady s (homeOf s m.key) = true →
    let p := homeOf s m.key
    let x := s.trough p
    (m.kind = .efetch → ∃ u r, exec (.troughExponentMessage m) s = .next u ∧ u.treply = some r
      ∧ r.ack = true ∧ r.ok = true ∧ r.dstDev = m.srcDev ∧ r.dst = m.src ∧ r.src = p ∧ r.key = m.key
      ∧ r.e = committedE x m.key
      ∧ (r.nf = true ↔ ∃ ie ∈ x.slots ++ x.recs, ie.2.key = m.key ∧ ie.2.tag = none ∧ ie.2.nf = true)
      ∧ { u with treply := s.treply } = s)
    ∧ (m.kind = .esend → expMax (committedE x m.key) m.e ≠ committedE x m.key → keyNonzero x m.key = true →
      ∃ u r, exec (.troughExponentMessage m) s = .next u ∧ u.treply = some r ∧ r.ok = false
        ∧ { u with treply := s.treply } = s))
  ∧ (∀ (s : State) (m : TroughMsg) (i : Nat) (t : TEntry), fromAfar s m = true → m.kind = .esend →
    homeReady s (homeOf s m.key) = true →
    let p := homeOf s m.key
    let x := s.trough p
    expMax (committedE x m.key) m.e = committedE x m.key → findEnt x.slots m.key none = some (i, t) →
    look x.slots i = some t → (∀ ie ∈ x.slots ++ x.recs, ie.2.key = m.key → ie.2.e = t.e) →
    ueRange s (slotPa s p i) 512 = false →
    ∃ u r, exec (.troughExponentMessage m) s = .next u ∧ u.treply = some r ∧ r.ok = true
      ∧ look (u.trough p).slots i = some { t with nf := t.nf || m.nf }
      ∧ (∀ j, j ≠ i → look (u.trough p).slots j = look x.slots j) ∧ (u.trough p).recs = x.recs)

/-- PREPARE, COMMIT, ABORT and HOME_ACKNOWLEDGEMENT complete: a stage is reserved for, committed or discarded as one whole. For a message of this device waiting for a home below 96 that can work. PREPARE whose COUNT is what the home applied, no staged window under another exponent than its key's: with records enough the stage reserves one per staged entry and the acknowledgement says yes; with fewer, SPILL_FULL is set and it says no; a different COUNT, or such a window, is refused and nothing is reserved. COMMIT: no entry of the stage is left staged, its reservation and count end, entries of other stages stay. ABORT of a live stage: exactly its entries leave, ABORTED is set. Each is acknowledged. The last acknowledgement of the COMMITs finishes the command with 0x00, of the PREPAREs lets it retire, and one that is not the last is counted off. -/
def Obligations.StageEnds : Prop :=
  (∀ (s : State) (m : TroughMsg), isWaiting s m = true → m.dstDev = s.me → m.srcDev = s.me → m.ack = false → m.dst < 96 →
    homeReady s m.dst = true →
    let x := s.trough m.dst
    let tag := tagOf m
    let n := countOf (fun ie : Nat × TEntry => ie.2.tag == some tag) (x.slots ++ x.recs)
    let answer (u : State) (ok : Bool) : Prop :=
      ∃ r, u.tmsgs = s.tmsgs.erase m ++ [r] ∧ r.ack = true ∧ r.ok = ok ∧ r.kind = m.kind ∧ r.dst = m.src ∧ r.src = m.dst
        ∧ r.dev = m.dev ∧ r.queue = m.queue ∧ r.seq = m.seq
    (m.kind = .prepare → lookD x.applied tag 0 = m.count → stageFits x tag = true → n ≤ spillFree s m.dst { x with resv := del x.resv tag } →
      ∃ u, exec (.prepare m) s = .next u ∧ answer u true ∧ look (u.trough m.dst).resv tag = some n
        ∧ (u.trough m.dst).slots = x.slots ∧ (u.trough m.dst).recs = x.recs ∧ regsBut [TRG_STAT.off m.dst] s u ∧ troughMem m.dst s u)
    ∧ (m.kind = .prepare → lookD x.applied tag 0 = m.count → stageFits x tag = true → spillFree s m.dst { x with resv := del x.resv tag } < n →
      ∃ u, exec (.prepare m) s = .next u ∧ answer u false ∧ u.get TRG_STAT_SPILL_FULL m.dst = 1 ∧ u.troughs = s.troughs
        ∧ regsBut [TRG_STAT.off m.dst] s u ∧ memKept s u)
    ∧ (m.kind = .prepare → (lookD x.applied tag 0 ≠ m.count ∨ stageFits x tag = false) → ∃ u, exec (.prepare m) s = .next u ∧ answer u false
        ∧ { u with tmsgs := s.tmsgs, tresent := s.tresent } = s)
    ∧ (m.kind = .commit → stageLive x tag = true → (x.slots.map Prod.fst).Pairwise (· < ·) → (x.recs.map Prod.fst).Pairwise (· < ·) →
      ∃ u, exec (.commit m) s = .next u ∧ answer u true ∧ stageLive (u.trough m.dst) tag = false
        ∧ look (u.trough m.dst).resv tag = none
        ∧ (∀ ie ∈ x.slots, ie.2.tag.isSome = true → ie.2.tag ≠ some tag → ie ∈ (u.trough m.dst).slots)
        ∧ (∀ ie ∈ x.recs, ie.2.tag.isSome = true → ie.2.tag ≠ some tag → ie ∈ (u.trough m.dst).recs)
        ∧ (∀ p, p ≠ m.dst → u.trough p = s.trough p) ∧ regsBut [TRG_STAT.off m.dst] s u ∧ troughMem m.dst s u)
    ∧ (m.kind = .commit → stageLive x tag = false → ∃ u, exec (.commit m) s = .next u ∧ answer u true
        ∧ { u with tmsgs := s.tmsgs, tresent := s.tresent } = s)
    ∧ (m.kind = .abort → stageLive x tag = true → ∃ u, exec (.abort m) s = .next u ∧ answer u true
        ∧ (∀ ie, ie ∈ (u.trough m.dst).slots ↔ ie ∈ x.slots ∧ ie.2.tag ≠ some tag)
        ∧ (∀ ie, ie ∈ (u.trough m.dst).recs ↔ ie ∈ x.recs ∧ ie.2.tag ≠ some tag)
        ∧ look (u.trough m.dst).resv tag = none ∧ u.get TRG_STAT_ABORTED m.dst = 1
        ∧ regsBut [TRG_STAT.off m.dst] s u ∧ troughMem m.dst s u))
  ∧ (∀ (s : State) (m : TroughMsg) (c : Cmd), isWaiting s m = true → m.ack = true → m.dstDev = s.me → m.srcDev = s.me →
    m.dev = s.me → running s = true → s.findCmd m.queue m.seq = some c → c.phase = .running → m.ok = true →
    m.kind ≠ .efetch → m.kind ≠ .asend →
    (∀ n, c.waits = n + 2 → ∃ u c', exec (.homeAcknowledgement m) s = .next u ∧ u.tmsgs = s.tmsgs.erase m
      ∧ u.findCmd m.queue m.seq = some c' ∧ c'.waits = n + 1 ∧ c'.phase = .running ∧ c'.stage = c.stage
      ∧ u.regs = s.regs ∧ u.troughs = s.troughs)
    ∧ (c.waits = 1 → c.stage = 4 → ∃ u c', exec (.homeAcknowledgement m) s = .next u ∧ u.tmsgs = s.tmsgs.erase m
      ∧ u.findCmd m.queue m.seq = some c' ∧ c'.phase = .done 0 ∧ c'.stage = 6 ∧ u.regs = s.regs ∧ u.troughs = s.troughs)
    ∧ (c.waits = 1 → c.stage = 2 → c.fin.getD 0 = 0 → ∃ u c', exec (.homeAcknowledgement m) s = .next u
      ∧ u.tmsgs = s.tmsgs.erase m ∧ u.findCmd m.queue m.seq = some c' ∧ c'.phase = .done 0 ∧ c'.stage = 3
      ∧ u.regs = s.regs ∧ u.troughs = s.troughs))

/-- TROUGH_BACKGROUND_EVICT and SPILL_THRESHOLD_ADJUST complete. A background eviction of trough p at or below θ × SIZE_MIB × 128 occupied slots changes nothing; above it, with a committed slot whose key has no committed record and a record free, one committed slot moves unchanged to a record position that was free, and SPILLS counts one. After 65,536 placements θ falls by one, not below LOOP_TRG.MIN, if more than 1,024 found all eight positions occupied; rises by one, not above LOOP_TRG.MAX, if none did; else stays; and the counts start over. Before, nothing changes. -/
def Obligations.TroughUpkeep : Prop :=
  ∀ (s : State) (p : Nat), p < 96 →
    let x := s.trough p
    let lo := s.get LOOP_TRG_MIN
    let hi := max lo (s.get LOOP_TRG_MAX)
    (x.slots.length ≤ thetaOf s x * trgNow s p * 128 → exec (.troughBackgroundEvict p) s = .next s)
    ∧ (homeReady s p = true → thetaOf s x * trgNow s p * 128 < x.slots.length → (∃ ie ∈ x.slots, ie.2.tag = none) →
      (x.slots.map Prod.fst).Pairwise (· < ·) → (x.recs.map Prod.fst).Pairwise (· < ·) →
      (∀ ie ∈ x.recs, ie.1 < spillN s p) → (∀ ie ∈ x.slots, findEnt x.recs ie.2.key none = none) → 0 < spillFree s p x →
      ∃ u i v r, exec (.troughBackgroundEvict p) s = .next u ∧ look x.slots i = some v ∧ v.tag = none
        ∧ look (u.trough p).slots i = none ∧ (∀ j, j ≠ i → look (u.trough p).slots j = look x.slots j)
        ∧ r < spillN s p ∧ look x.recs r = none ∧ look (u.trough p).recs r = some v
        ∧ (∀ j, j ≠ r → look (u.trough p).recs j = look x.recs j)
        ∧ u.get TRG_CNT_SPILLS p = (s.get TRG_CNT_SPILLS p + 1) % 2 ^ 32 ∧ regsBut [TRG_CNT.off p, TRG_STAT.off p] s u ∧ troughMem p s u)
    ∧ (x.placed < 65536 → exec (.spillThresholdAdjust p) s = .next s)
    ∧ (65536 ≤ x.placed → ∃ u, exec (.spillThresholdAdjust p) s = .next u
      ∧ (u.trough p).theta = (if 1024 < x.crowded then max lo (thetaOf s x - 1)
          else if x.crowded = 0 then min hi (thetaOf s x + 1) else thetaOf s x)
      ∧ (u.trough p).placed = 0 ∧ (u.trough p).crowded = 0 ∧ (u.trough p).slots = x.slots ∧ (u.trough p).recs = x.recs
      ∧ (∀ k, k ≠ p → u.trough k = s.trough k) ∧ regsBut [TRG_STAT.off p] s u ∧ troughMem p s u
      ∧ u.queues = s.queues ∧ u.tmsgs = s.tmsgs)

/-- XFER here copies its bytes; SEEDS_SET records its proposal; COLL_ACK_TIMER acknowledges; the seven collectives complete in a group of one. XFER of LEN bytes between untranslated main memory places of this device, with no check value: DST holds the bytes that SRC held before, whether or not they overlap, no other byte changes, and no register but read counters. SEEDS_SET at its retirement, a completion record not due or with room: PROP takes the proposal and PEND is set, and it retires with 0x00. COLL_ACK_TIMER of a stream with unacknowledged COLL frames: the count is dropped, the next ESEQ of the stream is used; without them nothing changes. A collective that is the only started command of its queue, its group descriptor valid and of one member, its operands in error-free main memory and its own checks met, finishes with 0x00: ALLREDUCE, REDUCE_SCATTER, ALLGATHER, ALLTOALL, BROADCAST, MAXREDUCE, PERMUTE. Where the queue's consumer cannot work their rows change nothing. -/
def Obligations.XferAndSeeds : Prop :=
  (∀ (s : State) (q : Nat) (c : Cmd), unitCmd s q 0xC0 = some c → c.waits = 0 →
    let raw := c.raw.toNat
    let src := cf raw 24 0 56
    let dst := cf raw 32 0 56
    let len := cf raw 40 0 40
    src / 2 ^ 43 = s.me → dst / 2 ^ 43 = s.me → cf raw 16 4 1 = 0 → cf raw 16 5 1 = 0 →
    plainMem s q (src % 2 ^ 43) len → plainMem s q (dst % 2 ^ 43) len →
    ∃ u, exec (.xfer q) s = .next u ∧ commandDone u q c 0
      ∧ memHolds (dst % 2 ^ 43) (s.rdBytes (src % 2 ^ 43) len) u ∧ memBut (dst % 2 ^ 43) len s u
      ∧ regsBut (readCounts (pondOfQ s q)) s u)
  ∧ (∀ (s : State) (q : Nat) (c : Cmd), q < 16384 → atRetire s q 0xC8 = some c →
    (mustRecord c 0 && cmplFull s q) = false →
    ∃ u, exec (.seedsSet q) s = .next u
      ∧ u = retireStep s q c 0 (fun t => (t.set BSC_STAT_PROP (cf c.raw.toNat 16 0 21)).set BSC_STAT_PEND 1)
      ∧ u.get BSC_STAT_PROP = cf c.raw.toNat 16 0 21 ∧ u.get BSC_STAT_PEND = 1
      ∧ u.get BSC_STAT_CUR = s.get BSC_STAT_CUR
      ∧ u.qget QTAB_HEAD_HEAD q = (s.qget QTAB_HEAD_HEAD q + 1) % 2 ^ 32)
  ∧ (∀ (s : State) (src n eseq : Nat), look s.colAck src = some (n, eseq) → s.fatal = false →
    ∃ u, exec (.collAckTimer src) s = .next u ∧ look u.colAck src = none
      ∧ (∀ k, k ≠ src → look u.colAck k = look s.colAck k)
      ∧ (lookD u.link.tx (4 * src + 2) TxStream.init).next = ((lookD s.link.tx (4 * src + 2) TxStream.init).next + 1) % 65536
      ∧ u.link.outst = s.link.outst ∧ u.queues = s.queues ∧ linkMem s u)
  ∧ (∀ (s : State) (src : Nat), look s.colAck src = none → exec (.collAckTimer src) s = .next s)
  ∧ (∀ (s : State) (q : Nat), unitUp s q = false →
    ∀ row ∈ ([.allreduce, .reduceScatter, .allgather, .alltoall, .broadcast, .maxreduce, .permute] : List (Nat → Instr)),
      exec (row q) s = .next s)
  ∧ (∀ (s : State) (q : Nat) (c : Cmd),
    let raw := c.raw.toNat
    let ga := grpAddr s (cf raw 16 0 6)
    let g := s.rdN ga 64
    let src := cf raw 32 0 43
    let dst := cf raw 40 0 43
    let count := cf raw 24 0 32 + 2 ^ 32 * cf raw 30 0 8
    let iw := colInBytes (cf raw 17 0 2)
    let ow := colBytes (cf raw 17 2 2)
    let mw := if cf raw 17 0 2 = 0 then 2 else 4
    let digest (k : Nat) : Nat := roundUp 16 k + 8
    let same (a k : Nat) : Prop := inMain a k ∧ apart a k (ga + 24) 4
    let scnt := cf raw 24 0 43
    let sent := s.rdN scnt 4
    let ents := (upto (cf raw 32 0 32)).map fun i => permEnt (s.rdN (cf raw 24 0 43 + 32 * i) 32)
    let reduces : Prop := inMain src (count * iw) ∧ inMain dst (digest (count * ow))
      ∧ inMain (cf raw 48 0 43) (400 * ((count + 31) / 32))
      ∧ redRefused raw c.bnd = false
    unitUp s q = true → (s.q q).started = [c] → c.phase = .ready → c.waits = 0 → c.stage = 0 → freeMem s q →
    inMain ga 64 → bits g 0 14 = 1 → bits g 16 13 = 0 → g.testBit 32 = true → bits g 48 14 = q →
    (g.testBit 33 = true ∨ (1 ≤ bits g 40 4 ∧ bits g 40 4 ≤ 12)) → bits g 14 2 = 0 → bits g 29 3 = 0 → bits g 34 6 = 0 →
    bits g 44 4 = 0 → bits g 62 2 = 0 → bits g 107 21 = 0 → bits g 171 21 = 0 → bits g 224 288 = 0 →
    inMain (bits g 64 43) 2 →
    (opcOf raw = 0xC1 → reduces → ∃ u, exec (.allreduce q) s = .next u ∧ commandDone u q c 0)
    ∧ (opcOf raw = 0xC2 → reduces → ∃ u, exec (.reduceScatter q) s = .next u ∧ commandDone u q c 0)
    ∧ (opcOf raw = 0xC3 → inMain src count → inMain dst (digest count) →
        ∃ u, exec (.allgather q) s = .next u ∧ commandDone u q c 0)
    ∧ (opcOf raw = 0xC4 → same scnt 4 → sent ≤ cf raw 48 0 32 → inMain src sent → inMain dst sent →
        inMain (cf raw 56 0 43) 4 → ∃ u, exec (.alltoall q) s = .next u ∧ commandDone u q c 0)
    ∧ (opcOf raw = 0xC5 → cf raw 28 0 13 = 0 → inMain src count → inMain dst (digest count) →
        ∃ u, exec (.broadcast q) s = .next u ∧ commandDone u q c 0)
    ∧ (opcOf raw = 0xC6 → inMain src (count * mw) → inMain dst (digest (count * mw)) →
        ∃ u, exec (.maxreduce q) s = .next u ∧ commandDone u q c 0)
    ∧ (opcOf raw = 0xC7 → reservedOk raw ((bodyFields 0xC7).getD []) = true → same (cf raw 24 0 43) (32 * cf raw 32 0 32) →
        permClash ents = false → (∀ e ∈ ents, e.ok = true ∧ e.srank = 0 ∧ e.drank = 0 ∧ inMain e.saddr e.len ∧ inMain e.daddr e.len) →
        ∃ u, exec (.permute q) s = .next u ∧ commandDone u q c 0))

/-- COLL_CHUNK, COLL_DONE, COLL_ABORT, COLL_ACK that arrive in order reach the collective engine. A COLL frame that arrives in order, other than an acknowledgement, with fewer than 63 of its stream unacknowledged: it is counted; where no collective of its number runs here, and its number is neither past nor its chunk held already, it is held, and commands stay as they were; where a collective waits for it, that command runs with it. An acknowledgement ends the wait of exactly those COLL frames to its sender whose ESEQ lies at most at the one it carries, and no chunk is held for it. -/
def Obligations.CollFrames : Prop :=
  (∀ (s t : State) (f : RxFrame) (d : List Byte), arrives s f 0xE d t →
    ∀ row ∈ ([(0, Instr.collChunk), (2, Instr.collDone), (3, Instr.collAbort)] : List (Nat × (RxFrame → Instr))),
    collKind d = row.1 → (lookD t.colAck f.src (0, 0)).1 < 63 →
    let m := colMsgOf f.src f.addr d
    let held := { t with colAck := ins t.colAck f.src ((lookD t.colAck f.src (0, 0)).1 + 1, f.eseq) }
    (colPast t m.group m.cseq = false → t.colIn.any (sameChunk m) = false → colCmd t m.group m.cseq = none →
      ∃ u, exec (row.2 f) s = .next u ∧ u.colIn = t.colIn ++ [m] ∧ u.queues = t.queues
        ∧ look u.colAck f.src = some ((lookD t.colAck f.src (0, 0)).1 + 1, f.eseq) ∧ linkMem t u)
    ∧ ((colPast t m.group m.cseq = true ∨ t.colIn.any (sameChunk m) = true) →
      ∃ u, exec (row.2 f) s = .next u ∧ u.colIn = t.colIn ∧ u.queues = t.queues ∧ linkMem t u)
    ∧ (∀ q c, colPast t m.group m.cseq = false → t.colIn.any (sameChunk m) = false →
        colCmd t m.group m.cseq = some (q, c) → running t = true →
      ∃ u, exec (row.2 f) s = .next u
        ∧ u = (runBody { held with colIn := t.colIn ++ [m] } q c (colBody q)).flushLinks))
  ∧ (∀ (s t : State) (f : RxFrame) (d : List Byte), arrives s f 0xE d t → collKind d = 1 →
    let last := (colMsgOf f.src f.addr d).val0 % 65536
    ∃ u, exec (.collAck f) s = .next u ∧ u.colIn = t.colIn ∧ u.colAck = t.colAck ∧ u.queues = t.queues ∧ linkMem t u
      ∧ (∀ o, o ∈ u.link.outst ↔ o ∈ t.link.outst
          ∧ ¬(o.frame.type = 0xE ∧ o.frame.dst = f.src ∧ (last + 65536 - o.frame.eseq) % 65536 < 32768)))

/-- Data frames: discarded, passed on, kept from acting twice; WRITE_ACK, READ_RSP and SAMPLE_RSP complete their requests. For each data-frame row. A frame of another type changes nothing, one of the reserved type 0xF but what the port's checks change. One that its port discards leaves what the port's checks leave. One for another device is passed on. One whose ESEQ lies ahead of the stream's next does nothing here. A WRITE that repeats an earlier one writes no main memory. In order: a READ_RSP that answers the last read a command waits for gives it the data and the command is ready again; a WRITE_ACK with status 0 to a command that has finished its work and waits for it alone finishes it; a SAMPLE_RSP hands its packet to the request it answers. The answered request leaves the outstanding ones, which only new requests may join. -/
def Obligations.FramesAndAnswers : Prop :=
  (∀ (s t : State) (f : RxFrame),
    ∀ row ∈ ([(4, .writeFrame), (5, .readReq), (6, .signalFrame), (7, .sampleReq), (8, .mgmtWr), (9, .mgmtRd),
        (0xA, .irqFrame), (0xB, .writeAck), (0xC, .readRsp), (0xD, .sampleRsp)] : List (Nat × (RxFrame → Instr))),
      (f.type ≠ row.1 → f.type ≠ 0xF → exec (row.2 f) s = .next s)
      ∧ (f.type = 0xF → exec (row.2 f) s = .next (takeData s f).2)
      ∧ (f.type = row.1 → takeData s f = (none, t) → exec (row.2 f) s = .next t)
      ∧ (∀ d, f.type = row.1 → takeData s f = (some d, t) → rxByPath f = false → f.dst ≠ t.num →
          exec (row.2 f) s = .next (passOn t f d))
      ∧ (∀ d, f.type = row.1 → takeData s f = (some d, t) → rxByPath f = false → f.dst = t.num →
          let ahead := (f.eseq + 65536 - lookD t.link.rx (f.src * 4 + vcOf f.type) 0) % 65536
          (f.type = 7 → homeReady s (requestPond s d) = true) →
          0 < ahead → ahead < 32768 → exec (row.2 f) s = .next t.flushLinks))
  ∧ (∀ (s t : State) (f : RxFrame) (d : List Byte), f.type = 4 → takeData s f = (some d, t) → rxByPath f = false →
    f.dst = t.num → 32768 ≤ (f.eseq + 65536 - lookD t.link.rx (f.src * 4 + vcOf f.type) 0) % 65536 →
    ∃ u, exec (.writeFrame f) s = .next u ∧ linkMem t u)
  ∧ (∀ (s t : State) (f : RxFrame) (d : List Byte) (o : Outstanding) (q seq key : Nat) (c : Cmd), arrives s f 0xC d t →
    answeredReq t f = some o → o.who = .cmd q seq key → bits f.addr 16 8 = 0 → d ≠ [] → t.findCmd q seq = some c →
    c.phase = .running → c.waits = 1 → c.fin = none →
    ∃ u c', exec (.readRsp f) s = .next u ∧ u.findCmd q seq = some c' ∧ c'.phase = .ready ∧ look c'.buf key = some d
      ∧ c'.raw = c.raw ∧ (∃ l, u.link.outst = t.link.outst.erase o ++ l) ∧ linkMem t u)
  ∧ (∀ (s t : State) (f : RxFrame) (d : List Byte) (o : Outstanding) (q seq key st : Nat) (c : Cmd), arrives s f 0xB d t →
    answeredReq t f = some o → o.who = .cmd q seq key → bits f.addr 16 8 = 0 → t.findCmd q seq = some c →
    c.phase = .running → c.waits = 1 → c.fin = some st →
    ∃ u, exec (.writeAck f) s = .next u ∧ commandDone u q c st ∧ c.seq = seq
      ∧ (∃ l, u.link.outst = t.link.outst.erase o ++ l) ∧ linkMem t u)
  ∧ (∀ (s t : State) (f : RxFrame) (d : List Byte) (o : Outstanding) (id : Nat), arrives s f 0xD d t →
    answeredReq t f = some o → o.who = .sampling id →
    let r := sampReply t id (bits f.addr 16 8) d
    ((∃ x ∈ r.samps, x.id = id) → ∃ u, exec (.sampleRsp f) s = .next u ∧ u = r.flushLinks ∧ u.link.outst = t.link.outst)
    ∧ ((∀ x ∈ r.samps, x.id ≠ id) → ∃ u, exec (.sampleRsp f) s = .next u ∧ u = (closeReq r o).flushLinks
        ∧ ∃ l, u.link.outst = t.link.outst.erase o ++ l))

/-- WRITE, READ_REQ, SIGNAL, SAMPLE_REQ, MGMT_WR, MGMT_RD, IRQ that arrive in order have their effect and are answered. For a frame that arrives in order for this device. WRITE of sound main memory: the bytes are written and no other main memory, and it is acknowledged with status 0; outside what frames may reach, status 1 and no byte. READ_REQ of sound main memory is answered with its bytes, an uncorrectable one with status 2, memory unchanged. SIGNAL by a nonzero amount of a far semaphore without waiters raises its value by the amount, up to its largest, and is acknowledged. SAMPLE_REQ is answered with the packets drawn here; where its pond cannot serve it, it waits, and a lulled pond wakes. MGMT_WR and MGMT_RD from a source that is admitted write or read their register; from another they are answered with status 1; a read of a QTAB_TAIL whose doorbell is held waits. IRQ at the bellwether counts and raises its vector, elsewhere it is refused. -/
def Obligations.FrameRequests : Prop :=
  (∀ (s t : State) (f : RxFrame) (d : List Byte), arrives s f 4 d t →
    (d ≠ [] → f.addr + d.length ≤ 0x10E00000000 →
      (∀ b, f.addr ≤ b → b < f.addr + d.length → poisonedAt t b = false ∧ retiredAt t b = false) →
      ∃ u r, exec (.writeFrame f) s = .next u ∧ u = (answer r f 0xB 0 []).flushLinks ∧ memHolds f.addr d u
        ∧ mainBut f.addr d.length t u ∧ r.queues = t.queues ∧ r.regs = t.regs)
    ∧ (frameAt t f.addr d.length = .nowhere →
      ∃ u, exec (.writeFrame f) s = .next u ∧ u = (answer (noteRefused t f.addr true) f 0xB 1 []).flushLinks ∧ linkMem t u)
    ∧ (frameAt t f.addr d.length = .host →
      ∃ u, exec (.writeFrame f) s = .next u ∧ linkMem t u
        ∧ u.host.reqs = t.host.reqs ++ [⟨t.host.nextId, .posted, true, hostBus t f.addr, d.length, d, some (f.src, f.eseq)⟩]))
  ∧ (∀ (s t : State) (f : RxFrame) (d : List Byte), arrives s f 5 d t → frameAt t f.addr f.len = .here →
    f.addr + f.len ≤ 0x10E00000000 →
    (ueRange t f.addr f.len = false → ∃ u, exec (.readReq f) s = .next u
      ∧ u = (answer t f 0xC 0 (t.rdBytes f.addr f.len)).flushLinks ∧ linkMem t u)
    ∧ (ueRange t f.addr f.len = true → ∃ u, exec (.readReq f) s = .next u
      ∧ u = (answer t f 0xC 2 []).flushLinks ∧ linkMem t u))
  ∧ (∀ (s t : State) (f : RxFrame) (d : List Byte), arrives s f 6 d t → leNat d ≠ 0 → f.addr < 256 →
    t.waitersOf (semOffFar f.addr) = [] →
    ∃ u, exec (.signalFrame f) s = .next u
      ∧ u = (answer (t.semSignal (semOffFar f.addr) (leNat d) ⟨3, 0, f.src, 0⟩) f 0xB 0 []).flushLinks
      ∧ semValue u (semOffFar f.addr) = min 0xFFFFFFFF (semValue t (semOffFar f.addr) + leNat d) ∧ linkMem t u)
  ∧ (∀ (s t r : State) (f : RxFrame) (d : List Byte) (st : Nat) (ps : List (List Byte)), arrives s f 7 d t →
    serveSample t d = (st, ps, r) → homeReady s (requestPond s d) = true →
    ∃ u, exec (.sampleReq f) s = .next u
      ∧ u = (if ps = [] then answer r f 0xD st [] else ps.foldl (fun s b => answer s f 0xD st b) r).flushLinks)
  ∧ (∀ (s t : State) (f : RxFrame) (d : List Byte), f.type = 7 → takeData s f = (some d, t) → rxByPath f = false →
    f.dst = s.num → homeReady s (requestPond s d) = false →
    ∃ u, exec (.sampleReq f) s = .next u ∧ { u with ponds := s.ponds } = s)
  ∧ (∀ (s t r : State) (f : RxFrame) (d : List Byte) (o v : Nat), arrives s f 8 d t → areaOf f.addr = .config o →
    (mgmtAdmits t f.src = true → writeReg t o 8 (leNat d) = (.ok v, r) →
      ∃ u, exec (.mgmtWr f) s = .next u ∧ u = (answer r f 0xB 0 []).flushLinks)
    ∧ (mgmtAdmits t f.src = false →
      ∃ u, exec (.mgmtWr f) s = .next u ∧ u = (answer t f 0xB 1 []).flushLinks ∧ linkMem t u))
  ∧ (∀ (s t r : State) (f : RxFrame) (d : List Byte) (o v : Nat), arrives s f 9 d t → areaOf f.addr = .config o →
    (mgmtAdmits t f.src = true → tailHeld t o = true → ∃ u, exec (.mgmtRd f) s = .next u
      ∧ u.fault.heldReads = t.fault.heldReads ++ [.frame f o] ∧ linkMem t u)
    ∧ (mgmtAdmits t f.src = true → tailHeld t o = false → readReg t o 8 = (.ok v, r) →
      ∃ u, exec (.mgmtRd f) s = .next u ∧ u = (answer r f 0xC 0 (leBytes 8 v)).flushLinks)
    ∧ (mgmtAdmits t f.src = false →
      ∃ u, exec (.mgmtRd f) s = .next u ∧ u = (answer t f 0xC 1 []).flushLinks ∧ linkMem t u))
  ∧ (∀ (s t : State) (f : RxFrame) (d : List Byte), arrives s f 0xA d t →
    (t.isBell = true → ∃ u, exec (.irqFrame f) s = .next u
      ∧ u.get HB_FWD_IRQS = (t.get HB_FWD_IRQS + 1) % 2 ^ 32 ∧ linkMem t u
      ∧ (msixMasked t f.addr = false → u.irqs = t.irqs ++ [f.addr])
      ∧ (msixMasked t f.addr = true → u.irqs = t.irqs ∧ f.addr ∈ u.host.pba))
    ∧ (t.isBell = false → ∃ u, exec (.irqFrame f) s = .next u ∧ u = (answer t f 0xB 1 []).flushLinks ∧ linkMem t u))

/-- CTRL, IDENT, KEYX, TIME frames at a port: acknowledgement and credit, the neighbour, its keys, the time messages. For each row a frame that the port's checks refuse leaves what they leave. CTRL with no frame waiting and no NAK: exactly the frames below the LSEQ it expects leave the replay buffer, and each virtual channel gains its credit, at most 1024 in all. IDENT at a port in KEYX: the neighbour's device, port and key digest are shown and its payload kept; without a random source the port falls with AUTH_FAIL. KEYX before the neighbour's IDENT is kept for it; with a signature that does not hold the port falls with AUTH_FAIL; with one that holds, at a port in KEYX whose neighbour is the expected one, the port is UP with the two keys derived. TIME: a reply's arrival is kept, stamped from the local copy; an upstream message gives the offset of the exchange before it. -/
def Obligations.ControlFrames : Prop :=
  (∀ (s t : State) (f : RxFrame),
    (takeCtl s f 0 = (none, t) → exec (.ctrlFrame f) s = .next t) ∧ (takeCtl s f 1 = (none, t) → exec (.ident f) s = .next t)
    ∧ (takeCtl s f 2 = (none, t) → exec (.keyx f) s = .next t) ∧ (takeCtl s f 3 = (none, t) → (∀ a b, exec (.timeFrame f a b) s = .next t)))
  ∧ (∀ (s t : State) (f : RxFrame) (d : List Byte), takeCtl s f 0 = (some d, t) → t.link.waitq = [] → byteN d 2 1 % 2 = 0 →
    let x := t.port f.port
    let next := extend16 x.txLseq (byteN d 0 2)
    ∃ u, exec (.ctrlFrame f) s = .next u
      ∧ (u.port f.port).replay = x.replay.filter (fun g => (g.lseq + 2 ^ 32 - next) % 2 ^ 32 < 2 ^ 31)
      ∧ (∀ v, v < 3 → lookD (u.port f.port).credits v 0 = min 1024 (lookD x.credits v 0 + byteN d (4 + 2 * v) 2))
      ∧ (∀ p, p ≠ f.port → u.port p = t.port p) ∧ u.regs = t.regs ∧ memKept t u)
  ∧ (∀ (s t : State) (f : RxFrame) (d : List Byte), takeCtl s f 1 = (some d, t) → portState t f.port = 2 →
    (t.port f.port).peerKeyx = [] →
    (t.flag RNG_STAT_HALTED = false → ∃ u, exec (.ident f) s = .next u
      ∧ u.get LNK_STAT_NBR_DEV f.port = byteN d 0 2 % 2 ^ 13 ∧ u.get LNK_STAT_NBR_PORT f.port = byteN d 2 2 % 2 ^ 4
      ∧ (∀ n, n < 4 → u.rg LNK_NBRKEY f.port n = BitVec.ofNat 64 (byteN (sha256 (identKey d)) (8 * n) 8))
      ∧ (u.port f.port).peerIdent = d ∧ (u.port f.port).eph.isSome = true ∧ portState u f.port = 2 ∧ linkMem t u)
    ∧ (t.flag RNG_STAT_HALTED = true → ∃ u, exec (.ident f) s = .next u ∧ portState u f.port = 0
      ∧ u.get LNK_STAT_AUTH_FAIL f.port = 1))
  ∧ (∀ (s t : State) (f : RxFrame) (d : List Byte), takeCtl s f 2 = (some d, t) →
    let x := t.port f.port
    (x.eph = none → exec (.keyx f) s = .next (t.setPort f.port { x with peerKeyx := d }))
    ∧ (∀ e n, x.eph = some (e, n) →
      let dig := keyxDigest (identPayload t f.port) x.peerIdent (pubKey e) (d.take 64) (beBytes 32 n) ((d.drop 64).take 32)
      (ecdsaVerify (identKey x.peerIdent) dig ((d.drop 96).take 64) = false → ∃ u, exec (.keyx f) s = .next u
        ∧ portState u f.port = 0 ∧ u.get LNK_STAT_AUTH_FAIL f.port = 1)
      ∧ (∀ k, ecdsaVerify (identKey x.peerIdent) dig ((d.drop 96).take 64) = true → ecdh e (d.take 64) = some k →
          portState t f.port = 2 → t.flag LNK_CFG_PEER_V f.port = true → peerMatches t f.port = true →
          ∃ u, exec (.keyx f) s = .next u ∧ portState u f.port = 4
            ∧ ((u.port f.port).txKey, (u.port f.port).rxKey) =
                linkKeys (beNat (sha256 (identKey (identPayload t f.port))) < beNat (sha256 (identKey x.peerIdent))) k
            ∧ linkMem t u)))
  ∧ (∀ (s t : State) (f : RxFrame) (d : List Byte) (x y : Nat), takeCtl s f 3 = (some d, t) →
    (d.length = 1 → ∃ u, exec (.timeFrame f x y) s = .next u ∧ look u.time.t4s f.port = some (pcsStamp t (-(x : Int)))
      ∧ { u with time := t.time } = t)
    ∧ (d.length = 0 → ∃ u, exec (.timeFrame f x y) s = .next u
      ∧ u = sendCtl t f.port 3 (leBytes 8 (pcsStamp t y) ++ (match look t.time.t4s f.port with | some v => leBytes 8 v | none => []))
      ∧ (u.port f.port).txCtl = ((t.port f.port).txCtl + 1) % 2 ^ 32)
    ∧ (∀ a b c, 16 ≤ d.length → t.time.waiting = true → f.port = t.get TIME_CTRL_UP_PORT → t.flag TIME_CTRL_MASTER = false →
        t.time.exch = some (a, b, c) → ∃ u, exec (.timeFrame f x y) s = .next u
      ∧ u.time.exch = some (byteN d 0 8, pcsStamp t (-(x : Int)), pcsStamp t y) ∧ u.time.waiting = false
      ∧ u.get TIME_STAT_OFFSET = ofS 16 (clampI (-32767) 32767 (exchangeOffset a b c (byteN d 8 8)))))

/-- Training, timeouts, rechecks, rekeys, resends, acknowledgements, the equaliser and E2E_TIMEOUT of a port complete. For a port 0 to 11. Training that passed too few lanes at full rate, half rate allowed, goes on; else it takes a port in TRAIN to DOWN, and one that passed enough takes it to KEYX with its lanes; a RETRAIN that fails or lasts 1 ms goes DOWN with WENT_DOWN. A port in DOWN with EN retries, one in KEYX whose time is out falls with AUTH_FAIL. The tenth pass in a row of a dropped lane starts a RETRAIN. A rekey that is due begins; RESEND_TIMEOUT with unacknowledged frames counts a resend, after eight a RETRAIN; a due acknowledgement goes out as a CTRL frame. An equaliser step shows the eye. A request or trough message without an answer is sent once more, and then its destination is lost. Where an event does not apply, nothing changes. -/
def Obligations.LinkTimers : Prop :=
  ∀ (s : State) (p : Nat), p < 12 →
    let x := s.port p
    let st := portState s p
    (∀ (lanes : Nat) (full : Bool),
      let enough := laneCount lanes ≥ minLanes s p && (full || s.flag LNK_CFG_HALF_OK p)
      (st ≠ 1 → st ≠ 5 → exec (.linkTrainingDone p lanes full) s = .next s)
      ∧ (enough = false → full = true → s.flag LNK_CFG_HALF_OK p = true → exec (.linkTrainingDone p lanes full) s = .next s)
      ∧ (st = 1 → enough = false → (full && s.flag LNK_CFG_HALF_OK p) = false → ∃ u, exec (.linkTrainingDone p lanes full) s = .next u ∧ portState u p = 0
          ∧ onlyRegs [LNK_STAT.off p] s u)
      ∧ (st = 1 → enough = true → ∃ u, exec (.linkTrainingDone p lanes full) s = .next u ∧ portState u p = 2
          ∧ u.get LNK_STAT_LANES p = lanes % 16 ∧ u.get LNK_STAT_HALF p = b2n (!full) ∧ (u.port p).lanes = lanes % 16
          ∧ linkMem s u)
      ∧ (st = 5 → enough = false → (full && s.flag LNK_CFG_HALF_OK p) = false → ∃ u, exec (.linkTrainingDone p lanes full) s = .next u ∧ portState u p = 0
          ∧ u.get LNK_STAT_WENT_DOWN p = 1 ∧ linkMem s u)
      ∧ (st = 5 → enough = true → ∃ u, exec (.linkTrainingDone p lanes full) s = .next u
          ∧ portState u p = (if x.wasUp then 4 else 3) ∧ u.get LNK_STAT_LANES p = lanes % 16 ∧ linkMem s u))
    ∧ (st = 5 → ∃ u, exec (.retrainTimeout p) s = .next u ∧ portState u p = 0 ∧ u.get LNK_STAT_LANES p = 0
        ∧ u.get LNK_STAT_WENT_DOWN p = 1 ∧ (u.port p).replay = [] ∧ linkMem s u)
    ∧ (st ≠ 5 → exec (.retrainTimeout p) s = .next s)
    ∧ (∀ l pass, l < 4 → st = 4 → (s.get LNK_STAT_LANES p).testBit l = false →
        let n := if pass then lookD x.laneChecks l 0 + 1 else 0
        (n < 10 → ∃ u, exec (.laneRecheck p l pass) s = .next u ∧ lookD (u.port p).laneChecks l 0 = n
          ∧ { u with link := s.link } = s)
        ∧ (10 ≤ n → ∃ u, exec (.laneRecheck p l pass) s = .next u ∧ portState u p = 5 ∧ (u.port p).wasUp = true
          ∧ u.get LNK_CNT_RETRAINS p = min 65535 (s.get LNK_CNT_RETRAINS p + 1) ∧ linkMem s u))
    ∧ (st = 0 → s.flag LNK_CFG_EN p = true → s.pins.por = true → s.fatal = false →
        ∃ u, exec (.portTrainRetry p) s = .next u ∧ portState u p = 1 ∧ onlyRegs [LNK_STAT.off p] s u)
    ∧ (st ≠ 0 → exec (.portTrainRetry p) s = .next s)
    ∧ (st = 2 → ∃ u, exec (.keyxTimeout p) s = .next u ∧ portState u p = 0 ∧ u.get LNK_STAT_AUTH_FAIL p = 1
        ∧ u.get LNK_STAT_WENT_DOWN p = s.get LNK_STAT_WENT_DOWN p ∧ linkMem s u)
    ∧ (st ≠ 2 → x.eph = none → exec (.keyxTimeout p) s = .next s)
    ∧ (st = 4 → 2 ^ 31 ≤ x.txLseq → x.nextTx = none → x.eph = none → x.peerIdent ≠ [] → s.flag RNG_STAT_HALTED = false →
        ∃ u g, exec (.rekey p) s = .next u ∧ (u.port p).peerIdent = [] ∧ (u.port p).ctlOut.head? = some g ∧ g.type = 1
          ∧ g.payload = identPayload s p ∧ portState u p = 4 ∧ linkMem s u)
    ∧ (st ≠ 4 → exec (.rekey p) s = .next s)
    ∧ ((st = 3 ∨ st = 4) → x.replay ≠ [] → x.resends < 8 → ∃ u, exec (.resendTimeout p) s = .next u
        ∧ (u.port p).resends = x.resends + 1 ∧ (u.port p).replay = x.replay
        ∧ u.get LNK_CNT_REPLAYS p = (s.get LNK_CNT_REPLAYS p + 1) % 65536 ∧ linkMem s u)
    ∧ ((st = 3 ∨ st = 4) → x.replay ≠ [] → 8 ≤ x.resends → ∃ u, exec (.resendTimeout p) s = .next u ∧ portState u p = 5
        ∧ linkMem s u)
    ∧ (x.replay = [] → exec (.resendTimeout p) s = .next s)
    ∧ ((st = 3 ∨ st = 4) → x.ackDue = true → ∃ u g, exec (.ackTimer p) s = .next u ∧ (u.port p).ackDue = false
        ∧ (u.port p).ctlOut.head? = some g ∧ g.type = 0 ∧ byteN g.payload 0 2 = x.rxLseq % 65536 ∧ byteN g.payload 2 2 = 0
        ∧ (u.port p).txCtl = (x.txCtl + 1) % 2 ^ 32 ∧ linkMem s u)
    ∧ (x.ackDue = false → x.freed = [] → exec (.ackTimer p) s = .next s)
    ∧ (∀ (l errs h w : Nat) (up : Bool), l < 4 → 2 ≤ st → st < 6 → ∃ u, exec (.equaliserStep p l errs up h w) s = .next u
        ∧ bits (u.rg LNK_EYE p).toNat (16 * l) 16 = min 255 h + 256 * min 255 w
        ∧ regsBut [LNK_EYE.off p] s u ∧ memKept s u ∧ u.queues = s.queues)
    ∧ (∀ (dst n : Nat) (o : Outstanding), portsUp s = true → n / 65536 ≠ 4 →
        s.link.outst.find? (fun o => streamKey o.frame == dst * 4 + n / 65536 && o.frame.eseq == n % 65536) = some o →
        (o.resent = false → ∃ u, exec (.e2eTimeout dst n) s = .next u ∧ { o with resent := true } ∈ u.link.outst
          ∧ u.queues = s.queues ∧ linkMem s u)
        ∧ (o.resent = true → ∃ u, exec (.e2eTimeout dst n) s = .next u ∧ u.get LNK_DLOST_DEV = dst % 2 ^ 13
          ∧ u.get LNK_DLOST_VALID = 1 ∧ u.get FLT_STAT_DEVLOST = 1))
    ∧ (∀ dst n : Nat, n / 65536 ≠ 4 →
        s.link.outst.find? (fun o => streamKey o.frame == dst * 4 + n / 65536 && o.frame.eseq == n % 65536) = none →
        exec (.e2eTimeout dst n) s = .next s)
    ∧ (∀ (dst n : Nat), portsUp s = true → n < 65536 →
        let m? := (s.tmsgs.filter fun m => !m.ack && m.dstDev == dst && dst != s.me)[n]?
        (m? = none → exec (.e2eTimeout dst (4 * 65536 + n)) s = .next s)
        ∧ (∀ m, m? = some m → m ∉ s.tresent →
            exec (.e2eTimeout dst (4 * 65536 + n)) s = .next { s with tresent := m :: s.tresent })
        ∧ (∀ m, m? = some m → m ∈ s.tresent → ∃ u, exec (.e2eTimeout dst (4 * 65536 + n)) s = .next u
          ∧ u.get LNK_DLOST_DEV = dst % 2 ^ 13 ∧ u.get LNK_DLOST_VALID = 1 ∧ u.get FLT_STAT_DEVLOST = 1))

/-- TEMPERATURE_SAMPLE, CURRENT_SAMPLE, CEILING_UPDATE, VOLTAGE_TARGET_UPDATE, coolant, rail and telemetry rows complete. With the device powered, not fatally faulted and outside REST. A temperature sample, no sensor twice, shows every sensor's value. In Drowse or Deep, with VDD_FAB in range, a good sensor at 115 °C for the second sample in a row asserts THERMTRIP_N and is fatal. A current sample keeps the VIN_POND current, and one above its limit lowers its term by 20 mV, not below 620; where no phase is above 3 A and none has differed before, a pond's current is the sum of its phases. A ceiling update moves every pond's thermal term down 20 mV at 100 °C or above, up 10 below 97, and the power term by the package power. A target update moves each target by 10 mV by its regions' busy times, within V_MIN and V_MAX. A coolant write is taken and fresh; 2 s without one set COOL_STALE. A rail below or above its range sets its UV or OV bit; VDD_SD below 0.66 V is fatal. A telemetry record to this device's sound main memory writes its 1,024 bytes at its place, and SEQ counts. -/
def Obligations.SensorsAndVoltage : Prop :=
  (∀ (s : State) (temps : List (Nat × Int)) (rails : List Nat), s.pins.por = true → s.fatal = false → restIn s (2 ≤ ·) = false →
    (temps.map Prod.fst).Nodup →
    ∃ u, exec (.temperatureSample temps rails) s = .next u ∧ memKept s u ∧ u.queues = s.queues
      ∧ (∀ x ∈ temps, x.1 < 1152 → u.get POND_TEMP_TEMP (x.1 / 12) (x.1 % 12) = ofS 16 (clampI (-32768) 32767 x.2)))
  ∧ (∀ (s : State) (temps : List (Nat × Int)) (rails : List Nat) (x : Nat × Int), s.pins.por = true → s.fatal = false →
    restIn s (2 ≤ ·) = true → s.pins.thermtrip = false → (s.get RAIL_STAT_IN_RANGE).testBit 1 = true → x ∈ temps → x.1 < 1152 → 1840 ≤ x.2 → sensorGood s x.1 = true →
    x.1 ∈ s.power.hot →
    ∃ u, exec (.temperatureSample temps rails) s = .next u ∧ u.pins.thermtrip = true ∧ u.pins.fault = true
      ∧ u.get FLT_STAT_FATAL = 1 ∧ (∀ p, p < 96 → u.get POND_VREG_VNOW p = 0) ∧ memKept s u)
  ∧ (∀ (s : State) (volts : List (Nat × Nat)) (vin : Nat), s.pins.por = true → s.fatal = false → restIn s (2 ≤ ·) = false →
    ∃ u, exec (.currentSample volts [] vin) s = .next u ∧ u.power.vinMa = vin
      ∧ u.power.vinTerm = (if vinLimit s < vin then lower s.power.vinTerm 20 else s.power.vinTerm) ∧ memKept s u
      ∧ u.queues = s.queues)
  ∧ (∀ (s : State) (volts phases : List (Nat × Nat)) (vin : Nat), s.pins.por = true → s.fatal = false →
    restIn s (2 ≤ ·) = false → s.power.monExcl = [] → s.power.monDiffer = [] → s.power.phaseDiffer = [] →
    (phases.map Prod.fst).Nodup → (∀ x ∈ phases, x.1 < 768 ∧ x.2 ≤ 3000) →
    ∃ u, exec (.currentSample volts phases vin) s = .next u ∧ u.power.vinMa = vin ∧ memKept s u ∧ u.queues = s.queues
      ∧ (∀ x ∈ phases, lookD u.power.amps (x.1 / 8) 0 =
          (phases.filter fun y => y.1 / 8 == x.1 / 8).foldl (fun n y => n + y.2) 0))
  ∧ (∀ s : State, s.pins.por = true → s.fatal = false → s.power.rest = none →
    ∃ u, exec .ceilingUpdate s = .next u ∧ memKept s u ∧ u.queues = s.queues
      ∧ (∀ p, p < 96 → thermalTerm u p = (if 1600 ≤ pondTemp s p then lower (thermalTerm s p) 20
          else if pondTemp s p < 1552 then raise (thermalTerm s p) 10 else thermalTerm s p))
      ∧ u.power.powerTerm = (if pEff s < packageMw s then lower s.power.powerTerm 10
          else if 100 * packageMw s < 95 * pEff s then raise s.power.powerTerm 10 else s.power.powerTerm))
  ∧ (∀ (s : State) (busy : List (Nat × Nat)), s.pins.por = true → s.fatal = false → s.power.rest = none →
    ∃ u, exec (.voltageTargetUpdate busy) s = .next u ∧ memKept s u ∧ u.queues = s.queues
      ∧ (∀ p, p < 96 →
        let t := clampN (vMin s) (vMax s) (lookD s.power.target p (vMin s))
        let b := (busy.filter fun x => x.1 / 8 == p).map (·.2)
        lookD u.power.target p (vMin s) =
          (if b.any (· > 95000) then clampN (vMin s) (vMax s) (t + 10)
            else if b.all (· < 50000) then clampN (vMin s) (vMax s) (t - 10) else clampN (vMin s) (vMax s) t)))
  ∧ (∀ (s : State) (v : Nat), ∃ u, exec (.pwrCoolantWrite v) s = .next u ∧ u.get PWR_COOLANT_TEMP = v % 65536
      ∧ u.power.coolFresh = true ∧ u.power.coolant = some s.time.count ∧ regsBut [PWR_COOLANT.off] s u ∧ memKept s u)
  ∧ (∀ s : State, s.pins.por = true → restIn s (2 ≤ ·) = false → ∃ u, exec .coolantStale s = .next u
      ∧ u.get PWR_STAT_COOL_STALE = 1 ∧ u.power.coolFresh = false ∧ regsBut [PWR_STAT.off] s u ∧ memKept s u)
  ∧ (∀ (s : State) (k mv : Nat), s.pins.por = true → k < 9 →
    ∃ u, exec (.railOutOfRange k mv) s = .next u ∧ memKept s u ∧ u.queues = s.queues
      ∧ (mv < (railRange k).1 → (u.get RAIL_STAT_UV).testBit k = true ∧ (u.get RAIL_STAT_IN_RANGE).testBit k = false)
      ∧ ((railRange k).1 ≤ mv → mv ≤ (railRange k).2 → (u.get RAIL_STAT_IN_RANGE).testBit k = true)
      ∧ ((railRange k).1 ≤ mv → (railRange k).2 < mv →
          (u.get RAIL_STAT_OV).testBit k = true ∧ (u.get RAIL_STAT_IN_RANGE).testBit k = false)
      ∧ (k = 1 → mv < 660 → u.get FLT_STAT_FATAL = 1))
  ∧ (∀ s : State, s.pins.por = true → s.fatal = false → s.get PWR_STAT_STATE = 0 → s.flag TEL_CFG_EN = true →
    let fa := s.get TEL_BASE_BASE * 1024 + 1024 * (s.get TEL_HEAD_SEQ % 2 ^ telLog2 s)
    let a := fa % 2 ^ 43
    fa / 2 ^ 43 = s.me → a + 1024 ≤ 0x10E00000000 →
    (∀ b, a ≤ b → b < a + 1024 → poisonedAt s b = false ∧ retiredAt s b = false) →
    ∃ u, exec .telemetryRecord s = .next u ∧ memHolds a (telRecord s (s.get TEL_HEAD_SEQ)) u ∧ memBut a 1024 s u
      ∧ (telRecord s (s.get TEL_HEAD_SEQ)).length = 1024
      ∧ u.get TEL_HEAD_SEQ = (s.get TEL_HEAD_SEQ + 1) % 2 ^ TEL_HEAD_SEQ.w ∧ regsBut [TEL_HEAD.off] s u)

/-- POND_LULL, POND_WAKE, POND_SUPPLY_GOOD, REST with its commit, timeout, state and wake rows complete. A pond that may lull is lulled, its cache, TLB and streams empty, its supply off, RATE 0; a trigger ends a running pond's lull, and it waits for its supply, then for the beacon. REST that its unit takes waits for quiescence. Its commit, quiescent, enters the deepest state it allows, or none, with cause 8; a timeout ends it with cause 7. A state reached loses the caches; Still keeps main memory; Drowse and Deep take the ports down. A wake source that the state allows begins the wake with its cause; a Drowse sample wakes at the lowest crossing threshold. The completed wake ends the rest with its cause in LAST_CAUSE, state A0. -/
def Obligations.LullAndRest : Prop :=
  (∀ (s : State) (p : Nat), p < 96 →
    (running s = true → hubFenced s p = false → (s.pond p).lull = false → (s.pond p).wakeWait = false →
      s.get PWR_POND_LULL_US ≠ 0 → pondQuiet s p = true → ∃ u, exec (.pondLull p) s = .next u
        ∧ (u.pond p).lull = true ∧ (u.pond p).lines = [] ∧ (u.pond p).tlb = [] ∧ (u.pond p).streams = []
        ∧ u.get POND_VREG_VNOW p = 0 ∧ u.get POND_PACE_RATE p = 0 ∧ (∀ k, k ≠ p → u.pond k = s.pond k) ∧ memKept s u
        ∧ regsBut [POND_VREG.off p, POND_PACE.off p] s u)
    ∧ (pondQuiet s p = false → exec (.pondLull p) s = .next s)
    ∧ (running s = true → (s.pond p).lull = true → ∃ u, exec (.pondWake p) s = .next u
        ∧ (u.pond p).lull = false ∧ (u.pond p).wakeWait = true ∧ { u with ponds := s.ponds } = s)
    ∧ ((s.pond p).lull = false → exec (.pondWake p) s = .next s)
    ∧ ((s.pond p).wakeWait = true → ∃ u, exec (.pondSupplyGood p []) s = .next u ∧ p ∈ u.time.resync
        ∧ regsBut [POND_VREG.off p, PWR_LOOP.off] s u ∧ memKept s u)
    ∧ (∀ bad, (s.pond p).wakeWait = false → (s.power.rest.any fun r => r.phase == .waking) = false →
        exec (.pondSupplyGood p bad) s = .next s))
  ∧ (∀ (s : State) (q : Nat) (c : Cmd), readyCmd s q 0xE0 = some c → s.findCmd q c.seq = some c →
    s.power.rest = none → unitUp s q = true → ∃ u c', exec (.rest q) s = .next u ∧ u.power.rest = some ⟨q, c.seq, .quiescing, 0, 255, 0⟩
      ∧ u.findCmd q c.seq = some c' ∧ c'.phase = .running ∧ c'.raw = c.raw
      ∧ { u with power := s.power, queues := s.queues } = s)
  ∧ (∀ (s : State) (q : Nat), readyCmd s q 0xE0 = none → exec (.rest q) s = .next s)
  ∧ (∀ (s : State) (r : RestSt) (c : Cmd), s.power.rest = some r → restCmd s r = some c → r.phase = .quiescing →
    running s = true → c.fx = [] →
    let next := cf c.raw.toNat 16 0 64
    let d : Option Int := if next = 0 then none else some ((next : Int) - s.time.count)
    (∀ t, quiescent s r = true → restTarget (cf c.raw.toNat 24 0 3) d = some t → ∃ u, exec .restCommit s = .next u
      ∧ u.get PWR_STAT_STATE = 4 ∧ u.power.rest = some { r with phase := .entering, target := t }
      ∧ regsBut [PWR_STAT.off] s u ∧ u.queues = s.queues ∧ memKept s u)
    ∧ (quiescent s r = true → restTarget (cf c.raw.toNat 24 0 3) d = none → ∃ u, exec .restCommit s = .next u
      ∧ u.get PWR_STAT_STATE = 0 ∧ u.get PWR_STAT_LAST_CAUSE = 8 ∧ u.power.rest = none)
    ∧ (quiescent s r = false → exec .restCommit s = .next s)
    ∧ (∃ u, exec .restQuiescenceTimeout s = .next u ∧ u.get PWR_STAT_STATE = 0 ∧ u.get PWR_STAT_LAST_CAUSE = 7
      ∧ u.power.rest = none))
  ∧ (∀ (s : State) (r : RestSt), s.power.rest = some r → r.phase = .entering → r.cause = 255 → 1 ≤ r.target → r.target ≤ 3 →
    ∃ u, exec .restStateReached s = .next u ∧ u.get PWR_STAT_STATE = r.target
      ∧ u.power.rest = some { r with phase := .resting }
      ∧ (∀ p, (u.pond p).lines = [] ∧ (u.pond p).tlb = []) ∧ (∀ p, p < 96 → u.get POND_VREG_VNOW p = 0)
      ∧ (r.target = 1 → mainKept s u) ∧ (2 ≤ r.target → ∀ p, p < 12 → portState u p = 0))
  ∧ (∀ (s : State) (r : RestSt), s.power.rest = some r → r.phase = .resting →
    (∃ u, exec .wakeN s = .next u ∧ u.get PWR_STAT_STATE = 5
      ∧ u.power.rest = some { r with phase := .waking, cause := 1, thr := 0 } ∧ regsBut [PWR_STAT.off] s u ∧ memKept s u)
    ∧ (∃ u, exec .pwrCtrlWake s = .next u ∧ u.get PWR_STAT_STATE = 5
      ∧ u.power.rest = some { r with phase := .waking, cause := 2, thr := 0 } ∧ regsBut [PWR_STAT.off] s u ∧ memKept s u)
    ∧ (∀ c, restCmd s r = some c → cf c.raw.toNat 16 0 64 ≠ 0 → ∃ u, exec .wakeTimer s = .next u
      ∧ u.get PWR_STAT_STATE = 5 ∧ u.power.rest = some { r with phase := .waking, cause := 0, thr := 0 }
      ∧ regsBut [PWR_STAT.off] s u ∧ memKept s u)
    ∧ (∀ l n, r.target = 2 → (upto 32).find? (thrCrosses s l) = some n → ∃ u, exec (.drowseSample l) s = .next u
      ∧ u.power.rest = some { r with phase := .waking, cause := 3, thr := n } ∧ u.get PWR_STAT_STATE = 5)
    ∧ (∀ l, r.target = 2 → (upto 32).find? (thrCrosses s l) = none → exec (.drowseSample l) s = .next s))
  ∧ (∀ s : State, s.power.rest = none → exec .wakeN s = .next s ∧ exec .wakeTimer s = .next s ∧ exec .pwrCtrlWake s = .next s
      ∧ exec .wakeComplete s = .next s ∧ exec .restStateReached s = .next s)
  ∧ (∀ (s : State) (r : RestSt), s.power.rest = some r → r.phase = .waking →
    (∀ c, restCmd s r = some c → c.fx = []) → ∃ u, exec .wakeComplete s = .next u
      ∧ u.power.rest = none ∧ u.get PWR_STAT_STATE = 0 ∧ u.get PWR_STAT_LAST_CAUSE = r.cause % 256
      ∧ u.get PWR_STAT_LAST_STATE = r.target % 256 ∧ u.fault.held = [])

/-- TIME_BEACON, INTERPOLATION_STOP, epochs, exchanges, the PPS pins and their events complete. With POR_N high. Where the count is not slewed, no epoch or step waits, no pond resynchronises and no capture is busy, a beacon brings the count to its next multiple of 64, and the copies show it and run; memory stays. An epoch that waits becomes the count at the beacon. INTERPOLATION_STOP lets the time pass until 63 ns after a beacon, with the beacons on the way, and leaves the copies standing. TIME_EPOCH_WRITE waits for the beacon on the master, and is ignored elsewhere. A follower's exchange sends a request on its port in UP; without it LOCKED falls, LOCK_LOST is set and the count runs free. A PPS edge not near the last is captured. PPS_MISSING sets its bit on a disciplined master. PPS_OUT rises at a whole second, and falls again. -/
def Obligations.TimeRows : Prop :=
  (∀ s : State, s.pins.por = true → s.time.slew = 0 → s.time.epoch = none → s.time.step = none → s.time.resync = [] →
    s.flag OBS_CAPTURE_BUSY = false →
    ∃ u, exec .timeBeacon s = .next u ∧ u.time.count = (s.time.count / 64 + 1) * 64 % 2 ^ 64 ∧ u.time.base = u.time.count
      ∧ u.time.since = 0 ∧ u.time.stopped = false ∧ u.time.lastBeacon = some u.time.count ∧ memKept s u
      ∧ u.queues = s.queues ∧ u.gcs = s.gcs)
  ∧ (∀ (s : State) (e : Nat), s.pins.por = true → s.time.slew = 0 → s.time.epoch = some e → s.time.step = none →
    ∃ u, exec .timeBeacon s = .next u ∧ u.time.count = e % 2 ^ 64 ∧ u.time.epoch = none ∧ u.get TIME_STAT_EPOCH_SET = 1
      ∧ u.queues = s.queues)
  ∧ (∀ s : State, s.pins.por = false → exec .timeBeacon s = .next s ∧ exec .interpolationStop s = .next s
      ∧ exec .timeExchange s = .next s ∧ exec .timePpsIn s = .next s ∧ exec .timePpsOut s = .next s)
  ∧ (∀ s : State, s.pins.por = true → ∃ u, exec .interpolationStop s = .next u ∧ u.time.stopped = true
      ∧ u.queues = s.queues
      ∧ (s.time.slew = 0 → s.time.epoch = none → s.time.step = none → s.time.count < 2 ^ 64 → u.time.count =
          (if s.time.since < s.time.count % 64 then (s.time.count / 64 + 1) * 64 + 63
            else s.time.count + (63 - s.time.since)) % 2 ^ 64)
      ∧ (s.time.epoch = none → s.time.step = none → s.time.resync = [] → s.flag OBS_CAPTURE_BUSY = false → memKept s u))
  ∧ (∀ (s : State) (v : Nat),
    (s.flag TIME_CTRL_MASTER = true → ∃ u, exec (.timeEpochWrite v) s = .next u ∧ u.time.epoch = some (v % 2 ^ 64)
      ∧ u.time.count = s.time.count ∧ { u with time := s.time } = s)
    ∧ (s.flag TIME_CTRL_MASTER = false → exec (.timeEpochWrite v) s = .next s))
  ∧ (∀ s : State, s.pins.por = true → s.flag TIME_CTRL_MASTER = false → s.get TIME_CTRL_UP_PORT < 12 →
    let p := s.get TIME_CTRL_UP_PORT
    (portState s p = 4 → ∃ u g, exec .timeExchange s = .next u ∧ u.time.waiting = true
      ∧ (u.port p).ctlOut.head? = some g ∧ g.type = 3 ∧ g.payload = [] ∧ linkMem s u)
    ∧ (portState s p ≠ 4 → ∃ u, exec .timeExchange s = .next u ∧ u.get TIME_STAT_LOCKED = 0 ∧ u.get TIME_STAT_LOCK_LOST = 1
      ∧ u.time.waiting = false ∧ u.time.exch = none ∧ u.time.slew = 0 ∧ u.time.count = s.time.count ∧ regsBut [TIME_STAT.off] s u ∧ memKept s u))
  ∧ (∀ s : State, s.pins.por = true → s.time.ppsLast = none →
    ∃ u, exec .timePpsIn s = .next u ∧ u.rg TIME_PPS_CAP = BitVec.ofNat 64 s.time.count ∧ u.time.ppsLast = some s.time.count
      ∧ u.time.count = s.time.count ∧ regsBut [TIME_PPS_CAP.off] s u
      ∧ (s.flag TIME_CTRL_MASTER = true → s.flag TIME_CTRL_PPS_IN_EN = true →
          u.time.slew = (if s.time.count % 1000000000 < 500000000 then -((s.time.count % 1000000000 : Nat) : Int)
            else (1000000000 : Int) - (s.time.count % 1000000000 : Nat)))
      ∧ (s.flag TIME_CTRL_MASTER = false → u.time.slew = s.time.slew))
  ∧ (∀ (s : State) (l : Nat), s.time.ppsLast = some l → (s.time.count + 2 ^ 64 - l) % 2 ^ 64 < 500000000 →
    exec .timePpsIn s = .next s)
  ∧ (∀ s : State,
    (s.flag TIME_CTRL_PPS_IN_EN = true → s.flag TIME_CTRL_MASTER = true → ∃ u, exec .ppsMissing s = .next u
      ∧ u.get TIME_STAT_PPS_MISSING = 1 ∧ onlyRegs [TIME_STAT.off] s u)
    ∧ (s.pins.por = true → s.flag TIME_CTRL_PPS_OUT_EN = true → s.time.count % 1000000000 = 0 →
        ∃ u, exec .timePpsOut s = .next u ∧ u.pins.ppsOut = true ∧ { u with pins := s.pins } = s)
    ∧ (s.time.count % 1000000000 ≠ 0 → exec .timePpsOut s = .next s)
    ∧ (∃ u, exec .timePpsOutFall s = .next u ∧ u.pins.ppsOut = false ∧ { u with pins := s.pins } = s))

/-- TRIM and UV_HOLD rows, OBS_CAPTURE, PCC_SAMPLE, TRACE_BUDGET_WINDOW complete. TRIM_RAISE raises one region's trim of a pond by one, TRIM_LOWER lowers it by one, not below its value at boot, and neither above 255 (the model's choice, log entry 132); the others stay, and TRIM_MAX is the largest. UV_HOLD of a pond not held sets UV_HELD and its sticky bit and counts; its release clears UV_HELD; a hold that lasts fences the pond's hub, where its regions may be fenced. OBS_CAPTURE takes its address and, with GO, arms; while busy a GO changes nothing. PCC_SAMPLE of a closed set latches its eight counters and its tag. A new budget window frees every trace buffer's share. None of them changes a byte of memory. -/
def Obligations.TrimsHoldsObservation : Prop :=
  (∀ (s : State) (p r : Nat), p < 96 → r < 7 → (s.pond p).trims.length = 7 →
    ∃ u v, exec (.trimRaise p r) s = .next u ∧ exec (.trimLower p r) s = .next v
      ∧ listGet (u.pond p).trims r 0 = min 255 (listGet (s.pond p).trims r 0 + 1)
      ∧ listGet (v.pond p).trims r 0 = min 255 (max (listGet (s.pond p).trimBoot r 0) (listGet (s.pond p).trims r 0 - 1))
      ∧ (∀ w ∈ [u, v], (∀ k, k ≠ r → listGet (w.pond p).trims k 0 = listGet (s.pond p).trims k 0)
          ∧ w.get POND_PACE_TRIM_MAX p = (w.pond p).trims.foldl max 0 % 2 ^ POND_PACE_TRIM_MAX.w
          ∧ regsBut [POND_PACE.off p] s w ∧ memKept s w ∧ ∀ k, k ≠ p → w.pond k = s.pond k))
  ∧ (∀ (s : State) (p : Nat), p < 96 →
    (s.pins.por = true → s.flag POND_PACE_UV_HELD p = false → ∃ u, exec (.uvHold p) s = .next u ∧ u.get POND_PACE_UV_HELD p = 1
      ∧ u.get POND_PACE_UV_STICKY p = 1
      ∧ u.get POND_PACE_UV_HOLDS p = min (2 ^ POND_PACE_UV_HOLDS.w - 1) (s.get POND_PACE_UV_HOLDS p + 1)
      ∧ onlyRegs [POND_PACE.off p] s u)
    ∧ (s.flag POND_PACE_UV_HELD p = true → exec (.uvHold p) s = .next s)
    ∧ (∃ u, exec (.uvHoldRelease p) s = .next u ∧ u.get POND_PACE_UV_HELD p = 0
      ∧ u.get POND_PACE_UV_STICKY p = s.get POND_PACE_UV_STICKY p ∧ onlyRegs [POND_PACE.off p] s u)
    ∧ (s.flag POND_PACE_UV_HELD p = true → s.pins.por = true → s.fatal = false → hubFenced s p = false →
        s.fault.recovering = [] → ∃ u, exec (.uvHoldTimeout p) s = .next u ∧ hubFenced u p = true
          ∧ u.get POND_PACE_UV_HELD p = 0 ∧ u.get FLT_STAT_FENCED = 1)
    ∧ (s.flag POND_PACE_UV_HELD p = false → exec (.uvHoldTimeout p) s = .next s))
  ∧ (∀ (s : State) (v : Nat),
    (s.flag OBS_CAPTURE_BUSY = true → v.testBit 63 = true → exec (.obsCapture v) s = .next s)
    ∧ (s.flag OBS_CAPTURE_BUSY = false ∨ v.testBit 63 = false → ∃ u, exec (.obsCapture v) s = .next u
        ∧ u.get OBS_CAPTURE_ADDR = bits v 4 39
        ∧ u.get OBS_CAPTURE_BUSY = (if v.testBit 63 then 1 else s.get OBS_CAPTURE_BUSY) ∧ onlyRegs [OBS_CAPTURE.off] s u))
  ∧ (∀ (s : State) (off k : Nat), pccKeyOf off = some k → (s.pccSet k).closed = true →
    ∃ u, exec (.pccSample off) s = .next u
      ∧ (u.pccSet k).sample = ((s.pccSet k).counters ++ [0, 0, 0, 0, 0, 0, 0, 0]).take 8
      ∧ (u.pccSet k).tagLatch = pccTagWord (s.pccSet k) ∧ (u.pccSet k).counters = (s.pccSet k).counters
      ∧ (∀ j, j ≠ k → u.pccSet j = s.pccSet j) ∧ { u with pcc := s.pcc } = s)
  ∧ (∀ (s : State) (off : Nat), pccKeyOf off = none → exec (.pccSample off) s = .next s)
  ∧ (∀ s : State, ∃ u, exec .traceBudgetWindow s = .next u ∧ (∀ p, (u.trace p).used = 0)
      ∧ (∀ p, (u.trace p).drops = (s.trace p).drops) ∧ { u with traces := s.traces } = s)

/-- BAR0, BAR2, host-window, FLR, poisoned TLP, PERST_N, training, L0 and configuration-write rows complete. An endpoint that does not serve leaves a BAR write without effect and answers a read as unsupported. At READY or later and awake: a BAR0 write to a register is that register write, a read returns what the register shows; an MSI-X table word takes its value, and exactly the masked vectors stay pending. BAR2: an unmapped window sets UNMAPPED; a window of sound main memory of this device is written and read in place; a read of another device asks it. A host-window read's answer gives its command the data; a timeout sets CPL_TO, an unsupported request UR, and the command ends with 0x11; a poisoned completion sets POISONED, and it ends with 0x30. FLR clears windows, MSI-X and the endpoint's registers; PERST_N also the link and IDE keys. Without L0 a training timeout disables the port. L0 shows its width and speed. Configuration writes set their field. -/
def Obligations.HostBridgeRows : Prop :=
  (∀ (s : State) (a : HostAccess),
    (pcieServes s = false → a.write = true → exec (.bar0Access a) s = .next s ∧ exec (.bar2Access a) s = .next s)
    ∧ (pcieServes s = false → a.write = false → ∃ u, exec (.bar0Access a) s = .next u ∧ exec (.bar2Access a) s = .next u
        ∧ u = { s with host := { s.host with reply := none } })
    ∧ (pcieServes s = true → s.power.rest = none → 9 ≤ s.get BOOT_STAT_STAGE → a.off < 0x3FF0000 →
        widthOk a.off a.width = true →
      (a.write = true → a.data.length = a.width →
        ∃ u, exec (.bar0Access a) s = .next u ∧ exec (.registerWrite ⟨a.off, a.width, leNat a.data⟩) s = .next u)
      ∧ (∀ r i j, a.write = false → a.width = 8 → pageListed a.off = true → pageFenced s a.off = false →
          wakePage s a.off = s → regOf a.off = some (r, i, j) → pccKeyOf a.off = none → tailHeld s a.off = false →
          ∃ u, exec (.bar0Access a) s = .next u
            ∧ u = { s with host := { s.host with reply := some (leBytes 8 (regShows s r i j)) } })))
  ∧ (∀ (s : State) (k : Nat) (d : List Byte), pcieServes s = true → s.power.rest = none → 9 ≤ s.get BOOT_STAT_STAGE →
    k < 0x2000 → d.length = 4 →
    ∃ u, exec (.bar0Access ⟨true, 0x3FF0000 + 4 * k, 4, d⟩) s = .next u ∧ { u with host := s.host, irqs := s.irqs } = s
      ∧ msixWord u k = (if k % 4 = 3 then leNat d % 2 else leNat d) ∧ (∀ j, j ≠ k → msixWord u j = msixWord s j)
      ∧ (∀ v, v ∈ u.host.pba ↔ v ∈ s.host.pba ∧ msixMasked u v = true))
  ∧ (∀ (s : State) (a : HostAccess), pcieServes s = true → s.power.rest = none → 9 ≤ s.get BOOT_STAT_STAGE →
    1 ≤ a.width → a.width ≤ 512 → (a.write = true → a.data.length = a.width) → a.off < 2 ^ 40 →
    let n := a.off / 2 ^ 36
    let la := s.get HB_WIN_BASE n * 2 ^ 36 + a.off % 2 ^ 36
    (s.flag HB_WIN_V n = false → a.write = true → ∃ u, exec (.bar2Access a) s = .next u ∧ u.get HB_STAT_UNMAPPED = 1
      ∧ onlyRegs [HB_STAT.off] s u)
    ∧ (s.flag HB_WIN_V n = true → s.flag HB_WIN_PATH n = false → s.get HB_WIN_DEVICE n = s.me →
        la + a.width ≤ 0x10E00000000 →
        (∀ b, la ≤ b → b < la + a.width → poisonedAt s b = false ∧ retiredAt s b = false) →
        ∃ u, exec (.bar2Access a) s = .next u ∧ u.regs = s.regs ∧ u.queues = s.queues
          ∧ (a.write = true → memHolds la a.data u ∧ memBut la a.width s u)
          ∧ (a.write = false → u.host.reply = some (s.rdBytes la a.width) ∧ memKept s u))
    ∧ (s.flag HB_WIN_V n = true → s.flag HB_WIN_PATH n = false → s.get HB_WIN_DEVICE n ≠ s.me → la < 0x70000000000 →
        a.write = false → ∃ u, exec (.bar2Access a) s = .next u
          ∧ u.host.waits = s.host.waits ++ [⟨s.host.nextId, a, 1, []⟩] ∧ linkMem s u
          ∧ ∃ o ∈ u.link.outst, o.who = .host s.host.nextId 0 ∧ o.frame.type = 5 ∧ o.frame.dst = s.get HB_WIN_DEVICE n
              ∧ o.frame.addr = la ∧ o.frame.len = a.width))
  ∧ (∀ (s : State) (id : Nat), (s.host.reqs.find? fun r => r.id == id) = none →
    ∀ a, exec (.hostWindowCompletion id a) s = .next s)
  ∧ (∀ (s : State) (r : HostReq) (q seq key : Nat) (c : Cmd), (s.host.reqs.find? fun x => x.id == r.id) = some r →
    r.frame = none → r.who = .cmd q seq key → s.findCmd q seq = some c → c.phase = .running → c.waits = 1 → c.fin = none →
    r.write = false →
    (∀ d, d.length = r.len → d ≠ [] → ∃ u c', exec (.hostWindowCompletion r.id (.done d)) s = .next u
      ∧ u.findCmd q seq = some c' ∧ c'.phase = .ready ∧ look c'.buf key = some d ∧ c'.raw = c.raw
      ∧ (noAsks s → u.host.reqs = s.host.reqs.erase r ∧ u.regs = s.regs ∧ memKept s u))
    ∧ (∀ f ∈ ([(.timeout, HB_STAT_CPL_TO), (.unsupported, HB_STAT_UR), (.abort, HB_STAT_UR)] : List (HostReply × Fld)),
        ∃ u c', exec (.hostWindowCompletion r.id f.1) s = .next u ∧ u.get f.2 = 1 ∧ u.findCmd q seq = some c'
          ∧ c'.phase = .done 0x11
          ∧ (noAsks s → u.host.reqs = s.host.reqs.erase r ∧ regsBut [HB_STAT.off] s u ∧ memKept s u))
    ∧ (pcieUp s = true → opcOf c.raw.toNat ≠ 0x68 → (s.host.reqs.find? fun x => x.id == r.id && !x.write) = some r →
        ∃ u c', exec (.poisonedTlp (some r.id)) s = .next u ∧ u.get HB_STAT_POISONED = 1 ∧ u.findCmd q seq = some c'
          ∧ c'.phase = .done 0x30
          ∧ (noAsks s → u.host.reqs = s.host.reqs.erase r ∧ regsBut [HB_STAT.off] s u ∧ memKept s u)))
  ∧ (∀ s : State,
    (pcieUp s = true → ∃ u, exec (.poisonedTlp none) s = .next u ∧ u.get HB_STAT_POISONED = 1
      ∧ u.host.reqs = s.host.reqs ∧ regsBut [HB_STAT.off] s u ∧ memKept s u)
    ∧ (pcieUp s = false → exec (.poisonedTlp none) s = .next s ∧ exec .functionLevelReset s = .next s)
    ∧ (pcieUp s = true → s.host.reqs = [] → ∃ u, exec .functionLevelReset s = .next u ∧ u.get HB_STAT_FLR = 1
      ∧ (∀ n, n < 16 → u.rg HB_WIN n = 0) ∧ u.rg HB_HOSTWIN = 0 ∧ u.host.msix = [] ∧ u.host.pba = []
      ∧ u.host.msixEn = false ∧ u.host.busMaster = false ∧ u.host.d3hot = false ∧ u.host.bar0 = 0 ∧ u.host.bar2 = 0
      ∧ regsBut (HB_STAT.off :: HB_HOSTWIN.off :: (upto 16).map fun n => HB_WIN.off n) s u
      ∧ { u with host := s.host, regs := s.regs } = s)
    ∧ (s.pins.por = true → s.host.disabled = false → (s.flag WD_STAT_DONE = true → s.isBell = true) → s.host.reqs = [] →
      ∃ u, exec .pePerstN s = .next u ∧ u.pins.perst = false ∧ u.host.l0 = false ∧ u.boot.ideKeys = [] ∧ u.boot.ideOn = []
        ∧ u.get HB_STAT_WIDTH = 0 ∧ u.get HB_STAT_SPEED = 0 ∧ u.get HB_STAT_FLR = 1 ∧ (∀ n, n < 16 → u.rg HB_WIN n = 0)
        ∧ memKept s u ∧ u.queues = s.queues)
    ∧ (s.host.disabled = true → exec .pePerstN s = .next s)
    ∧ (s.pins.por = true → s.host.l0 = false → ∃ u, exec .pcieTrainingTimeout s = .next u ∧ u.host.disabled = true
      ∧ u.get HB_STAT_WIDTH = 0 ∧ regsBut [HB_STAT.off] s u ∧ memKept s u)
    ∧ (s.host.l0 = true → exec .pcieTrainingTimeout s = .next s)
    ∧ (∀ w v flit, s.pins.por = true → s.host.disabled = false → 6 ≤ s.get BOOT_STAT_STAGE → (w = 4 ∨ w = 8 ∨ w = 16) →
        1 ≤ v → v ≤ 6 → ∃ u, exec (.pcieL0Reached w v flit) s = .next u ∧ u.host.l0 = true ∧ u.get HB_STAT_WIDTH = w
          ∧ u.get HB_STAT_SPEED = v ∧ u.get HB_STAT_FLIT = b2n (flit && v == 6) ∧ u.pins.perst = true
          ∧ regsBut [HB_STAT.off] s u ∧ memKept s u)
    ∧ (∀ w, pcieUp s = true → ∃ u, exec (.pcieConfigWrite w) s = .next u ∧ { u with host := s.host, irqs := s.irqs } = s
      ∧ (∀ on, w = .busMaster on → u.host.busMaster = on) ∧ (∀ on, w = .msixEnable on → u.host.msixEn = on)
      ∧ (∀ on, w = .msixMask on → u.host.msixMask = on) ∧ (∀ d, w = .powerState d → u.host.d3hot = d)
      ∧ (∀ b, w = .bar0 b → u.host.bar0 = b % 2 ^ 64 / 2 ^ 26 * 2 ^ 26)
      ∧ (∀ b, w = .bar2 b → u.host.bar2 = b % 2 ^ 64 / 2 ^ 40 * 2 ^ 40)
      ∧ (∀ k, w = .maxPayload k → u.host.maxPayload = if k ≤ 2 then k else s.host.maxPayload)
      ∧ (∀ k, w = .maxReadRequest k → u.host.maxRead = if k ≤ 5 then k else s.host.maxRead)
      ∧ (∀ on, w = .aspmL1 on → u.host.aspmL1 = on) ∧ u.host.msix = s.host.msix ∧ u.host.reqs = s.host.reqs)
    ∧ (∀ w, pcieUp s = false → exec (.pcieConfigWrite w) s = .next s))

/-- MEMORY_READ, MEMORY_WRITE, INVALIDATION, POND_CACHE_FILL, depth, TLB, refresh and SLAB_RECONFIGURE rows complete. With memory tracing off. A read of main memory by a pond, no probe on its channel, marks the pond in the directory and serves the pond's fill: with the line's bytes where both codewords decode, CE counting the corrected ones; with none where one fails, which poisons the granule's 8 blocks and keeps the address; a poisoned or retired block serves none. A write of sound memory changes exactly its bytes, and no pond keeps a line of it; part of a poisoned block takes nothing, the whole block clears the poison. INVALIDATION drops the line and marks its fills. A fill returns, unless the pond is held: stale or empty it installs nothing, else the line. The depth follows its window. A TLB invalidation leaves no covering entry, one while BUSY is lost; BUSY clears once no fill that a purged entry translated is unserved. A refresh keeps the bank and its rate, raised by REF_MULT. A waiting division of an idle slab takes effect. -/
def Obligations.MemoryAndCaches : Prop :=
  (∀ (s : State) (r : MemRead), r.pond < 96 → r.pa < 0x10E00000000 → s.flag OBS_CFG_MEM_EN = false →
    (s.chan (chanOf r.pa)).probe = none →
    let line := r.pa / 128
    let c := chanOf (line * 128) / 8
    let k := chanOf r.pa / 8
    let r0 := decodeCw (eccRadius s) r.err.cw0
    let r1 := decodeCw (eccRadius s) r.err.cw1
    let fixed (x : CwResult) : Nat := match x with | .corrected _ => 1 | _ => 0
    let served (d : Option (List Byte)) (u : State) : Prop :=
      (u.pond r.pond).fills = (s.pond r.pond).fills.map fun f =>
        if f.line == line && f.prefetch == r.prefetch && !f.served then { f with served := true, data := d } else f
    (lookD s.dirs c []).length < 1048576 →
    ∃ u, exec (.memoryRead r) s = .next u ∧ memKept s u ∧ u.queues = s.queues
      ∧ r.pond ∈ lookD (lookD u.dirs c []) line []
      ∧ (poisonedAt s r.pa = true ∨ retiredAt s r.pa = true → served none u ∧ u.poison = s.poison ∧ u.regs = s.regs)
      ∧ (poisonedAt s r.pa = false → retiredAt s r.pa = false →
          u.get MCTL_CNT_CE k = (s.get MCTL_CNT_CE k + (fixed r0 + fixed r1)) % 2 ^ 32
          ∧ ((∀ m, r0 ≠ .failed m ∧ r1 ≠ .failed m) →
              served (some (s.rdBytes (line * 128) 128)) u ∧ u.poison = s.poison ∧ regsBut [MCTL_CNT.off k] s u)
          ∧ (∀ m, r0 = .failed m ∨ r1 = .failed m → served none u ∧ (∀ i, i < 8 → granuleOf r.pa * 8 + i ∈ u.poison)
              ∧ u.get MCTL_UE_A k = addrSym r.pa % 2 ^ 40 ∧ u.get MCTL_UE_VALID k = 1 ∧ u.get MCTL_UE_SCRUB k = 0)))
  ∧ (∀ (s : State) (w : MemWrite), s.flag OBS_CFG_MEM_EN = false → w.data ≠ [] → w.pa + w.data.length ≤ 0x10E00000000 →
    ((∀ b, w.pa ≤ b → b < w.pa + w.data.length → poisonedAt s b = false ∧ retiredAt s b = false) →
      ∃ u, exec (.memoryWrite w) s = .next u ∧ memHolds w.pa w.data u ∧ memBut w.pa w.data.length s u ∧ u.regs = s.regs
        ∧ u.queues = s.queues
        ∧ ∀ p, ∀ l ∈ (u.pond p).lines, l.line < w.pa / 128 ∨ (w.pa + w.data.length - 1) / 128 < l.line)
    ∧ (poisonedAt s w.pa = true → retiredAt s w.pa = false → w.pa % 256 + w.data.length ≤ 256 →
      ∃ u, exec (.memoryWrite w) s = .next u ∧ u.regs = s.regs
        ∧ (w.data.length < 256 → memKept s u ∧ poisonedAt u w.pa = true)
        ∧ (w.data.length = 256 → memHolds w.pa w.data u ∧ memBut w.pa 256 s u ∧ poisonedAt u w.pa = false)))
  ∧ (∀ (s : State) (p line : Nat), p < 96 → ∃ u, exec (.invalidation p line) s = .next u
    ∧ (u.pond p).lines = (s.pond p).lines.filter (fun l => l.line != line)
    ∧ (u.pond p).fills = (s.pond p).fills.map (fun f => if f.line == line then { f with stale := true } else f)
    ∧ (∀ k, k ≠ p → u.pond k = s.pond k) ∧ { u with ponds := s.ponds } = s)
  ∧ (∀ (s : State) (p line : Nat),
    ((s.pond p).fills.find? fun f => f.line == line && f.served) = none ∨ s.flag POND_PACE_UV_HELD p = true →
      exec (.pondCacheFill p line) s = .next s)
  ∧ (∀ (s : State) (p line : Nat) (f : Fill), ((s.pond p).fills.find? fun f => f.line == line && f.served) = some f →
    s.flag POND_PACE_UV_HELD p = false →
    ∃ u, exec (.pondCacheFill p line) s = .next u ∧ (u.pond p).fills = (s.pond p).fills.erase f
      ∧ (∀ k, k ≠ p → u.pond k = s.pond k) ∧ { u with ponds := s.ponds } = s
      ∧ (f.stale = true ∨ f.data = none → (u.pond p).lines = (s.pond p).lines)
      ∧ (f.stale = false → f.data ≠ none → cacheNow s p ≠ 0 →
          (u.pond p).lines.head? = some ⟨line, f.tag, f.cls, f.prefetch⟩))
  ∧ (∀ (s : State) (p : Nat), p < 96 →
    ((s.pond p).pfIssued < 4096 → exec (.prefetchDepthAdjust p) s = .next s)
    ∧ (4096 ≤ (s.pond p).pfIssued →
      let x := s.pond p
      let d := depthOf s p
      let d' := clampN (minDepth s) (maxDepth s)
        (if 4 * x.pfHit > 3 * 4096 then d + 1 else if 4 * x.pfHit < 4096 then d - 1 else d)
      ∃ u, exec (.prefetchDepthAdjust p) s = .next u ∧ u.get PF_CNT_DEPTH p = d' ∧ (u.pond p).depth = d'
        ∧ (u.pond p).pfHit = 0 ∧ (u.pond p).pfIssued = x.pfIssued - 4096 ∧ (u.pond p).lines = x.lines
        ∧ regsBut [PF_CNT.off p] s u ∧ memKept s u ∧ u.queues = s.queues)
    ∧ (pondIdle s p = true → slabPending s p = true →
      let f := slabFit (s.get SLAB_CFG_CACHE_MIB p) (s.pond p).trgSize (s.get HOT_CFG_HOT_MIB) (s.get SLAB_CFG_TRACE_MIB p)
      ∃ u, exec (.slabReconfigure p) s = .next u ∧ u.get SLAB_STAT_CACHE_NOW p = f.1 % 2 ^ 5
        ∧ u.get SLAB_STAT_TRG_NOW p = f.2.1 % 2 ^ 4 ∧ u.get SLAB_STAT_HOT_NOW p = f.2.2.1 % 2 ^ 4
        ∧ u.get SLAB_STAT_TRACE_NOW p = f.2.2.2 % 2 ^ 4
        ∧ u.get SLAB_STAT_USER_NOW p = (24 - f.1 - f.2.1 - f.2.2.1 - f.2.2.2) % 2 ^ 5
        ∧ regsBut [SLAB_STAT.off p, HOT_STAT.off, TRC_PTR.off p] s u ∧ mainKept s u ∧ u.queues = s.queues)
    ∧ (pondIdle s p = false ∨ slabPending s p = false → exec (.slabReconfigure p) s = .next s))
  ∧ (∀ (s : State) (v : Nat),
    (s.flag MEM_TLBINV_BUSY = true → ∃ u, exec (.tlbInvalidate v) s = .next u ∧ u.get MEM_STAT_TLBINV_LOST = 1
      ∧ onlyRegs [MEM_STAT.off] s u)
    ∧ (s.flag MEM_TLBINV_BUSY = false → ∃ u, exec (.tlbInvalidate v) s = .next u ∧ u.get MEM_TLBINV_BUSY = 1
      ∧ (∀ p, ∀ e ∈ (u.pond p).tlb, e ∈ (s.pond p).tlb
          ∧ (v.testBit 1 = true → e.space ≠ bits v 2 2)
          ∧ (v.testBit 1 = false → e.covers (bits v 2 2) (bits v 21 22 * 2 ^ 21) = false))
      ∧ (∀ p, (u.pond p).lines = (s.pond p).lines) ∧ regsBut [MEM_TLBINV.off] s u ∧ memKept s u ∧ u.queues = s.queues)
    ∧ ((∀ kx ∈ s.ponds, ∀ f ∈ kx.2.fills, f.purged = true → f.served = true) → ∃ u, exec .tlbInvalidateDone s = .next u
      ∧ u.get MEM_TLBINV_BUSY = 0 ∧ onlyRegs [MEM_TLBINV.off] s u)
    ∧ ((∃ kx ∈ s.ponds, ∃ f ∈ kx.2.fills, f.purged = true ∧ f.served = false) → exec .tlbInvalidateDone s = .next s))
  ∧ (∀ (s : State) (c b m : Nat), c < 96 → b < 16 → ∃ u, exec (.perBankRefresh c b m) s = .next u
    ∧ u.chan c = { s.chan c with rate := m * 2 ^ s.get MEM_CFG_REF_MULT, bank := b } ∧ (∀ k, k ≠ c → u.chan k = s.chan k)
    ∧ { u with chans := s.chans } = s)

/-- PATROL_SCRUB, SLAB_SCRUB, SLAB_READ, CALIBRATION_PROBE, PROBE_PHASE_END, PROBE_ABANDON complete. With memory tracing off. A patrol read of a sound block, no probe on its channel, with no more wrong symbols than the radius: the block keeps its bytes; a corrected one counts, an uncorrectable one poisons its granule. A clean last block ends the pass: the period halves, doubles or stays within its bounds. A slab word with at most one wrong bit, or of a fenced bank with sound sources, is right. Two wrong bits with sound sources set REBUILT, and fence the bank past BANK_THRESH in a second; without, they set UE, and a scratch line fails. A probe starts on the next lane; its first phase ends in the second; the second may move the lane's centre by one step, within MAX_OFF, else BOUND is set; a phase short of reads is abandoned. -/
def Obligations.ScrubSlabAndProbes : Prop :=
  (∀ (s : State) (chan block : Nat) (e sample : RawErrors),
    let pa := paOfBlock chan block
    let k := chanOf pa / 8
    chan < 96 → pa < 0x10E00000000 → s.flag OBS_CFG_MEM_EN = false → (s.chan (chanOf pa)).probe = none →
    poisonedAt s pa = false → retiredAt s pa = false →
    let r0 := decodeCw (eccRadius s) e.cw0
    let r1 := decodeCw (eccRadius s) e.cw1
    let fixed (x : CwResult) : Nat := match x with | .corrected _ => 1 | _ => 0
    (realErrors e.cw0 ≤ eccRadius s → realErrors e.cw1 ≤ eccRadius s →
      ∃ u, exec (.patrolScrub chan block e sample false) s = .next u ∧ memKept s u ∧ u.queues = s.queues
        ∧ u.get MCTL_CNT_CE k = (s.get MCTL_CNT_CE k + (fixed r0 + fixed r1)) % 2 ^ 32
        ∧ ((∀ m, r0 ≠ .failed m ∧ r1 ≠ .failed m) → u.poison = s.poison
            ∧ u.scrubbed = s.scrubbed + (if fixed r0 + fixed r1 = 0 then 0 else 1))
        ∧ (∀ m, r0 = .failed m ∨ r1 = .failed m → u.scrubbed = s.scrubbed
            ∧ (∀ i, i < 8 → granuleOf pa * 8 + i ∈ u.poison) ∧ u.get MCTL_UE_SCRUB k = 1))
    ∧ (let lo := max 1 (s.get MEM_SCRUB_MIN_H)
      let hi := max lo (s.get MEM_SCRUB_MAX_H)
      let now := s.get MEM_SCRUB_NOW_H
      ∃ u, exec (.patrolScrub chan block ⟨[], []⟩ sample true) s = .next u ∧ memKept s u ∧ u.scrubbed = 0
        ∧ u.get MEM_SCRUB_NOW_H = clampN lo hi
            (if s.get MEM_SCRUB_CE_HI < s.scrubbed then now / 2 else if s.scrubbed = 0 then 2 * now else now)
        ∧ u.get MEM_SCRUB_MIN_H = s.get MEM_SCRUB_MIN_H ∧ u.get MEM_SCRUB_MAX_H = s.get MEM_SCRUB_MAX_H))
  ∧ (∀ (s : State) (p off : Nat) (e : SlabErrors), p < 96 → off < 24 * 2 ^ 20 →
    ∀ row ∈ ([.slabScrub, .slabRead] : List (Nat → Nat → SlabErrors → Instr)),
    let die := off / 64 % 2
    let bank := off / 128 % 8
    let f := fencedBank s p die
    let lost (u : State) : Prop := u.get SLAB_STAT_UE p = 1 ∧ regsBut [SLAB_STAT.off p] s u ∧ memKept s u
      ∧ (inScratch s p off = true → (scratchBase p + off) / 64 ∈ u.badLines)
    (f = bank → e.badSources = 0 → exec (row p off e) s = .next s)
    ∧ (f = bank → e.badSources ≠ 0 → ∃ u, exec (row p off e) s = .next u ∧ lost u)
    ∧ (f ≠ bank → e.bits ≤ 1 → exec (row p off e) s = .next s)
    ∧ (f ≠ bank → e.bits = 2 → (e.badSources ≠ 0 ∨ f ≠ 15) → ∃ u, exec (row p off e) s = .next u ∧ lost u)
    ∧ (f ≠ bank → e.bits = 2 → e.badSources = 0 → f = 15 →
      let l := ((s.pond p).rebuilds.filter fun x => s.time.count < x.2 + 1000000000) ++ [(9 * die + bank, s.time.count)]
      ∃ u, exec (row p off e) s = .next u ∧ u.get SLAB_STAT_REBUILT p = 1 ∧ (u.pond p).rebuilds = l
        ∧ fencedBank u p die = (if countOf (fun x => x.1 == 9 * die + bank) l > s.get SLAB_CFG_BANK_THRESH p then bank else 15)
        ∧ u.badLines = s.badLines ∧ regsBut [SLAB_STAT.off p, FLT_STAT.off, SILT_CTL.off] s u ∧ memKept s u)
    ∧ (f ≠ bank → 3 ≤ e.bits → ∃ u, exec (row p off e) s = .next u ∧ mainKept s u ∧ u.queues = s.queues))
  ∧ (∀ (s : State) (c : Nat),
    (c < 96 → s.flag MEM_CAL_EN = true → (s.chan c).probe = none → ∃ u, exec (.calibrationProbe c) s = .next u
      ∧ (u.chan c).probe = some ⟨(s.chan c).nextLane, false, 0, 0, 0, false, max 1 (s.get MEM_CAL_DELTA)⟩
      ∧ (u.chan c).nextLane = ((s.chan c).nextLane + 1) % 16 ∧ (∀ k, k ≠ c → u.chan k = s.chan k)
      ∧ { u with chans := s.chans } = s)
    ∧ (s.flag MEM_CAL_EN = false → exec (.calibrationProbe c) s = .next s)
    ∧ ((s.chan c).probe = none → exec (.probePhaseEnd c) s = .next s ∧ exec (.probeAbandon c) s = .next s)
    ∧ (∀ p, (s.chan c).probe = some p →
      let win := max 256 (s.get MEM_CAL_WIN)
      let n := if p.aborted then win + 1 else p.count
      (p.aborted = false → p.reads < win → exec (.probePhaseEnd c) s = .next s
        ∧ ∃ u, exec (.probeAbandon c) s = .next u ∧ (u.chan c).probe = none ∧ (u.chan c).centres = (s.chan c).centres
          ∧ { u with chans := s.chans } = s)
      ∧ (p.aborted = true ∨ win ≤ p.reads → exec (.probeAbandon c) s = .next s
        ∧ (p.minus = false → ∃ u, exec (.probePhaseEnd c) s = .next u
            ∧ (u.chan c).probe = some ⟨p.lane, true, 0, 0, n, false, p.delta⟩ ∧ (u.chan c).centres = (s.chan c).centres
            ∧ { u with chans := s.chans } = s)
        ∧ (p.minus = true →
            let now := lookD (s.chan c).centres p.lane 0
            let h := s.get MEM_CAL_HYST
            let want : Int := if p.plus > n + h then now - 1 else if n > p.plus + h then now + 1 else now
            ∃ u, exec (.probePhaseEnd c) s = .next u ∧ (u.chan c).probe = none ∧ memKept s u
              ∧ regsBut [MCTL_CAL.off (c / 8)] s u
              ∧ (want ≠ now → want.natAbs ≤ s.get MEM_CAL_MAX_OFF → lookD (u.chan c).centres p.lane 0 = want
                  ∧ u.get MCTL_CAL_MOVES (c / 8) = min (2 ^ 16 - 1) (s.get MCTL_CAL_MOVES (c / 8) + 1))
              ∧ (want ≠ now → s.get MEM_CAL_MAX_OFF < want.natAbs → lookD (u.chan c).centres p.lane 0 = now
                  ∧ u.get MCTL_CAL_BOUND (c / 8) = 1)
              ∧ (want = now → lookD (u.chan c).centres p.lane 0 = now ∧ u.regs = s.regs)))))

/-- FATAL_FAULT, SILT_UNFREEZE, REGION_FENCE, STALL_LIMIT, CONTEXT_SWITCH and the warm reset rows complete. A fatal fault asserts FAULT_N, sets FATAL, writes the 0x00FF record last and freezes the ring, which SILT_UNFREEZE resumes. A fence of an unfenced core, none in recovery: a GC with no queue bound leaves service with its capacity and its GRUN; an MC whose pond's other MC serves, its queues without started commands: they are bound to that MC and keep their context. LAST and FENCED show it; a second fault in a pond in recovery is fatal. A stalled command fences its unit with cause 2. An admitted context switch takes the context, may leave only the slot it saves unspecified, and ends that unit's recovery. A warm reset, with no queue, trough or redo slot, puts every register's unkept bits at their reset value, a pond's current limit at 8 for each enabled phase, and loses the cores' state; WRST_N, high before, starts one too. Its end, WRST_N high, sets WRST_DONE, retires lost dies and lets the queues run. -/
def Obligations.FaultsAndWarmReset : Prop :=
  (∀ (s : State) (cause : Nat),
    (s.pins.por = true → s.fatal = false → ∃ u, exec (.fatalFault cause) s = .next u ∧ u.pins.fault = true
      ∧ u.get FLT_STAT_FATAL = 1 ∧ u.get SILT_CTL_FROZEN = 1
      ∧ (s.flag SILT_CTL_FROZEN = false → ∃ r, u.silt.getLast? = some r ∧ r.code = 0xFF ∧ r.data = [cause])
      ∧ regsBut [FLT_STAT.off, SILT_CTL.off] s u ∧ memKept s u ∧ u.queues = s.queues)
    ∧ (s.pins.por = false ∨ s.fatal = true → exec (.fatalFault cause) s = .next s)
    ∧ (∃ u, exec .siltUnfreeze s = .next u ∧ u.get SILT_CTL_FROZEN = 0 ∧ onlyRegs [SILT_CTL.off] s u))
  ∧ (∀ (s : State) (h cause : Nat),
    (hValid h = false ∨ hFenced s h = true ∨ s.fatal = true ∨ s.pins.por = false →
      exec (.regionFence h cause) s = .next s)
    ∧ (hValid h = true → hFenced s h = false → s.fatal = false → s.pins.por = true →
      ((s.fault.recovering.any fun u => hPond u == hPond h) = true →
        ∃ u, exec (.regionFence h cause) s = .next u ∧ u.get FLT_STAT_FATAL = 1 ∧ hFenced u h = false)
      ∧ (s.fault.recovering = [] →
        (h < 1024 → queuesOf s h = [] → ∃ u, exec (.regionFence h cause) s = .next u ∧ hFenced u h = true
          ∧ (∀ k, k ≠ h → k < 384 → gcFenced u k = gcFenced s k) ∧ look u.gcs h = none
          ∧ u.get FLT_CAP_GC_UP = s.get FLT_CAP_GC_UP - 1 ∧ u.get FLT_STAT_FENCED = 1 ∧ u.get FLT_LAST_HANDLE = h
          ∧ u.get FLT_LAST_CAUSE = cause % 16
          ∧ regsBut [FLT_STAT.off, FLT_LAST.off, FLT_CAP.off, FLT_FGC.off (h / 64)] s u ∧ memKept s u ∧ u.queues = s.queues)
        ∧ (∀ p i, h = 1024 + 4 * p + i → p < 96 → i < 2 → hubFenced s p = false → mcFenced s (2 * p + (1 - i)) = false →
          (∀ q ∈ queuesOf s h, (s.q q).started = []) →
          ∃ u, exec (.regionFence h cause) s = .next u ∧ mcFenced u (2 * p + i) = true
            ∧ u.get FLT_CAP_MC_UP = s.get FLT_CAP_MC_UP - 1 ∧ u.get FLT_STAT_FENCED = 1 ∧ u.get FLT_LAST_HANDLE = h
            ∧ u.get FLT_LAST_CAUSE = cause % 16 ∧ memKept s u
            ∧ (∀ q ∈ queuesOf s h, consumerOf u q = .unit (1024 + 4 * p + (1 - i))
                ∧ (u.q q).home = some ((s.q q).home.getD h))))))
  ∧ (∀ (s : State) (q h : Nat), consumerOf s q = .unit h →
    (running s = true → runnerOf s q (qHead s q) = none → (s.q q).started.any stalled = true →
      ∃ u, exec (.stallLimit q) s = .next u ∧ exec (.regionFence h 2) s = .next u)
    ∧ ((s.q q).started.any stalled = false → exec (.stallLimit q) s = .next s))
  ∧ (∀ (s : State) (q t : Nat), consumerOf s q = .te t → exec (.stallLimit q) s = .next s)
  ∧ (∀ (s : State) (h k : Nat),
    let cur := (look s.ctxs h).getD h
    (k = cur ∨ running s = false ∨ hFenced s h = true ∨ contextBusy s h = true → exec (.contextSwitch h k) s = .next s)
    ∧ (running s = true → hValid h = true → hFenced s h = false → k ≠ cur → contextBusy s h = false →
        (k = h ∨ (s.queues.any fun kx => consumerOf s kx.1 == .unit h && kx.2.home == some k) = true) →
        s.flag FLT_SAVE_V = true → ∃ u, exec (.contextSwitch h k) s = .next u
          ∧ look u.ctxs h = (if k = h then none else some k) ∧ (∀ j, j ≠ h → look u.ctxs j = look s.ctxs j)
          ∧ memBut (saveSlot s cur).1 (saveSlot s cur).2 s u ∧ u.queues = s.queues
          ∧ (s.fault.recovering.contains k = true → u.fault.recovering = s.fault.recovering.filter (· != k))))
  ∧ (∀ s : State,
    (s.fatal = true ∨ s.fault.warm = true ∨ s.pins.por = false → exec .warmReset s = .next s)
    ∧ (s.pins.por = true → s.pins.wrst = true → ∃ u, exec .wrstN s = .next u
        ∧ exec .warmReset { s with pins := { s.pins with wrst := false } } = .next u)
    ∧ (s.pins.por = false ∨ s.pins.wrst = false → exec .wrstN s = .next { s with pins := { s.pins with wrst := false } })
    ∧ (∃ u, exec .wrstNRise s = .next u ∧ u = { s with pins := { s.pins with wrst := true } })
    ∧ (s.fatal = false → s.fault.warm = false → s.pins.por = true → s.queues = [] → s.troughs = [] →
        (∀ p, p < 96 → s.get UPD_REDO_SIZE p = 0) → ∃ u, exec .warmReset s = .next u ∧ u.fault.warm = true
          ∧ running u = false ∧ u.gcs = [] ∧ u.ves = [] ∧ u.mcs = [] ∧ u.waiters = []
          ∧ (∀ p, (u.pond p).lines = [] ∧ (u.pond p).tlb = [] ∧ (u.pond p).lull = false)
          ∧ (∀ o r i j, regOf o = some (r, i, j) → r.base ≠ POND_VREG.base ∨ s.get POND_VREG_PHASE_OK i = 255 →
              u.regAt o r.rstW = warmReg o (s.regAt o r.rstW))
          ∧ (∀ p, p < 96 → s.get POND_VREG_PHASE_OK p ≠ 255 → u.get POND_VREG_PHASE_OK p = s.get POND_VREG_PHASE_OK p
              ∧ u.get POND_VREG_ILIM p = 8 * countOf (fun i => (s.get POND_VREG_PHASE_OK p).testBit i) (upto 8))
          ∧ memKept s u ∧ u.boot = s.boot ∧ u.link.ports = s.link.ports ∧ u.time.count = s.time.count))
  ∧ (∀ (s : State) (lost : List (Nat × Nat)),
    (s.fault.warm = false ∨ s.pins.wrst = false ∨ s.fatal = true → exec (.warmResetDone lost) s = .next s)
    ∧ (s.fault.warm = true → s.pins.wrst = true → s.fatal = false → ∃ u, exec (.warmResetDone lost) s = .next u
        ∧ u.fault.warm = false ∧ u.fault.held = [] ∧ u.fault.recovering = [] ∧ u.get FLT_STAT_WRST_DONE = 1
        ∧ u.get FLT_STAT_RECOVERING = 0
        ∧ (∀ d ∈ lost, d.1 < 96 → d.2 < 3 → 4 * d.2 ∈ (u.chan d.1).retired)
        ∧ (s.fault.held = [] → s.fault.heldReads = [] → memKept s u ∧ u.queues = s.queues)))

/-- SNAPSHOT_ARM, SNAPSHOT_DRAIN, SNAPSHOT_BUFFER_RELEASE, SNAPSHOT_DONE, SNAPSHOT_RESTORE complete. SNAP_CTRL while armed or draining sets BUSY_REJ. Else it takes DESC; with GO, LATE is set where the data step has passed, and otherwise the device is armed with the descriptor's DATA, DEST and DSIZE; no byte of memory changes. Draining: the next captured section is written at DEST, with its header and check value, in sound main memory of this device; a buffer whose last byte is out is released; after the last item the end section is written, DONE is set and DRAINING clears. Without DRAINING nothing changes. A restore without GO, or with an enabled queue, takes ADDR alone, and clears ERR by bit 1; a broken image sets ERR; a register pair sets that register, a queue section sets HEAD, TAIL and LAST_SEQ. -/
def Obligations.SnapshotRows : Prop :=
  (∀ (s : State) (v : Nat), v < 2 ^ 64 →
    (s.flag SNAP_STAT_ARMED = true ∨ s.flag SNAP_STAT_DRAINING = true →
      ∃ u, exec (.snapshotArm v) s = .next u ∧ u.get SNAP_STAT_BUSY_REJ = 1 ∧ onlyRegs [SNAP_STAT.off] s u)
    ∧ (s.flag SNAP_STAT_ARMED = false → s.flag SNAP_STAT_DRAINING = false →
      (v.testBit 63 = false → ∃ u, exec (.snapshotArm v) s = .next u ∧ u.get SNAP_CTRL_DESC = bits v 6 37
        ∧ onlyRegs [SNAP_CTRL.off] s u)
      ∧ (v.testBit 63 = true →
        let a := bits v 6 37 * 64
        (s.rdN a 8 ≤ s.get UPD_DATA_DATA → ∃ u, exec (.snapshotArm v) s = .next u ∧ u.get SNAP_STAT_LATE = 1
          ∧ u.flag SNAP_STAT_ARMED = false ∧ onlyRegs [SNAP_CTRL.off, SNAP_STAT.off] s u)
        ∧ (s.get UPD_DATA_DATA < s.rdN a 8 → ∃ u, exec (.snapshotArm v) s = .next u ∧ u.flag SNAP_STAT_ARMED = true
          ∧ u.snap.data = s.rdN a 8 ∧ u.snap.dest = s.rdN (a + 8) 8 % 2 ^ 56 ∧ u.snap.dsize = s.rdN (a + 16) 8 % 2 ^ 40
          ∧ u.snap.items = [] ∧ regsBut [SNAP_CTRL.off, SNAP_STAT.off] s u
          ∧ { u with snap := s.snap, regs := s.regs } = s))))
  ∧ (∀ (s : State) (n : Nat), running s = false ∨ s.flag SNAP_STAT_DRAINING = false →
    exec (.snapshotDrain n) s = .next s ∧ exec .snapshotDone s = .next s)
  ∧ (∀ (s : State) (type id : Nat) (d : List Byte) (rest : List SnapItem), running s = true → s.flag SNAP_STAT_DRAINING = true →
    s.snap.items = .fixed type id d :: rest →
    let w := secHead type id d.length (cv (CvCfg.ofList s.snap.cv) d) ++ d
    let fa := s.snap.dest + s.snap.pos
    let a := fa % 2 ^ 43
    s.snap.pos + w.length ≤ s.snap.dsize → fa / 2 ^ 43 = s.me → a + w.length ≤ 0x10E00000000 →
    (∀ b, a ≤ b → b < a + w.length → poisonedAt s b = false ∧ retiredAt s b = false) →
    ∃ u, exec (.snapshotDrain 1) s = .next u ∧ memHolds a w u ∧ memBut a w.length s u ∧ u.snap.items = rest
      ∧ u.snap.pos = roundUp 64 (s.snap.pos + 32 + d.length) ∧ u.regs = s.regs ∧ u.queues = s.queues)
  ∧ (∀ s : State,
    (∀ b, (s.snap.bufs.find? fun b => b.2.2) = some b → s.snap.out = 0 →
      ∃ u, exec .snapshotBufferRelease s = .next u ∧ u.snap.bufs = s.snap.bufs.erase b ∧ u.snap.stall = none
        ∧ u.snap.items = s.snap.items ∧ regsBut [SNAP_STAT.off] s u ∧ memKept s u ∧ u.queues = s.queues)
    ∧ ((s.snap.bufs.find? fun b => b.2.2) = none ∨ s.snap.out ≠ 0 → exec .snapshotBufferRelease s = .next s)
    ∧ (running s = true → s.flag SNAP_STAT_DRAINING = true → s.snap.items ≠ [] ∨ s.snap.out ≠ 0 →
        exec .snapshotDone s = .next s)
    ∧ (running s = true → s.flag SNAP_STAT_DRAINING = true → s.snap.items = [] → s.snap.out = 0 →
        s.flag SNAP_CFG_IRQ_EN = false →
      (s.snap.endSent = true → ∃ u, exec .snapshotDone s = .next u ∧ u.get SNAP_STAT_DONE = 1
        ∧ u.flag SNAP_STAT_DRAINING = false ∧ u.snap.bufs = [] ∧ regsBut [SNAP_STAT.off] s u ∧ memKept s u)
      ∧ (s.snap.endSent = false →
        let d := leBytes 8 s.snap.data ++ leBytes 8 s.snap.t ++ leBytes 8 s.me
        let w := secHead 0xFF 0 24 (cv (CvCfg.ofList s.snap.cv) d) ++ d
        let fa := s.snap.dest + s.snap.pos
        let a := fa % 2 ^ 43
        s.snap.pos + 56 ≤ s.snap.dsize → fa / 2 ^ 43 = s.me → a + 56 ≤ 0x10E00000000 →
        (∀ b, a ≤ b → b < a + 56 → poisonedAt s b = false ∧ retiredAt s b = false) →
        ∃ u, exec .snapshotDone s = .next u ∧ w.length = 56 ∧ memHolds a w u ∧ memBut a 56 s u ∧ u.get SNAP_STAT_DONE = 1
          ∧ u.flag SNAP_STAT_DRAINING = false ∧ u.snap.endSent = true ∧ regsBut [SNAP_STAT.off] s u)))
  ∧ (∀ (s : State) (v : Nat), v < 2 ^ 64 →
    let t := s.set SNAP_RST_ADDR (bits v 6 37)
    let s1 := if v.testBit 1 then t.set SNAP_RST_ERR 0 else t
    let img := readSections s1 (cvCfg s1 (Config.restoreCvu % 16)) 100000 (bits v 6 37 * 64)
    (v.testBit 63 = false ∨ enabledQueues s ≠ [] → ∃ u, exec (.snapshotRestore v) s = .next u
      ∧ u.get SNAP_RST_ADDR = bits v 6 37
      ∧ u.get SNAP_RST_ERR = (if v.testBit 1 then 0 else s.get SNAP_RST_ERR) ∧ onlyRegs [SNAP_RST.off] s u)
    ∧ (v.testBit 63 = true → enabledQueues s = [] →
      (img = none → ∃ u, exec (.snapshotRestore v) s = .next u ∧ u.get SNAP_RST_ERR = 1 ∧ onlyRegs [SNAP_RST.off] s u)
      ∧ (∀ o x, img = some [(1, 0, pairBytes (0x70000000000 + o) x)] → o < 0x8000000 →
          ∃ u, exec (.snapshotRestore v) s = .next u ∧ (∀ r, u.regAt o r = BitVec.ofNat 64 x)
            ∧ onlyRegs [SNAP_RST.off, o] s u)
      ∧ (∀ q head last, img = some [(2, q, leBytes 4 head ++ leBytes 4 head ++ leBytes 4 last ++ leBytes 4 0)] → q < 16384 →
          ∃ u, exec (.snapshotRestore v) s = .next u ∧ u.qget QTAB_HEAD_HEAD q = head % 2 ^ 32
            ∧ u.qget QTAB_TAIL_TAIL q = head % 2 ^ 32 ∧ u.qget QTAB_HEAD_LAST_SEQ q = last % 2 ^ 32
            ∧ onlyRegs [SNAP_RST.off, QTAB_HEAD.off (q / 1024) (q % 1024), QTAB_TAIL.off (q / 1024) (q % 1024)] s u)))

/-- POR_N rows, BOOT_READY, WORLD_DESCRIPTION_COMMIT, the flash operations, DRBG_RESEED, RNG_HEALTH_FAILURE complete. POR_N asserted: the device is as after reset but for the commands that wait, the flash, where no operation was under way, and the lands that others drive. Its release with no eligible slot stops with ERR 1 at step 2, or 1 without a header; with one whose body fails, at 3 with ERR 2; one that passes, without records, boots to step 7 with its slot and sequence number shown, the identity enrolled and the random source seeded, or stops at 5 with ERR 5. BOOT_READY ends the boot at step 9, and a held commit is applied. A commit before READY is held, a second one refused; a consistent one sets DONE, and a device that is no bellwether disables its PCIe port; another is refused. A flash operation within its bounds starts; while one runs it sets ERR; outside the other slot REFUSED. Its end has its effect. Reseeding counts; a failed health test halts the source. -/
def Obligations.BootRows : Prop :=
  (∀ s : State, ∃ u, exec .porNAssert s = .next u
    ∧ u.pending = s.pending ∧ u.pins.por = false ∧ u.pins.fault = false ∧ u.pins.thermtrip = s.pins.thermtrip
    ∧ (s.boot.flashOp = none → u.boot.flash = s.boot.flash)
    ∧ { u with pending := [], boot := { u.boot with flash := [] }, pins := PinSt.reset, free := 0 } = State.reset)
  ∧ (∀ (s : State) (b : BootInput), s.pins.por = true → exec (.porNRelease b) s = .next s)
  ∧ (∀ (s : State) (b : BootInput), s.pins.por = false → b.badStacks = [] → b.badBanks = [] → b.flash = none →
    let t := ((({ s with pins := { s.pins with por := true, tapIr := .bypass, hiz := false } }.set BOOT_VER_ROM_VERSION
      Config.romVersion).set RAIL_STAT_IN_RANGE 0x1FF).set FLASH_STAT_SIZE_MIB b.density)
    ∃ u, exec (.porNRelease b) s = .next u ∧
      let stops (stage err : Nat) : Prop := u.get BOOT_STAT_STAGE = stage ∧ u.get BOOT_STAT_ERR = err
        ∧ u.pins.fault = true ∧ u.pins.por = true ∧ memKept s u
      let runs (n : Nat) (x : Slot) : Prop := x.recLen = 0 →
        (b.rngOk = false → stops 5 5)
        ∧ (b.rngOk = true → u.get BOOT_STAT_STAGE = 7 ∧ u.get BOOT_STAT_SLOT = n % 2
            ∧ u.get BOOT_STAT_UPDATE_SEQ = x.updateSeq % 2 ^ 32 ∧ u.get BOOT_STAT_ENROLLED = 1 ∧ u.get BOOT_STAT_NO_CERT = 1
            ∧ u.get RNG_STAT_SEEDED = 1 ∧ u.boot.idKey.isSome = true ∧ u.pins.por = true ∧ u.pins.fault = s.pins.fault
            ∧ memKept s u)
      match slotOrder t with
      | [] => stops (if (slotHeader t 0).isSome = true ∨ (slotHeader t 1).isSome = true then 2 else 1) 1
      | [(n, x, _, fw)] => if bodyPasses t x fw then runs n x else stops 3 2
      | (n, x, _, fw) :: (m, y, _, fw') :: _ =>
        if bodyPasses t x fw then runs n x
        else (y.recLen = 0 → u.get BOOT_STAT_FALLBACK = 1) ∧ (if bodyPasses t y fw' then runs m y else stops 3 2))
  ∧ (∀ s : State,
    let agrees : Bool := s.flag WD_SELF_IS_BELL == (s.get WD_SELF_BELL_DEV == s.get WD_SELF_DEVICE)
    let done (u : State) : Prop := u.get WD_STAT_DONE = 1 ∧ u.get WD_STAT_PENDING = 0 ∧ u.get BOOT_STAT_STAGE = 10
      ∧ regsBut [WD_STAT.off, BOOT_STAT.off, HB_STAT.off] s u ∧ memKept s u
      ∧ (s.flag WD_SELF_IS_BELL = true → u.host = s.host ∧ u.boot = s.boot)
      ∧ (s.flag WD_SELF_IS_BELL = false → u.host.disabled = true ∧ u.host.l0 = false ∧ u.boot.ideKeys = [])
    (s.pins.por = true → s.get BOOT_STAT_ERR = 0 → (s.get BOOT_STAT_STAGE = 7 ∨ s.get BOOT_STAT_STAGE = 8) →
      (s.flag WD_STAT_PENDING = false → ∃ u, exec .bootReady s = .next u ∧ u.get BOOT_STAT_STAGE = 9
        ∧ onlyRegs [BOOT_STAT.off] s u)
      ∧ (s.flag WD_STAT_PENDING = true → agrees = true → ∃ u, exec .bootReady s = .next u ∧ done u))
    ∧ (s.pins.por = false ∨ s.get BOOT_STAT_ERR ≠ 0 ∨ 9 ≤ s.get BOOT_STAT_STAGE → exec .bootReady s = .next s)
    ∧ (s.pins.por = true →
      (s.flag WD_STAT_DONE = true ∨ s.flag WD_STAT_PENDING = true → ∃ u, exec .worldDescriptionCommit s = .next u ∧ u.get WD_STAT_REFUSED = 1
        ∧ onlyRegs [WD_STAT.off] s u)
      ∧ (s.flag WD_STAT_DONE = false → s.flag WD_STAT_PENDING = false → s.get BOOT_STAT_STAGE < 9 → ∃ u, exec .worldDescriptionCommit s = .next u
        ∧ u.get WD_STAT_PENDING = 1 ∧ u.get WD_STAT_DONE = s.get WD_STAT_DONE ∧ onlyRegs [WD_STAT.off] s u)
      ∧ (s.flag WD_STAT_DONE = false → s.flag WD_STAT_PENDING = false → 9 ≤ s.get BOOT_STAT_STAGE →
        (agrees = true → ∃ u, exec .worldDescriptionCommit s = .next u ∧ done u)
        ∧ (agrees = false → ∃ u, exec .worldDescriptionCommit s = .next u ∧ u.get WD_STAT_REFUSED = 1
            ∧ u.flag WD_STAT_DONE = false ∧ onlyRegs [WD_STAT.off] s u)))
    ∧ (s.pins.por = false → exec .worldDescriptionCommit s = .next s))
  ∧ (∀ (s : State) (v : Nat), s.pins.por = true →
    let fa := bits v 8 32
    let len := bits v 40 24
    let buf := s.get FLASH_BUF_BUF
    let starts (i : Instr) (op n : Nat) : Prop := ∃ u, exec i s = .next u ∧ u.boot.flashOp = some (op, fa, n)
      ∧ u.get FLASH_OP_BUSY = 1 ∧ u.get FLASH_OP_FADDR = fa ∧ u.get FLASH_OP_LEN = len ∧ regsBut [FLASH_OP.off] s u
      ∧ { u with boot := s.boot, regs := s.regs } = s
    let refuses (i : Instr) (f : Fld) : Prop := ∃ u, exec i s = .next u ∧ u.get f = 1 ∧ u.boot = s.boot
      ∧ onlyRegs [FLASH_OP.off] s u
    (s.flag FLASH_OP_BUSY = true → ∀ i ∈ ([.flashRead v, .flashProgram v, .flashErase4k v, .flashErase64k v] : List Instr),
      refuses i FLASH_OP_ERR)
    ∧ (s.flag FLASH_OP_BUSY = false → s.get BOOT_STAT_ERR = 0 →
      (0 < len → buf + len ≤ 0x10E00000000 →
        (fa + len ≤ flashBytes s → starts (.flashRead v) 1 len)
        ∧ (flashBytes s < fa + len → refuses (.flashRead v) FLASH_OP_ERR)
        ∧ (inOtherSlot s fa len = true → starts (.flashProgram v) 2 len)
        ∧ (inOtherSlot s fa len = false → refuses (.flashProgram v) FLASH_OP_REFUSED))
      ∧ ∀ row ∈ ([(.flashErase4k v, 3, 4096), (.flashErase64k v, 4, 65536)] : List (Instr × Nat × Nat)),
        (fa % row.2.2 ≠ 0 → refuses row.1 FLASH_OP_ERR)
        ∧ (fa % row.2.2 = 0 → inOtherSlot s fa row.2.2 = true → starts row.1 row.2.1 row.2.2)
        ∧ (fa % row.2.2 = 0 → inOtherSlot s fa row.2.2 = false → refuses row.1 FLASH_OP_REFUSED)))
  ∧ (∀ (s : State) (a n : Nat),
    let buf := s.get FLASH_BUF_BUF
    let idle (u : State) : Prop := u.boot.flashOp = none ∧ u.get FLASH_OP_BUSY = 0 ∧ regsBut [FLASH_OP.off] s u
    let at_ (u : State) (x : Nat) : Byte := lookD u.boot.flash x 0xFF
    (s.boot.flashOp = none → ∀ ok, exec (.flashOpDone ok) s = .next s)
    ∧ (s.boot.flashOp = some (1, a, n) → 0 < n → buf + n ≤ 0x10E00000000 →
      (∀ x, buf ≤ x → x < buf + n → poisonedAt s x = false ∧ retiredAt s x = false) →
      ∃ u, exec (.flashOpDone true) s = .next u ∧ idle u ∧ memHolds buf (flashRead s a n) u ∧ memBut buf n s u
        ∧ u.boot.flash = s.boot.flash)
    ∧ (s.boot.flashOp = some (2, a, n) → ueRange s buf n = false → ∃ u, exec (.flashOpDone true) s = .next u ∧ idle u
        ∧ memKept s u ∧ ∀ x, at_ u x = if a ≤ x ∧ x < a + n then at_ s x &&& s.rd8 (buf + (x - a)) else at_ s x)
    ∧ (∀ op, 3 ≤ op → s.boot.flashOp = some (op, a, n) → ∃ u, exec (.flashOpDone true) s = .next u ∧ idle u ∧ memKept s u
        ∧ ∀ x, at_ u x = if a ≤ x ∧ x < a + n then 0xFF else at_ s x)
    ∧ (∀ op, s.boot.flashOp = some (op, a, n) → ∃ u, exec (.flashOpDone false) s = .next u ∧ idle u
        ∧ u.get FLASH_OP_ERR = 1 ∧ (op ≠ 1 → memKept s u ∧ ∀ x, x < a ∨ a + n ≤ x → at_ u x = at_ s x)
        ∧ (op = 1 → memBut buf n s u ∧ u.boot.flash = s.boot.flash)))
  ∧ (∀ s : State, s.pins.por = true → s.flag RNG_STAT_SEEDED = true →
    (∃ u, exec .rngHealthFailure s = .next u ∧ u.get RNG_STAT_HEALTH_FAIL = 1 ∧ u.boot.rngBad = true
      ∧ regsBut [RNG_STAT.off] s u ∧ memKept s u)
    ∧ (s.flag RNG_STAT_HALTED = true → ∀ ok, exec (.drbgReseed ok) s = .next s)
    ∧ (s.flag RNG_STAT_HALTED = false →
      (∀ ok, s.boot.rngBad = true → ∃ u, exec (.drbgReseed ok) s = .next u ∧ u.get RNG_STAT_HALTED = 1
        ∧ onlyRegs [RNG_STAT.off] s u)
      ∧ (s.boot.rngBad = false → ∃ u, exec (.drbgReseed true) s = .next u
          ∧ u.get RNG_STAT_RESEEDS = (s.get RNG_STAT_RESEEDS + 1) % 2 ^ 32 ∧ onlyRegs [RNG_STAT.off] s u)
      ∧ (s.boot.rngBad = false → ∃ u, exec (.drbgReseed false) s = .next u ∧ u.get RNG_STAT_HALTED = 1
          ∧ u.get RNG_STAT_HEALTH_FAIL = 1 ∧ u.boot.rngBad = true ∧ regsBut [RNG_STAT.off] s u ∧ memKept s u)))
  ∧ (∀ s : State, s.pins.por = false → exec .rngHealthFailure s = .next s ∧ ∀ ok, exec (.drbgReseed ok) s = .next s)

/-- SMBus, MCTP, SPDM, IDE key and TAP rows complete. With POR_N high. SMBus: 0x20 sets the access address; a read gives status and value and advances it by 8; a write on SMB0 performs the register write and advances, one on SMB1 is refused with status 3. SPDM before the responder's step answers BUSY. GET_VERSION answers 1.2 and begins anew; GET_CAPABILITIES, NEGOTIATE_ALGORITHMS follow in order, else UNEXPECTED; then digests, certificate portions, challenge and measurements are answered; KEY_EXCHANGE opens the one session, FINISH completes it, HEARTBEAT and END_SESSION serve it; a request of no session is an error. A message of another row's code changes nothing. IDE keys are taken, started and stopped in a secured DOE session only. The TAP takes its instruction only while POR_N is low. No row changes memory, and none but the SMBus accesses a register. -/
def Obligations.SidebandRows : Prop :=
  (∀ (s : State) (a : Nat), s.pins.por = true → ∃ u, exec (.smbusSetAddress a) s = .next u ∧ u.boot.smbAddr = a % 2 ^ 64
    ∧ { u with boot := s.boot } = s)
  ∧ (∀ (s : State) (o : Nat), s.pins.por = true → s.boot.smbAddr = 0x70000000000 + o → o % 8 = 0 → pageListed o = true →
    smbReaches s o = true →
    (∀ bus r i j, bus < 2 → s.boot.smbStat = 0 → pageFenced s o = false → wakePage s o = s → regOf o = some (r, i, j) →
      pccKeyOf o = none → ∃ u, exec (.smbusRead bus) s = .next u
        ∧ u = { s with boot := { s.boot with smbReply := some (0, regShows s r i j), smbAddr := s.boot.smbAddr + 8 } })
    ∧ (∀ v, ∃ u w, exec (.smbusWrite v 0) s = .next u ∧ exec (.registerWrite ⟨o, 8, v⟩) s = .next w
        ∧ u = { w with boot := { w.boot with smbAddr := w.boot.smbAddr + 8 } })
    ∧ (∀ v, ∃ u, exec (.smbusWrite v 1) s = .next u ∧ u = { s with boot := { s.boot with smbStat := 3 } }))
  ∧ (∀ (s : State) (v : Nat), s.pins.por = true → areaOf s.boot.smbAddr = .unassigned →
    (∃ u, exec (.smbusWrite v 0) s = .next u ∧ u = { s with boot := { s.boot with smbStat := 2 } })
    ∧ ∃ u, exec (.smbusRead 0) s = .next u ∧ u.boot.smbReply = some (if s.boot.smbStat = 0 then 2 else s.boot.smbStat, 0)
        ∧ u.boot.smbStat = 0 ∧ u.boot.smbAddr = s.boot.smbAddr + 8 ∧ { u with boot := s.boot } = s)
  ∧ (∀ (s : State) (m : SpdmMsg),
    let w := spdmWay m
    let x := spdmSt s w
    let b := m.bytes
    let code := byteN b 1 1
    let tells (i : Instr) (r : SpdmReply) : Prop := ∃ u, exec i s = .next u ∧ u.boot.spdmReply = some r ∧ u.boot.spdm = s.boot.spdm
      ∧ { u with boot := s.boot, free := s.free } = s
    let moves (i : Instr) (r : SpdmReply) (y : SpdmSt) : Prop := ∃ u, exec i s = .next u ∧ u.boot.spdmReply = some r
      ∧ spdmSt u w = y ∧ (∀ k, k ≠ w → spdmSt u k = spdmSt s k) ∧ { u with boot := s.boot, free := s.free } = s
    (∀ row ∈ ([(0x84, .getVersion), (0xE1, .getCapabilities), (0xE3, .negotiateAlgorithms), (0x81, .getDigests),
        (0x82, .getCertificate), (0x83, .challenge), (0xE0, .getMeasurements), (0xE4, .keyExchange), (0xE5, .finish),
        (0xE8, .heartbeat), (0xEC, .endSession)] : List (Nat × (SpdmMsg → Instr))),
      (code ≠ row.1 → exec (row.2 m) s = .next s)
      ∧ (spdmHears s m = false → exec (row.2 m) s = .next s)
      ∧ (code = row.1 → spdmHears s m = true → s.get BOOT_STAT_STAGE < 5 → tells (row.2 m) (.error 3))
      ∧ (code = row.1 → m.mctp = true → ∃ u, exec (.mctp m) s = .next u ∧ exec (row.2 m) s = .next u))
    ∧ (m.mctp = false → exec (.mctp m) s = .next s)
    ∧ (spdmHears s m = true → 5 ≤ s.get BOOT_STAT_STAGE →
      (code = 0x84 → moves (.getVersion m) (.version [0x12]) ⟨1, none, false, x.sessions⟩)
      ∧ (code = 0xE1 → (x.phase = 0 → tells (.getCapabilities m) (.error 4))
          ∧ (1 ≤ x.phase → moves (.getCapabilities m) (.capabilities 0x22F6) { x with phase := max 2 x.phase }))
      ∧ (code = 0xE3 → (x.phase < 2 → tells (.negotiateAlgorithms m) (.error 4))
          ∧ (2 ≤ x.phase → moves (.negotiateAlgorithms m) (.algorithms 0x10 0x01 0x08 0x02) { x with phase := 3 }))
      ∧ (3 ≤ x.phase →
        (code = 0x81 → tells (.getDigests m) (.digests (if s.boot.chain = [] then [] else sha256 (spdmChain s))))
        ∧ (code = 0x82 → byteN b 2 1 = 0 → s.boot.chain ≠ [] → byteN b 4 2 < (spdmChain s).length →
            let d := ((spdmChain s).drop (byteN b 4 2)).take (byteN b 6 2)
            tells (.getCertificate m) (.certificate d ((spdmChain s).length - byteN b 4 2 - d.length)))
        ∧ (code = 0x83 → byteN b 2 1 = 0 → s.boot.chain ≠ [] → 36 ≤ b.length → s.flag RNG_STAT_HALTED = false →
            ∃ n g, n.length = 32 ∧ g.length = 64 ∧ tells (.challenge m) (.challengeAuth (sha256 (spdmChain s)) n g))
        ∧ (code = 0xE0 → byteN b 2 1 = 0 → byteN b 3 1 = 1 → ∃ n, n.length = 32
            ∧ tells (.getMeasurements m) (.measurements [(1, leBytes 4 (s.get BOOT_VER_ROM_VERSION))] n []))
        ∧ (code = 0xE4 → byteN b 3 1 = 0 → 104 ≤ b.length → s.flag RNG_STAT_HALTED = false →
            (x.session = none → ∃ k key g, g.length = 64
              ∧ moves (.keyExchange m) (.keyExchange k key g)
                  { x with session := some k, finished := false, sessions := x.sessions + 1 })
            ∧ (∀ k, x.session = some k → tells (.keyExchange m) (.error 0x0A))))
      ∧ (code = 0xE5 → (x.session = some m.session → x.finished = false →
            moves (.finish m) .finish { x with finished := true })
          ∧ (x.session ≠ some m.session → tells (.finish m) (.error 2)))
      ∧ (code = 0xE8 → (inSession x m = true → tells (.heartbeat m) .heartbeat)
          ∧ (inSession x m = false → tells (.heartbeat m) (.error 2)))
      ∧ (code = 0xEC → inSession x m = true →
          moves (.endSession m) .endSession { x with session := none, finished := false }))
    ∧ (∀ row ∈ ([(0, .query), (2, .keyProg), (4, .kSetGo), (5, .kSetStop)] : List (Nat × (SpdmMsg → Instr))),
      (code ≠ row.1 → exec (row.2 m) s = .next s)
      ∧ (code = row.1 → spdmHears s m = true → 5 ≤ s.get BOOT_STAT_STAGE → m.mctp = true → tells (row.2 m) (.error 7))
      ∧ (code = row.1 → spdmHears s m = true → 5 ≤ s.get BOOT_STAT_STAGE → m.mctp = false → inSession (spdmSt s 0) m = false →
          tells (row.2 m) (.error 2)))
    ∧ (spdmHears s m = true → 5 ≤ s.get BOOT_STAT_STAGE → m.mctp = false → inSession (spdmSt s 0) m = true →
      (code = 0 → tells (.query m) (.queryResp (byteN b 4 1)))
      ∧ (code = 2 → b.length = 48 → byteN b 6 1 / 16 < 3 → ∃ u, exec (.keyProg m) s = .next u
          ∧ u.boot.spdmReply = some (.keyProgAck 0) ∧ look u.boot.ideKeys (keyPlace b) = some ((b.drop 8).take 40)
          ∧ (∀ k, k ≠ keyPlace b → look u.boot.ideKeys k = look s.boot.ideKeys k) ∧ u.boot.ideOn = s.boot.ideOn
          ∧ { u with boot := s.boot } = s)
      ∧ (code = 2 → b.length ≠ 48 → tells (.keyProg m) (.keyProgAck 1))
      ∧ (code = 2 → b.length = 48 → 3 ≤ byteN b 6 1 / 16 → tells (.keyProg m) (.keyProgAck 3))
      ∧ (code = 4 → (look s.boot.ideKeys (keyPlace b)).isSome = true → ∃ u, exec (.kSetGo m) s = .next u
          ∧ u.boot.spdmReply = some .goStopAck ∧ u.boot.ideKeys = s.boot.ideKeys ∧ { u with boot := s.boot } = s
          ∧ ∀ k, k ∈ u.boot.ideOn ↔ k = keyPlace b ∨ (k ∈ s.boot.ideOn ∧ k / 2 ≠ keyPlace b / 2))
      ∧ (code = 5 → ∃ u, exec (.kSetStop m) s = .next u ∧ u.boot.spdmReply = some .goStopAck
          ∧ u.boot.ideKeys = s.boot.ideKeys ∧ { u with boot := s.boot } = s
          ∧ ∀ k, k ∈ u.boot.ideOn ↔ k ∈ s.boot.ideOn ∧ k ≠ keyPlace b)))
  ∧ (∀ s : State,
    (∀ i, ∃ u, exec (.tapInstruction (.instr i)) s = .next u ∧ { u with pins := s.pins } = s
      ∧ u.pins.tapIr = (if s.pins.por then .bypass else i) ∧ (u.pins.hiz = true ↔ s.pins.por = false ∧ i = .highz))
    ∧ (∃ u, exec (.tapInstruction .reset) s = .next u ∧ u.pins.tapIr = .bypass ∧ u.pins.hiz = false
      ∧ { u with pins := s.pins } = s)
    ∧ (∀ l, (tapSelects s.pins.tapIr = true → s.pins.por = false → ∃ u, exec (.tapInstruction (.shiftBoundary l)) s = .next u
        ∧ u.pins.boundary = l ∧ { u with pins := s.pins } = s)
      ∧ (tapSelects s.pins.tapIr = false ∨ s.pins.por = true → exec (.tapInstruction (.shiftBoundary l)) s = .next s)))

/-- REGISTER_WRITE: fields take, W1C clears, refused accesses are recorded; LNK_CFG_WRITE is the port register write. An unassigned offset sets DEV_ERR.UNASSIGNED, a wrong width or alignment DEV_ERR.WIDTH, with the address and the direction, and nothing else. An offset of a fenced unit's page, or of no register in a listed page, takes nothing. In a listed page with no pond in lull, an 8-byte write of a register without actions of its own: RW fields take the value as the register's rules take it, W1C bits carried as 1 clear, every other bit stays, and no other register changes, but CLAMP of the loop whose bound was taken as another value. A 4-byte write leaves the other half. LNK_CFG_WRITE of a port is the write of LNK_CFG; EN = 0 takes a port down, and EN = 1 of an isolated port returns it to DOWN. -/
def Obligations.RegisterWrites : Prop :=
  (∀ (s : State) (w : RegWrite),
    let a := 0x70000000000 + w.off
    (pageListed w.off = false → ∃ u, exec (.registerWrite w) s = .next u ∧ u.get DEV_ERR_UNASSIGNED = 1
      ∧ u.get DEV_ERRADDR_ADDR = a % 2 ^ 43 ∧ u.get DEV_ERRADDR_WRITE = 1 ∧ onlyRegs [DEV_ERR.off, DEV_ERRADDR.off] s u)
    ∧ (pageListed w.off = true → widthOk w.off w.width = false → ∃ u, exec (.registerWrite w) s = .next u
      ∧ u.get DEV_ERR_WIDTH = 1 ∧ u.get DEV_ERRADDR_ADDR = a % 2 ^ 43 ∧ u.get DEV_ERRADDR_WRITE = 1
      ∧ onlyRegs [DEV_ERR.off, DEV_ERRADDR.off] s u)
    ∧ (pageListed w.off = true → widthOk w.off w.width = true → pageFenced s w.off = true →
        exec (.registerWrite w) s = .next s)
    ∧ (pageListed w.off = true → widthOk w.off w.width = true → wakePage s w.off = s → regOf (w.off / 8 * 8) = none →
        exec (.registerWrite w) s = .next s)
    ∧ (∀ r i j, pageListed w.off = true → widthOk w.off w.width = true → pageFenced s w.off = false →
        wakePage s w.off = s → regOf (w.off / 8 * 8) = some (r, i, j) → partialWo r w.width = false →
        (∀ s' old v c m, regAction s' r i j old v c m = none) →
        let o := r.off i j
        let m := BitVec.ofNat 64 (carriedMask w.off w.width)
        let c := BitVec.ofNat 64 (placed w.off w.width w.value)
        let old := s.regAt o r.rstW
        let rw := BitVec.ofNat 64 r.rw
        let took := takenAs r ((old &&& ~~~m) ||| c)
        ∃ u, exec (.registerWrite w) s = .next u ∧ onlyRegs [o, PWR_LOOP.off] s u
          ∧ u.regAt o r.rstW = ((old &&& ~~~rw) ||| (took &&& rw)) &&& ~~~(c &&& BitVec.ofNat 64 r.w1c)
          ∧ (r.base ≠ PWR_LOOP.base → (took &&& rw = ((old &&& ~~~m) ||| c) &&& rw → onlyRegs [o] s u)
            ∧ (∀ k, (boundLoop.find? fun x => x.1 == r.base) = some (r.base, k) →
                took &&& rw ≠ ((old &&& ~~~m) ||| c) &&& rw → (u.get PWR_LOOP_CLAMP).testBit k = true))))
  ∧ (∀ (s : State) (v : Nat), ∃ u, exec (.registerWrite ⟨TEL_BASE.off, 8, v⟩) s = .next u
    ∧ u.get TEL_BASE_BASE = bits v TEL_BASE_BASE.lo TEL_BASE_BASE.w ∧ onlyRegs [TEL_BASE.off] s u)
  ∧ (∀ (s : State) (p v : Nat), p < 12 →
    (∃ u, exec (.lnkCfgWrite p v) s = .next u ∧ exec (.registerWrite ⟨LNK_CFG.off p, 8, v⟩) s = .next u)
    ∧ (v % 2 = 1 → portState s p ≠ 3 → portState s p ≠ 6 → ∃ u, exec (.lnkCfgWrite p v) s = .next u
        ∧ u.get LNK_CFG_PEER_DEV p = bits v LNK_CFG_PEER_DEV.lo LNK_CFG_PEER_DEV.w
        ∧ u.get LNK_CFG_MIN_LANES p = clampN 1 4 (bits v LNK_CFG_MIN_LANES.lo LNK_CFG_MIN_LANES.w)
        ∧ portState u p = portState s p ∧ regsBut [LNK_CFG.off p, PWR_LOOP.off] s u ∧ memKept s u)
    ∧ (v % 2 = 0 ∨ portState s p = 6 → ∃ u, exec (.lnkCfgWrite p v) s = .next u ∧ portState u p = 0 ∧ linkMem s u))
  ∧ (∀ (s : State) (p v : Nat), 12 ≤ p → exec (.lnkCfgWrite p v) s = .next s)

/-- A step runs the command at the front of the queue with the rest of the queue; an unpowered device without commands idles. For every state and command: step with the command at the front of the queue is exec of it in the state with the queue's rest. With an empty queue step answers a next state in which the queue is empty still, a nanosecond of time having passed (the model's choice, log entry 2); while POR_N is low nothing changes. -/
def Obligations.StepTakesFront : Prop :=
  (∀ (s : State) (c : Instr) (rest : List Instr), step { s with pending := c :: rest } = exec c { s with pending := rest })
  ∧ (∀ s : State, s.pending = [] → step s = .next (idle s))
  ∧ (∀ s : State, s.pending = [] → s.pins.por = false → step s = .next s)
  ∧ (∀ s : State, s.pending = [] → s.pins.por = true → s.time.slew = 0 → (s.time.count + 1) % 64 ≠ 0 →
    ∃ u, step s = .next u ∧ u.time.count = (s.time.count + 1) % 2 ^ 64 ∧ u.pending = [] ∧ memKept s u ∧ u.queues = s.queues)

/-- After reset registers hold the values of their tables, POR_N is low, no command waits and memory lists nothing. In State.reset every register of the map, but check-value configuration 15, holds its table's value after reset: STALL_US 500, DIE_UE 64, GC_UP 384, MC_UP 192, PONDS_UP 96, MEM_GIB 1080, MIN_DEPTH 4, MAX_DEPTH 64, DEF_CLASS 3, MIN_H 6, MAX_H 24, CE_HI 1024, drain SHARE 10, trace SHARE 30, PKG_W 950, STALE_W 600, V_MIN 620, V_MAX 780, SLEW_PPM 100, BOOT_STAT and the counters 0. The queue is empty, no queue has a started command, memory is in canonical form, POR_N is low, FAULT_N is not driven and no interrupt has been sent. What the spec gives no value for holds the model's choice (log entries 6 and 7). -/
def Obligations.ResetState : Prop :=
  (∀ r i j, regOf (r.off i j) = some (r, i, j) → look resetRegs (r.off i j) = none → State.reset.rg r i j = r.rstW)
  ∧ State.reset.get FLT_CFG_STALL_US = 500 ∧ State.reset.get FLT_CFG_DIE_UE = 64 ∧ State.reset.get FLT_CAP_GC_UP = 384
  ∧ State.reset.get FLT_CAP_MC_UP = 192 ∧ State.reset.get FLT_CAP_PONDS_UP = 96 ∧ State.reset.get FLT_CAP_MEM_GIB = 1080
  ∧ State.reset.get MEM_PF_MIN_DEPTH = 4 ∧ State.reset.get MEM_PF_MAX_DEPTH = 64 ∧ State.reset.get MEM_PF_DEF_CLASS = 3
  ∧ State.reset.get MEM_SCRUB_MIN_H = 6 ∧ State.reset.get MEM_SCRUB_MAX_H = 24 ∧ State.reset.get MEM_SCRUB_CE_HI = 1024
  ∧ State.reset.get SNAP_CFG_SHARE = 10 ∧ State.reset.get OBS_CFG_SHARE = 30 ∧ State.reset.get PWR_LIMIT_PKG_W = 950
  ∧ State.reset.get PWR_LIMIT_STALE_W = 600 ∧ State.reset.get PWR_POND_V_MIN = 620 ∧ State.reset.get PWR_POND_V_MAX = 780
  ∧ State.reset.get TIME_CTRL_SLEW_PPM = 100 ∧ State.reset.rg BOOT_STAT = 0
  ∧ (∀ p, State.reset.rg PC_CNT p = 0 ∧ State.reset.rg MCTL_CNT p = 0 ∧ State.reset.rg LNK_CNT p = 0)
  ∧ State.reset.pending = [] ∧ (∀ q, (State.reset.q q).started = []) ∧ State.reset.time.count = 0
  ∧ Memory.wf State.reset.stale State.reset.mem = true ∧ (∀ a, State.reset.rd8 a = 0)
  ∧ State.reset.pins.por = false ∧ State.reset.pins.fault = false ∧ State.reset.irqs = []
  ∧ running State.reset = true ∧ (∀ p, portState State.reset p = 0)

/-- Every step answers a next state, keeps memory in canonical form, and takes exactly the front command off the queue. For every state, with any command at the front or none: step answers a next state; no command changes the queue behind it; and where memory is in canonical form before (addresses strictly rising, no entry equal to what an unlisted address reads as) it is in canonical form after. So equal memories stay equal data, whatever commands come. -/
def Obligations.StepKeepsMemoryForm : Prop :=
  ∀ s : State, ∃ t, step s = .next t ∧ t.pending = s.pending.drop 1
    ∧ (Memory.wf s.stale s.mem = true → Memory.wf t.stale t.mem = true)
end

