-- ==== Sys2Proof/Laws/Crypto.lean ====
section
/-! SUPPORT. AES blocks have 16 bytes, and GCM's encryption undoes itself. -/

namespace Sys2Proof.Machine

/-- Every word of a list has four bytes. -/
def wordsOk (w : List (List Nat)) : Prop := ∀ x ∈ w, x.length = 4

theorem listGet_mem {α : Type} (l : List α) (i : Nat) (d : α) (h : i < l.length) : listGet l i d ∈ l := by
  simp only [listGet, List.getElem?_eq_getElem h, Option.getD_some, List.getElem_mem]

theorem wordsOk_step {i : Nat} {w : List (List Nat)} (h8 : 8 ≤ w.length) (h : wordsOk w) : wordsOk (aesKeyWord i w :: w) := by
  intro x hx
  rcases List.mem_cons.mp hx with rfl | hx
  · have h0 := h _ (listGet_mem w 0 [] (by omega))
    have h7 := h _ (listGet_mem w 7 [] (by omega))
    unfold aesKeyWord
    split_ifs <;> simp [h0, h7, List.length_zip]
  · exact h x hx

theorem schedule_ok (l : List Nat) (w : List (List Nat)) (h8 : 8 ≤ w.length) (h : wordsOk w) :
    wordsOk (l.foldl (fun w i => aesKeyWord (i + 8) w :: w) w)
      ∧ (l.foldl (fun w i => aesKeyWord (i + 8) w :: w) w).length = w.length + l.length := by
  induction l generalizing w with
  | nil => exact ⟨h, rfl⟩
  | cons i l ih =>
    have := ih (aesKeyWord (i + 8) w :: w) (by simp; omega) (wordsOk_step h8 h)
    simp only [List.foldl_cons, List.length_cons] at this ⊢
    exact ⟨this.1, by omega⟩

theorem upto_length (n : Nat) : (upto n).length = n := by simp [upto]

theorem flatten_length {w : List (List Nat)} (h : wordsOk w) : w.flatten.length = 4 * w.length := by
  induction w with
  | nil => rfl
  | cons x w ih =>
    have hx := h x (by simp)
    have := ih fun y hy => h y (by simp [hy])
    simp only [List.flatten_cons, List.length_append, List.length_cons]
    omega

/-- The last round key has 16 bytes. -/
theorem aesKeys_last {key : List Byte} (hk : key.length = 32) : (listGet (aesKeys key) 14 []).length = 16 := by
  have h0 : wordsOk (((upto 8).map fun i => ((key.drop (4 * i)).take 4).map (·.toNat)).reverse) := by
    intro x hx
    simp only [List.mem_reverse, List.mem_map] at hx
    obtain ⟨i, hi, rfl⟩ := hx
    have : i < 8 := by simpa [upto] using hi
    simp [hk]; omega
  have h := schedule_ok (upto 52) _ (by simp [upto_length]) h0
  have hl : (((upto 52).foldl (fun w i => aesKeyWord (i + 8) w :: w)
      (((upto 8).map fun i => ((key.drop (4 * i)).take 4).map (·.toNat)).reverse)).reverse).length = 60 := by
    rw [List.length_reverse, h.2]; simp [upto_length]
  generalize hw : (((upto 52).foldl (fun w i => aesKeyWord (i + 8) w :: w)
      (((upto 8).map fun i => ((key.drop (4 * i)).take 4).map (·.toNat)).reverse)).reverse) = w at hl
  have hok : wordsOk w := by
    subst hw
    intro x hx
    exact h.1 x (List.mem_reverse.mp hx)
  have : listGet (aesKeys key) 14 [] = ((w.drop 56).take 4).flatten := by
    rw [← hw]
    unfold aesKeys
    exact (by simp [listGet, upto] : ∀ w : List (List Nat),
      listGet ((upto 15).map fun r => ((w.drop (4 * r)).take 4).flatten) 14 [] = ((w.drop 56).take 4).flatten) _
  rw [this, flatten_length (fun x hx => hok x (List.mem_of_mem_drop (List.mem_of_mem_take hx)))]
  simp [hl]

theorem aesBlock_length {key : List Byte} (hk : key.length = 32) (blk : List Byte) : (aesBlock (aesKeys key) blk).length = 16 := by
  simp [aesBlock, aesAdd, aesShift, upto_length, aesKeys_last hk]

theorem gcmStream_length {key : List Byte} (hk : key.length = 32) (iv : List Byte) (n c : Nat) :
    (gcmStream (aesKeys key) iv n c).length = 16 * n := by
  induction n generalizing c with
  | zero => rfl
  | succ n ih => simp [gcmStream, aesBlock_length hk, ih]; omega

theorem xorBytes_length {a k : List Byte} (h : a.length ≤ k.length) : (xorBytes a k).length = a.length := by
  simp [xorBytes]; omega

theorem xorBytes_twice (a k : List Byte) (h : a.length ≤ k.length) : xorBytes (xorBytes a k) k = a := by
  induction a generalizing k with
  | nil => rfl
  | cons x a ih =>
    cases k with
    | nil => simp at h
    | cons y k =>
      have := ih k (by simpa using h)
      simp only [xorBytes, List.zip_cons_cons, List.map_cons] at this ⊢
      rw [this, BitVec.xor_assoc, BitVec.xor_self, BitVec.xor_zero]

theorem gcmCrypt_length {key : List Byte} (hk : key.length = 32) (iv d : List Byte) : (gcmCrypt key iv d).length = d.length := by
  apply xorBytes_length
  rw [gcmStream_length hk]; omega

/-- GCM's encryption undoes itself. -/
theorem gcmCrypt_twice {key : List Byte} (hk : key.length = 32) (iv d : List Byte) : gcmCrypt key iv (gcmCrypt key iv d) = d := by
  have h := gcmCrypt_length hk iv d
  simp only [gcmCrypt] at h ⊢
  rw [h]
  apply xorBytes_twice
  rw [gcmStream_length hk]; omega

theorem leBytes_length (n v : Nat) : (leBytes n v).length = n := by
  induction n generalizing v with
  | zero => rfl
  | succ n ih => simp [leBytes, ih]

theorem beBytes_length (n v : Nat) : (beBytes n v).length = n := by simp [beBytes, leBytes_length]

end Sys2Proof.Machine
end

