-- ==== Sys2Proof/Laws/Maps.lean ====
section
/-! SUPPORT. Laws of the sparse maps and of register fields: what a look-up finds after an insertion or a deletion, and
what a field reads after a field write. -/

namespace Sys2Proof.Machine

open Sys2Proof

variable {α : Type}

theorem look_ins (m : SMap α) (x y : Nat) (v : α) :
    look (ins m x v) y = if y = x then some v else look m y := by
  induction m with
  | nil => simp [ins, look, eq_comm]
  | cons h m ih =>
    obtain ⟨k, w⟩ := h
    by_cases h1 : x < k
    · simp only [ins, h1, if_true, look]
      by_cases h2 : x = y <;> simp [h2, eq_comm]
    · by_cases h2 : x = k
      · subst h2
        simp only [ins, lt_irrefl, if_false, if_true, look]
        by_cases h3 : x = y
        · simp [h3]
        · simp [h3, Ne.symm h3]
      · simp only [ins, h1, h2, if_false, look]
        by_cases h3 : k = y
        · have : y ≠ x := by omega
          simp [h3, this]
        · simp only [h3, if_false, ih]

@[simp] theorem look_ins_self (m : SMap α) (x : Nat) (v : α) : look (ins m x v) x = some v := by
  simp [look_ins]

theorem look_ins_ne (m : SMap α) {x y : Nat} (v : α) (h : y ≠ x) : look (ins m x v) y = look m y := by
  simp [look_ins, h]

theorem look_del (m : SMap α) (x y : Nat) : look (del m x) y = if y = x then none else look m y := by
  induction m with
  | nil => simp [del, look]
  | cons h m ih =>
    obtain ⟨k, w⟩ := h
    by_cases h1 : k = x
    · subst h1
      simp only [del, if_true, ih, look]
      by_cases h2 : y = k
      · simp [h2]
      · simp [h2, Ne.symm h2]
    · simp only [del, h1, if_false, look, ih]
      by_cases h2 : k = y
      · have : y ≠ x := by omega
        simp [h2, this]
      · simp [h2]

theorem lookD_ins (m : SMap α) (x y : Nat) (v d : α) :
    lookD (ins m x v) y d = if y = x then v else lookD m y d := by
  unfold lookD
  rw [look_ins]
  split <;> simp

@[simp] theorem lookD_ins_self (m : SMap α) (x : Nat) (v d : α) : lookD (ins m x v) x d = v := by
  simp [lookD_ins]

theorem lookD_ins_ne (m : SMap α) {x y : Nat} (v d : α) (h : y ≠ x) : lookD (ins m x v) y d = lookD m y d := by
  simp [lookD_ins, h]

/-! Fields. -/

theorem fget_eq (f : Fld) (v : W64) : fget f v = (v >>> f.lo).toNat % 2 ^ f.w := by
  simp [fget, BitVec.toNat_ushiftRight]

/-- Bit `k` of a field's value. -/
theorem fget_testBit (f : Fld) (v : W64) (k : Nat) :
    (fget f v).testBit k = (decide (k < f.w) && v.getLsbD (f.lo + k)) := by
  simp [fget, Nat.testBit_mod_two_pow, Nat.testBit_shiftRight, BitVec.getLsbD]

/-- Bit `k` of a register after a field write. -/
theorem fset_getLsbD (f : Fld) (v : W64) (n k : Nat) (hw : f.lo + f.w ≤ 64) (hk : k < 64) :
    (fset f v n).getLsbD k =
      if f.lo ≤ k ∧ k < f.lo + f.w then n.testBit (k - f.lo) else v.getLsbD k := by
  have hm : ∀ j, (BitVec.ofNat 64 (2 ^ f.w - 1)).getLsbD j = (decide (j < 64) && decide (j < f.w)) := by
    intro j
    simp [BitVec.getLsbD_ofNat, Nat.testBit_two_pow_sub_one]
  simp only [fset, BitVec.getLsbD_or, BitVec.getLsbD_and, BitVec.getLsbD_not, BitVec.getLsbD_shiftLeft, hm,
    BitVec.getLsbD_ofNat]
  by_cases h1 : k < f.lo
  · have : ¬(f.lo ≤ k ∧ k < f.lo + f.w) := by omega
    simp [h1, this, hk]
  · by_cases h2 : k < f.lo + f.w
    · have h3 : f.lo ≤ k ∧ k < f.lo + f.w := by omega
      have h4 : k - f.lo < f.w := by omega
      have h5 : k - f.lo < 64 := by omega
      simp [h1, h3, h4, h5, hk]
    · have h3 : ¬(f.lo ≤ k ∧ k < f.lo + f.w) := by omega
      have h4 : ¬(k - f.lo < f.w) := by omega
      simp [h1, h3, h4, hk]

/-- A field reads the low bits of what was last written to it. -/
theorem fget_fset (f : Fld) (v : W64) (n : Nat) (hw : f.lo + f.w ≤ 64) : fget f (fset f v n) = n % 2 ^ f.w := by
  apply Nat.eq_of_testBit_eq
  intro k
  rw [fget_testBit, Nat.testBit_mod_two_pow]
  by_cases hk : k < f.w
  · rw [fset_getLsbD f v n _ hw (by omega)]
    have : f.lo ≤ f.lo + k ∧ f.lo + k < f.lo + f.w := by omega
    simp [hk, this]
  · simp [hk]

/-- Writing a field leaves a disjoint field of the register as it was. -/
theorem fget_fset_disjoint (f g : Fld) (v : W64) (n : Nat) (hf : f.lo + f.w ≤ 64) (hg : g.lo + g.w ≤ 64)
    (h : f.lo + f.w ≤ g.lo ∨ g.lo + g.w ≤ f.lo) : fget g (fset f v n) = fget g v := by
  apply Nat.eq_of_testBit_eq
  intro k
  rw [fget_testBit, fget_testBit]
  by_cases hk : k < g.w
  · rw [fset_getLsbD f v n _ hf (by omega)]
    have : ¬(f.lo ≤ g.lo + k ∧ g.lo + k < f.lo + f.w) := by omega
    simp [this]
  · simp [hk]

theorem fget_lt (f : Fld) (v : W64) : fget f v < 2 ^ f.w := Nat.mod_lt _ (Nat.two_pow_pos _)

end Sys2Proof.Machine
end

