-- ==== Sys2Proof/Laws/State.lean ====
section
/-! SUPPORT. What each elementary update of the state leaves unchanged: one lemma per update and field. -/

namespace Sys2Proof.Machine

@[simp] theorem State.setRegAt_pending (s : State) (o : Nat) (v : W64) : (s.setRegAt o v).pending = s.pending := rfl
@[simp] theorem State.setRegAt_mem (s : State) (o : Nat) (v : W64) : (s.setRegAt o v).mem = s.mem := rfl
@[simp] theorem State.setRegAt_stale (s : State) (o : Nat) (v : W64) : (s.setRegAt o v).stale = s.stale := rfl
@[simp] theorem State.setRegAt_poison (s : State) (o : Nat) (v : W64) : (s.setRegAt o v).poison = s.poison := rfl
@[simp] theorem State.setRegAt_badLines (s : State) (o : Nat) (v : W64) : (s.setRegAt o v).badLines = s.badLines := rfl
@[simp] theorem State.setRegAt_time (s : State) (o : Nat) (v : W64) : (s.setRegAt o v).time = s.time := rfl
@[simp] theorem State.setRegAt_queues (s : State) (o : Nat) (v : W64) : (s.setRegAt o v).queues = s.queues := rfl
@[simp] theorem State.setRegAt_turns (s : State) (o : Nat) (v : W64) : (s.setRegAt o v).turns = s.turns := rfl
@[simp] theorem State.setRegAt_waiters (s : State) (o : Nat) (v : W64) : (s.setRegAt o v).waiters = s.waiters := rfl
@[simp] theorem State.setRegAt_bars (s : State) (o : Nat) (v : W64) : (s.setRegAt o v).bars = s.bars := rfl
@[simp] theorem State.setRegAt_gcs (s : State) (o : Nat) (v : W64) : (s.setRegAt o v).gcs = s.gcs := rfl
@[simp] theorem State.setRegAt_ves (s : State) (o : Nat) (v : W64) : (s.setRegAt o v).ves = s.ves := rfl
@[simp] theorem State.setRegAt_mcs (s : State) (o : Nat) (v : W64) : (s.setRegAt o v).mcs = s.mcs := rfl
@[simp] theorem State.setRegAt_tables (s : State) (o : Nat) (v : W64) : (s.setRegAt o v).tables = s.tables := rfl
@[simp] theorem State.setRegAt_hot (s : State) (o : Nat) (v : W64) : (s.setRegAt o v).hot = s.hot := rfl
@[simp] theorem State.setRegAt_sketches (s : State) (o : Nat) (v : W64) : (s.setRegAt o v).sketches = s.sketches := rfl
@[simp] theorem State.setRegAt_samps (s : State) (o : Nat) (v : W64) : (s.setRegAt o v).samps = s.samps := rfl
@[simp] theorem State.setRegAt_sampNext (s : State) (o : Nat) (v : W64) : (s.setRegAt o v).sampNext = s.sampNext := rfl
@[simp] theorem State.setRegAt_troughs (s : State) (o : Nat) (v : W64) : (s.setRegAt o v).troughs = s.troughs := rfl
@[simp] theorem State.setRegAt_tmsgs (s : State) (o : Nat) (v : W64) : (s.setRegAt o v).tmsgs = s.tmsgs := rfl
@[simp] theorem State.setRegAt_tresent (s : State) (o : Nat) (v : W64) : (s.setRegAt o v).tresent = s.tresent := rfl
@[simp] theorem State.setRegAt_treply (s : State) (o : Nat) (v : W64) : (s.setRegAt o v).treply = s.treply := rfl
@[simp] theorem State.setRegAt_clog (s : State) (o : Nat) (v : W64) : (s.setRegAt o v).clog = s.clog := rfl
@[simp] theorem State.setRegAt_replay (s : State) (o : Nat) (v : W64) : (s.setRegAt o v).replay = s.replay := rfl
@[simp] theorem State.setRegAt_stepVers (s : State) (o : Nat) (v : W64) : (s.setRegAt o v).stepVers = s.stepVers := rfl
@[simp] theorem State.setRegAt_memKey (s : State) (o : Nat) (v : W64) : (s.setRegAt o v).memKey = s.memKey := rfl
@[simp] theorem State.setRegAt_snap (s : State) (o : Nat) (v : W64) : (s.setRegAt o v).snap = s.snap := rfl
@[simp] theorem State.setRegAt_colIn (s : State) (o : Nat) (v : W64) : (s.setRegAt o v).colIn = s.colIn := rfl
@[simp] theorem State.setRegAt_colAck (s : State) (o : Nat) (v : W64) : (s.setRegAt o v).colAck = s.colAck := rfl
@[simp] theorem State.setRegAt_ctxs (s : State) (o : Nat) (v : W64) : (s.setRegAt o v).ctxs = s.ctxs := rfl
@[simp] theorem State.setRegAt_ponds (s : State) (o : Nat) (v : W64) : (s.setRegAt o v).ponds = s.ponds := rfl
@[simp] theorem State.setRegAt_chans (s : State) (o : Nat) (v : W64) : (s.setRegAt o v).chans = s.chans := rfl
@[simp] theorem State.setRegAt_scrubbed (s : State) (o : Nat) (v : W64) : (s.setRegAt o v).scrubbed = s.scrubbed := rfl
@[simp] theorem State.setRegAt_dirs (s : State) (o : Nat) (v : W64) : (s.setRegAt o v).dirs = s.dirs := rfl
@[simp] theorem State.setRegAt_rem (s : State) (o : Nat) (v : W64) : (s.setRegAt o v).rem = s.rem := rfl
@[simp] theorem State.setRegAt_pcc (s : State) (o : Nat) (v : W64) : (s.setRegAt o v).pcc = s.pcc := rfl
@[simp] theorem State.setRegAt_pccLast (s : State) (o : Nat) (v : W64) : (s.setRegAt o v).pccLast = s.pccLast := rfl
@[simp] theorem State.setRegAt_traces (s : State) (o : Nat) (v : W64) : (s.setRegAt o v).traces = s.traces := rfl
@[simp] theorem State.setRegAt_silt (s : State) (o : Nat) (v : W64) : (s.setRegAt o v).silt = s.silt := rfl
@[simp] theorem State.setRegAt_siltSerial (s : State) (o : Nat) (v : W64) : (s.setRegAt o v).siltSerial = s.siltSerial := rfl
@[simp] theorem State.setRegAt_fault (s : State) (o : Nat) (v : W64) : (s.setRegAt o v).fault = s.fault := rfl
@[simp] theorem State.setRegAt_power (s : State) (o : Nat) (v : W64) : (s.setRegAt o v).power = s.power := rfl
@[simp] theorem State.setRegAt_link (s : State) (o : Nat) (v : W64) : (s.setRegAt o v).link = s.link := rfl
@[simp] theorem State.setRegAt_host (s : State) (o : Nat) (v : W64) : (s.setRegAt o v).host = s.host := rfl
@[simp] theorem State.setRegAt_boot (s : State) (o : Nat) (v : W64) : (s.setRegAt o v).boot = s.boot := rfl
@[simp] theorem State.setRegAt_pins (s : State) (o : Nat) (v : W64) : (s.setRegAt o v).pins = s.pins := rfl
@[simp] theorem State.setRegAt_irqs (s : State) (o : Nat) (v : W64) : (s.setRegAt o v).irqs = s.irqs := rfl
@[simp] theorem State.setRegAt_free (s : State) (o : Nat) (v : W64) : (s.setRegAt o v).free = s.free := rfl

@[simp] theorem State.setRg_pending (s : State) (r : Reg) (v : W64) (i j : Nat) : (s.setRg r v i j).pending = s.pending := rfl
@[simp] theorem State.setRg_mem (s : State) (r : Reg) (v : W64) (i j : Nat) : (s.setRg r v i j).mem = s.mem := rfl
@[simp] theorem State.setRg_stale (s : State) (r : Reg) (v : W64) (i j : Nat) : (s.setRg r v i j).stale = s.stale := rfl
@[simp] theorem State.setRg_poison (s : State) (r : Reg) (v : W64) (i j : Nat) : (s.setRg r v i j).poison = s.poison := rfl
@[simp] theorem State.setRg_badLines (s : State) (r : Reg) (v : W64) (i j : Nat) : (s.setRg r v i j).badLines = s.badLines := rfl
@[simp] theorem State.setRg_time (s : State) (r : Reg) (v : W64) (i j : Nat) : (s.setRg r v i j).time = s.time := rfl
@[simp] theorem State.setRg_queues (s : State) (r : Reg) (v : W64) (i j : Nat) : (s.setRg r v i j).queues = s.queues := rfl
@[simp] theorem State.setRg_turns (s : State) (r : Reg) (v : W64) (i j : Nat) : (s.setRg r v i j).turns = s.turns := rfl
@[simp] theorem State.setRg_waiters (s : State) (r : Reg) (v : W64) (i j : Nat) : (s.setRg r v i j).waiters = s.waiters := rfl
@[simp] theorem State.setRg_bars (s : State) (r : Reg) (v : W64) (i j : Nat) : (s.setRg r v i j).bars = s.bars := rfl
@[simp] theorem State.setRg_gcs (s : State) (r : Reg) (v : W64) (i j : Nat) : (s.setRg r v i j).gcs = s.gcs := rfl
@[simp] theorem State.setRg_ves (s : State) (r : Reg) (v : W64) (i j : Nat) : (s.setRg r v i j).ves = s.ves := rfl
@[simp] theorem State.setRg_mcs (s : State) (r : Reg) (v : W64) (i j : Nat) : (s.setRg r v i j).mcs = s.mcs := rfl
@[simp] theorem State.setRg_tables (s : State) (r : Reg) (v : W64) (i j : Nat) : (s.setRg r v i j).tables = s.tables := rfl
@[simp] theorem State.setRg_hot (s : State) (r : Reg) (v : W64) (i j : Nat) : (s.setRg r v i j).hot = s.hot := rfl
@[simp] theorem State.setRg_sketches (s : State) (r : Reg) (v : W64) (i j : Nat) : (s.setRg r v i j).sketches = s.sketches := rfl
@[simp] theorem State.setRg_samps (s : State) (r : Reg) (v : W64) (i j : Nat) : (s.setRg r v i j).samps = s.samps := rfl
@[simp] theorem State.setRg_sampNext (s : State) (r : Reg) (v : W64) (i j : Nat) : (s.setRg r v i j).sampNext = s.sampNext := rfl
@[simp] theorem State.setRg_troughs (s : State) (r : Reg) (v : W64) (i j : Nat) : (s.setRg r v i j).troughs = s.troughs := rfl
@[simp] theorem State.setRg_tmsgs (s : State) (r : Reg) (v : W64) (i j : Nat) : (s.setRg r v i j).tmsgs = s.tmsgs := rfl
@[simp] theorem State.setRg_tresent (s : State) (r : Reg) (v : W64) (i j : Nat) : (s.setRg r v i j).tresent = s.tresent := rfl
@[simp] theorem State.setRg_treply (s : State) (r : Reg) (v : W64) (i j : Nat) : (s.setRg r v i j).treply = s.treply := rfl
@[simp] theorem State.setRg_clog (s : State) (r : Reg) (v : W64) (i j : Nat) : (s.setRg r v i j).clog = s.clog := rfl
@[simp] theorem State.setRg_replay (s : State) (r : Reg) (v : W64) (i j : Nat) : (s.setRg r v i j).replay = s.replay := rfl
@[simp] theorem State.setRg_stepVers (s : State) (r : Reg) (v : W64) (i j : Nat) : (s.setRg r v i j).stepVers = s.stepVers := rfl
@[simp] theorem State.setRg_memKey (s : State) (r : Reg) (v : W64) (i j : Nat) : (s.setRg r v i j).memKey = s.memKey := rfl
@[simp] theorem State.setRg_snap (s : State) (r : Reg) (v : W64) (i j : Nat) : (s.setRg r v i j).snap = s.snap := rfl
@[simp] theorem State.setRg_colIn (s : State) (r : Reg) (v : W64) (i j : Nat) : (s.setRg r v i j).colIn = s.colIn := rfl
@[simp] theorem State.setRg_colAck (s : State) (r : Reg) (v : W64) (i j : Nat) : (s.setRg r v i j).colAck = s.colAck := rfl
@[simp] theorem State.setRg_ctxs (s : State) (r : Reg) (v : W64) (i j : Nat) : (s.setRg r v i j).ctxs = s.ctxs := rfl
@[simp] theorem State.setRg_ponds (s : State) (r : Reg) (v : W64) (i j : Nat) : (s.setRg r v i j).ponds = s.ponds := rfl
@[simp] theorem State.setRg_chans (s : State) (r : Reg) (v : W64) (i j : Nat) : (s.setRg r v i j).chans = s.chans := rfl
@[simp] theorem State.setRg_scrubbed (s : State) (r : Reg) (v : W64) (i j : Nat) : (s.setRg r v i j).scrubbed = s.scrubbed := rfl
@[simp] theorem State.setRg_dirs (s : State) (r : Reg) (v : W64) (i j : Nat) : (s.setRg r v i j).dirs = s.dirs := rfl
@[simp] theorem State.setRg_rem (s : State) (r : Reg) (v : W64) (i j : Nat) : (s.setRg r v i j).rem = s.rem := rfl
@[simp] theorem State.setRg_pcc (s : State) (r : Reg) (v : W64) (i j : Nat) : (s.setRg r v i j).pcc = s.pcc := rfl
@[simp] theorem State.setRg_pccLast (s : State) (r : Reg) (v : W64) (i j : Nat) : (s.setRg r v i j).pccLast = s.pccLast := rfl
@[simp] theorem State.setRg_traces (s : State) (r : Reg) (v : W64) (i j : Nat) : (s.setRg r v i j).traces = s.traces := rfl
@[simp] theorem State.setRg_silt (s : State) (r : Reg) (v : W64) (i j : Nat) : (s.setRg r v i j).silt = s.silt := rfl
@[simp] theorem State.setRg_siltSerial (s : State) (r : Reg) (v : W64) (i j : Nat) : (s.setRg r v i j).siltSerial = s.siltSerial := rfl
@[simp] theorem State.setRg_fault (s : State) (r : Reg) (v : W64) (i j : Nat) : (s.setRg r v i j).fault = s.fault := rfl
@[simp] theorem State.setRg_power (s : State) (r : Reg) (v : W64) (i j : Nat) : (s.setRg r v i j).power = s.power := rfl
@[simp] theorem State.setRg_link (s : State) (r : Reg) (v : W64) (i j : Nat) : (s.setRg r v i j).link = s.link := rfl
@[simp] theorem State.setRg_host (s : State) (r : Reg) (v : W64) (i j : Nat) : (s.setRg r v i j).host = s.host := rfl
@[simp] theorem State.setRg_boot (s : State) (r : Reg) (v : W64) (i j : Nat) : (s.setRg r v i j).boot = s.boot := rfl
@[simp] theorem State.setRg_pins (s : State) (r : Reg) (v : W64) (i j : Nat) : (s.setRg r v i j).pins = s.pins := rfl
@[simp] theorem State.setRg_irqs (s : State) (r : Reg) (v : W64) (i j : Nat) : (s.setRg r v i j).irqs = s.irqs := rfl
@[simp] theorem State.setRg_free (s : State) (r : Reg) (v : W64) (i j : Nat) : (s.setRg r v i j).free = s.free := rfl

@[simp] theorem State.set_pending (s : State) (f : Fld) (n i j : Nat) : (s.set f n i j).pending = s.pending := rfl
@[simp] theorem State.set_mem (s : State) (f : Fld) (n i j : Nat) : (s.set f n i j).mem = s.mem := rfl
@[simp] theorem State.set_stale (s : State) (f : Fld) (n i j : Nat) : (s.set f n i j).stale = s.stale := rfl
@[simp] theorem State.set_poison (s : State) (f : Fld) (n i j : Nat) : (s.set f n i j).poison = s.poison := rfl
@[simp] theorem State.set_badLines (s : State) (f : Fld) (n i j : Nat) : (s.set f n i j).badLines = s.badLines := rfl
@[simp] theorem State.set_time (s : State) (f : Fld) (n i j : Nat) : (s.set f n i j).time = s.time := rfl
@[simp] theorem State.set_queues (s : State) (f : Fld) (n i j : Nat) : (s.set f n i j).queues = s.queues := rfl
@[simp] theorem State.set_turns (s : State) (f : Fld) (n i j : Nat) : (s.set f n i j).turns = s.turns := rfl
@[simp] theorem State.set_waiters (s : State) (f : Fld) (n i j : Nat) : (s.set f n i j).waiters = s.waiters := rfl
@[simp] theorem State.set_bars (s : State) (f : Fld) (n i j : Nat) : (s.set f n i j).bars = s.bars := rfl
@[simp] theorem State.set_gcs (s : State) (f : Fld) (n i j : Nat) : (s.set f n i j).gcs = s.gcs := rfl
@[simp] theorem State.set_ves (s : State) (f : Fld) (n i j : Nat) : (s.set f n i j).ves = s.ves := rfl
@[simp] theorem State.set_mcs (s : State) (f : Fld) (n i j : Nat) : (s.set f n i j).mcs = s.mcs := rfl
@[simp] theorem State.set_tables (s : State) (f : Fld) (n i j : Nat) : (s.set f n i j).tables = s.tables := rfl
@[simp] theorem State.set_hot (s : State) (f : Fld) (n i j : Nat) : (s.set f n i j).hot = s.hot := rfl
@[simp] theorem State.set_sketches (s : State) (f : Fld) (n i j : Nat) : (s.set f n i j).sketches = s.sketches := rfl
@[simp] theorem State.set_samps (s : State) (f : Fld) (n i j : Nat) : (s.set f n i j).samps = s.samps := rfl
@[simp] theorem State.set_sampNext (s : State) (f : Fld) (n i j : Nat) : (s.set f n i j).sampNext = s.sampNext := rfl
@[simp] theorem State.set_troughs (s : State) (f : Fld) (n i j : Nat) : (s.set f n i j).troughs = s.troughs := rfl
@[simp] theorem State.set_tmsgs (s : State) (f : Fld) (n i j : Nat) : (s.set f n i j).tmsgs = s.tmsgs := rfl
@[simp] theorem State.set_tresent (s : State) (f : Fld) (n i j : Nat) : (s.set f n i j).tresent = s.tresent := rfl
@[simp] theorem State.set_treply (s : State) (f : Fld) (n i j : Nat) : (s.set f n i j).treply = s.treply := rfl
@[simp] theorem State.set_clog (s : State) (f : Fld) (n i j : Nat) : (s.set f n i j).clog = s.clog := rfl
@[simp] theorem State.set_replay (s : State) (f : Fld) (n i j : Nat) : (s.set f n i j).replay = s.replay := rfl
@[simp] theorem State.set_stepVers (s : State) (f : Fld) (n i j : Nat) : (s.set f n i j).stepVers = s.stepVers := rfl
@[simp] theorem State.set_memKey (s : State) (f : Fld) (n i j : Nat) : (s.set f n i j).memKey = s.memKey := rfl
@[simp] theorem State.set_snap (s : State) (f : Fld) (n i j : Nat) : (s.set f n i j).snap = s.snap := rfl
@[simp] theorem State.set_colIn (s : State) (f : Fld) (n i j : Nat) : (s.set f n i j).colIn = s.colIn := rfl
@[simp] theorem State.set_colAck (s : State) (f : Fld) (n i j : Nat) : (s.set f n i j).colAck = s.colAck := rfl
@[simp] theorem State.set_ctxs (s : State) (f : Fld) (n i j : Nat) : (s.set f n i j).ctxs = s.ctxs := rfl
@[simp] theorem State.set_ponds (s : State) (f : Fld) (n i j : Nat) : (s.set f n i j).ponds = s.ponds := rfl
@[simp] theorem State.set_chans (s : State) (f : Fld) (n i j : Nat) : (s.set f n i j).chans = s.chans := rfl
@[simp] theorem State.set_scrubbed (s : State) (f : Fld) (n i j : Nat) : (s.set f n i j).scrubbed = s.scrubbed := rfl
@[simp] theorem State.set_dirs (s : State) (f : Fld) (n i j : Nat) : (s.set f n i j).dirs = s.dirs := rfl
@[simp] theorem State.set_rem (s : State) (f : Fld) (n i j : Nat) : (s.set f n i j).rem = s.rem := rfl
@[simp] theorem State.set_pcc (s : State) (f : Fld) (n i j : Nat) : (s.set f n i j).pcc = s.pcc := rfl
@[simp] theorem State.set_pccLast (s : State) (f : Fld) (n i j : Nat) : (s.set f n i j).pccLast = s.pccLast := rfl
@[simp] theorem State.set_traces (s : State) (f : Fld) (n i j : Nat) : (s.set f n i j).traces = s.traces := rfl
@[simp] theorem State.set_silt (s : State) (f : Fld) (n i j : Nat) : (s.set f n i j).silt = s.silt := rfl
@[simp] theorem State.set_siltSerial (s : State) (f : Fld) (n i j : Nat) : (s.set f n i j).siltSerial = s.siltSerial := rfl
@[simp] theorem State.set_fault (s : State) (f : Fld) (n i j : Nat) : (s.set f n i j).fault = s.fault := rfl
@[simp] theorem State.set_power (s : State) (f : Fld) (n i j : Nat) : (s.set f n i j).power = s.power := rfl
@[simp] theorem State.set_link (s : State) (f : Fld) (n i j : Nat) : (s.set f n i j).link = s.link := rfl
@[simp] theorem State.set_host (s : State) (f : Fld) (n i j : Nat) : (s.set f n i j).host = s.host := rfl
@[simp] theorem State.set_boot (s : State) (f : Fld) (n i j : Nat) : (s.set f n i j).boot = s.boot := rfl
@[simp] theorem State.set_pins (s : State) (f : Fld) (n i j : Nat) : (s.set f n i j).pins = s.pins := rfl
@[simp] theorem State.set_irqs (s : State) (f : Fld) (n i j : Nat) : (s.set f n i j).irqs = s.irqs := rfl
@[simp] theorem State.set_free (s : State) (f : Fld) (n i j : Nat) : (s.set f n i j).free = s.free := rfl

@[simp] theorem State.stick_pending (s : State) (f : Fld) (i j : Nat) : (s.stick f i j).pending = s.pending := rfl
@[simp] theorem State.stick_mem (s : State) (f : Fld) (i j : Nat) : (s.stick f i j).mem = s.mem := rfl
@[simp] theorem State.stick_stale (s : State) (f : Fld) (i j : Nat) : (s.stick f i j).stale = s.stale := rfl
@[simp] theorem State.stick_poison (s : State) (f : Fld) (i j : Nat) : (s.stick f i j).poison = s.poison := rfl
@[simp] theorem State.stick_badLines (s : State) (f : Fld) (i j : Nat) : (s.stick f i j).badLines = s.badLines := rfl
@[simp] theorem State.stick_time (s : State) (f : Fld) (i j : Nat) : (s.stick f i j).time = s.time := rfl
@[simp] theorem State.stick_queues (s : State) (f : Fld) (i j : Nat) : (s.stick f i j).queues = s.queues := rfl
@[simp] theorem State.stick_turns (s : State) (f : Fld) (i j : Nat) : (s.stick f i j).turns = s.turns := rfl
@[simp] theorem State.stick_waiters (s : State) (f : Fld) (i j : Nat) : (s.stick f i j).waiters = s.waiters := rfl
@[simp] theorem State.stick_bars (s : State) (f : Fld) (i j : Nat) : (s.stick f i j).bars = s.bars := rfl
@[simp] theorem State.stick_gcs (s : State) (f : Fld) (i j : Nat) : (s.stick f i j).gcs = s.gcs := rfl
@[simp] theorem State.stick_ves (s : State) (f : Fld) (i j : Nat) : (s.stick f i j).ves = s.ves := rfl
@[simp] theorem State.stick_mcs (s : State) (f : Fld) (i j : Nat) : (s.stick f i j).mcs = s.mcs := rfl
@[simp] theorem State.stick_tables (s : State) (f : Fld) (i j : Nat) : (s.stick f i j).tables = s.tables := rfl
@[simp] theorem State.stick_hot (s : State) (f : Fld) (i j : Nat) : (s.stick f i j).hot = s.hot := rfl
@[simp] theorem State.stick_sketches (s : State) (f : Fld) (i j : Nat) : (s.stick f i j).sketches = s.sketches := rfl
@[simp] theorem State.stick_samps (s : State) (f : Fld) (i j : Nat) : (s.stick f i j).samps = s.samps := rfl
@[simp] theorem State.stick_sampNext (s : State) (f : Fld) (i j : Nat) : (s.stick f i j).sampNext = s.sampNext := rfl
@[simp] theorem State.stick_troughs (s : State) (f : Fld) (i j : Nat) : (s.stick f i j).troughs = s.troughs := rfl
@[simp] theorem State.stick_tmsgs (s : State) (f : Fld) (i j : Nat) : (s.stick f i j).tmsgs = s.tmsgs := rfl
@[simp] theorem State.stick_tresent (s : State) (f : Fld) (i j : Nat) : (s.stick f i j).tresent = s.tresent := rfl
@[simp] theorem State.stick_treply (s : State) (f : Fld) (i j : Nat) : (s.stick f i j).treply = s.treply := rfl
@[simp] theorem State.stick_clog (s : State) (f : Fld) (i j : Nat) : (s.stick f i j).clog = s.clog := rfl
@[simp] theorem State.stick_replay (s : State) (f : Fld) (i j : Nat) : (s.stick f i j).replay = s.replay := rfl
@[simp] theorem State.stick_stepVers (s : State) (f : Fld) (i j : Nat) : (s.stick f i j).stepVers = s.stepVers := rfl
@[simp] theorem State.stick_memKey (s : State) (f : Fld) (i j : Nat) : (s.stick f i j).memKey = s.memKey := rfl
@[simp] theorem State.stick_snap (s : State) (f : Fld) (i j : Nat) : (s.stick f i j).snap = s.snap := rfl
@[simp] theorem State.stick_colIn (s : State) (f : Fld) (i j : Nat) : (s.stick f i j).colIn = s.colIn := rfl
@[simp] theorem State.stick_colAck (s : State) (f : Fld) (i j : Nat) : (s.stick f i j).colAck = s.colAck := rfl
@[simp] theorem State.stick_ctxs (s : State) (f : Fld) (i j : Nat) : (s.stick f i j).ctxs = s.ctxs := rfl
@[simp] theorem State.stick_ponds (s : State) (f : Fld) (i j : Nat) : (s.stick f i j).ponds = s.ponds := rfl
@[simp] theorem State.stick_chans (s : State) (f : Fld) (i j : Nat) : (s.stick f i j).chans = s.chans := rfl
@[simp] theorem State.stick_scrubbed (s : State) (f : Fld) (i j : Nat) : (s.stick f i j).scrubbed = s.scrubbed := rfl
@[simp] theorem State.stick_dirs (s : State) (f : Fld) (i j : Nat) : (s.stick f i j).dirs = s.dirs := rfl
@[simp] theorem State.stick_rem (s : State) (f : Fld) (i j : Nat) : (s.stick f i j).rem = s.rem := rfl
@[simp] theorem State.stick_pcc (s : State) (f : Fld) (i j : Nat) : (s.stick f i j).pcc = s.pcc := rfl
@[simp] theorem State.stick_pccLast (s : State) (f : Fld) (i j : Nat) : (s.stick f i j).pccLast = s.pccLast := rfl
@[simp] theorem State.stick_traces (s : State) (f : Fld) (i j : Nat) : (s.stick f i j).traces = s.traces := rfl
@[simp] theorem State.stick_silt (s : State) (f : Fld) (i j : Nat) : (s.stick f i j).silt = s.silt := rfl
@[simp] theorem State.stick_siltSerial (s : State) (f : Fld) (i j : Nat) : (s.stick f i j).siltSerial = s.siltSerial := rfl
@[simp] theorem State.stick_fault (s : State) (f : Fld) (i j : Nat) : (s.stick f i j).fault = s.fault := rfl
@[simp] theorem State.stick_power (s : State) (f : Fld) (i j : Nat) : (s.stick f i j).power = s.power := rfl
@[simp] theorem State.stick_link (s : State) (f : Fld) (i j : Nat) : (s.stick f i j).link = s.link := rfl
@[simp] theorem State.stick_host (s : State) (f : Fld) (i j : Nat) : (s.stick f i j).host = s.host := rfl
@[simp] theorem State.stick_boot (s : State) (f : Fld) (i j : Nat) : (s.stick f i j).boot = s.boot := rfl
@[simp] theorem State.stick_pins (s : State) (f : Fld) (i j : Nat) : (s.stick f i j).pins = s.pins := rfl
@[simp] theorem State.stick_irqs (s : State) (f : Fld) (i j : Nat) : (s.stick f i j).irqs = s.irqs := rfl
@[simp] theorem State.stick_free (s : State) (f : Fld) (i j : Nat) : (s.stick f i j).free = s.free := rfl

@[simp] theorem State.bump_pending (s : State) (f : Fld) (n i j : Nat) : (s.bump f n i j).pending = s.pending := rfl
@[simp] theorem State.bump_mem (s : State) (f : Fld) (n i j : Nat) : (s.bump f n i j).mem = s.mem := rfl
@[simp] theorem State.bump_stale (s : State) (f : Fld) (n i j : Nat) : (s.bump f n i j).stale = s.stale := rfl
@[simp] theorem State.bump_poison (s : State) (f : Fld) (n i j : Nat) : (s.bump f n i j).poison = s.poison := rfl
@[simp] theorem State.bump_badLines (s : State) (f : Fld) (n i j : Nat) : (s.bump f n i j).badLines = s.badLines := rfl
@[simp] theorem State.bump_time (s : State) (f : Fld) (n i j : Nat) : (s.bump f n i j).time = s.time := rfl
@[simp] theorem State.bump_queues (s : State) (f : Fld) (n i j : Nat) : (s.bump f n i j).queues = s.queues := rfl
@[simp] theorem State.bump_turns (s : State) (f : Fld) (n i j : Nat) : (s.bump f n i j).turns = s.turns := rfl
@[simp] theorem State.bump_waiters (s : State) (f : Fld) (n i j : Nat) : (s.bump f n i j).waiters = s.waiters := rfl
@[simp] theorem State.bump_bars (s : State) (f : Fld) (n i j : Nat) : (s.bump f n i j).bars = s.bars := rfl
@[simp] theorem State.bump_gcs (s : State) (f : Fld) (n i j : Nat) : (s.bump f n i j).gcs = s.gcs := rfl
@[simp] theorem State.bump_ves (s : State) (f : Fld) (n i j : Nat) : (s.bump f n i j).ves = s.ves := rfl
@[simp] theorem State.bump_mcs (s : State) (f : Fld) (n i j : Nat) : (s.bump f n i j).mcs = s.mcs := rfl
@[simp] theorem State.bump_tables (s : State) (f : Fld) (n i j : Nat) : (s.bump f n i j).tables = s.tables := rfl
@[simp] theorem State.bump_hot (s : State) (f : Fld) (n i j : Nat) : (s.bump f n i j).hot = s.hot := rfl
@[simp] theorem State.bump_sketches (s : State) (f : Fld) (n i j : Nat) : (s.bump f n i j).sketches = s.sketches := rfl
@[simp] theorem State.bump_samps (s : State) (f : Fld) (n i j : Nat) : (s.bump f n i j).samps = s.samps := rfl
@[simp] theorem State.bump_sampNext (s : State) (f : Fld) (n i j : Nat) : (s.bump f n i j).sampNext = s.sampNext := rfl
@[simp] theorem State.bump_troughs (s : State) (f : Fld) (n i j : Nat) : (s.bump f n i j).troughs = s.troughs := rfl
@[simp] theorem State.bump_tmsgs (s : State) (f : Fld) (n i j : Nat) : (s.bump f n i j).tmsgs = s.tmsgs := rfl
@[simp] theorem State.bump_tresent (s : State) (f : Fld) (n i j : Nat) : (s.bump f n i j).tresent = s.tresent := rfl
@[simp] theorem State.bump_treply (s : State) (f : Fld) (n i j : Nat) : (s.bump f n i j).treply = s.treply := rfl
@[simp] theorem State.bump_clog (s : State) (f : Fld) (n i j : Nat) : (s.bump f n i j).clog = s.clog := rfl
@[simp] theorem State.bump_replay (s : State) (f : Fld) (n i j : Nat) : (s.bump f n i j).replay = s.replay := rfl
@[simp] theorem State.bump_stepVers (s : State) (f : Fld) (n i j : Nat) : (s.bump f n i j).stepVers = s.stepVers := rfl
@[simp] theorem State.bump_memKey (s : State) (f : Fld) (n i j : Nat) : (s.bump f n i j).memKey = s.memKey := rfl
@[simp] theorem State.bump_snap (s : State) (f : Fld) (n i j : Nat) : (s.bump f n i j).snap = s.snap := rfl
@[simp] theorem State.bump_colIn (s : State) (f : Fld) (n i j : Nat) : (s.bump f n i j).colIn = s.colIn := rfl
@[simp] theorem State.bump_colAck (s : State) (f : Fld) (n i j : Nat) : (s.bump f n i j).colAck = s.colAck := rfl
@[simp] theorem State.bump_ctxs (s : State) (f : Fld) (n i j : Nat) : (s.bump f n i j).ctxs = s.ctxs := rfl
@[simp] theorem State.bump_ponds (s : State) (f : Fld) (n i j : Nat) : (s.bump f n i j).ponds = s.ponds := rfl
@[simp] theorem State.bump_chans (s : State) (f : Fld) (n i j : Nat) : (s.bump f n i j).chans = s.chans := rfl
@[simp] theorem State.bump_scrubbed (s : State) (f : Fld) (n i j : Nat) : (s.bump f n i j).scrubbed = s.scrubbed := rfl
@[simp] theorem State.bump_dirs (s : State) (f : Fld) (n i j : Nat) : (s.bump f n i j).dirs = s.dirs := rfl
@[simp] theorem State.bump_rem (s : State) (f : Fld) (n i j : Nat) : (s.bump f n i j).rem = s.rem := rfl
@[simp] theorem State.bump_pcc (s : State) (f : Fld) (n i j : Nat) : (s.bump f n i j).pcc = s.pcc := rfl
@[simp] theorem State.bump_pccLast (s : State) (f : Fld) (n i j : Nat) : (s.bump f n i j).pccLast = s.pccLast := rfl
@[simp] theorem State.bump_traces (s : State) (f : Fld) (n i j : Nat) : (s.bump f n i j).traces = s.traces := rfl
@[simp] theorem State.bump_silt (s : State) (f : Fld) (n i j : Nat) : (s.bump f n i j).silt = s.silt := rfl
@[simp] theorem State.bump_siltSerial (s : State) (f : Fld) (n i j : Nat) : (s.bump f n i j).siltSerial = s.siltSerial := rfl
@[simp] theorem State.bump_fault (s : State) (f : Fld) (n i j : Nat) : (s.bump f n i j).fault = s.fault := rfl
@[simp] theorem State.bump_power (s : State) (f : Fld) (n i j : Nat) : (s.bump f n i j).power = s.power := rfl
@[simp] theorem State.bump_link (s : State) (f : Fld) (n i j : Nat) : (s.bump f n i j).link = s.link := rfl
@[simp] theorem State.bump_host (s : State) (f : Fld) (n i j : Nat) : (s.bump f n i j).host = s.host := rfl
@[simp] theorem State.bump_boot (s : State) (f : Fld) (n i j : Nat) : (s.bump f n i j).boot = s.boot := rfl
@[simp] theorem State.bump_pins (s : State) (f : Fld) (n i j : Nat) : (s.bump f n i j).pins = s.pins := rfl
@[simp] theorem State.bump_irqs (s : State) (f : Fld) (n i j : Nat) : (s.bump f n i j).irqs = s.irqs := rfl
@[simp] theorem State.bump_free (s : State) (f : Fld) (n i j : Nat) : (s.bump f n i j).free = s.free := rfl

@[simp] theorem State.sat_pending (s : State) (f : Fld) (n i j : Nat) : (s.sat f n i j).pending = s.pending := rfl
@[simp] theorem State.sat_mem (s : State) (f : Fld) (n i j : Nat) : (s.sat f n i j).mem = s.mem := rfl
@[simp] theorem State.sat_stale (s : State) (f : Fld) (n i j : Nat) : (s.sat f n i j).stale = s.stale := rfl
@[simp] theorem State.sat_poison (s : State) (f : Fld) (n i j : Nat) : (s.sat f n i j).poison = s.poison := rfl
@[simp] theorem State.sat_badLines (s : State) (f : Fld) (n i j : Nat) : (s.sat f n i j).badLines = s.badLines := rfl
@[simp] theorem State.sat_time (s : State) (f : Fld) (n i j : Nat) : (s.sat f n i j).time = s.time := rfl
@[simp] theorem State.sat_queues (s : State) (f : Fld) (n i j : Nat) : (s.sat f n i j).queues = s.queues := rfl
@[simp] theorem State.sat_turns (s : State) (f : Fld) (n i j : Nat) : (s.sat f n i j).turns = s.turns := rfl
@[simp] theorem State.sat_waiters (s : State) (f : Fld) (n i j : Nat) : (s.sat f n i j).waiters = s.waiters := rfl
@[simp] theorem State.sat_bars (s : State) (f : Fld) (n i j : Nat) : (s.sat f n i j).bars = s.bars := rfl
@[simp] theorem State.sat_gcs (s : State) (f : Fld) (n i j : Nat) : (s.sat f n i j).gcs = s.gcs := rfl
@[simp] theorem State.sat_ves (s : State) (f : Fld) (n i j : Nat) : (s.sat f n i j).ves = s.ves := rfl
@[simp] theorem State.sat_mcs (s : State) (f : Fld) (n i j : Nat) : (s.sat f n i j).mcs = s.mcs := rfl
@[simp] theorem State.sat_tables (s : State) (f : Fld) (n i j : Nat) : (s.sat f n i j).tables = s.tables := rfl
@[simp] theorem State.sat_hot (s : State) (f : Fld) (n i j : Nat) : (s.sat f n i j).hot = s.hot := rfl
@[simp] theorem State.sat_sketches (s : State) (f : Fld) (n i j : Nat) : (s.sat f n i j).sketches = s.sketches := rfl
@[simp] theorem State.sat_samps (s : State) (f : Fld) (n i j : Nat) : (s.sat f n i j).samps = s.samps := rfl
@[simp] theorem State.sat_sampNext (s : State) (f : Fld) (n i j : Nat) : (s.sat f n i j).sampNext = s.sampNext := rfl
@[simp] theorem State.sat_troughs (s : State) (f : Fld) (n i j : Nat) : (s.sat f n i j).troughs = s.troughs := rfl
@[simp] theorem State.sat_tmsgs (s : State) (f : Fld) (n i j : Nat) : (s.sat f n i j).tmsgs = s.tmsgs := rfl
@[simp] theorem State.sat_tresent (s : State) (f : Fld) (n i j : Nat) : (s.sat f n i j).tresent = s.tresent := rfl
@[simp] theorem State.sat_treply (s : State) (f : Fld) (n i j : Nat) : (s.sat f n i j).treply = s.treply := rfl
@[simp] theorem State.sat_clog (s : State) (f : Fld) (n i j : Nat) : (s.sat f n i j).clog = s.clog := rfl
@[simp] theorem State.sat_replay (s : State) (f : Fld) (n i j : Nat) : (s.sat f n i j).replay = s.replay := rfl
@[simp] theorem State.sat_stepVers (s : State) (f : Fld) (n i j : Nat) : (s.sat f n i j).stepVers = s.stepVers := rfl
@[simp] theorem State.sat_memKey (s : State) (f : Fld) (n i j : Nat) : (s.sat f n i j).memKey = s.memKey := rfl
@[simp] theorem State.sat_snap (s : State) (f : Fld) (n i j : Nat) : (s.sat f n i j).snap = s.snap := rfl
@[simp] theorem State.sat_colIn (s : State) (f : Fld) (n i j : Nat) : (s.sat f n i j).colIn = s.colIn := rfl
@[simp] theorem State.sat_colAck (s : State) (f : Fld) (n i j : Nat) : (s.sat f n i j).colAck = s.colAck := rfl
@[simp] theorem State.sat_ctxs (s : State) (f : Fld) (n i j : Nat) : (s.sat f n i j).ctxs = s.ctxs := rfl
@[simp] theorem State.sat_ponds (s : State) (f : Fld) (n i j : Nat) : (s.sat f n i j).ponds = s.ponds := rfl
@[simp] theorem State.sat_chans (s : State) (f : Fld) (n i j : Nat) : (s.sat f n i j).chans = s.chans := rfl
@[simp] theorem State.sat_scrubbed (s : State) (f : Fld) (n i j : Nat) : (s.sat f n i j).scrubbed = s.scrubbed := rfl
@[simp] theorem State.sat_dirs (s : State) (f : Fld) (n i j : Nat) : (s.sat f n i j).dirs = s.dirs := rfl
@[simp] theorem State.sat_rem (s : State) (f : Fld) (n i j : Nat) : (s.sat f n i j).rem = s.rem := rfl
@[simp] theorem State.sat_pcc (s : State) (f : Fld) (n i j : Nat) : (s.sat f n i j).pcc = s.pcc := rfl
@[simp] theorem State.sat_pccLast (s : State) (f : Fld) (n i j : Nat) : (s.sat f n i j).pccLast = s.pccLast := rfl
@[simp] theorem State.sat_traces (s : State) (f : Fld) (n i j : Nat) : (s.sat f n i j).traces = s.traces := rfl
@[simp] theorem State.sat_silt (s : State) (f : Fld) (n i j : Nat) : (s.sat f n i j).silt = s.silt := rfl
@[simp] theorem State.sat_siltSerial (s : State) (f : Fld) (n i j : Nat) : (s.sat f n i j).siltSerial = s.siltSerial := rfl
@[simp] theorem State.sat_fault (s : State) (f : Fld) (n i j : Nat) : (s.sat f n i j).fault = s.fault := rfl
@[simp] theorem State.sat_power (s : State) (f : Fld) (n i j : Nat) : (s.sat f n i j).power = s.power := rfl
@[simp] theorem State.sat_link (s : State) (f : Fld) (n i j : Nat) : (s.sat f n i j).link = s.link := rfl
@[simp] theorem State.sat_host (s : State) (f : Fld) (n i j : Nat) : (s.sat f n i j).host = s.host := rfl
@[simp] theorem State.sat_boot (s : State) (f : Fld) (n i j : Nat) : (s.sat f n i j).boot = s.boot := rfl
@[simp] theorem State.sat_pins (s : State) (f : Fld) (n i j : Nat) : (s.sat f n i j).pins = s.pins := rfl
@[simp] theorem State.sat_irqs (s : State) (f : Fld) (n i j : Nat) : (s.sat f n i j).irqs = s.irqs := rfl
@[simp] theorem State.sat_free (s : State) (f : Fld) (n i j : Nat) : (s.sat f n i j).free = s.free := rfl

@[simp] theorem State.wr8_pending (s : State) (a : Nat) (b : Byte) : (s.wr8 a b).pending = s.pending := rfl
@[simp] theorem State.wr8_regs (s : State) (a : Nat) (b : Byte) : (s.wr8 a b).regs = s.regs := rfl
@[simp] theorem State.wr8_stale (s : State) (a : Nat) (b : Byte) : (s.wr8 a b).stale = s.stale := rfl
@[simp] theorem State.wr8_poison (s : State) (a : Nat) (b : Byte) : (s.wr8 a b).poison = s.poison := rfl
@[simp] theorem State.wr8_badLines (s : State) (a : Nat) (b : Byte) : (s.wr8 a b).badLines = s.badLines := rfl
@[simp] theorem State.wr8_time (s : State) (a : Nat) (b : Byte) : (s.wr8 a b).time = s.time := rfl
@[simp] theorem State.wr8_queues (s : State) (a : Nat) (b : Byte) : (s.wr8 a b).queues = s.queues := rfl
@[simp] theorem State.wr8_turns (s : State) (a : Nat) (b : Byte) : (s.wr8 a b).turns = s.turns := rfl
@[simp] theorem State.wr8_waiters (s : State) (a : Nat) (b : Byte) : (s.wr8 a b).waiters = s.waiters := rfl
@[simp] theorem State.wr8_bars (s : State) (a : Nat) (b : Byte) : (s.wr8 a b).bars = s.bars := rfl
@[simp] theorem State.wr8_gcs (s : State) (a : Nat) (b : Byte) : (s.wr8 a b).gcs = s.gcs := rfl
@[simp] theorem State.wr8_ves (s : State) (a : Nat) (b : Byte) : (s.wr8 a b).ves = s.ves := rfl
@[simp] theorem State.wr8_mcs (s : State) (a : Nat) (b : Byte) : (s.wr8 a b).mcs = s.mcs := rfl
@[simp] theorem State.wr8_tables (s : State) (a : Nat) (b : Byte) : (s.wr8 a b).tables = s.tables := rfl
@[simp] theorem State.wr8_hot (s : State) (a : Nat) (b : Byte) : (s.wr8 a b).hot = s.hot := rfl
@[simp] theorem State.wr8_sketches (s : State) (a : Nat) (b : Byte) : (s.wr8 a b).sketches = s.sketches := rfl
@[simp] theorem State.wr8_samps (s : State) (a : Nat) (b : Byte) : (s.wr8 a b).samps = s.samps := rfl
@[simp] theorem State.wr8_sampNext (s : State) (a : Nat) (b : Byte) : (s.wr8 a b).sampNext = s.sampNext := rfl
@[simp] theorem State.wr8_troughs (s : State) (a : Nat) (b : Byte) : (s.wr8 a b).troughs = s.troughs := rfl
@[simp] theorem State.wr8_tmsgs (s : State) (a : Nat) (b : Byte) : (s.wr8 a b).tmsgs = s.tmsgs := rfl
@[simp] theorem State.wr8_tresent (s : State) (a : Nat) (b : Byte) : (s.wr8 a b).tresent = s.tresent := rfl
@[simp] theorem State.wr8_treply (s : State) (a : Nat) (b : Byte) : (s.wr8 a b).treply = s.treply := rfl
@[simp] theorem State.wr8_clog (s : State) (a : Nat) (b : Byte) : (s.wr8 a b).clog = s.clog := rfl
@[simp] theorem State.wr8_replay (s : State) (a : Nat) (b : Byte) : (s.wr8 a b).replay = s.replay := rfl
@[simp] theorem State.wr8_stepVers (s : State) (a : Nat) (b : Byte) : (s.wr8 a b).stepVers = s.stepVers := rfl
@[simp] theorem State.wr8_memKey (s : State) (a : Nat) (b : Byte) : (s.wr8 a b).memKey = s.memKey := rfl
@[simp] theorem State.wr8_snap (s : State) (a : Nat) (b : Byte) : (s.wr8 a b).snap = s.snap := rfl
@[simp] theorem State.wr8_colIn (s : State) (a : Nat) (b : Byte) : (s.wr8 a b).colIn = s.colIn := rfl
@[simp] theorem State.wr8_colAck (s : State) (a : Nat) (b : Byte) : (s.wr8 a b).colAck = s.colAck := rfl
@[simp] theorem State.wr8_ctxs (s : State) (a : Nat) (b : Byte) : (s.wr8 a b).ctxs = s.ctxs := rfl
@[simp] theorem State.wr8_ponds (s : State) (a : Nat) (b : Byte) : (s.wr8 a b).ponds = s.ponds := rfl
@[simp] theorem State.wr8_chans (s : State) (a : Nat) (b : Byte) : (s.wr8 a b).chans = s.chans := rfl
@[simp] theorem State.wr8_scrubbed (s : State) (a : Nat) (b : Byte) : (s.wr8 a b).scrubbed = s.scrubbed := rfl
@[simp] theorem State.wr8_dirs (s : State) (a : Nat) (b : Byte) : (s.wr8 a b).dirs = s.dirs := rfl
@[simp] theorem State.wr8_rem (s : State) (a : Nat) (b : Byte) : (s.wr8 a b).rem = s.rem := rfl
@[simp] theorem State.wr8_pcc (s : State) (a : Nat) (b : Byte) : (s.wr8 a b).pcc = s.pcc := rfl
@[simp] theorem State.wr8_pccLast (s : State) (a : Nat) (b : Byte) : (s.wr8 a b).pccLast = s.pccLast := rfl
@[simp] theorem State.wr8_traces (s : State) (a : Nat) (b : Byte) : (s.wr8 a b).traces = s.traces := rfl
@[simp] theorem State.wr8_silt (s : State) (a : Nat) (b : Byte) : (s.wr8 a b).silt = s.silt := rfl
@[simp] theorem State.wr8_siltSerial (s : State) (a : Nat) (b : Byte) : (s.wr8 a b).siltSerial = s.siltSerial := rfl
@[simp] theorem State.wr8_fault (s : State) (a : Nat) (b : Byte) : (s.wr8 a b).fault = s.fault := rfl
@[simp] theorem State.wr8_power (s : State) (a : Nat) (b : Byte) : (s.wr8 a b).power = s.power := rfl
@[simp] theorem State.wr8_link (s : State) (a : Nat) (b : Byte) : (s.wr8 a b).link = s.link := rfl
@[simp] theorem State.wr8_host (s : State) (a : Nat) (b : Byte) : (s.wr8 a b).host = s.host := rfl
@[simp] theorem State.wr8_boot (s : State) (a : Nat) (b : Byte) : (s.wr8 a b).boot = s.boot := rfl
@[simp] theorem State.wr8_pins (s : State) (a : Nat) (b : Byte) : (s.wr8 a b).pins = s.pins := rfl
@[simp] theorem State.wr8_irqs (s : State) (a : Nat) (b : Byte) : (s.wr8 a b).irqs = s.irqs := rfl
@[simp] theorem State.wr8_free (s : State) (a : Nat) (b : Byte) : (s.wr8 a b).free = s.free := rfl

@[simp] theorem State.setQ_pending (s : State) (q : Nat) (x : QState) : (s.setQ q x).pending = s.pending := rfl
@[simp] theorem State.setQ_regs (s : State) (q : Nat) (x : QState) : (s.setQ q x).regs = s.regs := rfl
@[simp] theorem State.setQ_mem (s : State) (q : Nat) (x : QState) : (s.setQ q x).mem = s.mem := rfl
@[simp] theorem State.setQ_stale (s : State) (q : Nat) (x : QState) : (s.setQ q x).stale = s.stale := rfl
@[simp] theorem State.setQ_poison (s : State) (q : Nat) (x : QState) : (s.setQ q x).poison = s.poison := rfl
@[simp] theorem State.setQ_badLines (s : State) (q : Nat) (x : QState) : (s.setQ q x).badLines = s.badLines := rfl
@[simp] theorem State.setQ_time (s : State) (q : Nat) (x : QState) : (s.setQ q x).time = s.time := rfl
@[simp] theorem State.setQ_turns (s : State) (q : Nat) (x : QState) : (s.setQ q x).turns = s.turns := rfl
@[simp] theorem State.setQ_waiters (s : State) (q : Nat) (x : QState) : (s.setQ q x).waiters = s.waiters := rfl
@[simp] theorem State.setQ_bars (s : State) (q : Nat) (x : QState) : (s.setQ q x).bars = s.bars := rfl
@[simp] theorem State.setQ_gcs (s : State) (q : Nat) (x : QState) : (s.setQ q x).gcs = s.gcs := rfl
@[simp] theorem State.setQ_ves (s : State) (q : Nat) (x : QState) : (s.setQ q x).ves = s.ves := rfl
@[simp] theorem State.setQ_mcs (s : State) (q : Nat) (x : QState) : (s.setQ q x).mcs = s.mcs := rfl
@[simp] theorem State.setQ_tables (s : State) (q : Nat) (x : QState) : (s.setQ q x).tables = s.tables := rfl
@[simp] theorem State.setQ_hot (s : State) (q : Nat) (x : QState) : (s.setQ q x).hot = s.hot := rfl
@[simp] theorem State.setQ_sketches (s : State) (q : Nat) (x : QState) : (s.setQ q x).sketches = s.sketches := rfl
@[simp] theorem State.setQ_samps (s : State) (q : Nat) (x : QState) : (s.setQ q x).samps = s.samps := rfl
@[simp] theorem State.setQ_sampNext (s : State) (q : Nat) (x : QState) : (s.setQ q x).sampNext = s.sampNext := rfl
@[simp] theorem State.setQ_troughs (s : State) (q : Nat) (x : QState) : (s.setQ q x).troughs = s.troughs := rfl
@[simp] theorem State.setQ_tmsgs (s : State) (q : Nat) (x : QState) : (s.setQ q x).tmsgs = s.tmsgs := rfl
@[simp] theorem State.setQ_tresent (s : State) (q : Nat) (x : QState) : (s.setQ q x).tresent = s.tresent := rfl
@[simp] theorem State.setQ_treply (s : State) (q : Nat) (x : QState) : (s.setQ q x).treply = s.treply := rfl
@[simp] theorem State.setQ_clog (s : State) (q : Nat) (x : QState) : (s.setQ q x).clog = s.clog := rfl
@[simp] theorem State.setQ_replay (s : State) (q : Nat) (x : QState) : (s.setQ q x).replay = s.replay := rfl
@[simp] theorem State.setQ_stepVers (s : State) (q : Nat) (x : QState) : (s.setQ q x).stepVers = s.stepVers := rfl
@[simp] theorem State.setQ_memKey (s : State) (q : Nat) (x : QState) : (s.setQ q x).memKey = s.memKey := rfl
@[simp] theorem State.setQ_snap (s : State) (q : Nat) (x : QState) : (s.setQ q x).snap = s.snap := rfl
@[simp] theorem State.setQ_colIn (s : State) (q : Nat) (x : QState) : (s.setQ q x).colIn = s.colIn := rfl
@[simp] theorem State.setQ_colAck (s : State) (q : Nat) (x : QState) : (s.setQ q x).colAck = s.colAck := rfl
@[simp] theorem State.setQ_ctxs (s : State) (q : Nat) (x : QState) : (s.setQ q x).ctxs = s.ctxs := rfl
@[simp] theorem State.setQ_ponds (s : State) (q : Nat) (x : QState) : (s.setQ q x).ponds = s.ponds := rfl
@[simp] theorem State.setQ_chans (s : State) (q : Nat) (x : QState) : (s.setQ q x).chans = s.chans := rfl
@[simp] theorem State.setQ_scrubbed (s : State) (q : Nat) (x : QState) : (s.setQ q x).scrubbed = s.scrubbed := rfl
@[simp] theorem State.setQ_dirs (s : State) (q : Nat) (x : QState) : (s.setQ q x).dirs = s.dirs := rfl
@[simp] theorem State.setQ_rem (s : State) (q : Nat) (x : QState) : (s.setQ q x).rem = s.rem := rfl
@[simp] theorem State.setQ_pcc (s : State) (q : Nat) (x : QState) : (s.setQ q x).pcc = s.pcc := rfl
@[simp] theorem State.setQ_pccLast (s : State) (q : Nat) (x : QState) : (s.setQ q x).pccLast = s.pccLast := rfl
@[simp] theorem State.setQ_traces (s : State) (q : Nat) (x : QState) : (s.setQ q x).traces = s.traces := rfl
@[simp] theorem State.setQ_silt (s : State) (q : Nat) (x : QState) : (s.setQ q x).silt = s.silt := rfl
@[simp] theorem State.setQ_siltSerial (s : State) (q : Nat) (x : QState) : (s.setQ q x).siltSerial = s.siltSerial := rfl
@[simp] theorem State.setQ_fault (s : State) (q : Nat) (x : QState) : (s.setQ q x).fault = s.fault := rfl
@[simp] theorem State.setQ_power (s : State) (q : Nat) (x : QState) : (s.setQ q x).power = s.power := rfl
@[simp] theorem State.setQ_link (s : State) (q : Nat) (x : QState) : (s.setQ q x).link = s.link := rfl
@[simp] theorem State.setQ_host (s : State) (q : Nat) (x : QState) : (s.setQ q x).host = s.host := rfl
@[simp] theorem State.setQ_boot (s : State) (q : Nat) (x : QState) : (s.setQ q x).boot = s.boot := rfl
@[simp] theorem State.setQ_pins (s : State) (q : Nat) (x : QState) : (s.setQ q x).pins = s.pins := rfl
@[simp] theorem State.setQ_irqs (s : State) (q : Nat) (x : QState) : (s.setQ q x).irqs = s.irqs := rfl
@[simp] theorem State.setQ_free (s : State) (q : Nat) (x : QState) : (s.setQ q x).free = s.free := rfl

@[simp] theorem State.setGc_pending (s : State) (g : Nat) (x : GcState) : (s.setGc g x).pending = s.pending := rfl
@[simp] theorem State.setGc_regs (s : State) (g : Nat) (x : GcState) : (s.setGc g x).regs = s.regs := rfl
@[simp] theorem State.setGc_mem (s : State) (g : Nat) (x : GcState) : (s.setGc g x).mem = s.mem := rfl
@[simp] theorem State.setGc_stale (s : State) (g : Nat) (x : GcState) : (s.setGc g x).stale = s.stale := rfl
@[simp] theorem State.setGc_poison (s : State) (g : Nat) (x : GcState) : (s.setGc g x).poison = s.poison := rfl
@[simp] theorem State.setGc_badLines (s : State) (g : Nat) (x : GcState) : (s.setGc g x).badLines = s.badLines := rfl
@[simp] theorem State.setGc_time (s : State) (g : Nat) (x : GcState) : (s.setGc g x).time = s.time := rfl
@[simp] theorem State.setGc_queues (s : State) (g : Nat) (x : GcState) : (s.setGc g x).queues = s.queues := rfl
@[simp] theorem State.setGc_turns (s : State) (g : Nat) (x : GcState) : (s.setGc g x).turns = s.turns := rfl
@[simp] theorem State.setGc_waiters (s : State) (g : Nat) (x : GcState) : (s.setGc g x).waiters = s.waiters := rfl
@[simp] theorem State.setGc_bars (s : State) (g : Nat) (x : GcState) : (s.setGc g x).bars = s.bars := rfl
@[simp] theorem State.setGc_ves (s : State) (g : Nat) (x : GcState) : (s.setGc g x).ves = s.ves := rfl
@[simp] theorem State.setGc_mcs (s : State) (g : Nat) (x : GcState) : (s.setGc g x).mcs = s.mcs := rfl
@[simp] theorem State.setGc_tables (s : State) (g : Nat) (x : GcState) : (s.setGc g x).tables = s.tables := rfl
@[simp] theorem State.setGc_hot (s : State) (g : Nat) (x : GcState) : (s.setGc g x).hot = s.hot := rfl
@[simp] theorem State.setGc_sketches (s : State) (g : Nat) (x : GcState) : (s.setGc g x).sketches = s.sketches := rfl
@[simp] theorem State.setGc_samps (s : State) (g : Nat) (x : GcState) : (s.setGc g x).samps = s.samps := rfl
@[simp] theorem State.setGc_sampNext (s : State) (g : Nat) (x : GcState) : (s.setGc g x).sampNext = s.sampNext := rfl
@[simp] theorem State.setGc_troughs (s : State) (g : Nat) (x : GcState) : (s.setGc g x).troughs = s.troughs := rfl
@[simp] theorem State.setGc_tmsgs (s : State) (g : Nat) (x : GcState) : (s.setGc g x).tmsgs = s.tmsgs := rfl
@[simp] theorem State.setGc_tresent (s : State) (g : Nat) (x : GcState) : (s.setGc g x).tresent = s.tresent := rfl
@[simp] theorem State.setGc_treply (s : State) (g : Nat) (x : GcState) : (s.setGc g x).treply = s.treply := rfl
@[simp] theorem State.setGc_clog (s : State) (g : Nat) (x : GcState) : (s.setGc g x).clog = s.clog := rfl
@[simp] theorem State.setGc_replay (s : State) (g : Nat) (x : GcState) : (s.setGc g x).replay = s.replay := rfl
@[simp] theorem State.setGc_stepVers (s : State) (g : Nat) (x : GcState) : (s.setGc g x).stepVers = s.stepVers := rfl
@[simp] theorem State.setGc_memKey (s : State) (g : Nat) (x : GcState) : (s.setGc g x).memKey = s.memKey := rfl
@[simp] theorem State.setGc_snap (s : State) (g : Nat) (x : GcState) : (s.setGc g x).snap = s.snap := rfl
@[simp] theorem State.setGc_colIn (s : State) (g : Nat) (x : GcState) : (s.setGc g x).colIn = s.colIn := rfl
@[simp] theorem State.setGc_colAck (s : State) (g : Nat) (x : GcState) : (s.setGc g x).colAck = s.colAck := rfl
@[simp] theorem State.setGc_ctxs (s : State) (g : Nat) (x : GcState) : (s.setGc g x).ctxs = s.ctxs := rfl
@[simp] theorem State.setGc_ponds (s : State) (g : Nat) (x : GcState) : (s.setGc g x).ponds = s.ponds := rfl
@[simp] theorem State.setGc_chans (s : State) (g : Nat) (x : GcState) : (s.setGc g x).chans = s.chans := rfl
@[simp] theorem State.setGc_scrubbed (s : State) (g : Nat) (x : GcState) : (s.setGc g x).scrubbed = s.scrubbed := rfl
@[simp] theorem State.setGc_dirs (s : State) (g : Nat) (x : GcState) : (s.setGc g x).dirs = s.dirs := rfl
@[simp] theorem State.setGc_rem (s : State) (g : Nat) (x : GcState) : (s.setGc g x).rem = s.rem := rfl
@[simp] theorem State.setGc_pcc (s : State) (g : Nat) (x : GcState) : (s.setGc g x).pcc = s.pcc := rfl
@[simp] theorem State.setGc_pccLast (s : State) (g : Nat) (x : GcState) : (s.setGc g x).pccLast = s.pccLast := rfl
@[simp] theorem State.setGc_traces (s : State) (g : Nat) (x : GcState) : (s.setGc g x).traces = s.traces := rfl
@[simp] theorem State.setGc_silt (s : State) (g : Nat) (x : GcState) : (s.setGc g x).silt = s.silt := rfl
@[simp] theorem State.setGc_siltSerial (s : State) (g : Nat) (x : GcState) : (s.setGc g x).siltSerial = s.siltSerial := rfl
@[simp] theorem State.setGc_fault (s : State) (g : Nat) (x : GcState) : (s.setGc g x).fault = s.fault := rfl
@[simp] theorem State.setGc_power (s : State) (g : Nat) (x : GcState) : (s.setGc g x).power = s.power := rfl
@[simp] theorem State.setGc_link (s : State) (g : Nat) (x : GcState) : (s.setGc g x).link = s.link := rfl
@[simp] theorem State.setGc_host (s : State) (g : Nat) (x : GcState) : (s.setGc g x).host = s.host := rfl
@[simp] theorem State.setGc_boot (s : State) (g : Nat) (x : GcState) : (s.setGc g x).boot = s.boot := rfl
@[simp] theorem State.setGc_pins (s : State) (g : Nat) (x : GcState) : (s.setGc g x).pins = s.pins := rfl
@[simp] theorem State.setGc_irqs (s : State) (g : Nat) (x : GcState) : (s.setGc g x).irqs = s.irqs := rfl
@[simp] theorem State.setGc_free (s : State) (g : Nat) (x : GcState) : (s.setGc g x).free = s.free := rfl

@[simp] theorem State.setVe_pending (s : State) (g : Nat) (x : VeState) : (s.setVe g x).pending = s.pending := rfl
@[simp] theorem State.setVe_regs (s : State) (g : Nat) (x : VeState) : (s.setVe g x).regs = s.regs := rfl
@[simp] theorem State.setVe_mem (s : State) (g : Nat) (x : VeState) : (s.setVe g x).mem = s.mem := rfl
@[simp] theorem State.setVe_stale (s : State) (g : Nat) (x : VeState) : (s.setVe g x).stale = s.stale := rfl
@[simp] theorem State.setVe_poison (s : State) (g : Nat) (x : VeState) : (s.setVe g x).poison = s.poison := rfl
@[simp] theorem State.setVe_badLines (s : State) (g : Nat) (x : VeState) : (s.setVe g x).badLines = s.badLines := rfl
@[simp] theorem State.setVe_time (s : State) (g : Nat) (x : VeState) : (s.setVe g x).time = s.time := rfl
@[simp] theorem State.setVe_queues (s : State) (g : Nat) (x : VeState) : (s.setVe g x).queues = s.queues := rfl
@[simp] theorem State.setVe_turns (s : State) (g : Nat) (x : VeState) : (s.setVe g x).turns = s.turns := rfl
@[simp] theorem State.setVe_waiters (s : State) (g : Nat) (x : VeState) : (s.setVe g x).waiters = s.waiters := rfl
@[simp] theorem State.setVe_bars (s : State) (g : Nat) (x : VeState) : (s.setVe g x).bars = s.bars := rfl
@[simp] theorem State.setVe_gcs (s : State) (g : Nat) (x : VeState) : (s.setVe g x).gcs = s.gcs := rfl
@[simp] theorem State.setVe_mcs (s : State) (g : Nat) (x : VeState) : (s.setVe g x).mcs = s.mcs := rfl
@[simp] theorem State.setVe_tables (s : State) (g : Nat) (x : VeState) : (s.setVe g x).tables = s.tables := rfl
@[simp] theorem State.setVe_hot (s : State) (g : Nat) (x : VeState) : (s.setVe g x).hot = s.hot := rfl
@[simp] theorem State.setVe_sketches (s : State) (g : Nat) (x : VeState) : (s.setVe g x).sketches = s.sketches := rfl
@[simp] theorem State.setVe_samps (s : State) (g : Nat) (x : VeState) : (s.setVe g x).samps = s.samps := rfl
@[simp] theorem State.setVe_sampNext (s : State) (g : Nat) (x : VeState) : (s.setVe g x).sampNext = s.sampNext := rfl
@[simp] theorem State.setVe_troughs (s : State) (g : Nat) (x : VeState) : (s.setVe g x).troughs = s.troughs := rfl
@[simp] theorem State.setVe_tmsgs (s : State) (g : Nat) (x : VeState) : (s.setVe g x).tmsgs = s.tmsgs := rfl
@[simp] theorem State.setVe_tresent (s : State) (g : Nat) (x : VeState) : (s.setVe g x).tresent = s.tresent := rfl
@[simp] theorem State.setVe_treply (s : State) (g : Nat) (x : VeState) : (s.setVe g x).treply = s.treply := rfl
@[simp] theorem State.setVe_clog (s : State) (g : Nat) (x : VeState) : (s.setVe g x).clog = s.clog := rfl
@[simp] theorem State.setVe_replay (s : State) (g : Nat) (x : VeState) : (s.setVe g x).replay = s.replay := rfl
@[simp] theorem State.setVe_stepVers (s : State) (g : Nat) (x : VeState) : (s.setVe g x).stepVers = s.stepVers := rfl
@[simp] theorem State.setVe_memKey (s : State) (g : Nat) (x : VeState) : (s.setVe g x).memKey = s.memKey := rfl
@[simp] theorem State.setVe_snap (s : State) (g : Nat) (x : VeState) : (s.setVe g x).snap = s.snap := rfl
@[simp] theorem State.setVe_colIn (s : State) (g : Nat) (x : VeState) : (s.setVe g x).colIn = s.colIn := rfl
@[simp] theorem State.setVe_colAck (s : State) (g : Nat) (x : VeState) : (s.setVe g x).colAck = s.colAck := rfl
@[simp] theorem State.setVe_ctxs (s : State) (g : Nat) (x : VeState) : (s.setVe g x).ctxs = s.ctxs := rfl
@[simp] theorem State.setVe_ponds (s : State) (g : Nat) (x : VeState) : (s.setVe g x).ponds = s.ponds := rfl
@[simp] theorem State.setVe_chans (s : State) (g : Nat) (x : VeState) : (s.setVe g x).chans = s.chans := rfl
@[simp] theorem State.setVe_scrubbed (s : State) (g : Nat) (x : VeState) : (s.setVe g x).scrubbed = s.scrubbed := rfl
@[simp] theorem State.setVe_dirs (s : State) (g : Nat) (x : VeState) : (s.setVe g x).dirs = s.dirs := rfl
@[simp] theorem State.setVe_rem (s : State) (g : Nat) (x : VeState) : (s.setVe g x).rem = s.rem := rfl
@[simp] theorem State.setVe_pcc (s : State) (g : Nat) (x : VeState) : (s.setVe g x).pcc = s.pcc := rfl
@[simp] theorem State.setVe_pccLast (s : State) (g : Nat) (x : VeState) : (s.setVe g x).pccLast = s.pccLast := rfl
@[simp] theorem State.setVe_traces (s : State) (g : Nat) (x : VeState) : (s.setVe g x).traces = s.traces := rfl
@[simp] theorem State.setVe_silt (s : State) (g : Nat) (x : VeState) : (s.setVe g x).silt = s.silt := rfl
@[simp] theorem State.setVe_siltSerial (s : State) (g : Nat) (x : VeState) : (s.setVe g x).siltSerial = s.siltSerial := rfl
@[simp] theorem State.setVe_fault (s : State) (g : Nat) (x : VeState) : (s.setVe g x).fault = s.fault := rfl
@[simp] theorem State.setVe_power (s : State) (g : Nat) (x : VeState) : (s.setVe g x).power = s.power := rfl
@[simp] theorem State.setVe_link (s : State) (g : Nat) (x : VeState) : (s.setVe g x).link = s.link := rfl
@[simp] theorem State.setVe_host (s : State) (g : Nat) (x : VeState) : (s.setVe g x).host = s.host := rfl
@[simp] theorem State.setVe_boot (s : State) (g : Nat) (x : VeState) : (s.setVe g x).boot = s.boot := rfl
@[simp] theorem State.setVe_pins (s : State) (g : Nat) (x : VeState) : (s.setVe g x).pins = s.pins := rfl
@[simp] theorem State.setVe_irqs (s : State) (g : Nat) (x : VeState) : (s.setVe g x).irqs = s.irqs := rfl
@[simp] theorem State.setVe_free (s : State) (g : Nat) (x : VeState) : (s.setVe g x).free = s.free := rfl

@[simp] theorem State.setMc_pending (s : State) (m : Nat) (x : McSt) : (s.setMc m x).pending = s.pending := rfl
@[simp] theorem State.setMc_regs (s : State) (m : Nat) (x : McSt) : (s.setMc m x).regs = s.regs := rfl
@[simp] theorem State.setMc_mem (s : State) (m : Nat) (x : McSt) : (s.setMc m x).mem = s.mem := rfl
@[simp] theorem State.setMc_stale (s : State) (m : Nat) (x : McSt) : (s.setMc m x).stale = s.stale := rfl
@[simp] theorem State.setMc_poison (s : State) (m : Nat) (x : McSt) : (s.setMc m x).poison = s.poison := rfl
@[simp] theorem State.setMc_badLines (s : State) (m : Nat) (x : McSt) : (s.setMc m x).badLines = s.badLines := rfl
@[simp] theorem State.setMc_time (s : State) (m : Nat) (x : McSt) : (s.setMc m x).time = s.time := rfl
@[simp] theorem State.setMc_queues (s : State) (m : Nat) (x : McSt) : (s.setMc m x).queues = s.queues := rfl
@[simp] theorem State.setMc_turns (s : State) (m : Nat) (x : McSt) : (s.setMc m x).turns = s.turns := rfl
@[simp] theorem State.setMc_waiters (s : State) (m : Nat) (x : McSt) : (s.setMc m x).waiters = s.waiters := rfl
@[simp] theorem State.setMc_bars (s : State) (m : Nat) (x : McSt) : (s.setMc m x).bars = s.bars := rfl
@[simp] theorem State.setMc_gcs (s : State) (m : Nat) (x : McSt) : (s.setMc m x).gcs = s.gcs := rfl
@[simp] theorem State.setMc_ves (s : State) (m : Nat) (x : McSt) : (s.setMc m x).ves = s.ves := rfl
@[simp] theorem State.setMc_tables (s : State) (m : Nat) (x : McSt) : (s.setMc m x).tables = s.tables := rfl
@[simp] theorem State.setMc_hot (s : State) (m : Nat) (x : McSt) : (s.setMc m x).hot = s.hot := rfl
@[simp] theorem State.setMc_sketches (s : State) (m : Nat) (x : McSt) : (s.setMc m x).sketches = s.sketches := rfl
@[simp] theorem State.setMc_samps (s : State) (m : Nat) (x : McSt) : (s.setMc m x).samps = s.samps := rfl
@[simp] theorem State.setMc_sampNext (s : State) (m : Nat) (x : McSt) : (s.setMc m x).sampNext = s.sampNext := rfl
@[simp] theorem State.setMc_troughs (s : State) (m : Nat) (x : McSt) : (s.setMc m x).troughs = s.troughs := rfl
@[simp] theorem State.setMc_tmsgs (s : State) (m : Nat) (x : McSt) : (s.setMc m x).tmsgs = s.tmsgs := rfl
@[simp] theorem State.setMc_tresent (s : State) (m : Nat) (x : McSt) : (s.setMc m x).tresent = s.tresent := rfl
@[simp] theorem State.setMc_treply (s : State) (m : Nat) (x : McSt) : (s.setMc m x).treply = s.treply := rfl
@[simp] theorem State.setMc_clog (s : State) (m : Nat) (x : McSt) : (s.setMc m x).clog = s.clog := rfl
@[simp] theorem State.setMc_replay (s : State) (m : Nat) (x : McSt) : (s.setMc m x).replay = s.replay := rfl
@[simp] theorem State.setMc_stepVers (s : State) (m : Nat) (x : McSt) : (s.setMc m x).stepVers = s.stepVers := rfl
@[simp] theorem State.setMc_memKey (s : State) (m : Nat) (x : McSt) : (s.setMc m x).memKey = s.memKey := rfl
@[simp] theorem State.setMc_snap (s : State) (m : Nat) (x : McSt) : (s.setMc m x).snap = s.snap := rfl
@[simp] theorem State.setMc_colIn (s : State) (m : Nat) (x : McSt) : (s.setMc m x).colIn = s.colIn := rfl
@[simp] theorem State.setMc_colAck (s : State) (m : Nat) (x : McSt) : (s.setMc m x).colAck = s.colAck := rfl
@[simp] theorem State.setMc_ctxs (s : State) (m : Nat) (x : McSt) : (s.setMc m x).ctxs = s.ctxs := rfl
@[simp] theorem State.setMc_ponds (s : State) (m : Nat) (x : McSt) : (s.setMc m x).ponds = s.ponds := rfl
@[simp] theorem State.setMc_chans (s : State) (m : Nat) (x : McSt) : (s.setMc m x).chans = s.chans := rfl
@[simp] theorem State.setMc_scrubbed (s : State) (m : Nat) (x : McSt) : (s.setMc m x).scrubbed = s.scrubbed := rfl
@[simp] theorem State.setMc_dirs (s : State) (m : Nat) (x : McSt) : (s.setMc m x).dirs = s.dirs := rfl
@[simp] theorem State.setMc_rem (s : State) (m : Nat) (x : McSt) : (s.setMc m x).rem = s.rem := rfl
@[simp] theorem State.setMc_pcc (s : State) (m : Nat) (x : McSt) : (s.setMc m x).pcc = s.pcc := rfl
@[simp] theorem State.setMc_pccLast (s : State) (m : Nat) (x : McSt) : (s.setMc m x).pccLast = s.pccLast := rfl
@[simp] theorem State.setMc_traces (s : State) (m : Nat) (x : McSt) : (s.setMc m x).traces = s.traces := rfl
@[simp] theorem State.setMc_silt (s : State) (m : Nat) (x : McSt) : (s.setMc m x).silt = s.silt := rfl
@[simp] theorem State.setMc_siltSerial (s : State) (m : Nat) (x : McSt) : (s.setMc m x).siltSerial = s.siltSerial := rfl
@[simp] theorem State.setMc_fault (s : State) (m : Nat) (x : McSt) : (s.setMc m x).fault = s.fault := rfl
@[simp] theorem State.setMc_power (s : State) (m : Nat) (x : McSt) : (s.setMc m x).power = s.power := rfl
@[simp] theorem State.setMc_link (s : State) (m : Nat) (x : McSt) : (s.setMc m x).link = s.link := rfl
@[simp] theorem State.setMc_host (s : State) (m : Nat) (x : McSt) : (s.setMc m x).host = s.host := rfl
@[simp] theorem State.setMc_boot (s : State) (m : Nat) (x : McSt) : (s.setMc m x).boot = s.boot := rfl
@[simp] theorem State.setMc_pins (s : State) (m : Nat) (x : McSt) : (s.setMc m x).pins = s.pins := rfl
@[simp] theorem State.setMc_irqs (s : State) (m : Nat) (x : McSt) : (s.setMc m x).irqs = s.irqs := rfl
@[simp] theorem State.setMc_free (s : State) (m : Nat) (x : McSt) : (s.setMc m x).free = s.free := rfl

@[simp] theorem State.setPond_pending (s : State) (p : Nat) (x : PondSt) : (s.setPond p x).pending = s.pending := rfl
@[simp] theorem State.setPond_regs (s : State) (p : Nat) (x : PondSt) : (s.setPond p x).regs = s.regs := rfl
@[simp] theorem State.setPond_mem (s : State) (p : Nat) (x : PondSt) : (s.setPond p x).mem = s.mem := rfl
@[simp] theorem State.setPond_stale (s : State) (p : Nat) (x : PondSt) : (s.setPond p x).stale = s.stale := rfl
@[simp] theorem State.setPond_poison (s : State) (p : Nat) (x : PondSt) : (s.setPond p x).poison = s.poison := rfl
@[simp] theorem State.setPond_badLines (s : State) (p : Nat) (x : PondSt) : (s.setPond p x).badLines = s.badLines := rfl
@[simp] theorem State.setPond_time (s : State) (p : Nat) (x : PondSt) : (s.setPond p x).time = s.time := rfl
@[simp] theorem State.setPond_queues (s : State) (p : Nat) (x : PondSt) : (s.setPond p x).queues = s.queues := rfl
@[simp] theorem State.setPond_turns (s : State) (p : Nat) (x : PondSt) : (s.setPond p x).turns = s.turns := rfl
@[simp] theorem State.setPond_waiters (s : State) (p : Nat) (x : PondSt) : (s.setPond p x).waiters = s.waiters := rfl
@[simp] theorem State.setPond_bars (s : State) (p : Nat) (x : PondSt) : (s.setPond p x).bars = s.bars := rfl
@[simp] theorem State.setPond_gcs (s : State) (p : Nat) (x : PondSt) : (s.setPond p x).gcs = s.gcs := rfl
@[simp] theorem State.setPond_ves (s : State) (p : Nat) (x : PondSt) : (s.setPond p x).ves = s.ves := rfl
@[simp] theorem State.setPond_mcs (s : State) (p : Nat) (x : PondSt) : (s.setPond p x).mcs = s.mcs := rfl
@[simp] theorem State.setPond_tables (s : State) (p : Nat) (x : PondSt) : (s.setPond p x).tables = s.tables := rfl
@[simp] theorem State.setPond_hot (s : State) (p : Nat) (x : PondSt) : (s.setPond p x).hot = s.hot := rfl
@[simp] theorem State.setPond_sketches (s : State) (p : Nat) (x : PondSt) : (s.setPond p x).sketches = s.sketches := rfl
@[simp] theorem State.setPond_samps (s : State) (p : Nat) (x : PondSt) : (s.setPond p x).samps = s.samps := rfl
@[simp] theorem State.setPond_sampNext (s : State) (p : Nat) (x : PondSt) : (s.setPond p x).sampNext = s.sampNext := rfl
@[simp] theorem State.setPond_troughs (s : State) (p : Nat) (x : PondSt) : (s.setPond p x).troughs = s.troughs := rfl
@[simp] theorem State.setPond_tmsgs (s : State) (p : Nat) (x : PondSt) : (s.setPond p x).tmsgs = s.tmsgs := rfl
@[simp] theorem State.setPond_tresent (s : State) (p : Nat) (x : PondSt) : (s.setPond p x).tresent = s.tresent := rfl
@[simp] theorem State.setPond_treply (s : State) (p : Nat) (x : PondSt) : (s.setPond p x).treply = s.treply := rfl
@[simp] theorem State.setPond_clog (s : State) (p : Nat) (x : PondSt) : (s.setPond p x).clog = s.clog := rfl
@[simp] theorem State.setPond_replay (s : State) (p : Nat) (x : PondSt) : (s.setPond p x).replay = s.replay := rfl
@[simp] theorem State.setPond_stepVers (s : State) (p : Nat) (x : PondSt) : (s.setPond p x).stepVers = s.stepVers := rfl
@[simp] theorem State.setPond_memKey (s : State) (p : Nat) (x : PondSt) : (s.setPond p x).memKey = s.memKey := rfl
@[simp] theorem State.setPond_snap (s : State) (p : Nat) (x : PondSt) : (s.setPond p x).snap = s.snap := rfl
@[simp] theorem State.setPond_colIn (s : State) (p : Nat) (x : PondSt) : (s.setPond p x).colIn = s.colIn := rfl
@[simp] theorem State.setPond_colAck (s : State) (p : Nat) (x : PondSt) : (s.setPond p x).colAck = s.colAck := rfl
@[simp] theorem State.setPond_ctxs (s : State) (p : Nat) (x : PondSt) : (s.setPond p x).ctxs = s.ctxs := rfl
@[simp] theorem State.setPond_chans (s : State) (p : Nat) (x : PondSt) : (s.setPond p x).chans = s.chans := rfl
@[simp] theorem State.setPond_scrubbed (s : State) (p : Nat) (x : PondSt) : (s.setPond p x).scrubbed = s.scrubbed := rfl
@[simp] theorem State.setPond_dirs (s : State) (p : Nat) (x : PondSt) : (s.setPond p x).dirs = s.dirs := rfl
@[simp] theorem State.setPond_rem (s : State) (p : Nat) (x : PondSt) : (s.setPond p x).rem = s.rem := rfl
@[simp] theorem State.setPond_pcc (s : State) (p : Nat) (x : PondSt) : (s.setPond p x).pcc = s.pcc := rfl
@[simp] theorem State.setPond_pccLast (s : State) (p : Nat) (x : PondSt) : (s.setPond p x).pccLast = s.pccLast := rfl
@[simp] theorem State.setPond_traces (s : State) (p : Nat) (x : PondSt) : (s.setPond p x).traces = s.traces := rfl
@[simp] theorem State.setPond_silt (s : State) (p : Nat) (x : PondSt) : (s.setPond p x).silt = s.silt := rfl
@[simp] theorem State.setPond_siltSerial (s : State) (p : Nat) (x : PondSt) : (s.setPond p x).siltSerial = s.siltSerial := rfl
@[simp] theorem State.setPond_fault (s : State) (p : Nat) (x : PondSt) : (s.setPond p x).fault = s.fault := rfl
@[simp] theorem State.setPond_power (s : State) (p : Nat) (x : PondSt) : (s.setPond p x).power = s.power := rfl
@[simp] theorem State.setPond_link (s : State) (p : Nat) (x : PondSt) : (s.setPond p x).link = s.link := rfl
@[simp] theorem State.setPond_host (s : State) (p : Nat) (x : PondSt) : (s.setPond p x).host = s.host := rfl
@[simp] theorem State.setPond_boot (s : State) (p : Nat) (x : PondSt) : (s.setPond p x).boot = s.boot := rfl
@[simp] theorem State.setPond_pins (s : State) (p : Nat) (x : PondSt) : (s.setPond p x).pins = s.pins := rfl
@[simp] theorem State.setPond_irqs (s : State) (p : Nat) (x : PondSt) : (s.setPond p x).irqs = s.irqs := rfl
@[simp] theorem State.setPond_free (s : State) (p : Nat) (x : PondSt) : (s.setPond p x).free = s.free := rfl

@[simp] theorem State.setChan_pending (s : State) (c : Nat) (x : ChanSt) : (s.setChan c x).pending = s.pending := rfl
@[simp] theorem State.setChan_regs (s : State) (c : Nat) (x : ChanSt) : (s.setChan c x).regs = s.regs := rfl
@[simp] theorem State.setChan_mem (s : State) (c : Nat) (x : ChanSt) : (s.setChan c x).mem = s.mem := rfl
@[simp] theorem State.setChan_stale (s : State) (c : Nat) (x : ChanSt) : (s.setChan c x).stale = s.stale := rfl
@[simp] theorem State.setChan_poison (s : State) (c : Nat) (x : ChanSt) : (s.setChan c x).poison = s.poison := rfl
@[simp] theorem State.setChan_badLines (s : State) (c : Nat) (x : ChanSt) : (s.setChan c x).badLines = s.badLines := rfl
@[simp] theorem State.setChan_time (s : State) (c : Nat) (x : ChanSt) : (s.setChan c x).time = s.time := rfl
@[simp] theorem State.setChan_queues (s : State) (c : Nat) (x : ChanSt) : (s.setChan c x).queues = s.queues := rfl
@[simp] theorem State.setChan_turns (s : State) (c : Nat) (x : ChanSt) : (s.setChan c x).turns = s.turns := rfl
@[simp] theorem State.setChan_waiters (s : State) (c : Nat) (x : ChanSt) : (s.setChan c x).waiters = s.waiters := rfl
@[simp] theorem State.setChan_bars (s : State) (c : Nat) (x : ChanSt) : (s.setChan c x).bars = s.bars := rfl
@[simp] theorem State.setChan_gcs (s : State) (c : Nat) (x : ChanSt) : (s.setChan c x).gcs = s.gcs := rfl
@[simp] theorem State.setChan_ves (s : State) (c : Nat) (x : ChanSt) : (s.setChan c x).ves = s.ves := rfl
@[simp] theorem State.setChan_mcs (s : State) (c : Nat) (x : ChanSt) : (s.setChan c x).mcs = s.mcs := rfl
@[simp] theorem State.setChan_tables (s : State) (c : Nat) (x : ChanSt) : (s.setChan c x).tables = s.tables := rfl
@[simp] theorem State.setChan_hot (s : State) (c : Nat) (x : ChanSt) : (s.setChan c x).hot = s.hot := rfl
@[simp] theorem State.setChan_sketches (s : State) (c : Nat) (x : ChanSt) : (s.setChan c x).sketches = s.sketches := rfl
@[simp] theorem State.setChan_samps (s : State) (c : Nat) (x : ChanSt) : (s.setChan c x).samps = s.samps := rfl
@[simp] theorem State.setChan_sampNext (s : State) (c : Nat) (x : ChanSt) : (s.setChan c x).sampNext = s.sampNext := rfl
@[simp] theorem State.setChan_troughs (s : State) (c : Nat) (x : ChanSt) : (s.setChan c x).troughs = s.troughs := rfl
@[simp] theorem State.setChan_tmsgs (s : State) (c : Nat) (x : ChanSt) : (s.setChan c x).tmsgs = s.tmsgs := rfl
@[simp] theorem State.setChan_tresent (s : State) (c : Nat) (x : ChanSt) : (s.setChan c x).tresent = s.tresent := rfl
@[simp] theorem State.setChan_treply (s : State) (c : Nat) (x : ChanSt) : (s.setChan c x).treply = s.treply := rfl
@[simp] theorem State.setChan_clog (s : State) (c : Nat) (x : ChanSt) : (s.setChan c x).clog = s.clog := rfl
@[simp] theorem State.setChan_replay (s : State) (c : Nat) (x : ChanSt) : (s.setChan c x).replay = s.replay := rfl
@[simp] theorem State.setChan_stepVers (s : State) (c : Nat) (x : ChanSt) : (s.setChan c x).stepVers = s.stepVers := rfl
@[simp] theorem State.setChan_memKey (s : State) (c : Nat) (x : ChanSt) : (s.setChan c x).memKey = s.memKey := rfl
@[simp] theorem State.setChan_snap (s : State) (c : Nat) (x : ChanSt) : (s.setChan c x).snap = s.snap := rfl
@[simp] theorem State.setChan_colIn (s : State) (c : Nat) (x : ChanSt) : (s.setChan c x).colIn = s.colIn := rfl
@[simp] theorem State.setChan_colAck (s : State) (c : Nat) (x : ChanSt) : (s.setChan c x).colAck = s.colAck := rfl
@[simp] theorem State.setChan_ctxs (s : State) (c : Nat) (x : ChanSt) : (s.setChan c x).ctxs = s.ctxs := rfl
@[simp] theorem State.setChan_ponds (s : State) (c : Nat) (x : ChanSt) : (s.setChan c x).ponds = s.ponds := rfl
@[simp] theorem State.setChan_scrubbed (s : State) (c : Nat) (x : ChanSt) : (s.setChan c x).scrubbed = s.scrubbed := rfl
@[simp] theorem State.setChan_dirs (s : State) (c : Nat) (x : ChanSt) : (s.setChan c x).dirs = s.dirs := rfl
@[simp] theorem State.setChan_rem (s : State) (c : Nat) (x : ChanSt) : (s.setChan c x).rem = s.rem := rfl
@[simp] theorem State.setChan_pcc (s : State) (c : Nat) (x : ChanSt) : (s.setChan c x).pcc = s.pcc := rfl
@[simp] theorem State.setChan_pccLast (s : State) (c : Nat) (x : ChanSt) : (s.setChan c x).pccLast = s.pccLast := rfl
@[simp] theorem State.setChan_traces (s : State) (c : Nat) (x : ChanSt) : (s.setChan c x).traces = s.traces := rfl
@[simp] theorem State.setChan_silt (s : State) (c : Nat) (x : ChanSt) : (s.setChan c x).silt = s.silt := rfl
@[simp] theorem State.setChan_siltSerial (s : State) (c : Nat) (x : ChanSt) : (s.setChan c x).siltSerial = s.siltSerial := rfl
@[simp] theorem State.setChan_fault (s : State) (c : Nat) (x : ChanSt) : (s.setChan c x).fault = s.fault := rfl
@[simp] theorem State.setChan_power (s : State) (c : Nat) (x : ChanSt) : (s.setChan c x).power = s.power := rfl
@[simp] theorem State.setChan_link (s : State) (c : Nat) (x : ChanSt) : (s.setChan c x).link = s.link := rfl
@[simp] theorem State.setChan_host (s : State) (c : Nat) (x : ChanSt) : (s.setChan c x).host = s.host := rfl
@[simp] theorem State.setChan_boot (s : State) (c : Nat) (x : ChanSt) : (s.setChan c x).boot = s.boot := rfl
@[simp] theorem State.setChan_pins (s : State) (c : Nat) (x : ChanSt) : (s.setChan c x).pins = s.pins := rfl
@[simp] theorem State.setChan_irqs (s : State) (c : Nat) (x : ChanSt) : (s.setChan c x).irqs = s.irqs := rfl
@[simp] theorem State.setChan_free (s : State) (c : Nat) (x : ChanSt) : (s.setChan c x).free = s.free := rfl

@[simp] theorem State.setTrace_pending (s : State) (p : Nat) (x : TraceSt) : (s.setTrace p x).pending = s.pending := rfl
@[simp] theorem State.setTrace_regs (s : State) (p : Nat) (x : TraceSt) : (s.setTrace p x).regs = s.regs := rfl
@[simp] theorem State.setTrace_mem (s : State) (p : Nat) (x : TraceSt) : (s.setTrace p x).mem = s.mem := rfl
@[simp] theorem State.setTrace_stale (s : State) (p : Nat) (x : TraceSt) : (s.setTrace p x).stale = s.stale := rfl
@[simp] theorem State.setTrace_poison (s : State) (p : Nat) (x : TraceSt) : (s.setTrace p x).poison = s.poison := rfl
@[simp] theorem State.setTrace_badLines (s : State) (p : Nat) (x : TraceSt) : (s.setTrace p x).badLines = s.badLines := rfl
@[simp] theorem State.setTrace_time (s : State) (p : Nat) (x : TraceSt) : (s.setTrace p x).time = s.time := rfl
@[simp] theorem State.setTrace_queues (s : State) (p : Nat) (x : TraceSt) : (s.setTrace p x).queues = s.queues := rfl
@[simp] theorem State.setTrace_turns (s : State) (p : Nat) (x : TraceSt) : (s.setTrace p x).turns = s.turns := rfl
@[simp] theorem State.setTrace_waiters (s : State) (p : Nat) (x : TraceSt) : (s.setTrace p x).waiters = s.waiters := rfl
@[simp] theorem State.setTrace_bars (s : State) (p : Nat) (x : TraceSt) : (s.setTrace p x).bars = s.bars := rfl
@[simp] theorem State.setTrace_gcs (s : State) (p : Nat) (x : TraceSt) : (s.setTrace p x).gcs = s.gcs := rfl
@[simp] theorem State.setTrace_ves (s : State) (p : Nat) (x : TraceSt) : (s.setTrace p x).ves = s.ves := rfl
@[simp] theorem State.setTrace_mcs (s : State) (p : Nat) (x : TraceSt) : (s.setTrace p x).mcs = s.mcs := rfl
@[simp] theorem State.setTrace_tables (s : State) (p : Nat) (x : TraceSt) : (s.setTrace p x).tables = s.tables := rfl
@[simp] theorem State.setTrace_hot (s : State) (p : Nat) (x : TraceSt) : (s.setTrace p x).hot = s.hot := rfl
@[simp] theorem State.setTrace_sketches (s : State) (p : Nat) (x : TraceSt) : (s.setTrace p x).sketches = s.sketches := rfl
@[simp] theorem State.setTrace_samps (s : State) (p : Nat) (x : TraceSt) : (s.setTrace p x).samps = s.samps := rfl
@[simp] theorem State.setTrace_sampNext (s : State) (p : Nat) (x : TraceSt) : (s.setTrace p x).sampNext = s.sampNext := rfl
@[simp] theorem State.setTrace_troughs (s : State) (p : Nat) (x : TraceSt) : (s.setTrace p x).troughs = s.troughs := rfl
@[simp] theorem State.setTrace_tmsgs (s : State) (p : Nat) (x : TraceSt) : (s.setTrace p x).tmsgs = s.tmsgs := rfl
@[simp] theorem State.setTrace_tresent (s : State) (p : Nat) (x : TraceSt) : (s.setTrace p x).tresent = s.tresent := rfl
@[simp] theorem State.setTrace_treply (s : State) (p : Nat) (x : TraceSt) : (s.setTrace p x).treply = s.treply := rfl
@[simp] theorem State.setTrace_clog (s : State) (p : Nat) (x : TraceSt) : (s.setTrace p x).clog = s.clog := rfl
@[simp] theorem State.setTrace_replay (s : State) (p : Nat) (x : TraceSt) : (s.setTrace p x).replay = s.replay := rfl
@[simp] theorem State.setTrace_stepVers (s : State) (p : Nat) (x : TraceSt) : (s.setTrace p x).stepVers = s.stepVers := rfl
@[simp] theorem State.setTrace_memKey (s : State) (p : Nat) (x : TraceSt) : (s.setTrace p x).memKey = s.memKey := rfl
@[simp] theorem State.setTrace_snap (s : State) (p : Nat) (x : TraceSt) : (s.setTrace p x).snap = s.snap := rfl
@[simp] theorem State.setTrace_colIn (s : State) (p : Nat) (x : TraceSt) : (s.setTrace p x).colIn = s.colIn := rfl
@[simp] theorem State.setTrace_colAck (s : State) (p : Nat) (x : TraceSt) : (s.setTrace p x).colAck = s.colAck := rfl
@[simp] theorem State.setTrace_ctxs (s : State) (p : Nat) (x : TraceSt) : (s.setTrace p x).ctxs = s.ctxs := rfl
@[simp] theorem State.setTrace_ponds (s : State) (p : Nat) (x : TraceSt) : (s.setTrace p x).ponds = s.ponds := rfl
@[simp] theorem State.setTrace_chans (s : State) (p : Nat) (x : TraceSt) : (s.setTrace p x).chans = s.chans := rfl
@[simp] theorem State.setTrace_scrubbed (s : State) (p : Nat) (x : TraceSt) : (s.setTrace p x).scrubbed = s.scrubbed := rfl
@[simp] theorem State.setTrace_dirs (s : State) (p : Nat) (x : TraceSt) : (s.setTrace p x).dirs = s.dirs := rfl
@[simp] theorem State.setTrace_rem (s : State) (p : Nat) (x : TraceSt) : (s.setTrace p x).rem = s.rem := rfl
@[simp] theorem State.setTrace_pcc (s : State) (p : Nat) (x : TraceSt) : (s.setTrace p x).pcc = s.pcc := rfl
@[simp] theorem State.setTrace_pccLast (s : State) (p : Nat) (x : TraceSt) : (s.setTrace p x).pccLast = s.pccLast := rfl
@[simp] theorem State.setTrace_silt (s : State) (p : Nat) (x : TraceSt) : (s.setTrace p x).silt = s.silt := rfl
@[simp] theorem State.setTrace_siltSerial (s : State) (p : Nat) (x : TraceSt) : (s.setTrace p x).siltSerial = s.siltSerial := rfl
@[simp] theorem State.setTrace_fault (s : State) (p : Nat) (x : TraceSt) : (s.setTrace p x).fault = s.fault := rfl
@[simp] theorem State.setTrace_power (s : State) (p : Nat) (x : TraceSt) : (s.setTrace p x).power = s.power := rfl
@[simp] theorem State.setTrace_link (s : State) (p : Nat) (x : TraceSt) : (s.setTrace p x).link = s.link := rfl
@[simp] theorem State.setTrace_host (s : State) (p : Nat) (x : TraceSt) : (s.setTrace p x).host = s.host := rfl
@[simp] theorem State.setTrace_boot (s : State) (p : Nat) (x : TraceSt) : (s.setTrace p x).boot = s.boot := rfl
@[simp] theorem State.setTrace_pins (s : State) (p : Nat) (x : TraceSt) : (s.setTrace p x).pins = s.pins := rfl
@[simp] theorem State.setTrace_irqs (s : State) (p : Nat) (x : TraceSt) : (s.setTrace p x).irqs = s.irqs := rfl
@[simp] theorem State.setTrace_free (s : State) (p : Nat) (x : TraceSt) : (s.setTrace p x).free = s.free := rfl

@[simp] theorem State.setPort_pending (s : State) (p : Nat) (x : PortSt) : (s.setPort p x).pending = s.pending := rfl
@[simp] theorem State.setPort_regs (s : State) (p : Nat) (x : PortSt) : (s.setPort p x).regs = s.regs := rfl
@[simp] theorem State.setPort_mem (s : State) (p : Nat) (x : PortSt) : (s.setPort p x).mem = s.mem := rfl
@[simp] theorem State.setPort_stale (s : State) (p : Nat) (x : PortSt) : (s.setPort p x).stale = s.stale := rfl
@[simp] theorem State.setPort_poison (s : State) (p : Nat) (x : PortSt) : (s.setPort p x).poison = s.poison := rfl
@[simp] theorem State.setPort_badLines (s : State) (p : Nat) (x : PortSt) : (s.setPort p x).badLines = s.badLines := rfl
@[simp] theorem State.setPort_time (s : State) (p : Nat) (x : PortSt) : (s.setPort p x).time = s.time := rfl
@[simp] theorem State.setPort_queues (s : State) (p : Nat) (x : PortSt) : (s.setPort p x).queues = s.queues := rfl
@[simp] theorem State.setPort_turns (s : State) (p : Nat) (x : PortSt) : (s.setPort p x).turns = s.turns := rfl
@[simp] theorem State.setPort_waiters (s : State) (p : Nat) (x : PortSt) : (s.setPort p x).waiters = s.waiters := rfl
@[simp] theorem State.setPort_bars (s : State) (p : Nat) (x : PortSt) : (s.setPort p x).bars = s.bars := rfl
@[simp] theorem State.setPort_gcs (s : State) (p : Nat) (x : PortSt) : (s.setPort p x).gcs = s.gcs := rfl
@[simp] theorem State.setPort_ves (s : State) (p : Nat) (x : PortSt) : (s.setPort p x).ves = s.ves := rfl
@[simp] theorem State.setPort_mcs (s : State) (p : Nat) (x : PortSt) : (s.setPort p x).mcs = s.mcs := rfl
@[simp] theorem State.setPort_tables (s : State) (p : Nat) (x : PortSt) : (s.setPort p x).tables = s.tables := rfl
@[simp] theorem State.setPort_hot (s : State) (p : Nat) (x : PortSt) : (s.setPort p x).hot = s.hot := rfl
@[simp] theorem State.setPort_sketches (s : State) (p : Nat) (x : PortSt) : (s.setPort p x).sketches = s.sketches := rfl
@[simp] theorem State.setPort_samps (s : State) (p : Nat) (x : PortSt) : (s.setPort p x).samps = s.samps := rfl
@[simp] theorem State.setPort_sampNext (s : State) (p : Nat) (x : PortSt) : (s.setPort p x).sampNext = s.sampNext := rfl
@[simp] theorem State.setPort_troughs (s : State) (p : Nat) (x : PortSt) : (s.setPort p x).troughs = s.troughs := rfl
@[simp] theorem State.setPort_tmsgs (s : State) (p : Nat) (x : PortSt) : (s.setPort p x).tmsgs = s.tmsgs := rfl
@[simp] theorem State.setPort_tresent (s : State) (p : Nat) (x : PortSt) : (s.setPort p x).tresent = s.tresent := rfl
@[simp] theorem State.setPort_treply (s : State) (p : Nat) (x : PortSt) : (s.setPort p x).treply = s.treply := rfl
@[simp] theorem State.setPort_clog (s : State) (p : Nat) (x : PortSt) : (s.setPort p x).clog = s.clog := rfl
@[simp] theorem State.setPort_replay (s : State) (p : Nat) (x : PortSt) : (s.setPort p x).replay = s.replay := rfl
@[simp] theorem State.setPort_stepVers (s : State) (p : Nat) (x : PortSt) : (s.setPort p x).stepVers = s.stepVers := rfl
@[simp] theorem State.setPort_memKey (s : State) (p : Nat) (x : PortSt) : (s.setPort p x).memKey = s.memKey := rfl
@[simp] theorem State.setPort_snap (s : State) (p : Nat) (x : PortSt) : (s.setPort p x).snap = s.snap := rfl
@[simp] theorem State.setPort_colIn (s : State) (p : Nat) (x : PortSt) : (s.setPort p x).colIn = s.colIn := rfl
@[simp] theorem State.setPort_colAck (s : State) (p : Nat) (x : PortSt) : (s.setPort p x).colAck = s.colAck := rfl
@[simp] theorem State.setPort_ctxs (s : State) (p : Nat) (x : PortSt) : (s.setPort p x).ctxs = s.ctxs := rfl
@[simp] theorem State.setPort_ponds (s : State) (p : Nat) (x : PortSt) : (s.setPort p x).ponds = s.ponds := rfl
@[simp] theorem State.setPort_chans (s : State) (p : Nat) (x : PortSt) : (s.setPort p x).chans = s.chans := rfl
@[simp] theorem State.setPort_scrubbed (s : State) (p : Nat) (x : PortSt) : (s.setPort p x).scrubbed = s.scrubbed := rfl
@[simp] theorem State.setPort_dirs (s : State) (p : Nat) (x : PortSt) : (s.setPort p x).dirs = s.dirs := rfl
@[simp] theorem State.setPort_rem (s : State) (p : Nat) (x : PortSt) : (s.setPort p x).rem = s.rem := rfl
@[simp] theorem State.setPort_pcc (s : State) (p : Nat) (x : PortSt) : (s.setPort p x).pcc = s.pcc := rfl
@[simp] theorem State.setPort_pccLast (s : State) (p : Nat) (x : PortSt) : (s.setPort p x).pccLast = s.pccLast := rfl
@[simp] theorem State.setPort_traces (s : State) (p : Nat) (x : PortSt) : (s.setPort p x).traces = s.traces := rfl
@[simp] theorem State.setPort_silt (s : State) (p : Nat) (x : PortSt) : (s.setPort p x).silt = s.silt := rfl
@[simp] theorem State.setPort_siltSerial (s : State) (p : Nat) (x : PortSt) : (s.setPort p x).siltSerial = s.siltSerial := rfl
@[simp] theorem State.setPort_fault (s : State) (p : Nat) (x : PortSt) : (s.setPort p x).fault = s.fault := rfl
@[simp] theorem State.setPort_power (s : State) (p : Nat) (x : PortSt) : (s.setPort p x).power = s.power := rfl
@[simp] theorem State.setPort_host (s : State) (p : Nat) (x : PortSt) : (s.setPort p x).host = s.host := rfl
@[simp] theorem State.setPort_boot (s : State) (p : Nat) (x : PortSt) : (s.setPort p x).boot = s.boot := rfl
@[simp] theorem State.setPort_pins (s : State) (p : Nat) (x : PortSt) : (s.setPort p x).pins = s.pins := rfl
@[simp] theorem State.setPort_irqs (s : State) (p : Nat) (x : PortSt) : (s.setPort p x).irqs = s.irqs := rfl
@[simp] theorem State.setPort_free (s : State) (p : Nat) (x : PortSt) : (s.setPort p x).free = s.free := rfl

@[simp] theorem State.setWaiters_pending (s : State) (off : Nat) (l : List Waiter) : (s.setWaiters off l).pending = s.pending := rfl
@[simp] theorem State.setWaiters_regs (s : State) (off : Nat) (l : List Waiter) : (s.setWaiters off l).regs = s.regs := rfl
@[simp] theorem State.setWaiters_mem (s : State) (off : Nat) (l : List Waiter) : (s.setWaiters off l).mem = s.mem := rfl
@[simp] theorem State.setWaiters_stale (s : State) (off : Nat) (l : List Waiter) : (s.setWaiters off l).stale = s.stale := rfl
@[simp] theorem State.setWaiters_poison (s : State) (off : Nat) (l : List Waiter) : (s.setWaiters off l).poison = s.poison := rfl
@[simp] theorem State.setWaiters_badLines (s : State) (off : Nat) (l : List Waiter) : (s.setWaiters off l).badLines = s.badLines := rfl
@[simp] theorem State.setWaiters_time (s : State) (off : Nat) (l : List Waiter) : (s.setWaiters off l).time = s.time := rfl
@[simp] theorem State.setWaiters_queues (s : State) (off : Nat) (l : List Waiter) : (s.setWaiters off l).queues = s.queues := rfl
@[simp] theorem State.setWaiters_turns (s : State) (off : Nat) (l : List Waiter) : (s.setWaiters off l).turns = s.turns := rfl
@[simp] theorem State.setWaiters_bars (s : State) (off : Nat) (l : List Waiter) : (s.setWaiters off l).bars = s.bars := rfl
@[simp] theorem State.setWaiters_gcs (s : State) (off : Nat) (l : List Waiter) : (s.setWaiters off l).gcs = s.gcs := rfl
@[simp] theorem State.setWaiters_ves (s : State) (off : Nat) (l : List Waiter) : (s.setWaiters off l).ves = s.ves := rfl
@[simp] theorem State.setWaiters_mcs (s : State) (off : Nat) (l : List Waiter) : (s.setWaiters off l).mcs = s.mcs := rfl
@[simp] theorem State.setWaiters_tables (s : State) (off : Nat) (l : List Waiter) : (s.setWaiters off l).tables = s.tables := rfl
@[simp] theorem State.setWaiters_hot (s : State) (off : Nat) (l : List Waiter) : (s.setWaiters off l).hot = s.hot := rfl
@[simp] theorem State.setWaiters_sketches (s : State) (off : Nat) (l : List Waiter) : (s.setWaiters off l).sketches = s.sketches := rfl
@[simp] theorem State.setWaiters_samps (s : State) (off : Nat) (l : List Waiter) : (s.setWaiters off l).samps = s.samps := rfl
@[simp] theorem State.setWaiters_sampNext (s : State) (off : Nat) (l : List Waiter) : (s.setWaiters off l).sampNext = s.sampNext := rfl
@[simp] theorem State.setWaiters_troughs (s : State) (off : Nat) (l : List Waiter) : (s.setWaiters off l).troughs = s.troughs := rfl
@[simp] theorem State.setWaiters_tmsgs (s : State) (off : Nat) (l : List Waiter) : (s.setWaiters off l).tmsgs = s.tmsgs := rfl
@[simp] theorem State.setWaiters_tresent (s : State) (off : Nat) (l : List Waiter) : (s.setWaiters off l).tresent = s.tresent := rfl
@[simp] theorem State.setWaiters_treply (s : State) (off : Nat) (l : List Waiter) : (s.setWaiters off l).treply = s.treply := rfl
@[simp] theorem State.setWaiters_clog (s : State) (off : Nat) (l : List Waiter) : (s.setWaiters off l).clog = s.clog := rfl
@[simp] theorem State.setWaiters_replay (s : State) (off : Nat) (l : List Waiter) : (s.setWaiters off l).replay = s.replay := rfl
@[simp] theorem State.setWaiters_stepVers (s : State) (off : Nat) (l : List Waiter) : (s.setWaiters off l).stepVers = s.stepVers := rfl
@[simp] theorem State.setWaiters_memKey (s : State) (off : Nat) (l : List Waiter) : (s.setWaiters off l).memKey = s.memKey := rfl
@[simp] theorem State.setWaiters_snap (s : State) (off : Nat) (l : List Waiter) : (s.setWaiters off l).snap = s.snap := rfl
@[simp] theorem State.setWaiters_colIn (s : State) (off : Nat) (l : List Waiter) : (s.setWaiters off l).colIn = s.colIn := rfl
@[simp] theorem State.setWaiters_colAck (s : State) (off : Nat) (l : List Waiter) : (s.setWaiters off l).colAck = s.colAck := rfl
@[simp] theorem State.setWaiters_ctxs (s : State) (off : Nat) (l : List Waiter) : (s.setWaiters off l).ctxs = s.ctxs := rfl
@[simp] theorem State.setWaiters_ponds (s : State) (off : Nat) (l : List Waiter) : (s.setWaiters off l).ponds = s.ponds := rfl
@[simp] theorem State.setWaiters_chans (s : State) (off : Nat) (l : List Waiter) : (s.setWaiters off l).chans = s.chans := rfl
@[simp] theorem State.setWaiters_scrubbed (s : State) (off : Nat) (l : List Waiter) : (s.setWaiters off l).scrubbed = s.scrubbed := rfl
@[simp] theorem State.setWaiters_dirs (s : State) (off : Nat) (l : List Waiter) : (s.setWaiters off l).dirs = s.dirs := rfl
@[simp] theorem State.setWaiters_rem (s : State) (off : Nat) (l : List Waiter) : (s.setWaiters off l).rem = s.rem := rfl
@[simp] theorem State.setWaiters_pcc (s : State) (off : Nat) (l : List Waiter) : (s.setWaiters off l).pcc = s.pcc := rfl
@[simp] theorem State.setWaiters_pccLast (s : State) (off : Nat) (l : List Waiter) : (s.setWaiters off l).pccLast = s.pccLast := rfl
@[simp] theorem State.setWaiters_traces (s : State) (off : Nat) (l : List Waiter) : (s.setWaiters off l).traces = s.traces := rfl
@[simp] theorem State.setWaiters_silt (s : State) (off : Nat) (l : List Waiter) : (s.setWaiters off l).silt = s.silt := rfl
@[simp] theorem State.setWaiters_siltSerial (s : State) (off : Nat) (l : List Waiter) : (s.setWaiters off l).siltSerial = s.siltSerial := rfl
@[simp] theorem State.setWaiters_fault (s : State) (off : Nat) (l : List Waiter) : (s.setWaiters off l).fault = s.fault := rfl
@[simp] theorem State.setWaiters_power (s : State) (off : Nat) (l : List Waiter) : (s.setWaiters off l).power = s.power := rfl
@[simp] theorem State.setWaiters_link (s : State) (off : Nat) (l : List Waiter) : (s.setWaiters off l).link = s.link := rfl
@[simp] theorem State.setWaiters_host (s : State) (off : Nat) (l : List Waiter) : (s.setWaiters off l).host = s.host := rfl
@[simp] theorem State.setWaiters_boot (s : State) (off : Nat) (l : List Waiter) : (s.setWaiters off l).boot = s.boot := rfl
@[simp] theorem State.setWaiters_pins (s : State) (off : Nat) (l : List Waiter) : (s.setWaiters off l).pins = s.pins := rfl
@[simp] theorem State.setWaiters_irqs (s : State) (off : Nat) (l : List Waiter) : (s.setWaiters off l).irqs = s.irqs := rfl
@[simp] theorem State.setWaiters_free (s : State) (off : Nat) (l : List Waiter) : (s.setWaiters off l).free = s.free := rfl

@[simp] theorem State.setQ_queues (s : State) (q : Nat) (x : QState) : (s.setQ q x).queues = ins s.queues q x := rfl
@[simp] theorem State.setGc_gcs (s : State) (g : Nat) (x : GcState) : (s.setGc g x).gcs = ins s.gcs g x := rfl
@[simp] theorem State.setRegAt_regs (s : State) (o : Nat) (v : W64) : (s.setRegAt o v).regs = ins s.regs o v := rfl
@[simp] theorem State.setPond_ponds (s : State) (p : Nat) (x : PondSt) : (s.setPond p x).ponds = ins s.ponds p x := rfl
@[simp] theorem State.setWaiters_waiters (s : State) (off : Nat) (l : List Waiter) :
    (s.setWaiters off l).waiters = if l.isEmpty then del s.waiters off else ins s.waiters off l := rfl
@[simp] theorem State.wr8_mem (s : State) (a : Nat) (b : Byte) : (s.wr8 a b).mem = memPut s.stale s.mem a b := rfl

end Sys2Proof.Machine
end

