-- ==== Sys2Proof/Laws/Reg.lean ====
section
/-! SUPPORT. Laws of the registers: what each access reads after each write. -/

namespace Sys2Proof.Machine

open Sys2Proof

theorem regAt_setRegAt (s : State) (o o' : Nat) (v r : W64) :
    (s.setRegAt o v).regAt o' r = if o' = o then v else s.regAt o' r := by
  simp only [State.regAt, State.setRegAt, look_ins]
  split <;> rfl

@[simp] theorem regAt_setRegAt_self (s : State) (o : Nat) (v r : W64) : (s.setRegAt o v).regAt o r = v := by
  simp [regAt_setRegAt]

theorem regAt_setRegAt_ne (s : State) {o o' : Nat} (v r : W64) (h : o' ≠ o) :
    (s.setRegAt o v).regAt o' r = s.regAt o' r := by
  simp [regAt_setRegAt, h]

theorem regAt_set (s : State) (f : Fld) (n i j o : Nat) (r : W64) :
    (s.set f n i j).regAt o r = if o = f.reg.off i j then fset f (s.rg f.reg i j) n else s.regAt o r := by
  simp [State.set, State.setRg, regAt_setRegAt]

theorem regAt_set_ne (s : State) (f : Fld) (n i j : Nat) {o : Nat} (r : W64) (h : o ≠ f.reg.off i j) :
    (s.set f n i j).regAt o r = s.regAt o r := by
  simp [regAt_set, h]

/-- A field reads back what was written, modulo its width. -/
theorem get_set_self (s : State) (f : Fld) (n i j : Nat) (hw : f.lo + f.w ≤ 64) :
    (s.set f n i j).get f i j = n % 2 ^ f.w := by
  simp only [State.get, State.rg, State.set, State.setRg, regAt_setRegAt_self]
  exact fget_fset f _ n hw

/-- A field of another register, or of another instance, is unchanged. -/
theorem get_set_off (s : State) (f g : Fld) (n i j i' j' : Nat) (h : g.reg.off i' j' ≠ f.reg.off i j) :
    (s.set f n i j).get g i' j' = s.get g i' j' := by
  simp only [State.get, State.rg, regAt_set, h, if_false]

/-- A disjoint field of the same register is unchanged. -/
theorem get_set_field (s : State) (f g : Fld) (n i j : Nat) (hr : g.reg = f.reg) (hf : f.lo + f.w ≤ 64)
    (hg : g.lo + g.w ≤ 64) (h : f.lo + f.w ≤ g.lo ∨ g.lo + g.w ≤ f.lo) :
    (s.set f n i j).get g i j = s.get g i j := by
  simp only [State.get, State.rg, hr, State.set, State.setRg, regAt_setRegAt_self]
  exact fget_fset_disjoint f g _ n hf hg h

/-- A register write leaves everything but the registers. -/
theorem set_rest (s : State) (f : Fld) (n i j : Nat) : { s.set f n i j with regs := s.regs } = s := rfl

theorem get_lt (s : State) (f : Fld) (i j : Nat) : s.get f i j < 2 ^ f.w := fget_lt _ _

theorem setRegAt_rd8 (s : State) (o : Nat) (v : W64) (a : Nat) : (s.setRegAt o v).rd8 a = s.rd8 a := rfl

theorem set_rd8 (s : State) (f : Fld) (n i j a : Nat) : (s.set f n i j).rd8 a = s.rd8 a := rfl

end Sys2Proof.Machine
end

