-- ==== Sys2Proof/Laws/Mem.lean ====
section
/-! SUPPORT. Laws of memory: a read after a write, what a write leaves alone, and the canonical form, which every memory
operation keeps. -/

namespace Sys2Proof.Machine

open Sys2Proof

variable {α : Type}

/-! Sorted maps. -/

theorem risingFrom_mono {lo lo' : Nat} (h : lo ≤ lo') {m : SMap α} (hm : risingFrom lo' m = true) :
    risingFrom lo m = true := by
  cases m with
  | nil => rfl
  | cons x m =>
    simp only [risingFrom, Bool.and_eq_true, decide_eq_true_eq] at hm ⊢
    exact ⟨by omega, hm.2⟩

theorem risingFrom_ins (lo : Nat) (m : SMap α) (x : Nat) (v : α) (h : risingFrom lo m = true) (hx : lo ≤ x) :
    risingFrom lo (ins m x v) = true := by
  induction m generalizing lo with
  | nil => simp [ins, risingFrom, hx]
  | cons y m ih =>
    obtain ⟨k, w⟩ := y
    simp only [risingFrom, Bool.and_eq_true, decide_eq_true_eq] at h
    by_cases h1 : x < k
    · simp only [ins, h1, if_true, risingFrom, Bool.and_eq_true, decide_eq_true_eq]
      exact ⟨hx, by omega, h.2⟩
    · by_cases h2 : x = k
      · simp only [ins, h2, lt_irrefl, if_false, if_true, risingFrom, Bool.and_eq_true, decide_eq_true_eq]
        exact ⟨h.1, h.2⟩
      · simp only [ins, h1, h2, if_false, risingFrom, Bool.and_eq_true, decide_eq_true_eq]
        exact ⟨h.1, ih _ h.2 (by omega)⟩

theorem risingFrom_del (lo : Nat) (m : SMap α) (x : Nat) (h : risingFrom lo m = true) :
    risingFrom lo (del m x) = true := by
  induction m generalizing lo with
  | nil => rfl
  | cons y m ih =>
    obtain ⟨k, w⟩ := y
    simp only [risingFrom, Bool.and_eq_true, decide_eq_true_eq] at h
    by_cases h1 : k = x
    · simp only [del, h1, if_true]
      exact ih _ (risingFrom_mono (by omega) h.2)
    · simp only [del, h1, if_false, risingFrom, Bool.and_eq_true, decide_eq_true_eq]
      exact ⟨h.1, ih _ h.2⟩

theorem risingFrom_filter (lo : Nat) (m : SMap α) (p : Nat × α → Bool) (h : risingFrom lo m = true) :
    risingFrom lo (m.filter p) = true := by
  induction m generalizing lo with
  | nil => rfl
  | cons y m ih =>
    obtain ⟨k, w⟩ := y
    simp only [risingFrom, Bool.and_eq_true, decide_eq_true_eq] at h
    by_cases h1 : p (k, w) = true
    · simp only [List.filter_cons, h1, if_true, risingFrom, Bool.and_eq_true, decide_eq_true_eq]
      exact ⟨h.1, ih _ h.2⟩
    · simp only [List.filter_cons, h1]
      exact ih _ (risingFrom_mono (by omega) h.2)

theorem all_ins (m : SMap α) (x : Nat) (v : α) (p : Nat × α → Bool) (h : m.all p = true) (hv : p (x, v) = true) :
    (ins m x v).all p = true := by
  induction m with
  | nil => simp [ins, hv]
  | cons y m ih =>
    obtain ⟨k, w⟩ := y
    simp only [List.all_cons, Bool.and_eq_true] at h
    by_cases h1 : x < k
    · simp [ins, h1, h.1, h.2, hv]
    · by_cases h2 : x = k
      · subst h2; simp [ins, h.2, hv]
      · simp only [ins, h1, h2, if_false, List.all_cons, Bool.and_eq_true]
        exact ⟨h.1, ih h.2⟩

theorem all_del (m : SMap α) (x : Nat) (p : Nat × α → Bool) (h : m.all p = true) : (del m x).all p = true := by
  induction m with
  | nil => rfl
  | cons y m ih =>
    obtain ⟨k, w⟩ := y
    simp only [List.all_cons, Bool.and_eq_true] at h
    by_cases h1 : k = x
    · simp only [del, h1, if_true]; exact ih h.2
    · simp only [del, h1, if_false, List.all_cons, Bool.and_eq_true]; exact ⟨h.1, ih h.2⟩

/-! One byte. -/

/-- A byte write keeps the canonical form. -/
theorem memPut_wf (st : List (Nat × Nat × Nat)) (m : List Host.Cell) (a : Nat) (b : Byte)
    (h : Memory.wf st m = true) : Memory.wf st (memPut st m a b) = true := by
  simp only [Memory.wf, Bool.and_eq_true] at h ⊢
  unfold memPut
  split
  · exact ⟨risingFrom_del 0 _ _ h.1, all_del _ _ _ h.2⟩
  · rename_i hb
    refine ⟨risingFrom_ins 0 _ _ _ h.1 (by omega), all_ins _ _ _ _ h.2 ?_⟩
    simp only [Bool.not_eq_true', Bool.and_eq_false_iff, beq_eq_false_iff_ne, ne_eq]
    by_cases h0 : b = 0
    · right; cases h : staleAt st a <;> simp_all
    · exact Or.inl h0

theorem rd8_wr8 (s : State) (a : Nat) (b : Byte) (c : Nat) :
    (s.wr8 a b).rd8 c = if c = a then b else s.rd8 c := by
  simp only [State.rd8, State.wr8, memPut]
  split
  · rename_i h
    rw [look_del]
    by_cases hc : c = a
    · subst hc
      have h2 : staleAt s.stale c = none := by simpa using h.2
      simp [unlisted, h2, h.1]
    · simp [hc]
  · rw [look_ins]
    by_cases hc : c = a <;> simp [hc]

theorem wr8_wf (s : State) (a : Nat) (b : Byte) (h : Memory.wf s.stale s.mem = true) :
    Memory.wf (s.wr8 a b).stale (s.wr8 a b).mem = true :=
  memPut_wf _ _ _ _ h

/-! Several bytes. -/

theorem rd8_wrBytes (s : State) (a : Nat) (bs : List Byte) (c : Nat) :
    (s.wrBytes a bs).rd8 c = if a ≤ c ∧ c < a + bs.length then (bs[c - a]?).getD 0 else s.rd8 c := by
  induction bs generalizing s a with
  | nil =>
    simp [State.wrBytes]
  | cons b bs ih =>
    rw [State.wrBytes, ih, rd8_wr8]
    simp only [List.length_cons]
    by_cases h1 : a + 1 ≤ c ∧ c < a + 1 + bs.length
    · have h2 : a ≤ c ∧ c < a + (bs.length + 1) := by omega
      have h3 : c - a = (c - (a + 1)) + 1 := by omega
      simp only [h1, h2, and_self, if_true, h3, List.getElem?_cons_succ]
    · by_cases h4 : c = a
      · subst h4; simp
      · have h2 : ¬(a ≤ c ∧ c < a + (bs.length + 1)) := by omega
        simp only [h1, h2, h4, if_false]

theorem wrBytes_wf (s : State) (a : Nat) (bs : List Byte) (h : Memory.wf s.stale s.mem = true) :
    Memory.wf (s.wrBytes a bs).stale (s.wrBytes a bs).mem = true := by
  induction bs generalizing s a with
  | nil => exact h
  | cons b bs ih => exact ih _ _ (wr8_wf s a b h)

/-- A byte write changes nothing but memory. -/
theorem wrBytes_eq (s : State) (a : Nat) (bs : List Byte) : ∃ m, s.wrBytes a bs = { s with mem := m } := by
  induction bs generalizing s a with
  | nil => exact ⟨s.mem, rfl⟩
  | cons b bs ih =>
    obtain ⟨m, h⟩ := ih (s.wr8 a b) (a + 1)
    exact ⟨m, h⟩

/-! Writes of main memory and scratch. -/

/-- What a write of the `n` bytes at `a` may do: it changes no byte outside them, keeps the canonical form, and beside
memory touches only the ponds, the directories, the poison, the failing lines and the remaining-use counts. -/
def Wrote (a n : Nat) (s t : State) : Prop :=
  (∃ m p d q b r, t = { s with mem := m, ponds := p, dirs := d, poison := q, badLines := b, rem := r })
    ∧ (∀ c, c < a ∨ a + n ≤ c → t.rd8 c = s.rd8 c)
    ∧ (Memory.wf s.stale s.mem = true → Memory.wf t.stale t.mem = true)

theorem Wrote.refl (a n : Nat) (s : State) : Wrote a n s s := ⟨⟨_, _, _, _, _, _, rfl⟩, fun _ _ => rfl, id⟩

theorem Wrote.trans {a n : Nat} {s t u : State} (h1 : Wrote a n s t) (h2 : Wrote a n t u) : Wrote a n s u := by
  obtain ⟨⟨m, p, d, q, b, r, rfl⟩, r1, w1⟩ := h1
  obtain ⟨⟨m', p', d', q', b', r', rfl⟩, r2, w2⟩ := h2
  exact ⟨⟨m', p', d', q', b', r', rfl⟩, fun c hc => (r2 c hc).trans (r1 c hc), w2 ∘ w1⟩

theorem Wrote.wrBytes {a n x : Nat} (s : State) {bs : List Byte} (h1 : a ≤ x) (h2 : x + bs.length ≤ a + n) :
    Wrote a n s (s.wrBytes x bs) := by
  obtain ⟨m, h⟩ := wrBytes_eq s x bs
  refine ⟨⟨m, _, _, _, _, _, h⟩, fun c hc => ?_, wrBytes_wf s x bs⟩
  have : ¬(x ≤ c ∧ c < x + bs.length) := by omega
  rw [rd8_wrBytes, if_neg this]

theorem Wrote.invalidateAll (a n : Nat) (s : State) (l : Nat) : Wrote a n s (s.invalidateAll l) :=
  ⟨⟨_, _, _, _, _, _, rfl⟩, fun _ _ => rfl, id⟩

theorem Wrote.poison (a n : Nat) (s : State) (l : List Nat) : Wrote a n s { s with poison := l } :=
  ⟨⟨_, _, _, _, _, _, rfl⟩, fun _ _ => rfl, id⟩

theorem Wrote.badLines (a n : Nat) (s : State) (l : List Nat) : Wrote a n s { s with badLines := l } :=
  ⟨⟨_, _, _, _, _, _, rfl⟩, fun _ _ => rfl, id⟩

theorem Wrote.dropRem (a n : Nat) (s : State) (x k : Nat) : Wrote a n s (s.dropRem x k) :=
  ⟨⟨_, _, _, _, _, _, rfl⟩, fun _ _ => rfl, id⟩

@[simp] theorem State.dropRem_rd8 (s : State) (x k c : Nat) : (s.dropRem x k).rd8 c = s.rd8 c := rfl

theorem blockParts_mem {sz fuel a n x l : Nat} (h : (x, l) ∈ blockParts sz a fuel n) : a ≤ x ∧ x + l ≤ a + n := by
  induction fuel generalizing a n with
  | zero => simp [blockParts] at h
  | succ f ih =>
    rw [blockParts] at h
    split at h
    · simp at h
    · rcases List.mem_cons.mp h with h | h
      · simp only [Prod.mk.injEq] at h
        omega
      · have := ih h
        omega

theorem Wrote.foldl {β : Type} {a n : Nat} (l : List β) (f : State × Bool → β → State × Bool) (acc : State × Bool)
    (h : ∀ x ∈ l, ∀ acc, Wrote a n acc.1 (f acc x).1) : Wrote a n acc.1 (l.foldl f acc).1 := by
  induction l generalizing acc with
  | nil => exact .refl _ _ _
  | cons x l ih =>
    exact (h x (by simp) acc).trans (ih (f acc x) fun y hy => h y (by simp [hy]))

theorem wrMain_wrote (s : State) (a : Nat) (bs : List Byte) : Wrote a bs.length s (s.wrMain a bs).1 := by
  refine (Wrote.foldl _ _ (s, false) fun part hp acc => ?_).trans (Wrote.dropRem _ _ _ _ _)
  obtain ⟨x, l⟩ := part
  have hx := blockParts_mem hp
  obtain ⟨t, bad⟩ := acc
  have hlen : ((bs.drop (x - a)).take l).length ≤ l := by simp
  dsimp only
  split
  · exact .refl _ _ _
  · split
    · exact .refl _ _ _
    · refine (Wrote.trans ?_ (Wrote.poison _ _ _ _)).trans (Wrote.wrBytes _ hx.1 (by omega))
      split
      · exact (Wrote.invalidateAll _ _ _ _).trans (Wrote.invalidateAll _ _ _ _)
      · exact Wrote.invalidateAll _ _ _ _

theorem wrScratch_wrote (s : State) (a : Nat) (bs : List Byte) : Wrote a bs.length s (s.wrScratch a bs).1 := by
  refine (Wrote.foldl _ _ (s, false) fun part hp acc => ?_).trans (Wrote.dropRem _ _ _ _ _)
  obtain ⟨x, l⟩ := part
  have hx := blockParts_mem hp
  obtain ⟨t, bad⟩ := acc
  have hlen : ((bs.drop (x - a)).take l).length ≤ l := by simp
  dsimp only
  split
  · exact .refl _ _ _
  · exact (Wrote.badLines _ _ _ _).trans (Wrote.wrBytes _ hx.1 (by omega))

/-- All that a write of memory can do. -/
theorem wrLocal_wrote (s : State) (a : Nat) (bs : List Byte) : Wrote a bs.length s (s.wrLocal a bs).1 := by
  unfold State.wrLocal
  split
  · exact wrMain_wrote s a bs
  · exact wrScratch_wrote s a bs
  · exact .refl _ _ _

theorem blockParts_one {sz a fuel n : Nat} (hn : n ≠ 0) (h : a % sz + n ≤ sz) :
    blockParts sz a (fuel + 2) n = [(a, n)] := by
  have h1 : min n (sz - a % sz) = n := by omega
  simp [blockParts, hn, h1]

/-- A write inside one sound 256-byte block of main memory puts its bytes. -/
theorem wrMain_rd8 (s : State) (a : Nat) (bs : List Byte) (hn : bs ≠ []) (hb : a % 256 + bs.length ≤ 256)
    (hr : retiredAt s a = false) (hp : poisonedAt s a = false) (c : Nat) :
    (s.wrMain a bs).2 = false ∧ (s.wrMain a bs).1.rd8 c =
      if a ≤ c ∧ c < a + bs.length then (bs[c - a]?).getD 0 else s.rd8 c := by
  have hl : bs.length ≠ 0 := by simpa using hn
  have h1 : ∀ t : State, t.mem = s.mem → t.stale = s.stale → t.rd8 c = s.rd8 c := by
    intro t h2 h3; simp [State.rd8, h2, h3]
  simp only [State.wrMain, blockParts_one hl hb, List.foldl_cons, List.foldl_nil, hr, hp, Bool.false_and, Nat.sub_self,
    List.drop_zero, List.take_length, Bool.false_eq_true, if_false, State.dropRem_rd8, rd8_wrBytes, true_and]
  split
  · rfl
  · split <;> exact h1 _ rfl rfl

/-- A write inside one sound 64-byte line of scratch puts its bytes. -/
theorem wrScratch_rd8 (s : State) (a : Nat) (bs : List Byte) (hn : bs ≠ []) (hb : a % 64 + bs.length ≤ 64)
    (hp : s.badLines.contains (a / 64) = false) (c : Nat) :
    (s.wrScratch a bs).2 = false ∧ (s.wrScratch a bs).1.rd8 c =
      if a ≤ c ∧ c < a + bs.length then (bs[c - a]?).getD 0 else s.rd8 c := by
  have hl : bs.length ≠ 0 := by simpa using hn
  simp only [State.wrScratch, blockParts_one hl hb, List.foldl_cons, List.foldl_nil, hp, Bool.false_and, Nat.sub_self,
    List.drop_zero, List.take_length, Bool.false_eq_true, if_false, State.dropRem_rd8, rd8_wrBytes, true_and]
  split <;> rfl

/-- Leaving a range unspecified keeps the canonical form. -/
theorem makeStale_wf (s : State) (lo hi : Nat) (h : Memory.wf s.stale s.mem = true) :
    Memory.wf (s.makeStale lo hi).stale (s.makeStale lo hi).mem = true := by
  simp only [Memory.wf, Bool.and_eq_true] at h ⊢
  refine ⟨risingFrom_filter 0 _ _ h.1, ?_⟩
  rw [List.all_eq_true] at h ⊢
  intro c hc
  simp only [State.makeStale, List.mem_filter] at hc
  have h2 := h.2 c hc.1
  have h3 : ¬(lo ≤ c.1 ∧ c.1 < hi) := by
    have := hc.2
    simp only [Bool.not_eq_true', Bool.and_eq_false_iff, decide_eq_false_iff_not] at this
    omega
  simpa [State.makeStale, staleAt, h3] using h2

/-- Reset memory has the canonical form. -/
theorem reset_wf : Memory.wf State.reset.stale State.reset.mem = true := rfl

end Sys2Proof.Machine
end

