-- ==== Sys2Proof/WellFormed.lean ====
section
/-! DEFINITION. Which commands are well formed: every operand names something that exists, and every value fits the
field that carries it. A command that is not well formed is one that nothing outside the device can send. -/

namespace Sys2Proof

/-- The end of main memory (R520). -/
def mainEnd : Nat := 0x10E00000000

/-- The header fields of a frame fit their widths (R352, R353). -/
def frameWf (f : RxFrame) : Bool :=
  f.port < 12 && f.type < 16 && f.len < 1024 && f.lseq < 65536 && f.lack < 65536 && f.alive < 256 && f.dst < 8192
    && f.src < 8192 && f.eseq < 65536 && f.addr < 2 ^ 43 && f.kep < 2 && f.rpath < 2 ^ 48 && f.path < 2 ^ 48

/-- An access through a BAR has a width and, as a write, that many bytes (R371, R372). -/
def hostWf (a : HostAccess) : Bool := a.width != 0 && (!a.write || a.data.length == a.width)

/-- Error symbols lie at positions of a codeword (R340). -/
def symbolsWf (e : RawErrors) : Bool :=
  (e.cw0 ++ e.cw1).all fun x => x.1 < 141 && x.2 < 256

/-- A trough message names ponds, devices and a queue, and carries 32 elements where it carries any (R201, R206). -/
def messageWf (m : TroughMsg) : Bool :=
  m.src < 96 && m.dst < 96 && m.srcDev < 8192 && m.dstDev < 8192 && m.dev < 8192 && m.queue < 16384 && m.seq < 2 ^ 32
    && (m.w.isEmpty || m.w.length == 32)

/-- An SPDM or IDE_KM request has its four header bytes (R477). -/
def requestWf (m : SpdmMsg) : Bool := 4 ≤ m.bytes.length

/-- An answer of the host carries data only if it is one. -/
def replyWf (r : HostReply) : Bool :=
  match r with
  | .done d => d.length ≤ 4096
  | _ => true

/-- The command is well formed. -/
def wellFormed (i : Instr) : Bool :=
  match i with
  | .tailDoorbell q value => q < 16384 && value < 2 ^ 64
  | .qtabCfgWrite q value => q < 16384 && value < 2 ^ 64
  | .resume q => q < 16384
  | .discard q => q < 16384
  | .qtabCheadWrite q value => q < 16384 && value < 2 ^ 64
  | .commandStart q => q < 16384
  | .commandRetire q => q < 16384
  | .nop q => q < 16384
  | .signal q => q < 16384
  | .waitsem q => q < 16384
  | .decsem q => q < 16384
  | .barrier q => q < 16384
  | .barInit q => q < 16384
  | .semset q => q < 16384
  | .semValWrite off value => off < 0x8000000 && off % 8 == 0 && value < 2 ^ 64
  | .fsemSigWrite n amount => n < 256 && amount < 2 ^ 64
  | .grun q => q < 16384
  | .add g => g < 384
  | .sub g => g < 384
  | .mul g => g < 384
  | .and_ g => g < 384
  | .or_ g => g < 384
  | .xor g => g < 384
  | .shl g => g < 384
  | .shr g => g < 384
  | .cmplu g => g < 384
  | .fadd g => g < 384
  | .fsub g => g < 384
  | .fmul g => g < 384
  | .fdiv g => g < 384
  | .fsqrt g => g < 384
  | .fcmplt g => g < 384
  | .fcvti g => g < 384
  | .icvtf g => g < 384
  | .fence g => g < 384
  | .yield g => g < 384
  | .yieldTimeout g => g < 384
  | .halt g => g < 384
  | .tret g => g < 384
  | .trap g => g < 384
  | .addk g => g < 384
  | .andk g => g < 384
  | .ork g => g < 384
  | .shlk g => g < 384
  | .shrk g => g < 384
  | .sark g => g < 384
  | .hik g => g < 384
  | .ld8 g => g < 384
  | .ld16 g => g < 384
  | .ld32 g => g < 384
  | .ld64 g => g < 384
  | .st8 g => g < 384
  | .st16 g => g < 384
  | .st32 g => g < 384
  | .st64 g => g < 384
  | .breq g => g < 384
  | .brne g => g < 384
  | .brlt g => g < 384
  | .brge g => g < 384
  | .brltu g => g < 384
  | .brgeu g => g < 384
  | .call g => g < 384
  | .callr g => g < 384
  | .crr g => g < 384
  | .crw g => g < 384
  | .issue g => g < 384
  | .sig g => g < 384
  | .wait g => g < 384
  | .trywait g => g < 384
  | .dec g => g < 384
  | .sumr g => g < 384
  | .sample q => q < 16384
  | .samplingTimeout _ => true
  | .gather q => q < 16384
  | .tableSwitch q => q < 16384
  | .hotRefresh q => q < 16384
  | .mload q => q < 16384
  | .planeSwap m array => m < 192 && array < 16
  | .mmul q => q < 16384
  | .mstore q => q < 16384
  | .vpload q => q < 16384
  | .vexec q => q < 16384
  | .vtrans q => q < 16384
  | .vmask q => q < 16384
  | .treset q => q < 16384
  | .tscatEmax q => q < 16384
  | .tscatAdd q => q < 16384
  | .texchEsend q => q < 16384
  | .texchEfetch q => q < 16384
  | .texchAsend q => q < 16384
  | .tmerge q => q < 16384
  | .tcodec q => q < 16384
  | .troughContribution m => messageWf m
  | .troughExponentMessage m => messageWf m
  | .prepare m => messageWf m
  | .commit m => messageWf m
  | .abort m => messageWf m
  | .troughBackgroundEvict p => p < 96
  | .spillThresholdAdjust p => p < 96
  | .pruneMask q => q < 16384
  | .prunePack q => q < 16384
  | .update q => q < 16384
  | .rowUpdate q => q < 16384
  | .flagLocal q => q < 16384
  | .stepClose q => q < 16384
  | .pcSwitch q => q < 16384
  | .replayBegin q => q < 16384
  | .replayEnd q => q < 16384
  | .xfer q => q < 16384
  | .allreduce q => q < 16384
  | .reduceScatter q => q < 16384
  | .allgather q => q < 16384
  | .alltoall q => q < 16384
  | .broadcast q => q < 16384
  | .maxreduce q => q < 16384
  | .permute q => q < 16384
  | .seedsSet q => q < 16384
  | .collChunk f => frameWf f
  | .collAck f => frameWf f
  | .collDone f => frameWf f
  | .collAbort f => frameWf f
  | .rest q => q < 16384
  | .drowseSample readings => readings.all fun r => r.1 < 0x480 || (0x500 ≤ r.1 && r.1 ≤ 0x508) || (0x600 ≤ r.1 && r.1 ≤ 0x60B)
  | .pondLull p => p < 96
  | .pondWake p => p < 96
  | .timeEpochWrite value => value < 2 ^ 64
  | .timeFrame f rxAgo txIn => frameWf f && rxAgo < 2 ^ 64 && txIn < 2 ^ 64
  | .trimRaise p region => p < 96 && region < 7
  | .trimLower p region => p < 96 && region < 7
  | .uvHold p => p < 96
  | .uvHoldRelease p => p < 96
  | .uvHoldTimeout p => p < 96
  | .ctrlFrame f => frameWf f
  | .ident f => frameWf f
  | .keyx f => frameWf f
  | .keyxTimeout port => port < 12
  | .writeFrame f => frameWf f
  | .readReq f => frameWf f
  | .signalFrame f => frameWf f
  | .sampleReq f => frameWf f
  | .mgmtWr f => frameWf f
  | .mgmtRd f => frameWf f
  | .irqFrame f => frameWf f
  | .writeAck f => frameWf f
  | .readRsp f => frameWf f
  | .sampleRsp f => frameWf f
  | .ackTimer port => port < 12
  | .resendTimeout port => port < 12
  | .linkTrainingDone port lanes _ => port < 12 && lanes < 16
  | .retrainTimeout port => port < 12
  | .laneRecheck port lane _ => port < 12 && lane < 4
  | .portTrainRetry port => port < 12
  | .equaliserStep port lane _ _ _ _ => port < 12 && lane < 4
  | .rekey port => port < 12
  | .e2eTimeout dst seq => dst < 8192 && (seq / 65536 < 3 || seq / 65536 == 4)
  | .lnkCfgWrite port value => port < 12 && value < 2 ^ 64
  | .bar0Access a => hostWf a
  | .bar2Access a => hostWf a
  | .hostWindowCompletion _ r => replyWf r
  | .poisonedTlp _ => true
  | .pcieTrainingTimeout => true
  | .memoryRead r => r.pond < 96 && r.pa < mainEnd && symbolsWf r.err && symbolsWf r.sample
  | .memoryWrite r => !r.data.isEmpty && r.pa + r.data.length ≤ mainEnd
  | .invalidation p line => p < 96 && line < mainEnd / 128
  | .pondCacheFill p line => p < 96 && line < mainEnd / 128
  | .prefetchDepthAdjust p => p < 96
  | .patrolScrub chan _ e sample _ => chan < 96 && symbolsWf e && symbolsWf sample
  | .slabScrub p off _ => p < 96 && off < 0x1800000
  | .slabRead p off _ => p < 96 && off < 0x1800000
  | .calibrationProbe chan => chan < 96
  | .probePhaseEnd chan => chan < 96
  | .probeAbandon chan => chan < 96
  | .tlbInvalidate value => value < 2 ^ 64
  | .tlbInvalidateDone => true
  | .slabReconfigure p => p < 96
  | .regionFence handle _ => handle < 4096
  | .stallLimit q => q < 16384
  | .contextSwitch unit incoming => unit < 4096 && incoming < 4096
  | .fatalFault cause => cause < 256
  | .warmReset => true
  | .wrstN => true
  | .warmResetDone lost => lost.all fun l => l.1 < 96 && l.2 < 3
  | .snapshotArm value => value < 2 ^ 64
  | .snapshotBufferRelease => true
  | .snapshotDone => true
  | .snapshotRestore value => value < 2 ^ 64
  | .siltUnfreeze => true
  | .temperatureSample temps _ => temps.all fun t => t.1 < 1152
  | .currentSample volts phases _ => volts.all (fun v => v.1 < 96) && phases.all fun x => x.1 < 768
  | .railOutOfRange rail _ => rail < 9
  | .ceilingUpdate => true
  | .voltageTargetUpdate busy => busy.all fun b => b.1 < 768
  | .pwrCoolantWrite value => value < 65536
  | .coolantStale => true
  | .telemetryRecord => true
  | .porNRelease _ => true
  | .porNAssert => true
  | .bootReady => true
  | .worldDescriptionCommit => true
  | .flashRead value => value < 2 ^ 64
  | .flashProgram value => value < 2 ^ 64
  | .flashErase4k value => value < 2 ^ 64
  | .flashErase64k value => value < 2 ^ 64
  | .flashOpDone _ => true
  | .smbusSetAddress a => a < 2 ^ 64
  | .smbusRead bus => bus < 2
  | .smbusWrite value bus => value < 2 ^ 64 && bus < 2
  | .mctp m => requestWf m
  | .getVersion m => requestWf m
  | .getCapabilities m => requestWf m
  | .negotiateAlgorithms m => requestWf m
  | .getDigests m => requestWf m
  | .getCertificate m => requestWf m
  | .challenge m => requestWf m
  | .getMeasurements m => requestWf m
  | .keyExchange m => requestWf m
  | .finish m => requestWf m
  | .endSession m => requestWf m
  | .heartbeat m => requestWf m
  | .query m => requestWf m
  | .keyProg m => requestWf m
  | .kSetGo m => requestWf m
  | .kSetStop m => requestWf m
  | .drbgReseed _ => true
  | .rngHealthFailure => true
  | .obsCapture value => value < 2 ^ 64
  | .pccSample off => off < 0x8000000
  | .traceBudgetWindow => true
  | .registerWrite w => [1, 2, 4, 8].contains w.width && w.off < 0x8000000 && w.value < 2 ^ (8 * w.width)
  | .homeAcknowledgement m => messageWf m
  | .snapshotDrain _ => true
  | .restStateReached => true
  | .pondSupplyGood p _ => p < 96
  | .pcieL0Reached width speed _ => width ≤ 16 && speed < 8
  | .pcieConfigWrite _ => true
  | .collAckTimer src => src < 8192
  | .perBankRefresh chan bank mr4 => chan < 96 && bank < 16 && mr4 < 32
  | .tapInstruction _ => true
  | .wrstNRise => true
  | .restCommit => true
  | .restQuiescenceTimeout => true
  | .wakeTimer => true
  | .wakeN => true
  | .pwrCtrlWake => true
  | .wakeComplete => true
  | .timeBeacon => true
  | .interpolationStop => true
  | .timeExchange => true
  | .timePpsIn => true
  | .ppsMissing => true
  | .timePpsOut => true
  | .timePpsOutFall => true
  | .functionLevelReset => true
  | .pePerstN => true

end Sys2Proof
end

