-- ==== Sys2Proof/Laws/PerInstr.lean ====
section
/-! SUPPORT. What holds of every command as syntax, one lemma per constructor: a well-formed command that names a queue,
a core, a pond, a port or a channel names one that the device has (R2, R11, R20, R289). -/

namespace Sys2Proof.Laws

open Sys2Proof

/-- What a command names. -/
inductive Operand where
  | none
  | queue (q : Nat)
  | core (g : Nat)
  | matrix (m : Nat)
  | pond (p : Nat)
  | port (p : Nat)
  | channel (c : Nat)
  deriving DecidableEq, Repr

/-- The device has it. -/
def Operand.inRange : Operand → Prop
  | .none => True
  | .queue q => q < 16384
  | .core g => g < 384
  | .matrix m => m < 192
  | .pond p => p < 96
  | .port p => p < 12
  | .channel c => c < 96

/-- What each command names first. -/
def operand : Instr → Operand
  | .tailDoorbell q _ => .queue q
  | .qtabCfgWrite q _ => .queue q
  | .resume q => .queue q
  | .discard q => .queue q
  | .qtabCheadWrite q _ => .queue q
  | .commandStart q => .queue q
  | .commandRetire q => .queue q
  | .nop q => .queue q
  | .signal q => .queue q
  | .waitsem q => .queue q
  | .decsem q => .queue q
  | .barrier q => .queue q
  | .barInit q => .queue q
  | .semset q => .queue q
  | .semValWrite _ _ => .none
  | .fsemSigWrite _ _ => .none
  | .grun q => .queue q
  | .add g => .core g
  | .sub g => .core g
  | .mul g => .core g
  | .and_ g => .core g
  | .or_ g => .core g
  | .xor g => .core g
  | .shl g => .core g
  | .shr g => .core g
  | .cmplu g => .core g
  | .fadd g => .core g
  | .fsub g => .core g
  | .fmul g => .core g
  | .fdiv g => .core g
  | .fsqrt g => .core g
  | .fcmplt g => .core g
  | .fcvti g => .core g
  | .icvtf g => .core g
  | .fence g => .core g
  | .yield g => .core g
  | .yieldTimeout g => .core g
  | .halt g => .core g
  | .tret g => .core g
  | .trap g => .core g
  | .addk g => .core g
  | .andk g => .core g
  | .ork g => .core g
  | .shlk g => .core g
  | .shrk g => .core g
  | .sark g => .core g
  | .hik g => .core g
  | .ld8 g => .core g
  | .ld16 g => .core g
  | .ld32 g => .core g
  | .ld64 g => .core g
  | .st8 g => .core g
  | .st16 g => .core g
  | .st32 g => .core g
  | .st64 g => .core g
  | .breq g => .core g
  | .brne g => .core g
  | .brlt g => .core g
  | .brge g => .core g
  | .brltu g => .core g
  | .brgeu g => .core g
  | .call g => .core g
  | .callr g => .core g
  | .crr g => .core g
  | .crw g => .core g
  | .issue g => .core g
  | .sig g => .core g
  | .wait g => .core g
  | .trywait g => .core g
  | .dec g => .core g
  | .sumr g => .core g
  | .sample q => .queue q
  | .samplingTimeout _ => .none
  | .gather q => .queue q
  | .tableSwitch q => .queue q
  | .hotRefresh q => .queue q
  | .mload q => .queue q
  | .planeSwap m _ => .matrix m
  | .mmul q => .queue q
  | .mstore q => .queue q
  | .vpload q => .queue q
  | .vexec q => .queue q
  | .vtrans q => .queue q
  | .vmask q => .queue q
  | .treset q => .queue q
  | .tscatEmax q => .queue q
  | .tscatAdd q => .queue q
  | .texchEsend q => .queue q
  | .texchEfetch q => .queue q
  | .texchAsend q => .queue q
  | .tmerge q => .queue q
  | .tcodec q => .queue q
  | .troughContribution m => .pond m.dst
  | .troughExponentMessage m => .pond m.dst
  | .prepare m => .pond m.dst
  | .commit m => .pond m.dst
  | .abort m => .pond m.dst
  | .troughBackgroundEvict p => .pond p
  | .spillThresholdAdjust p => .pond p
  | .pruneMask q => .queue q
  | .prunePack q => .queue q
  | .update q => .queue q
  | .rowUpdate q => .queue q
  | .flagLocal q => .queue q
  | .stepClose q => .queue q
  | .pcSwitch q => .queue q
  | .replayBegin q => .queue q
  | .replayEnd q => .queue q
  | .xfer q => .queue q
  | .allreduce q => .queue q
  | .reduceScatter q => .queue q
  | .allgather q => .queue q
  | .alltoall q => .queue q
  | .broadcast q => .queue q
  | .maxreduce q => .queue q
  | .permute q => .queue q
  | .seedsSet q => .queue q
  | .collChunk f => .port f.port
  | .collAck f => .port f.port
  | .collDone f => .port f.port
  | .collAbort f => .port f.port
  | .rest q => .queue q
  | .drowseSample _ => .none
  | .pondLull p => .pond p
  | .pondWake p => .pond p
  | .timeEpochWrite _ => .none
  | .timeFrame f _ _ => .port f.port
  | .trimRaise p _ => .pond p
  | .trimLower p _ => .pond p
  | .uvHold p => .pond p
  | .uvHoldRelease p => .pond p
  | .uvHoldTimeout p => .pond p
  | .ctrlFrame f => .port f.port
  | .ident f => .port f.port
  | .keyx f => .port f.port
  | .keyxTimeout port => .port port
  | .writeFrame f => .port f.port
  | .readReq f => .port f.port
  | .signalFrame f => .port f.port
  | .sampleReq f => .port f.port
  | .mgmtWr f => .port f.port
  | .mgmtRd f => .port f.port
  | .irqFrame f => .port f.port
  | .writeAck f => .port f.port
  | .readRsp f => .port f.port
  | .sampleRsp f => .port f.port
  | .ackTimer port => .port port
  | .resendTimeout port => .port port
  | .linkTrainingDone port _ _ => .port port
  | .retrainTimeout port => .port port
  | .laneRecheck port _ _ => .port port
  | .portTrainRetry port => .port port
  | .equaliserStep port _ _ _ _ _ => .port port
  | .rekey port => .port port
  | .e2eTimeout _ _ => .none
  | .lnkCfgWrite port _ => .port port
  | .bar0Access _ => .none
  | .bar2Access _ => .none
  | .hostWindowCompletion _ _ => .none
  | .poisonedTlp _ => .none
  | .pcieTrainingTimeout => .none
  | .memoryRead r => .pond r.pond
  | .memoryWrite _ => .none
  | .invalidation p _ => .pond p
  | .pondCacheFill p _ => .pond p
  | .prefetchDepthAdjust p => .pond p
  | .patrolScrub chan _ _ _ _ => .channel chan
  | .slabScrub p _ _ => .pond p
  | .slabRead p _ _ => .pond p
  | .calibrationProbe chan => .channel chan
  | .probePhaseEnd chan => .channel chan
  | .probeAbandon chan => .channel chan
  | .tlbInvalidate _ => .none
  | .tlbInvalidateDone => .none
  | .slabReconfigure p => .pond p
  | .regionFence _ _ => .none
  | .stallLimit q => .queue q
  | .contextSwitch _ _ => .none
  | .fatalFault _ => .none
  | .warmReset => .none
  | .wrstN => .none
  | .warmResetDone _ => .none
  | .snapshotArm _ => .none
  | .snapshotBufferRelease => .none
  | .snapshotDone => .none
  | .snapshotRestore _ => .none
  | .siltUnfreeze => .none
  | .temperatureSample _ _ => .none
  | .currentSample _ _ _ => .none
  | .railOutOfRange _ _ => .none
  | .ceilingUpdate => .none
  | .voltageTargetUpdate _ => .none
  | .pwrCoolantWrite _ => .none
  | .coolantStale => .none
  | .telemetryRecord => .none
  | .porNRelease _ => .none
  | .porNAssert => .none
  | .bootReady => .none
  | .worldDescriptionCommit => .none
  | .flashRead _ => .none
  | .flashProgram _ => .none
  | .flashErase4k _ => .none
  | .flashErase64k _ => .none
  | .flashOpDone _ => .none
  | .smbusSetAddress _ => .none
  | .smbusRead _ => .none
  | .smbusWrite _ _ => .none
  | .mctp _ => .none
  | .getVersion _ => .none
  | .getCapabilities _ => .none
  | .negotiateAlgorithms _ => .none
  | .getDigests _ => .none
  | .getCertificate _ => .none
  | .challenge _ => .none
  | .getMeasurements _ => .none
  | .keyExchange _ => .none
  | .finish _ => .none
  | .endSession _ => .none
  | .heartbeat _ => .none
  | .query _ => .none
  | .keyProg _ => .none
  | .kSetGo _ => .none
  | .kSetStop _ => .none
  | .drbgReseed _ => .none
  | .rngHealthFailure => .none
  | .obsCapture _ => .none
  | .pccSample _ => .none
  | .traceBudgetWindow => .none
  | .registerWrite _ => .none
  | .homeAcknowledgement m => .pond m.dst
  | .snapshotDrain _ => .none
  | .restStateReached => .none
  | .pondSupplyGood p _ => .pond p
  | .pcieL0Reached _ _ _ => .none
  | .pcieConfigWrite _ => .none
  | .collAckTimer _ => .none
  | .perBankRefresh chan _ _ => .channel chan
  | .tapInstruction _ => .none
  | .wrstNRise => .none
  | .restCommit => .none
  | .restQuiescenceTimeout => .none
  | .wakeTimer => .none
  | .wakeN => .none
  | .pwrCtrlWake => .none
  | .wakeComplete => .none
  | .timeBeacon => .none
  | .interpolationStop => .none
  | .timeExchange => .none
  | .timePpsIn => .none
  | .ppsMissing => .none
  | .timePpsOut => .none
  | .timePpsOutFall => .none
  | .functionLevelReset => .none
  | .pePerstN => .none

theorem left {a b : Bool} (h : (a && b) = true) : a = true := by
  cases a <;> simp_all

theorem below {a b : Nat} (h : decide (a < b) = true) : a < b := of_decide_eq_true h

theorem frame_port {f : RxFrame} (h : frameWf f = true) : f.port < 12 := by
  simp only [frameWf, Bool.and_eq_true, decide_eq_true_eq] at h
  omega

theorem message_pond {m : TroughMsg} (h : messageWf m = true) : m.dst < 96 := by
  simp only [messageWf, Bool.and_eq_true, decide_eq_true_eq] at h
  omega

namespace Named

/-- A well-formed command names something that the device has. -/
def Statement (i : Instr) : Prop := wellFormed i = true → (operand i).inRange

theorem tailDoorbell (x0 : Nat) (x1 : Nat) : Statement (Instr.tailDoorbell x0 x1) := fun h => below (left h)
theorem qtabCfgWrite (x0 : Nat) (x1 : Nat) : Statement (Instr.qtabCfgWrite x0 x1) := fun h => below (left h)
theorem resume (x0 : Nat) : Statement (Instr.resume x0) := fun h => below h
theorem discard (x0 : Nat) : Statement (Instr.discard x0) := fun h => below h
theorem qtabCheadWrite (x0 : Nat) (x1 : Nat) : Statement (Instr.qtabCheadWrite x0 x1) := fun h => below (left h)
theorem commandStart (x0 : Nat) : Statement (Instr.commandStart x0) := fun h => below h
theorem commandRetire (x0 : Nat) : Statement (Instr.commandRetire x0) := fun h => below h
theorem nop (x0 : Nat) : Statement (Instr.nop x0) := fun h => below h
theorem signal (x0 : Nat) : Statement (Instr.signal x0) := fun h => below h
theorem waitsem (x0 : Nat) : Statement (Instr.waitsem x0) := fun h => below h
theorem decsem (x0 : Nat) : Statement (Instr.decsem x0) := fun h => below h
theorem barrier (x0 : Nat) : Statement (Instr.barrier x0) := fun h => below h
theorem barInit (x0 : Nat) : Statement (Instr.barInit x0) := fun h => below h
theorem semset (x0 : Nat) : Statement (Instr.semset x0) := fun h => below h
theorem semValWrite (x0 : Nat) (x1 : Nat) : Statement (Instr.semValWrite x0 x1) := fun _ => True.intro
theorem fsemSigWrite (x0 : Nat) (x1 : Nat) : Statement (Instr.fsemSigWrite x0 x1) := fun _ => True.intro
theorem grun (x0 : Nat) : Statement (Instr.grun x0) := fun h => below h
theorem add (x0 : Nat) : Statement (Instr.add x0) := fun h => below h
theorem sub (x0 : Nat) : Statement (Instr.sub x0) := fun h => below h
theorem mul (x0 : Nat) : Statement (Instr.mul x0) := fun h => below h
theorem and_ (x0 : Nat) : Statement (Instr.and_ x0) := fun h => below h
theorem or_ (x0 : Nat) : Statement (Instr.or_ x0) := fun h => below h
theorem xor (x0 : Nat) : Statement (Instr.xor x0) := fun h => below h
theorem shl (x0 : Nat) : Statement (Instr.shl x0) := fun h => below h
theorem shr (x0 : Nat) : Statement (Instr.shr x0) := fun h => below h
theorem cmplu (x0 : Nat) : Statement (Instr.cmplu x0) := fun h => below h
theorem fadd (x0 : Nat) : Statement (Instr.fadd x0) := fun h => below h
theorem fsub (x0 : Nat) : Statement (Instr.fsub x0) := fun h => below h
theorem fmul (x0 : Nat) : Statement (Instr.fmul x0) := fun h => below h
theorem fdiv (x0 : Nat) : Statement (Instr.fdiv x0) := fun h => below h
theorem fsqrt (x0 : Nat) : Statement (Instr.fsqrt x0) := fun h => below h
theorem fcmplt (x0 : Nat) : Statement (Instr.fcmplt x0) := fun h => below h
theorem fcvti (x0 : Nat) : Statement (Instr.fcvti x0) := fun h => below h
theorem icvtf (x0 : Nat) : Statement (Instr.icvtf x0) := fun h => below h
theorem fence (x0 : Nat) : Statement (Instr.fence x0) := fun h => below h
theorem yield (x0 : Nat) : Statement (Instr.yield x0) := fun h => below h
theorem yieldTimeout (x0 : Nat) : Statement (Instr.yieldTimeout x0) := fun h => below h
theorem halt (x0 : Nat) : Statement (Instr.halt x0) := fun h => below h
theorem tret (x0 : Nat) : Statement (Instr.tret x0) := fun h => below h
theorem trap (x0 : Nat) : Statement (Instr.trap x0) := fun h => below h
theorem addk (x0 : Nat) : Statement (Instr.addk x0) := fun h => below h
theorem andk (x0 : Nat) : Statement (Instr.andk x0) := fun h => below h
theorem ork (x0 : Nat) : Statement (Instr.ork x0) := fun h => below h
theorem shlk (x0 : Nat) : Statement (Instr.shlk x0) := fun h => below h
theorem shrk (x0 : Nat) : Statement (Instr.shrk x0) := fun h => below h
theorem sark (x0 : Nat) : Statement (Instr.sark x0) := fun h => below h
theorem hik (x0 : Nat) : Statement (Instr.hik x0) := fun h => below h
theorem ld8 (x0 : Nat) : Statement (Instr.ld8 x0) := fun h => below h
theorem ld16 (x0 : Nat) : Statement (Instr.ld16 x0) := fun h => below h
theorem ld32 (x0 : Nat) : Statement (Instr.ld32 x0) := fun h => below h
theorem ld64 (x0 : Nat) : Statement (Instr.ld64 x0) := fun h => below h
theorem st8 (x0 : Nat) : Statement (Instr.st8 x0) := fun h => below h
theorem st16 (x0 : Nat) : Statement (Instr.st16 x0) := fun h => below h
theorem st32 (x0 : Nat) : Statement (Instr.st32 x0) := fun h => below h
theorem st64 (x0 : Nat) : Statement (Instr.st64 x0) := fun h => below h
theorem breq (x0 : Nat) : Statement (Instr.breq x0) := fun h => below h
theorem brne (x0 : Nat) : Statement (Instr.brne x0) := fun h => below h
theorem brlt (x0 : Nat) : Statement (Instr.brlt x0) := fun h => below h
theorem brge (x0 : Nat) : Statement (Instr.brge x0) := fun h => below h
theorem brltu (x0 : Nat) : Statement (Instr.brltu x0) := fun h => below h
theorem brgeu (x0 : Nat) : Statement (Instr.brgeu x0) := fun h => below h
theorem call (x0 : Nat) : Statement (Instr.call x0) := fun h => below h
theorem callr (x0 : Nat) : Statement (Instr.callr x0) := fun h => below h
theorem crr (x0 : Nat) : Statement (Instr.crr x0) := fun h => below h
theorem crw (x0 : Nat) : Statement (Instr.crw x0) := fun h => below h
theorem issue (x0 : Nat) : Statement (Instr.issue x0) := fun h => below h
theorem sig (x0 : Nat) : Statement (Instr.sig x0) := fun h => below h
theorem wait (x0 : Nat) : Statement (Instr.wait x0) := fun h => below h
theorem trywait (x0 : Nat) : Statement (Instr.trywait x0) := fun h => below h
theorem dec (x0 : Nat) : Statement (Instr.dec x0) := fun h => below h
theorem sumr (x0 : Nat) : Statement (Instr.sumr x0) := fun h => below h
theorem sample (x0 : Nat) : Statement (Instr.sample x0) := fun h => below h
theorem samplingTimeout (x0 : Nat) : Statement (Instr.samplingTimeout x0) := fun _ => True.intro
theorem gather (x0 : Nat) : Statement (Instr.gather x0) := fun h => below h
theorem tableSwitch (x0 : Nat) : Statement (Instr.tableSwitch x0) := fun h => below h
theorem hotRefresh (x0 : Nat) : Statement (Instr.hotRefresh x0) := fun h => below h
theorem mload (x0 : Nat) : Statement (Instr.mload x0) := fun h => below h
theorem planeSwap (x0 : Nat) (x1 : Nat) : Statement (Instr.planeSwap x0 x1) := fun h => below (left h)
theorem mmul (x0 : Nat) : Statement (Instr.mmul x0) := fun h => below h
theorem mstore (x0 : Nat) : Statement (Instr.mstore x0) := fun h => below h
theorem vpload (x0 : Nat) : Statement (Instr.vpload x0) := fun h => below h
theorem vexec (x0 : Nat) : Statement (Instr.vexec x0) := fun h => below h
theorem vtrans (x0 : Nat) : Statement (Instr.vtrans x0) := fun h => below h
theorem vmask (x0 : Nat) : Statement (Instr.vmask x0) := fun h => below h
theorem treset (x0 : Nat) : Statement (Instr.treset x0) := fun h => below h
theorem tscatEmax (x0 : Nat) : Statement (Instr.tscatEmax x0) := fun h => below h
theorem tscatAdd (x0 : Nat) : Statement (Instr.tscatAdd x0) := fun h => below h
theorem texchEsend (x0 : Nat) : Statement (Instr.texchEsend x0) := fun h => below h
theorem texchEfetch (x0 : Nat) : Statement (Instr.texchEfetch x0) := fun h => below h
theorem texchAsend (x0 : Nat) : Statement (Instr.texchAsend x0) := fun h => below h
theorem tmerge (x0 : Nat) : Statement (Instr.tmerge x0) := fun h => below h
theorem tcodec (x0 : Nat) : Statement (Instr.tcodec x0) := fun h => below h
theorem troughContribution (x0 : TroughMsg) : Statement (Instr.troughContribution x0) := fun h => message_pond h
theorem troughExponentMessage (x0 : TroughMsg) : Statement (Instr.troughExponentMessage x0) := fun h => message_pond h
theorem prepare (x0 : TroughMsg) : Statement (Instr.prepare x0) := fun h => message_pond h
theorem commit (x0 : TroughMsg) : Statement (Instr.commit x0) := fun h => message_pond h
theorem abort (x0 : TroughMsg) : Statement (Instr.abort x0) := fun h => message_pond h
theorem troughBackgroundEvict (x0 : Nat) : Statement (Instr.troughBackgroundEvict x0) := fun h => below h
theorem spillThresholdAdjust (x0 : Nat) : Statement (Instr.spillThresholdAdjust x0) := fun h => below h
theorem pruneMask (x0 : Nat) : Statement (Instr.pruneMask x0) := fun h => below h
theorem prunePack (x0 : Nat) : Statement (Instr.prunePack x0) := fun h => below h
theorem update (x0 : Nat) : Statement (Instr.update x0) := fun h => below h
theorem rowUpdate (x0 : Nat) : Statement (Instr.rowUpdate x0) := fun h => below h
theorem flagLocal (x0 : Nat) : Statement (Instr.flagLocal x0) := fun h => below h
theorem stepClose (x0 : Nat) : Statement (Instr.stepClose x0) := fun h => below h
theorem pcSwitch (x0 : Nat) : Statement (Instr.pcSwitch x0) := fun h => below h
theorem replayBegin (x0 : Nat) : Statement (Instr.replayBegin x0) := fun h => below h
theorem replayEnd (x0 : Nat) : Statement (Instr.replayEnd x0) := fun h => below h
theorem xfer (x0 : Nat) : Statement (Instr.xfer x0) := fun h => below h
theorem allreduce (x0 : Nat) : Statement (Instr.allreduce x0) := fun h => below h
theorem reduceScatter (x0 : Nat) : Statement (Instr.reduceScatter x0) := fun h => below h
theorem allgather (x0 : Nat) : Statement (Instr.allgather x0) := fun h => below h
theorem alltoall (x0 : Nat) : Statement (Instr.alltoall x0) := fun h => below h
theorem broadcast (x0 : Nat) : Statement (Instr.broadcast x0) := fun h => below h
theorem maxreduce (x0 : Nat) : Statement (Instr.maxreduce x0) := fun h => below h
theorem permute (x0 : Nat) : Statement (Instr.permute x0) := fun h => below h
theorem seedsSet (x0 : Nat) : Statement (Instr.seedsSet x0) := fun h => below h
theorem collChunk (x0 : RxFrame) : Statement (Instr.collChunk x0) := fun h => frame_port h
theorem collAck (x0 : RxFrame) : Statement (Instr.collAck x0) := fun h => frame_port h
theorem collDone (x0 : RxFrame) : Statement (Instr.collDone x0) := fun h => frame_port h
theorem collAbort (x0 : RxFrame) : Statement (Instr.collAbort x0) := fun h => frame_port h
theorem rest (x0 : Nat) : Statement (Instr.rest x0) := fun h => below h
theorem drowseSample (x0 : List (Nat × Int)) : Statement (Instr.drowseSample x0) := fun _ => True.intro
theorem pondLull (x0 : Nat) : Statement (Instr.pondLull x0) := fun h => below h
theorem pondWake (x0 : Nat) : Statement (Instr.pondWake x0) := fun h => below h
theorem timeEpochWrite (x0 : Nat) : Statement (Instr.timeEpochWrite x0) := fun _ => True.intro
theorem timeFrame (x0 : RxFrame) (x1 : Nat) (x2 : Nat) : Statement (Instr.timeFrame x0 x1 x2) := fun h => frame_port (left (left h))
theorem trimRaise (x0 : Nat) (x1 : Nat) : Statement (Instr.trimRaise x0 x1) := fun h => below (left h)
theorem trimLower (x0 : Nat) (x1 : Nat) : Statement (Instr.trimLower x0 x1) := fun h => below (left h)
theorem uvHold (x0 : Nat) : Statement (Instr.uvHold x0) := fun h => below h
theorem uvHoldRelease (x0 : Nat) : Statement (Instr.uvHoldRelease x0) := fun h => below h
theorem uvHoldTimeout (x0 : Nat) : Statement (Instr.uvHoldTimeout x0) := fun h => below h
theorem ctrlFrame (x0 : RxFrame) : Statement (Instr.ctrlFrame x0) := fun h => frame_port h
theorem ident (x0 : RxFrame) : Statement (Instr.ident x0) := fun h => frame_port h
theorem keyx (x0 : RxFrame) : Statement (Instr.keyx x0) := fun h => frame_port h
theorem keyxTimeout (x0 : Nat) : Statement (Instr.keyxTimeout x0) := fun h => below h
theorem writeFrame (x0 : RxFrame) : Statement (Instr.writeFrame x0) := fun h => frame_port h
theorem readReq (x0 : RxFrame) : Statement (Instr.readReq x0) := fun h => frame_port h
theorem signalFrame (x0 : RxFrame) : Statement (Instr.signalFrame x0) := fun h => frame_port h
theorem sampleReq (x0 : RxFrame) : Statement (Instr.sampleReq x0) := fun h => frame_port h
theorem mgmtWr (x0 : RxFrame) : Statement (Instr.mgmtWr x0) := fun h => frame_port h
theorem mgmtRd (x0 : RxFrame) : Statement (Instr.mgmtRd x0) := fun h => frame_port h
theorem irqFrame (x0 : RxFrame) : Statement (Instr.irqFrame x0) := fun h => frame_port h
theorem writeAck (x0 : RxFrame) : Statement (Instr.writeAck x0) := fun h => frame_port h
theorem readRsp (x0 : RxFrame) : Statement (Instr.readRsp x0) := fun h => frame_port h
theorem sampleRsp (x0 : RxFrame) : Statement (Instr.sampleRsp x0) := fun h => frame_port h
theorem ackTimer (x0 : Nat) : Statement (Instr.ackTimer x0) := fun h => below h
theorem resendTimeout (x0 : Nat) : Statement (Instr.resendTimeout x0) := fun h => below h
theorem linkTrainingDone (x0 : Nat) (x1 : Nat) (x2 : Bool) : Statement (Instr.linkTrainingDone x0 x1 x2) := fun h => below (left h)
theorem retrainTimeout (x0 : Nat) : Statement (Instr.retrainTimeout x0) := fun h => below h
theorem laneRecheck (x0 : Nat) (x1 : Nat) (x2 : Bool) : Statement (Instr.laneRecheck x0 x1 x2) := fun h => below (left h)
theorem portTrainRetry (x0 : Nat) : Statement (Instr.portTrainRetry x0) := fun h => below h
theorem equaliserStep (x0 : Nat) (x1 : Nat) (x2 : Nat) (x3 : Bool) (x4 : Nat) (x5 : Nat) : Statement (Instr.equaliserStep x0 x1 x2 x3 x4 x5) := fun h => below (left h)
theorem rekey (x0 : Nat) : Statement (Instr.rekey x0) := fun h => below h
theorem e2eTimeout (x0 : Nat) (x1 : Nat) : Statement (Instr.e2eTimeout x0 x1) := fun _ => True.intro
theorem lnkCfgWrite (x0 : Nat) (x1 : Nat) : Statement (Instr.lnkCfgWrite x0 x1) := fun h => below (left h)
theorem bar0Access (x0 : HostAccess) : Statement (Instr.bar0Access x0) := fun _ => True.intro
theorem bar2Access (x0 : HostAccess) : Statement (Instr.bar2Access x0) := fun _ => True.intro
theorem hostWindowCompletion (x0 : Nat) (x1 : HostReply) : Statement (Instr.hostWindowCompletion x0 x1) := fun _ => True.intro
theorem poisonedTlp (x0 : Option Nat) : Statement (Instr.poisonedTlp x0) := fun _ => True.intro
theorem pcieTrainingTimeout : Statement Instr.pcieTrainingTimeout := fun _ => True.intro
theorem memoryRead (x0 : MemRead) : Statement (Instr.memoryRead x0) := fun h => below (left (left (left h)))
theorem memoryWrite (x0 : MemWrite) : Statement (Instr.memoryWrite x0) := fun _ => True.intro
theorem invalidation (x0 : Nat) (x1 : Nat) : Statement (Instr.invalidation x0 x1) := fun h => below (left h)
theorem pondCacheFill (x0 : Nat) (x1 : Nat) : Statement (Instr.pondCacheFill x0 x1) := fun h => below (left h)
theorem prefetchDepthAdjust (x0 : Nat) : Statement (Instr.prefetchDepthAdjust x0) := fun h => below h
theorem patrolScrub (x0 : Nat) (x1 : Nat) (x2 : RawErrors) (x3 : RawErrors) (x4 : Bool) : Statement (Instr.patrolScrub x0 x1 x2 x3 x4) := fun h => below (left (left h))
theorem slabScrub (x0 : Nat) (x1 : Nat) (x2 : SlabErrors) : Statement (Instr.slabScrub x0 x1 x2) := fun h => below (left h)
theorem slabRead (x0 : Nat) (x1 : Nat) (x2 : SlabErrors) : Statement (Instr.slabRead x0 x1 x2) := fun h => below (left h)
theorem calibrationProbe (x0 : Nat) : Statement (Instr.calibrationProbe x0) := fun h => below h
theorem probePhaseEnd (x0 : Nat) : Statement (Instr.probePhaseEnd x0) := fun h => below h
theorem probeAbandon (x0 : Nat) : Statement (Instr.probeAbandon x0) := fun h => below h
theorem tlbInvalidate (x0 : Nat) : Statement (Instr.tlbInvalidate x0) := fun _ => True.intro
theorem tlbInvalidateDone : Statement Instr.tlbInvalidateDone := fun _ => True.intro
theorem slabReconfigure (x0 : Nat) : Statement (Instr.slabReconfigure x0) := fun h => below h
theorem regionFence (x0 : Nat) (x1 : Nat) : Statement (Instr.regionFence x0 x1) := fun _ => True.intro
theorem stallLimit (x0 : Nat) : Statement (Instr.stallLimit x0) := fun h => below h
theorem contextSwitch (x0 : Nat) (x1 : Nat) : Statement (Instr.contextSwitch x0 x1) := fun _ => True.intro
theorem fatalFault (x0 : Nat) : Statement (Instr.fatalFault x0) := fun _ => True.intro
theorem warmReset : Statement Instr.warmReset := fun _ => True.intro
theorem wrstN : Statement Instr.wrstN := fun _ => True.intro
theorem warmResetDone (x0 : List (Nat × Nat)) : Statement (Instr.warmResetDone x0) := fun _ => True.intro
theorem snapshotArm (x0 : Nat) : Statement (Instr.snapshotArm x0) := fun _ => True.intro
theorem snapshotBufferRelease : Statement Instr.snapshotBufferRelease := fun _ => True.intro
theorem snapshotDone : Statement Instr.snapshotDone := fun _ => True.intro
theorem snapshotRestore (x0 : Nat) : Statement (Instr.snapshotRestore x0) := fun _ => True.intro
theorem siltUnfreeze : Statement Instr.siltUnfreeze := fun _ => True.intro
theorem temperatureSample (x0 : List (Nat × Int)) (x1 : List Nat) : Statement (Instr.temperatureSample x0 x1) := fun _ => True.intro
theorem currentSample (x0 : List (Nat × Nat)) (x1 : List (Nat × Nat)) (x2 : Nat) : Statement (Instr.currentSample x0 x1 x2) := fun _ => True.intro
theorem railOutOfRange (x0 : Nat) (x1 : Nat) : Statement (Instr.railOutOfRange x0 x1) := fun _ => True.intro
theorem ceilingUpdate : Statement Instr.ceilingUpdate := fun _ => True.intro
theorem voltageTargetUpdate (x0 : List (Nat × Nat)) : Statement (Instr.voltageTargetUpdate x0) := fun _ => True.intro
theorem pwrCoolantWrite (x0 : Nat) : Statement (Instr.pwrCoolantWrite x0) := fun _ => True.intro
theorem coolantStale : Statement Instr.coolantStale := fun _ => True.intro
theorem telemetryRecord : Statement Instr.telemetryRecord := fun _ => True.intro
theorem porNRelease (x0 : BootInput) : Statement (Instr.porNRelease x0) := fun _ => True.intro
theorem porNAssert : Statement Instr.porNAssert := fun _ => True.intro
theorem bootReady : Statement Instr.bootReady := fun _ => True.intro
theorem worldDescriptionCommit : Statement Instr.worldDescriptionCommit := fun _ => True.intro
theorem flashRead (x0 : Nat) : Statement (Instr.flashRead x0) := fun _ => True.intro
theorem flashProgram (x0 : Nat) : Statement (Instr.flashProgram x0) := fun _ => True.intro
theorem flashErase4k (x0 : Nat) : Statement (Instr.flashErase4k x0) := fun _ => True.intro
theorem flashErase64k (x0 : Nat) : Statement (Instr.flashErase64k x0) := fun _ => True.intro
theorem flashOpDone (x0 : Bool) : Statement (Instr.flashOpDone x0) := fun _ => True.intro
theorem smbusSetAddress (x0 : Nat) : Statement (Instr.smbusSetAddress x0) := fun _ => True.intro
theorem smbusRead (x0 : Nat) : Statement (Instr.smbusRead x0) := fun _ => True.intro
theorem smbusWrite (x0 : Nat) (x1 : Nat) : Statement (Instr.smbusWrite x0 x1) := fun _ => True.intro
theorem mctp (x0 : SpdmMsg) : Statement (Instr.mctp x0) := fun _ => True.intro
theorem getVersion (x0 : SpdmMsg) : Statement (Instr.getVersion x0) := fun _ => True.intro
theorem getCapabilities (x0 : SpdmMsg) : Statement (Instr.getCapabilities x0) := fun _ => True.intro
theorem negotiateAlgorithms (x0 : SpdmMsg) : Statement (Instr.negotiateAlgorithms x0) := fun _ => True.intro
theorem getDigests (x0 : SpdmMsg) : Statement (Instr.getDigests x0) := fun _ => True.intro
theorem getCertificate (x0 : SpdmMsg) : Statement (Instr.getCertificate x0) := fun _ => True.intro
theorem challenge (x0 : SpdmMsg) : Statement (Instr.challenge x0) := fun _ => True.intro
theorem getMeasurements (x0 : SpdmMsg) : Statement (Instr.getMeasurements x0) := fun _ => True.intro
theorem keyExchange (x0 : SpdmMsg) : Statement (Instr.keyExchange x0) := fun _ => True.intro
theorem finish (x0 : SpdmMsg) : Statement (Instr.finish x0) := fun _ => True.intro
theorem endSession (x0 : SpdmMsg) : Statement (Instr.endSession x0) := fun _ => True.intro
theorem heartbeat (x0 : SpdmMsg) : Statement (Instr.heartbeat x0) := fun _ => True.intro
theorem query (x0 : SpdmMsg) : Statement (Instr.query x0) := fun _ => True.intro
theorem keyProg (x0 : SpdmMsg) : Statement (Instr.keyProg x0) := fun _ => True.intro
theorem kSetGo (x0 : SpdmMsg) : Statement (Instr.kSetGo x0) := fun _ => True.intro
theorem kSetStop (x0 : SpdmMsg) : Statement (Instr.kSetStop x0) := fun _ => True.intro
theorem drbgReseed (x0 : Bool) : Statement (Instr.drbgReseed x0) := fun _ => True.intro
theorem rngHealthFailure : Statement Instr.rngHealthFailure := fun _ => True.intro
theorem obsCapture (x0 : Nat) : Statement (Instr.obsCapture x0) := fun _ => True.intro
theorem pccSample (x0 : Nat) : Statement (Instr.pccSample x0) := fun _ => True.intro
theorem traceBudgetWindow : Statement Instr.traceBudgetWindow := fun _ => True.intro
theorem registerWrite (x0 : RegWrite) : Statement (Instr.registerWrite x0) := fun _ => True.intro
theorem homeAcknowledgement (x0 : TroughMsg) : Statement (Instr.homeAcknowledgement x0) := fun h => message_pond h
theorem snapshotDrain (x0 : Nat) : Statement (Instr.snapshotDrain x0) := fun _ => True.intro
theorem restStateReached : Statement Instr.restStateReached := fun _ => True.intro
theorem pondSupplyGood (x0 : Nat) (x1 : List Nat) : Statement (Instr.pondSupplyGood x0 x1) := fun h => below h
theorem pcieL0Reached (x0 : Nat) (x1 : Nat) (x2 : Bool) : Statement (Instr.pcieL0Reached x0 x1 x2) := fun _ => True.intro
theorem pcieConfigWrite (x0 : PcieCfgWrite) : Statement (Instr.pcieConfigWrite x0) := fun _ => True.intro
theorem collAckTimer (x0 : Nat) : Statement (Instr.collAckTimer x0) := fun _ => True.intro
theorem perBankRefresh (x0 : Nat) (x1 : Nat) (x2 : Nat) : Statement (Instr.perBankRefresh x0 x1 x2) := fun h => below (left (left h))
theorem tapInstruction (x0 : TapOp) : Statement (Instr.tapInstruction x0) := fun _ => True.intro
theorem wrstNRise : Statement Instr.wrstNRise := fun _ => True.intro
theorem restCommit : Statement Instr.restCommit := fun _ => True.intro
theorem restQuiescenceTimeout : Statement Instr.restQuiescenceTimeout := fun _ => True.intro
theorem wakeTimer : Statement Instr.wakeTimer := fun _ => True.intro
theorem wakeN : Statement Instr.wakeN := fun _ => True.intro
theorem pwrCtrlWake : Statement Instr.pwrCtrlWake := fun _ => True.intro
theorem wakeComplete : Statement Instr.wakeComplete := fun _ => True.intro
theorem timeBeacon : Statement Instr.timeBeacon := fun _ => True.intro
theorem interpolationStop : Statement Instr.interpolationStop := fun _ => True.intro
theorem timeExchange : Statement Instr.timeExchange := fun _ => True.intro
theorem timePpsIn : Statement Instr.timePpsIn := fun _ => True.intro
theorem ppsMissing : Statement Instr.ppsMissing := fun _ => True.intro
theorem timePpsOut : Statement Instr.timePpsOut := fun _ => True.intro
theorem timePpsOutFall : Statement Instr.timePpsOutFall := fun _ => True.intro
theorem functionLevelReset : Statement Instr.functionLevelReset := fun _ => True.intro
theorem pePerstN : Statement Instr.pePerstN := fun _ => True.intro

end Named

end Sys2Proof.Laws
end

