-- ==== Sys2Proof/Tests/Slice0.lean ====
section
/-! SUPPORT. Tests of the model: ill-formed commands that each check refuses; words written out bit by bit from the
encodings of R266 and R267; and, for every statement with hypotheses, a state and operands that meet them, clause by
clause (`test_wit_<Name>`). The expected words and values are those of the spec's tables, or follow from them by hand. -/

namespace Sys2Proof.Tests

set_option Elab.async false

open Sys2Proof Sys2Proof.Machine

/-- A frame of type WRITE at port 0. -/
def frame0 : RxFrame := ⟨0, true, false, 4, 0, 0, 0, 0, 0, 0, 0, 0, 0, 0, 0, 0, [], [], []⟩

/-- A waiting contribution of device 0 to its own pond 0. -/
def msg0 : TroughMsg := ⟨.add, false, 0, 0, 0, 0, 0, 0, 1, 0, 0, false, List.replicate 32 0, 0, false⟩

/-- Queues are 0 to 16383. -/
theorem test_wf_queue : ∀ f ∈ ([.resume, .discard, .commandStart, .commandRetire, .nop, .signal, .waitsem, .decsem, .barrier, .barInit, .semset, .grun,
     .sample, .gather, .tableSwitch, .hotRefresh, .mload, .mmul, .mstore, .vpload, .vexec, .vtrans, .vmask, .treset,
     .tscatEmax, .tscatAdd, .texchEsend, .texchEfetch, .texchAsend, .tmerge, .tcodec, .pruneMask, .prunePack, .update, .rowUpdate, .flagLocal,
     .stepClose, .pcSwitch, .replayBegin, .replayEnd, .xfer, .allreduce, .reduceScatter, .allgather, .alltoall, .broadcast, .maxreduce, .permute,
     .seedsSet, .rest, .stallLimit]
    : List (Nat → Instr)), wellFormed (f 16384) = false ∧ wellFormed (f 16383) = true := by decide +kernel

/-- General cores are 0 to 383. -/
theorem test_wf_core : ∀ f ∈ ([.add, .sub, .mul, .and_, .or_, .xor, .shl, .shr, .cmplu, .fadd, .fsub, .fmul,
     .fdiv, .fsqrt, .fcmplt, .fcvti, .icvtf, .fence, .yield, .yieldTimeout, .halt, .tret, .trap, .addk,
     .andk, .ork, .shlk, .shrk, .sark, .hik, .ld8, .ld16, .ld32, .ld64, .st8, .st16,
     .st32, .st64, .breq, .brne, .brlt, .brge, .brltu, .brgeu, .call, .callr, .crr, .crw,
     .issue, .sig, .wait, .trywait, .dec, .sumr]
    : List (Nat → Instr)), wellFormed (f 384) = false ∧ wellFormed (f 383) = true := by decide +kernel

/-- Ponds are 0 to 95. -/
theorem test_wf_pond : ∀ f ∈ ([.troughBackgroundEvict, .spillThresholdAdjust, .pondLull, .pondWake, .uvHold, .uvHoldRelease, .uvHoldTimeout, .prefetchDepthAdjust, .slabReconfigure]
    : List (Nat → Instr)), wellFormed (f 96) = false ∧ wellFormed (f 95) = true := by decide +kernel

/-- Ports are 0 to 11. -/
theorem test_wf_port : ∀ f ∈ ([.keyxTimeout, .ackTimer, .resendTimeout, .retrainTimeout, .portTrainRetry, .rekey]
    : List (Nat → Instr)), wellFormed (f 12) = false ∧ wellFormed (f 11) = true := by decide +kernel

/-- Channels are 0 to 95. -/
theorem test_wf_chan : ∀ f ∈ ([.calibrationProbe, .probePhaseEnd, .probeAbandon]
    : List (Nat → Instr)), wellFormed (f 96) = false ∧ wellFormed (f 95) = true := by decide +kernel

/-- Frames arrive at ports 0 to 11. -/
theorem test_wf_frame : ∀ f ∈ ([.collChunk, .collAck, .collDone, .collAbort, .ctrlFrame, .ident, .keyx, .writeFrame, .readReq, .signalFrame, .sampleReq, .mgmtWr,
     .mgmtRd, .irqFrame, .writeAck, .readRsp, .sampleRsp]
    : List (RxFrame → Instr)), wellFormed (f { frame0 with port := 12 }) = false ∧ wellFormed (f frame0) = true := by decide +kernel

/-- A message carries 32 elements or none. -/
theorem test_wf_message : ∀ f ∈ ([.troughContribution, .troughExponentMessage, .prepare, .commit, .abort, .homeAcknowledgement]
    : List (TroughMsg → Instr)), wellFormed (f { msg0 with w := [0] }) = false ∧ wellFormed (f msg0) = true := by decide +kernel

/-- A request has four header bytes. -/
theorem test_wf_request : ∀ f ∈ ([.mctp, .getVersion, .getCapabilities, .negotiateAlgorithms, .getDigests, .getCertificate, .challenge, .getMeasurements, .keyExchange, .finish, .endSession, .heartbeat,
     .query, .keyProg, .kSetGo, .kSetStop]
    : List (SpdmMsg → Instr)), wellFormed (f ⟨false, 0, [0x12, 0x84, 0]⟩) = false ∧ wellFormed (f ⟨false, 0, [0x10, 0x84, 0, 0]⟩) = true := by decide +kernel

/-- A write carries its width in bytes. -/
theorem test_wf_access : ∀ f ∈ ([.bar0Access, .bar2Access]
    : List (HostAccess → Instr)), wellFormed (f ⟨true, 0, 8, [1]⟩) = false ∧ wellFormed (f ⟨true, 0, 1, [1]⟩) = true := by decide +kernel

/-- Written values have 64 bits. -/
theorem test_wf_value : ∀ f ∈ ([.timeEpochWrite, .tlbInvalidate, .snapshotArm, .snapshotRestore, .flashRead, .flashProgram, .flashErase4k, .flashErase64k, .obsCapture]
    : List (Nat → Instr)), wellFormed (f (2 ^ 64)) = false ∧ wellFormed (f (2 ^ 64 - 1)) = true := by decide +kernel

/-- A queue register write carries 64 bits. -/
theorem test_wf_queue_value : ∀ f ∈ ([.tailDoorbell, .qtabCfgWrite, .qtabCheadWrite]
    : List (Nat → Nat → Instr)), wellFormed (f 0 (2 ^ 64)) = false ∧ wellFormed (f 16383 0) = true := by decide +kernel

/-- A pond has seven regions. -/
theorem test_wf_trim : ∀ f ∈ ([.trimRaise, .trimLower]
    : List (Nat → Nat → Instr)), wellFormed (f 0 7) = false ∧ wellFormed (f 95 6) = true := by decide +kernel

/-- A slab has 24 MiB. -/
theorem test_wf_slab : ∀ f ∈ ([.slabScrub, .slabRead]
    : List (Nat → Nat → SlabErrors → Instr)), wellFormed (f 0 0x1800000 ⟨0, 0⟩) = false ∧ wellFormed (f 95 0x17FFFFF ⟨0, 0⟩) = true := by decide +kernel

/-- Lines of main memory. -/
theorem test_wf_line : ∀ f ∈ ([.invalidation, .pondCacheFill]
    : List (Nat → Nat → Instr)), wellFormed (f 0 0x21C000000) = false ∧ wellFormed (f 95 0x21BFFFFFF) = true := by decide +kernel

/-- The checks of the other commands, each with a command that it refuses. -/
theorem test_wf_others : ∀ i ∈ ([.semValWrite 4 0, .fsemSigWrite 256 0, .planeSwap 0 16, .drowseSample [(0x480, 0)],
     .timeFrame frame0 (2 ^ 64) 0, .linkTrainingDone 0 16 true, .laneRecheck 0 4 true,
     .equaliserStep 0 4 0 true 0 0, .e2eTimeout 8192 0, .lnkCfgWrite 12 0,
     .hostWindowCompletion 0 (.done (List.replicate 4097 0)), .memoryRead ⟨0, 0, false, ⟨[(141, 1)], []⟩, ⟨[], []⟩⟩,
     .memoryWrite ⟨mainEnd - 1, [0, 0]⟩, .patrolScrub 0 0 ⟨[], [(0, 256)]⟩ ⟨[], []⟩ true, .regionFence 4096 0,
     .contextSwitch 0 4096, .fatalFault 256, .warmResetDone [(0, 3)], .temperatureSample [(1152, 0)] [],
     .currentSample [(96, 0)] [] 0, .railOutOfRange 9 0, .voltageTargetUpdate [(768, 0)], .pwrCoolantWrite 65536,
     .smbusSetAddress (2 ^ 64), .smbusRead 2, .smbusWrite 0 2, .pccSample 0x8000000, .registerWrite ⟨0, 3, 0⟩,
     .pondSupplyGood 96 [], .pcieL0Reached 17 1 true, .collAckTimer 8192, .perBankRefresh 0 16 0]
    : List Instr), wellFormed i = false := by decide +kernel

/-- R266, R267: words with the fields FN, RB, RA, RD and OP, or IMM, RA, RD and OP, written out bit by bit. -/
theorem test_decode_words : ∀ x ∈ ([(0b00000000000_00010_00001_00011_000000, .add), (0b00000000001_00010_00001_00011_000000, .sub),
     (0b00000000010_00010_00001_00011_000000, .mul), (0b00000000100_00010_00001_00011_000000, .and_),
     (0b00000000101_00010_00001_00011_000000, .or_), (0b00000000110_00010_00001_00011_000000, .xor),
     (0b00000001000_00010_00001_00011_000000, .shl), (0b00000001001_00010_00001_00011_000000, .shr),
     (0b00000001100_00010_00001_00011_000000, .cmplu), (0b00000000000_00010_00001_00011_000001, .fadd),
     (0b00000000001_00010_00001_00011_000001, .fsub), (0b00000000010_00010_00001_00011_000001, .fmul),
     (0b00000000011_00010_00001_00011_000001, .fdiv), (0b00000000100_00000_00001_00011_000001, .fsqrt),
     (0b00000001000_00010_00001_00011_000001, .fcmplt), (0b00000010000_00000_00001_00011_000001, .fcvti),
     (0b00000010001_00000_00001_00011_000001, .icvtf), (0b00000000000_00000_00000_00000_000010, .fence),
     (0b00000000001_00000_00001_00000_000010, .yield), (0b00000000010_00000_00001_00000_000010, .halt),
     (0b00000000011_00000_00000_00000_000010, .tret), (0b0000000000000111_00000_00000_000011, .trap),
     (0b1111111111111000_00001_00011_000100, .addk), (0b1111111111111000_00001_00011_000101, .andk),
     (0b1111111111111000_00001_00011_000110, .ork), (0b0000000000111111_00001_00011_000111, .shlk),
     (0b0000000000111111_00001_00011_001000, .shrk), (0b0000000000111111_00001_00011_001001, .sark),
     (0b1000000000000001_00000_00011_001010, .hik), (0b1111111111111000_00001_00011_010000, .ld8),
     (0b1111111111111000_00001_00011_010001, .ld16), (0b1111111111111000_00001_00011_010010, .ld32),
     (0b1111111111111000_00001_00011_010100, .ld64), (0b1111111111111000_00001_00011_011000, .st8),
     (0b1111111111111000_00001_00011_011001, .st16), (0b1111111111111000_00001_00011_011010, .st32),
     (0b1111111111111000_00001_00011_011011, .st64), (0b1111111111111000_00001_00011_100000, .breq),
     (0b1111111111111000_00001_00011_100001, .brne), (0b1111111111111000_00001_00011_100010, .brlt),
     (0b1111111111111000_00001_00011_100011, .brge), (0b1111111111111000_00001_00011_100100, .brltu),
     (0b1111111111111000_00001_00011_100101, .brgeu), (0b111111111111111111110_00011_101000, .call),
     (0b1111111111111000_00001_00011_101001, .callr), (0b0000000000001001_00000_00011_101100, .crr),
     (0b0000000000001001_00000_00011_101101, .crw), (0b00000000001_00010_00001_00011_110000, .issue),
     (0b00000000000_00010_00001_00011_110001, .sig), (0b00000000000_00010_00001_00011_110010, .wait),
     (0b00000000000_00010_00001_00011_110011, .trywait), (0b00000000000_00010_00001_00011_110100, .dec),
     (0b0000000000001111_00000_00011_110101, .sumr)]
    : List (Nat × GcOp)), decodeGc x.1 = some x.2 := by decide +kernel

/-- R267: reserved opcodes and FN values, and nonzero unused fields, spell no instruction. -/
theorem test_decode_reserved : ∀ w ∈ [0b00000000011_00010_00001_00011_000000, 0b00000000000_00010_00001_00011_001011,
    0b00000000000_00001_00000_00000_000010, 0b0000000001000000_00001_00011_000111, 0b0001000000000000_00000_00011_101100,
    0b00000000010_00010_00001_00011_110000, 0b0000000000000000_00000_00001_000011], decodeGc w = none := by decide +kernel

/-- The table gives no row any bits: no word spells a command. -/
theorem test_no_table_words (nbits w : Nat) : decodeTableWord nbits w = none := rfl
/-! States for the witnesses: a powered device with one started command in queue 0. -/

/-- The device with POR_N high and its registers at their values after reset. -/
def up : State := { State.reset with pins := { PinSt.reset with por := true } }

/-- A started, ready command with SEQ 1. -/
def cmd (raw : Nat) : Cmd :=
  ⟨1, BitVec.ofNat 512 raw, .ready, false, false, [], 0, [], 0, none, [], startBinding State.reset (opcOf raw),
    startCvu State.reset raw, [], 0, [], none, [], [], none⟩

/-- Queue 0 enabled and untranslated, its ring of 16 slots, bound to the unit `con`, or, past 4095, to transfer engine `con` mod 4096. -/
def bind (con : Nat) (s : State) : State :=
  { s with regs := ins (ins s.regs (QTAB_CFG.off 0 0) (BitVec.ofNat 64
      (1 + 2 * (con / 4096) + 2 ^ 2 * (con % 4096) + 4 * 2 ^ 26))) (MEM_QAS.off 0) 0x8888888888888880 }

/-- A consumer in pond 0 that takes commands of opcode `opc`. -/
def conOf (opc : Nat) : Nat :=
  if opc < 0x20 then 0 else if opc < 0x40 then 1024 else if opc < 0x60 then 0 else if opc = 0x60 then 2048
  else if opc < 0x80 then 2049 else if opc < 0xA0 then 2050 else if opc < 0xC0 then 2051 else if opc < 0xE0 then 4096 else 2051

/-- The started command of opcode `opc` with the given fields, and the state that holds it. -/
def cmdOf (opc : Nat) (l : List (Nat × Nat × Nat) := []) : Cmd := cmd (opc + (l.map fun x => x.2.2 * 2 ^ (8 * x.1 + x.2.1)).sum)

/-- Queue 0 of consumer `con` holds one started command. -/
def withCmd (con : Nat) (c : Cmd) (s : State := up) : State :=
  bind con { s with queues := [(0, { QState.init with started := [c] })] }

/-- The 64 bytes of a command from fields, each at a byte and a low bit. -/
def raw (opc : Nat) (l : List (Nat × Nat × Nat) := []) : Nat :=
  opc + (l.map fun x => x.2.2 * 2 ^ (8 * x.1 + x.2.1)).sum

/-- A powered device whose queue 0 holds the command `cmdOf opc l` for its unit. -/
def on (opc : Nat) (l : List (Nat × Nat × Nat) := []) : State := withCmd (conOf opc) (cmdOf opc l)

/-- A GRUN of queue 0 whose owner parts are empty. -/
def grun : GcRun := ⟨0, 1, 0, 0, 0, 0⟩

/-- Core 0 runs `grun` with the word `w` at its pc, in instruction memory, and g1, g2 at `a`, `b`; MODE is `mode`. -/
def core (w : Nat) (a b : W64) (mode : Nat := 0) (r : GcRun := grun) : State :=
  let s := (withCmd 0 { cmd 8 with phase := .running }).set GC_STAT_MODE mode 0
  { s with gcs := [(0, { GcState.init with
      pc := 2 ^ 63 + 0x8000, imem := putCells [] 0x8000 (leBytes 4 w), run := some r, g := [(1, a), (2, b)] })] }

/-- `executes` as a check, for a fetch that changes nothing. -/
def runs (s : State) (op : GcOp) (w : Nat) (r : GcRun := grun) : Bool :=
  gcRunning s 0 op == some r && (match (gcFetch s 0 r).1 with | .ok v => v == w | _ => false)
    && (gcFetch s 0 r).2 == s && decodeGc w == some op

theorem executes_of_runs {s op r w} (h : runs s op w r = true) : executes s 0 op r w s := by
  simp only [runs, Bool.and_eq_true, beq_iff_eq] at h
  obtain ⟨⟨⟨h1, h2⟩, h4⟩, h3⟩ := h
  refine ⟨h1, ?_, h3⟩
  split at h2
  · rename_i v hv
    simp only [beq_iff_eq] at h2
    exact Prod.ext (by rw [hv, h2]) h4
  · simp at h2

/-- An answer is no error, as a check. -/
def good {ε α σ : Type} (x : Except ε α × σ) : Bool := match x.1 with | .ok _ => true | .error _ => false

theorem ok_of_good {ε α σ : Type} (x : Except ε α × σ) (h : good x = true) : ∃ d v, x = (.ok d, v) := by
  obtain ⟨e, v⟩ := x
  cases e with
  | ok d => exact ⟨d, v, rfl⟩
  | error e => simp [good] at h

/-- `bodyEnds` as a check. -/
def ends (s : State) (q : Nat) (c : Cmd) (body : EM Unit) : Bool := good (body.run ⟨s, c, ctxOfQ s q, false⟩)

/-- The state of a unit's work at its end. -/
def endOf (s : State) (q : Nat) (c : Cmd) (body : EM Unit) : Eng := (body.run ⟨s, c, ctxOfQ s q, false⟩).2

theorem bodyEnds_of_ends {s q c body} (h : ends s q c body = true) : bodyEnds s q c body (endOf s q c body) := by
  obtain ⟨_, v, hv⟩ := ok_of_good _ h
  rw [bodyEnds, endOf, hv]

/-- `arrives` as a check. -/
def comes (s : State) (f : RxFrame) (type : Nat) : Bool :=
  f.type == type && !rxByPath f && (match takeData s f with
    | (some _, r) => f.dst == r.num && (f.eseq + 65536 - lookD r.link.rx (f.src * 4 + vcOf f.type) 0) % 65536 == 0
    | _ => false)

/-- The frame's payload in clear, and the state in which it is taken. -/
def payOf (s : State) (f : RxFrame) : List Byte := ((takeData s f).1).getD []
def takenOf (s : State) (f : RxFrame) : State :=
  let r := (takeData s f).2
  { r with link := { r.link with
    rx := ins r.link.rx (f.src * 4 + vcOf f.type) ((lookD r.link.rx (f.src * 4 + vcOf f.type) 0 + 1) % 65536) } }

theorem arrives_of_comes {s f type} (h : comes s f type = true) : arrives s f type (payOf s f) (takenOf s f) := by
  simp only [comes, Bool.and_eq_true, beq_iff_eq, Bool.not_eq_true'] at h
  obtain ⟨⟨h1, h2⟩, h3⟩ := h
  split at h3
  · rename_i d r e
    simp only [Bool.and_eq_true, beq_iff_eq] at h3
    exact ⟨h1, h2, r, by rw [payOf, e]; rfl, h3.1, h3.2, by rw [takenOf, e]⟩
  · simp at h3

/-- The word of each instruction with RD or RB g3, RA g1 and RB g2 where it has them, and the constant 0. -/
def word (o : GcOp) : Nat :=
  match ([(3, 1, 2, 0), (3, 1, 0, 0), (3, 0, 0, 0), (0, 1, 0, 0), (0, 0, 0, 0)] : List (Nat × Nat × Nat × Nat)).find?
      fun f => gcFields o f.1 f.2.1 f.2.2.1 f.2.2.2 with
  | some f => gcWord o f.1 f.2.1 f.2.2.1 f.2.2.2
  | none => 0

/-- The word of a store or branch: RB g2, RA g1. -/
def word2 (o : GcOp) : Nat := gcWord o 2 1 0 0

/-- The address of data memory. -/
def dm : W64 := BitVec.ofNat 64 (2 ^ 63 + 0x10000)

/-- Memory that lists nothing and has no unspecified bytes reads as zeros. -/
theorem rdN_of_empty {s : State} (hm : s.mem = []) (hs : s.stale = []) (a n : Nat) : s.rdN a n = 0 := by
  have h8 : ∀ a, s.rd8 a = 0 := fun a => by simp [State.rd8, hm, hs, look, unlisted, staleAt]
  suffices ∀ n a, leNat (s.rdBytes a n) = 0 from this n a
  intro n
  induction n with
  | zero => intro a; rfl
  | succ n ih => intro a; simp [State.rdBytes, leNat, h8, ih]

/-! General cores. -/

/-- Each format at the largest value of each field. -/
theorem test_wit_GcEncodingAgrees : gcFields .add 31 31 31 0 = true ∧ gcFields .call 31 0 0 (2 ^ 21 - 1) = true
    ∧ gcFields .addk 31 31 0 65535 = true ∧ gcFields .issue 31 31 31 1 = true ∧ gcFmtA .add = true ∧ gcFmtA .addk = false
    := by decide +kernel

/-- Every instruction can execute: the hypothesis of GcIntegerInstructions, GcConstantInstructions, GcFloatInstructions,
GcBranches, GcCalls and the rest of the general cores' statements. -/
theorem test_wit_executes : ∀ row ∈ gcRows, runs (core (word row.1) 5 3) row.1 (word row.1) = true := by decide +kernel

theorem test_wit_GcFloatInstructions : f32 0x7FC00000 = .nan ∧ f32 0x7F800001 = .nan := by decide +kernel

/-- Loads from data memory, at an aligned and a misaligned address. -/
theorem test_wit_GcLoads : ∀ row ∈ ([(1, .ld8), (2, .ld16), (4, .ld32), (8, .ld64)] : List (Nat × GcOp)),
    let w := word row.2
    (runs (core w dm 3) row.2 w = true ∧ dm.toNat % row.1 = 0 ∧ good (gcRead (core w dm 3) 0 grun dm.toNat row.1) = true)
    ∧ (row.1 ≠ 1 → runs (core w 1 3) row.2 w = true ∧ 1 % row.1 ≠ 0) := by decide +kernel

theorem test_wit_GcReadAnswers : ownerMode (core 0 0 0 1) 0 = true ∧ ownerMode (core 0 0 0 0) 0 = false
    ∧ 0x10000 + 4096 * ({ grun with ownDmem := 1 } : GcRun).ownDmem = 0x11000
    ∧ ueRange (core 0 0 0 1) 0x10DFFFFFFF8 8 = false ∧ rgnOk (core 0 0 0 0) 0 RGN_LIM_R 0 = false := by decide +kernel

/-- Stores to main memory in both modes, to data and instruction memory, and to a misaligned address. -/
theorem test_wit_GcStores : ∀ row ∈ ([(1, .st8), (2, .st16), (4, .st32), (8, .st64)] : List (Nat × GcOp)),
    let w := word2 row.2
    let s (a : W64) (m : Nat) := core w a 3 m
    (runs (s 0x100 1) row.2 w = true ∧ ownerMode (s 0x100 1) 0 = true ∧ retiredAt (s 0x100 1) 0x100 = false
      ∧ poisonedAt (s 0x100 1) 0x100 = false)
    ∧ (runs (s dm 0) row.2 w = true ∧ (gval (s dm 0) 0 (wY w)).toNat = 2 ^ 63 + 0x10000)
    ∧ (runs (s (BitVec.ofNat 64 (2 ^ 63)) 0) row.2 w = true ∧ ownerMode (s 0 0) 0 = false)
    ∧ (runs (s 0x100 0) row.2 w = true ∧ rgnOk (s 0x100 0) 0 RGN_LIM_W 0x100 = false)
    ∧ (row.1 ≠ 1 → runs (s 0x101 0) row.2 w = true ∧ 0x101 % row.1 ≠ 0) := by decide +kernel

/-- Core 0 after an unreported error of a store. -/
def withUe (s : State) : State := s.setGc 0 { s.gc 0 with storeUe := some 0x100 }

theorem test_wit_GcFenceYieldSumr :
    let w := word .fence
    (runs (core w 0 0) .fence w = true ∧ ((core w 0 0).gc 0).storeUe = none)
    ∧ (runs (withUe (core w 0 0)) .fence w = true ∧ ((withUe (core w 0 0)).gc 0).storeUe = some 0x100)
    ∧ (∀ a ∈ ([0, 1] : List Nat), let s := core (word .yield) (BitVec.ofNat 64 a) 0
      runs s .yield (word .yield) = true ∧ (gval s 0 (wY (word .yield))).toNat = a)
    ∧ (let s := (core 0 0 0).setGc 0 { (core 0 0 0).gc 0 with blocked := .yield 0 }
      (s.gc 0).run = some grun ∧ (s.gc 0).blocked = .yield 0 ∧ unitUp s grun.queue = true ∧ 0 ≤ s.stamp) := by decide +kernel

/-- A status that the mode may give, in each mode; one that it may not; and an unreported error. -/
theorem test_wit_GcHalt : let w := word .halt
    (∀ x ∈ ([(0, 0x3F), (1, 0x10), (1, 1)] : List (Nat × Nat)),
      let s := core w (BitVec.ofNat 64 x.2) 0 x.1
      runs s .halt w = true ∧ (s.gc 0).storeUe = none ∧ ownerMode s 0 = (x.1 == 1) ∧ s.findCmd grun.queue grun.seq ≠ none)
    ∧ runs (withUe (core w 0 0)) .halt w = true ∧ ((withUe (core w 0 0)).gc 0).storeUe = some 0x100 := by decide +kernel

theorem test_wit_GcTrapAndReturn :
    (runs (core (word .trap) 0 0) .trap (word .trap) = true ∧ (core (word .trap) 0 0).flag GC_STAT_INH 0 = false)
    ∧ (runs (core (word .tret) 0 0 1) .tret (word .tret) = true ∧ ownerMode (core (word .tret) 0 0 1) 0 = true)
    ∧ (let s := (core 0 0 0 1).set GC_STAT_INH 1 0
      (s.gc 0).run = some grun ∧ s.flag GC_STAT_INH 0 = true ∧ s.findCmd grun.queue grun.seq ≠ none) := by decide +kernel

theorem test_wit_GcExceptions : GcExc.illegal.jobStatus ≠ none ∧ ∀ m ∈ [0, 1], let s := core 0 0 0 m
    (s.gc 0).run = some grun ∧ (s.gc 0).blocked = .no ∧ s.flag GC_STAT_INH 0 = false ∧ ownerMode s 0 = (m == 1)
      ∧ s.findCmd grun.queue grun.seq ≠ none := by decide +kernel

/-- A word that spells nothing, a pc in the owner's part of instruction memory, a core without a GRUN, another word. -/
theorem test_wit_GcIllegalAndFetch : decodeGc 0xFFFFFFFF = none ∧ ∀ row ∈ gcRows,
    let s := core 0xFFFFFFFF 0 0
    let r : GcRun := { grun with ownImem := 16 }
    let t := core 0 0 0 0 r
    (gcRunning s 0 row.1 = some grun ∧ good (gcFetch s 0 grun) = true)
    ∧ (gcRunning t 0 row.1 = some r ∧ good (gcFetch t 0 r) = false)
    ∧ gcRunning up 0 row.1 = none
    ∧ (if row.1 = .add then decodeGc (word .sub) = some .sub else decodeGc (word .add) = some .add) := by decide +kernel

/-- CRR of GC_HANDLE in job mode, of a register that job mode may not read, and of a number with no register; CRW. -/
theorem test_wit_GcControlRegisters :
    let w (n : Nat) := gcWord .crr 3 0 0 n
    let v (n : Nat) := gcWord .crw 3 0 0 n
    (∀ n ∈ [8, 0, 4095], runs (core (w n) 0 0) .crr (w n) = true ∧ ownerMode (core (w n) 0 0) 0 = false)
    ∧ (regOf (0x4000000 + 8 * 8)).isSome = true ∧ (readReg (core (w 8) 0 0) (0x4000000 + 8 * 8) 8).1 = .ok 0
    ∧ (regOf 0x4000000).isSome = true ∧ regOf (0x4000000 + 8 * 4095) = none
    ∧ (∀ x ∈ ([(0, 0), (1, 4095), (1, 0)] : List (Nat × Nat)),
      runs (core (v x.2) 0 0 x.1) .crw (v x.2) = true ∧ ownerMode (core (v x.2) 0 0 x.1) 0 = (x.1 == 1)) := by decide +kernel

/-- Core 0, its GRUN's effect record holding one entry of kind `k`. -/
def recorded (k : Nat) (s : State) : State := s.setJent 0 { JEnt.init 1 with effects := [(k, 1)] }

/-- A recorded entry of the same kind and of another, and 16,384 effect instructions without an entry. -/
theorem test_wit_GcEffectReplay : ∀ row ∈ ([(0x30, .issue), (0x31, .sig), (0x32, .wait), (0x33, .trywait), (0x34, .dec)]
    : List (Nat × GcOp)),
    let w := word row.2
    let s (k : Nat) := recorded k (core w 0 0)
    let r : GcRun := { grun with ord := 16384 }
    let l := core w 0 0 0 r
    (∀ k ∈ [row.1, 0x35], runs (s k) row.2 w = true ∧ ((s k).gc 0).storeUe = none ∧ ((s k).gc 0).blocked = .no
      ∧ ((s k).jent grun.queue grun.seq).effects[grun.ord]? = some (k, 1))
    ∧ runs l row.2 w r = true ∧ (l.gc 0).storeUe = none ∧ (l.jent r.queue r.seq).effects[r.ord]? = none := by decide +kernel

theorem test_wit_GcEffectRecord : ((core 0 0 0).gc 0).run = some grun ∧ ((core 0 0 0).gc 0).blocked = .no := by decide +kernel

/-- The offset of local semaphore 0 of core 0, which a reference 0 names. -/
def sem0 : Nat := semOffLocal 0 0

/-- A semaphore reference 0 by value, empty and with a waiter queued; a reference that may not be named; an amount above
32 bits. -/
theorem test_wit_GcSemaphoreInstructions : ∀ o ∈ ([.sig, .wait, .trywait, .dec] : List GcOp),
    let w := word o
    let s := core w 0 3
    let full := semPut s sem0 3
    let queued := (semPut s sem0 3).setWaiters sem0 [⟨.instr, 0, 9, 4⟩]
    (∀ x ∈ [s, full, queued], runs x o w = true ∧ (x.gc 0).storeUe = none ∧ (x.jent grun.queue grun.seq).effects[grun.ord]? = none
      ∧ runnerOf x grun.queue grun.seq = some 0)
    ∧ semRefSig 0 3 ≠ none ∧ semRefOwn 0 3 (hGc grun.home) s.me = semRef 0 ∧ (semRef 0).map SemRef.off = some sem0
    ∧ s.waitersOf sem0 = [] ∧ semValue s sem0 < 3 ∧ 3 ≤ semValue full sem0
    ∧ queued.waitersOf sem0 ≠ [] ∧ semValue queued sem0 < 4
    ∧ runs (core w 0xFF 3) o w = true ∧ semRefSig 0xFF 3 = none ∧ semRefOwn 0xFF 3 (hGc grun.home) s.me = none
    ∧ runs (core w 0 (BitVec.ofNat 64 (2 ^ 32))) o w = true := by decide +kernel

/-- ISSUE of the 64 bytes at data memory to queue 0 in owner mode, with a free slot, on a full ring with each FN; to a
queue that is not enabled; and from a misaligned address. -/
theorem test_wit_GcIssue :
    let w (n : Nat) := gcWord .issue 3 1 2 n
    let s (n : Nat) (a q : W64) := core (w n) a q 1
    let full (n : Nat) := (s n dm 0).qset QTAB_TAIL_TAIL 16 0
    (∀ x ∈ [(0, s 0 dm 0), (0, s 0 dm 1), (0, full 0), (1, full 1), (0, s 0 1 0)],
      runs x.2 .issue (w x.1) = true ∧ (x.2.gc 0).storeUe = none ∧ (x.2.gc 0).blocked = .no
        ∧ (x.2.jent grun.queue grun.seq).effects[grun.ord]? = none)
    ∧ dm.toNat % 64 = 0 ∧ isCore dm.toNat = true ∧ coreOff dm.toNat = 0x10000 ∧ good (gcRead (s 0 dm 0) 0 grun dm.toNat 64) = true
    ∧ issueOk (s 0 dm 1) 0 1 = false ∧ issueOk (full 1) 0 0 = true ∧ qFree (full 1) 0 = 0 ∧ issueOk (s 0 dm 0) 0 0 = true
    ∧ qFree (s 0 dm 0) 0 ≠ 0 ∧ plainOk (s 0 dm 0) (slotAddr (s 0 dm 0) 0 0) 64 = true
    ∧ ueRange (s 0 dm 0) (slotAddr (s 0 dm 0) 0 0) 64 = false := by decide +kernel

/-- A ready GRUN of image 0 in a queue that owns core 0, whose parts are 4 KiB each; the image has one word of code. -/
def grunState (mem : List Host.Cell) (img : Option (Nat × Nat × Nat)) : State :=
  let s := ((((withCmd 0 (cmd 8)).set GC_CFG_OWNER_V 1 0).set GC_CFG_OWNER_Q 0 0).set GC_CFG_OWN_IMEM 1 0).set GC_CFG_OWN_DMEM 1 0
  { s with mem := mem, gcs := [(0, { GcState.init with image := img })] }

/-- The image as it stands after its header has been read. -/
def image1 (s : State) : State := (readImage s 0 0 true 0 64).2

/-- A core with no GRUN; a header that breaks a bound (CODE_LEN 0), one that cannot be read, a good one, and one whose
code the core holds. -/
theorem test_wit_GcGrunStart :
    let bad := grunState [] none
    let fresh := grunState [(0, 4)] none
    let known := grunState [(0, 4)] (some (0, 0, 0))
    let dark : State := { fresh with poison := [0] }
    let hdr (s : State) := (match (readImage s 0 0 true 0 64).1 with | .ok h => imageHeader h 4096 4096 | .error _ => none)
    unitCmd up 0 8 = none ∧ unitCmd dark 0 8 = some (cmd 8)
    ∧ (match (readImage dark 0 0 true 0 64).1 with | .error n => n | .ok _ => 0) = 0x30
    ∧ (∀ s ∈ [bad, fresh, known], unitCmd s 0 8 = some (cmd 8) ∧ s.flag GC_CFG_OWNER_V 0 = true ∧ good (readImage s 0 0 true 0 64) = true)
    ∧ hdr bad = none ∧ hdr fresh = some (4, 0, 0, 0) ∧ hdr known = some (4, 0, 0, 0)
    ∧ imageHeader (fresh.rdBytes 0 64) 4096 4096 = some (4, 0, 0, 0) ∧ transOfQ fresh 0 = false ∧ fresh.poison = [] ∧ fresh.chans = []
    ∧ ((image1 fresh).gc 0).image = none ∧ ((image1 known).gc 0).image = some (0, 0, 0)
    ∧ good (readImage (image1 fresh) 0 0 true 64 4) = true ∧ good (readImage (image1 known) 0 0 true 64 0) = true
    ∧ good (readImage (readImage (image1 fresh) 0 0 true 64 4).2 0 0 true 128 0) = true := by decide +kernel

/-! Queues and synchronisation. -/

/-- Queue 0 with no started command, bound to core 0, its TAIL at `t`. -/
def queue0 (t : Nat) : State := (bind 0 up).qset QTAB_TAIL_TAIL t 0

/-- Queue 0 halted. -/
def halted (s : State) : State := s.qset QTAB_STAT_STATE 7 0

/-- Doorbells at queue 0 in a warm reset, at queue 16,383, disabled, and at queue 0, one more than it has room for and
just enough; QTAB_CFG refused, locked and taken; CHEAD; RESUME of a halted queue and of another. -/
theorem test_wit_QueueDoorbell :
    (let s : State := { queue0 0 with fault := { (queue0 0).fault with warm := true } };
      queuesHeld s = true ∧ s.qflag QTAB_CFG_EN 0 = true)
    ∧ queuesHeld up = false ∧ up.qflag QTAB_CFG_EN 16383 = false
    ∧ queuesHeld (queue0 0) = false ∧ (queue0 0).qflag QTAB_CFG_EN 0 = true ∧ qFree (queue0 0) 0 = 16
    ∧ seqsOk (queue0 0) 0 0 16 = true ∧ qcfgBad 0 = true ∧ qcfgBad (4 * 2 ^ 26) = false
    ∧ (queue0 1).qget QTAB_TAIL_TAIL 0 ≠ (queue0 1).qget QTAB_HEAD_HEAD 0
    ∧ up.qget QTAB_TAIL_TAIL 0 = up.qget QTAB_HEAD_HEAD 0 ∧ (up.q 0).discarding = false
    ∧ qHalted (halted up) 0 = true ∧ ((halted up).q 0).discarding = false ∧ qHalted up 0 = false := by decide +kernel

/-- Queue 0 halted with one started control command, whose wait is queued, and a completion ring of 2 ^ `k` records, or
none, with CTAIL at `ct`. -/
def ringed (k ct : Nat) : State :=
  ((halted { queue0 1 with
      queues := [(0, { QState.init with started := [cmd 0] })]
      waiters := [(sem0, [⟨.command, 0, 1, 1⟩])] }).qset QTAB_CMPL_LOG2N k 0).qset QTAB_CHEAD_CTAIL ct 0

/-- DISCARD with no completion ring, with one that has room, and with a full one. -/
theorem test_wit_QueueDiscard :
    let room (s : State) := cmplN s 0 - (s.qget QTAB_CHEAD_CTAIL 0 + 2 ^ 32 - s.qget QTAB_CHEAD_CHEAD 0) % 2 ^ 32
    (∀ s ∈ [ringed 0 0, ringed 4 0, ringed 4 16], qHalted s 0 = true ∧ (s.q 0).started.length ≤ qUsed s 0
      ∧ (∀ kx ∈ s.waiters, isSemVal kx.1 = true))
    ∧ cmplN (ringed 0 0) 0 = 0
    ∧ (∀ c ∈ ((ringed 0 0).q 0).started, opcOf c.raw.toNat < 0x40 ∧ cmdTraced (ringed 0 0) c.raw.toNat = false)
    ∧ (∀ k, opcOf ((ringed 0 0).rdN (slotAddr (ringed 0 0) 0 k) 64) < 0x40
      ∧ cf ((ringed 0 0).rdN (slotAddr (ringed 0 0) 0 k) 64) 0 10 1 = 0)
    ∧ cmplN (ringed 4 0) 0 ≠ 0 ∧ qUsed (ringed 4 0) 0 ≤ room (ringed 4 0) ∧ room (ringed 4 16) < qUsed (ringed 4 16) 0 := by
  refine ⟨by decide +kernel, by decide +kernel, by decide +kernel, fun k => ?_, by decide +kernel⟩
  rw [rdN_of_empty rfl rfl]
  decide

/-- Queue 0 with `t` accepted commands in a ring of the given bytes. -/
def slots (t : Nat) (mem : List Host.Cell) : State := { queue0 t with mem := mem }

/-- Queues 0 and 1 of core 0 each with an accepted NOP; queue 0 had the last turn. -/
def two : State :=
  let s := queue0 1
  let t : State := { s with regs := ins s.regs (QTAB_CFG.off 0 1) (BitVec.ofNat 64 (1 + 4 * 2 ^ 26)) }
  { t.qset QTAB_TAIL_TAIL 1 1 with turns := [(turnKey (consumerOf s 0) 0, 0)] }

/-- A slot outside memory, a poisoned one, an undefined opcode, a reserved body bit, and a NOP; a FENCE behind a started
command; a header wait for 1 of local semaphore 0, on record as joined, not satisfied, and satisfied; and a NOP whose
queue does not have the turn. -/
theorem test_wit_CommandStart :
    let far := (queue0 1).qset QTAB_RING_BASE (0x10E00000000 / 64) 0
    let ue : State := { queue0 1 with poison := [0] }
    let opc := slots 1 [(0, 0xFF)]
    let body := slots 1 [(16, 1)]
    let fence : State := { slots 2 [(65, 2)] with queues := [(0, { QState.init with started := [{ cmd 0 with seq := 0 }] })] }
    let wait := slots 1 [(12, 0x80), (14, 1)]
    let joined : State := { wait with queues := [(0, { QState.init with joined := true })] }
    let full := semPut wait sem0 1
    let taken := wait.setJent 0 { JEnt.init 0 with waitTaken := true }
    let turn (s : State) : Bool :=
      let key := turnKey (consumerOf s 0) (opcOf (s.rdN (slotAddr s 0 0) 64))
      canTake s 0 (s.rdN (slotAddr s 0 0) 64) && hasTurn s 0 key (wantsTurn s key)
    (∀ s ∈ [far, ue, opc, body, queue0 1, fence, wait, joined, full, taken, two], headReady s 0 = true
      ∧ ((s.q 0).started.map (·.seq) ++ [nextSeq s 0]).Nodup)
    ∧ plainOk far (slotAddr far 0 0) 64 = false ∧ plainOk ue (slotAddr ue 0 0) 64 = true ∧ ueRange ue (slotAddr ue 0 0) 64 = true
    ∧ (∀ s ∈ [opc, body, queue0 1, fence, wait, joined, full, taken, two],
      plainOk s (slotAddr s 0 (nextSeq s 0)) 64 = true ∧ ueRange s (slotAddr s 0 (nextSeq s 0)) 64 = false)
    ∧ headerOk (opc.rdN 0 64) (consumerOf opc 0) = false
    ∧ (∀ s ∈ [body, queue0 1, wait, joined, full, taken, two], headerOk (s.rdN 0 64) (consumerOf s 0) = true ∧ cf (s.rdN 0 64) 0 9 1 = 0
      ∧ opcOf (s.rdN 0 64) = 0)
    ∧ headerOk (fence.rdN 64 64) (consumerOf fence 0) = true ∧ cf (fence.rdN 64 64) 0 9 1 = 1 ∧ (fence.q 0).started ≠ []
    ∧ (∀ s ∈ [wait, joined, full, taken], cf (s.rdN 0 64) 8 39 1 = 1 ∧ cf (s.rdN 0 64) 8 48 8 = 1
      ∧ semOffLocal (s.qget QTAB_CFG_SEMCORE 0) (cf (s.rdN 0 64) 8 32 6) = sem0 ∧ s.waitersOf sem0 = [])
    ∧ (joined.q 0).joined = true ∧ (wait.q 0).joined = false ∧ (wait.jent 0 0).waitTaken = false ∧ semValue wait sem0 < 1
    ∧ (full.q 0).joined = false ∧ (full.jent 0 0).waitTaken = false ∧ 1 ≤ semValue full sem0 ∧ isSemVal sem0 = true ∧ turn full = true
    ∧ (taken.jent 0 0).waitTaken = true ∧ turn taken = true ∧ turn two = false ∧ turn body = true ∧ turn (queue0 1) = true
    ∧ (∀ s ∈ [body, queue0 1, two], cf (s.rdN 0 64) 8 39 1 = 0)
    ∧ bodyOk (body.rdN 0 64) = false ∧ bodyOk ((queue0 1).rdN 0 64) = true
    ∧ controlBad (queue0 1) 0 ((queue0 1).rdN 0 64) = false ∧ isCol ((queue0 1).rdN 0 64) = false := by decide +kernel

/-- A TSCAT ADD that may retire once its COMMITs are answered. -/
def prepared : Cmd := { cmdOf 0x81 [(16, 0, 3), (20, 0, 1), (36, 0, 1)] with stage := 3, phase := .done 0, aux := [2 ^ 32 * 5 + 7] }

/-- No command started; a finished one that signals, one that does not, one whose record finds the completion ring full, a
prepared one, and a ready one. -/
theorem test_wit_CommandRetire :
    let c (st : Nat) : Cmd := { cmd 0 with phase := .done st }
    let full := ((withCmd 0 (c 0x10)).qset QTAB_CMPL_LOG2N 4 0).qset QTAB_CHEAD_CTAIL 16 0
    oldest up 0 = none
    ∧ (∀ st ∈ [0x00, 0x10], oldest (withCmd 0 (c st)) 0 = some (c st) ∧ (mustRecord (c st) st && cmplFull (withCmd 0 (c st)) 0) = false
      ∧ (st == 0 && (c st).stage == 3 && accumulates (c st).raw.toNat) = false)
    ∧ signals 0x00 = true ∧ signals 0x10 = false ∧ oldest full 0 = some (c 0x10) ∧ (mustRecord (c 0x10) 0x10 && cmplFull full 0) = true
    ∧ oldest (withCmd 2050 prepared) 0 = some prepared ∧ prepared.stage = 3 ∧ accumulates prepared.raw.toNat = true
    ∧ (mustRecord prepared 0 && cmplFull (withCmd 2050 prepared) 0) = false
    ∧ oldest (withCmd 0 (cmd 0)) 0 = some (cmd 0) ∧ (cmd 0).phase = .ready := by decide +kernel

/-- Each control command with reference 0 and amount 1, the value sufficient and not; a barrier empty and with an arrival;
and a NOP, SIGNAL and SEMSET whose record finds the completion ring full. -/
theorem test_wit_ControlAtRetire :
    let c (opc : Nat) := cmd (raw opc [(24, 0, 1)])
    let d (opc : Nat) := cmd (raw opc [(0, 8, 1)])
    let s (opc : Nat) := withCmd 0 (c opc)
    let full (opc : Nat) := ((withCmd 0 (d opc)).qset QTAB_CMPL_LOG2N 4 0).qset QTAB_CHEAD_CTAIL 16 0
    (∀ opc ∈ [0, 1, 3, 6], atRetire (s opc) 0 opc = some (c opc) ∧ cmplFull (s opc) 0 = false
      ∧ (semRef (cf (c opc).raw.toNat 16 0 64)).map SemRef.off = some sem0)
    ∧ 1 ≤ semValue (semPut (s 3) sem0 1) sem0 ∧ atRetire (semPut (s 3) sem0 1) 0 3 = some (c 3) ∧ semValue (s 3) sem0 < 1
    ∧ atRetire (s 5) 0 5 = some (c 5) ∧ ((s 5).bar 0 0).cur = [] ∧ ((s 5).bar 0 0).nxt = []
    ∧ atRetire ((s 5).setBar 0 0 ⟨[⟨0, 1, 1⟩], []⟩) 0 5 = some (c 5)
    ∧ (((s 5).setBar 0 0 ⟨[⟨0, 1, 1⟩], []⟩).bar 0 0).cur ≠ []
    ∧ (∀ opc ∈ [0, 1, 6], atRetire (full opc) 0 opc = some (d opc) ∧ (mustRecord (d opc) 0 && cmplFull (full opc) 0) = true
      ∧ (semRef (cf (d opc).raw.toNat 16 0 64)).isSome = true) := by decide +kernel

/-- A WAITSEM whose wait is on record, one that is satisfied, one that waits behind another or for the value; a BARRIER
as the first arrival of two, as the last, and as an overrun. -/
theorem test_wit_WaitsemAndBarrier :
    let w := cmd (raw 2 [(24, 0, 1)])
    let s := withCmd 0 w
    let taken := s.setJent 0 { JEnt.init 1 with semTaken := true }
    let full := semPut s sem0 1
    let queued := s.setWaiters sem0 [⟨.command, 1, 1, 1⟩]
    let b := cmd 4
    let t (n : Nat) (x : Barrier) := ((withCmd 0 b).setBar 0 0 x).set BAR_STAT_COUNT n 0 0
    (∀ x ∈ [s, taken, full, queued], readyCmd x 0 2 = some w) ∧ (semRef (cf w.raw.toNat 16 0 64)).map SemRef.off = some sem0
    ∧ (taken.jent 0 1).semTaken = true ∧ (full.jent 0 1).semTaken = false ∧ full.waitersOf sem0 = [] ∧ 1 ≤ semValue full sem0
    ∧ s.waitersOf sem0 = [] ∧ semValue s sem0 < 1 ∧ queued.waitersOf sem0 = [⟨.command, 1, 1, 1⟩] ∧ semValue queued sem0 < 1
    ∧ (∀ x ∈ [t 2 ⟨[], []⟩, t 1 ⟨[], []⟩, t 2 ⟨[⟨0, 1, 1⟩], [⟨0, 1, 2⟩]⟩], readyCmd x 0 4 = some b ∧ x.findCmd 0 b.seq = some b
      ∧ (x.jent 0 b.seq).arrival = none)
    ∧ ((t 2 ⟨[], []⟩).bar 0 0).cur.length + 1 < (t 2 ⟨[], []⟩).get BAR_STAT_COUNT 0 0
    ∧ ((t 1 ⟨[], []⟩).bar 0 0).cur.length + 1 = (t 1 ⟨[], []⟩).get BAR_STAT_COUNT 0 0
    ∧ ((t 2 ⟨[⟨0, 1, 1⟩], [⟨0, 1, 2⟩]⟩).bar 0 0) = ⟨[⟨0, 1, 1⟩], [⟨0, 1, 2⟩]⟩ := by decide +kernel

/-- A local semaphore at its largest value and one past it; an offset of none; a far semaphore that overflows. -/
theorem test_wit_SemaphoreRegisterWrites : isSemVal sem0 = true ∧ up.waitersOf sem0 = [] ∧ semMax sem0 = 0xFFFF
    ∧ isSemVal 0 = false ∧ up.waitersOf (FSEM_VAL.off 255) = []
    ∧ semValue (semPut up (FSEM_VAL.off 255) 0xFFFFFFFF) (FSEM_VAL.off 255) = 0xFFFFFFFF := by decide +kernel

/-! Units: the command's fields, and what its operands hold in main memory. -/

/-- Bytes in main memory before the command: each an address, a length and a value. -/
def poke (l : List (Nat × Nat × Nat)) (s : State) : State := l.foldl (fun s x => s.wrN x.1 x.2.1 x.2.2) s

/-- A valid descriptor of a learnable table with one element of FP32 in 32-byte rows, its partition at 0x1000, one row
here, its rows at 0x4000. -/
def tdesc : Nat := 0x4000 + 2 ^ 168 + 2 ^ 171 + 2 ^ 176 + 32 * 2 ^ 192 + 0x1000 * 2 ^ 320 + 2 ^ 384 + 2 ^ 448

/-- A parameter of one block of 32 elements with a BF16 working copy: buffers at 0x4000 and 0x8000. -/
def pdesc : Nat :=
  0x4000 + 0x8000 * 2 ^ 64 + 0x200 * 2 ^ 128 + 0x300 * 2 ^ 192 + 0x400 * 2 ^ 256 + 32 * 2 ^ 320 + 2 ^ 352 + 2 ^ 384 + 2 ^ 392

/-- A resident program of one micro-operation: output 0 takes constant 0. -/
def image : Nat := 1 + 2 ^ 12 + (1 + 8 * 2 ^ 6 + 0x10 * 2 ^ 10) * 2 ^ 512

/-- A BF16 tile of one vector. -/
def tile : Nat := 1 + 2 ^ 8 + 2 ^ 16

/-- A group of this device alone, owned by queue 0. -/
def group : Nat := 1 + 2 ^ 32 + 2 ^ 33 + 0x1000 * 2 ^ 64

/-- The replay context that nothing has been written under. -/
def replay0 : Replay := ⟨0, 0, 0, false, 0, 0, [], 0, 0, 0x9000, 0x1000, ⟨0x8000, 0, 0, false, 0⟩, 0⟩

/-- A powered device with those bytes in memory, whose queue 0 holds the command for its unit. -/
def atWork (c : Cmd) (mem : List (Nat × Nat × Nat) := []) : State := poke mem (withCmd (conOf (opcOf c.raw.toNat)) c)

/-- The unit takes the command, and its work comes to its end: no error, no answer awaited. -/
def works (s : State) (c : Cmd) (body : EM Unit) : Bool :=
  unitCmd s 0 (opcOf c.raw.toNat) == some c && ends s 0 c body && !(endOf s 0 c body).bad && (endOf s 0 c body).cmd.waits == 0

theorem hyps_of_works {s c body} (h : works s c body = true) : unitCmd s 0 (opcOf c.raw.toNat) = some c
    ∧ bodyEnds s 0 c body (endOf s 0 c body) ∧ (endOf s 0 c body).bad = false ∧ (endOf s 0 c body).cmd.waits = 0 := by
  simp only [works, Bool.and_eq_true, beq_iff_eq, Bool.not_eq_true'] at h
  exact ⟨h.1.1.1, bodyEnds_of_ends h.1.1.2, h.1.2, h.2⟩

/-- The unit takes the command, and its work stops with a status. -/
def fails (s : State) (c : Cmd) (body : EM Unit) (n : Nat) : Bool :=
  unitCmd s 0 (opcOf c.raw.toNat) == some c && (match (body.run ⟨s, c, ctxOfQ s 0, false⟩).1 with | .error (.status k) => k == n | _ => false)
    && !(endOf s 0 c body).bad && (endOf s 0 c body).cmd.waits == 0

theorem hyps_of_fails {s c body n} (h : fails s c body n = true) : unitCmd s 0 (opcOf c.raw.toNat) = some c
    ∧ body.run ⟨s, c, ctxOfQ s 0, false⟩ = (.error (.status n), endOf s 0 c body) ∧ (endOf s 0 c body).bad = false
    ∧ (endOf s 0 c body).cmd.waits = 0 := by
  simp only [fails, Bool.and_eq_true, beq_iff_eq, Bool.not_eq_true'] at h
  obtain ⟨⟨⟨h1, h2⟩, h3⟩, h4⟩ := h
  refine ⟨h1, ?_, h3, h4⟩
  split at h2
  · rename_i k hk
    simp only [beq_iff_eq] at h2
    exact Prod.ext (by rw [hk, h2]) rfl
  · simp at h2

/-- Main memory of a queue that is not translated, where nothing is poisoned or retired. -/
theorem plainMem_of {s : State} {q a n : Nat} (h : (transOfQ s q || s.replay.isSome || s.poison != [] || s.chans != []
    || decide (0x10E00000000 < a + n)) = false) : plainMem s q a n := by
  simp only [Bool.or_eq_false_iff, bne_eq_false_iff_eq, decide_eq_false_iff_not, Nat.not_lt] at h
  obtain ⟨⟨⟨⟨h1, h2⟩, h3⟩, h4⟩, h5⟩ := h
  refine ⟨h1, by simpa using h2, h5, fun b _ _ => ⟨by simp [poisonedAt, h3], ?_⟩⟩
  simp [retiredAt, State.chan, lookD, look, h4, ChanSt.init]

/-- Main memory of a queue that is not translated, where nothing is poisoned, lost or retired. -/
theorem freeMem_of {s : State} {q : Nat} (h : (transOfQ s q || s.replay.isSome || s.poison != [] || s.badLines != []
    || s.chans != []) = false) : freeMem s q := by
  simp only [Bool.or_eq_false_iff, bne_eq_false_iff_eq] at h
  obtain ⟨⟨⟨⟨h1, h2⟩, h3⟩, h4⟩, h5⟩ := h
  refine ⟨h1, by simpa using h2, h3, h4, fun a => ?_⟩
  simp [retiredAt, State.chan, lookD, look, h5, ChanSt.init]

/-! The commands and states of each row, with operands in place. -/

def cSample := cmdOf 0x60 [(17, 0, 1), (20, 0, 1), (24, 0, 0x2000), (32, 0, 1), (36, 0, 4096), (40, 0, 0x3000)]
def sSample := atWork cSample [(0, 64, 1 + 0x1000 * 2 ^ 64 + 0x5000 * 2 ^ 128 + 0x1000 * 2 ^ 320 + 2 ^ 384 + 2 ^ 416 + 2 ^ 448)]
def cSwitch := cmdOf 0x70 [(18, 0, 1), (24, 0, 0x5000)]
def sSwitch := loadTable (atWork cSwitch [(0, 64, tdesc)]) 0
def cGather := cmdOf 0x68 [(20, 0, 1), (24, 0, 0x2000), (32, 0, 0x3000)]
def sGather := atWork cGather [(0, 64, tdesc)]
def cMload := cmdOf 0x20 [(16, 0, 1), (24, 0, 0x1000), (32, 0, 1)]
def sMload := atWork cMload [(0x1000, 16, tile)]
def cMload3 := cmdOf 0x20 [(16, 0, 7), (18, 2, 1), (24, 0, 0x1000), (32, 0, 1)]
def sMload3 := atWork cMload3 [(0x1000, 16, 2 ^ 8 + 2 ^ 16)]
def cVpload := cmdOf 0x40 [(24, 0, 0x1000)]
def sVpload := atWork cVpload [(0x1000, 192, image)]
def cVexec := cmdOf 0x41 [(18, 0, 1), (24, 0, 0x2000)]
def sVexec := (atWork cVexec [(0x2000, 32, 0x3000)]).setVe 0 { (up.ve 0) with progs := [(0, leBytes 192 image)] }
def cUpdate : Cmd :=
  { cmdOf 0xA0 [(24, 0, 1), (28, 0, 0x3F800000), (32, 0, 0x6000)] with
    bnd := [1, 0, 0, 0, 1, 0], buf := [(0, leBytes 32 0), (1, leBytes 64 pdesc)] }
def cSkipped : Cmd := { cUpdate with bnd := [1, 0, 0, 1, 1, 0] }
def cRow : Cmd :=
  { cmdOf 0xA1 [(20, 0, 1), (24, 0, 0x2000), (32, 0, 0x6000), (40, 0, 512), (44, 0, 0x3F800000), (48, 0, 0x7000)] with
    bnd := [1, 0, 0, 0, 1, 0], buf := [(0, leBytes 32 0)] }
def sRow := ((atWork cRow [(0, 64, tdesc)]).set UPD_REDO_SIZE 1 0).set UPD_REDO_BASE 0x100 0
def cPct := cmdOf 0xA4 [(18, 0, 1)]
def sPct := atWork cPct [(0, 32, 128 * 2 ^ 128 + 2 ^ 146)]
/-- The descriptor of a block-scaled tile of format 0x10. -/
def packTile : Nat := 0x10 + 2 ^ 8 + 32 * 2 ^ 16 + 0x3F800000 * 2 ^ 32
def cPack := cmdOf 0xB1 [(20, 0, 1), (24, 0, 0x1000), (32, 0, 0x1000), (36, 0, 8192), (40, 0, 0x8000), (48, 0, 0x20000)]
def sPack := atWork cPack [(0x1000, 16, packTile), (0x2000, 16, packTile)]
def cBegin := cmdOf 0xA5
def sBegin := (atWork cBegin).set UPD_JRNL_LOG2N 4
def cEnd := cmdOf 0xA6 [(24, 0, 0x3000)]
def sEnd : State := { atWork cEnd with replay := some replay0 }
def cTscat (op : Nat) := cmdOf 0x81 [(16, 0, 2 + op), (20, 0, 1), (36, 0, 1), (24, 0, 0x2000), (40, 0, 0x3000)]
def cTexch (op : Nat) := cmdOf 0x82 [(16, 0, op)]
/-- A trough that holds the key of row 0 of table 0; the row's owner is device `dev`. -/
def sTrough (c : Cmd) (dev : Nat) : State :=
  (atWork c [(0, 64, tdesc), (0x1000, 16, dev * 2 ^ 40)]).setTrough 0
    { (up.trough 0) with slots := [(0, ⟨mkKey 2 0 0 0, none, zeroW, winZero, false, 1⟩)] }
def cTmerge := cmdOf 0x83 [(16, 0, 2), (24, 0, 0x3000), (36, 0, 1), (40, 0, 0x5000)]
def cAll (opc : Nat) : Cmd :=
  if opc = 0xC4 then cmdOf 0xC4 [(24, 0, 0x2000), (32, 0, 0x6000), (40, 0, 0x3000), (48, 0, 4), (56, 0, 0x5000)]
  else if opc = 0xC7 then cmdOf 0xC7 else cmdOf opc [(24, 0, 1)]
def sAll (opc : Nat) : State := atWork (cAll opc) [(0, 64, group)]

/-- A HOT_REFRESH of no keys, with the list that it keeps from its start. -/
def worksHot : Bool :=
  let c := cmdOf 0x71
  let c' := hotTaken (atWork c) c
  let s' := putCmd (atWork c) 0 c'
  unitCmd (atWork c) 0 0x71 == some c && ends s' 0 c' hotRefreshBody && !(endOf s' 0 c' hotRefreshBody).bad
    && (endOf s' 0 c' hotRefreshBody).cmd.waits == 0

/-- Every row of the units: no command, one that comes to its end, and one that stops with a status. -/
theorem test_wit_UnitCommandsEnd :
    (∀ opc ∈ [0x22, 0x40, 0x42, 0x60, 0x70, 0x71, 0x80, 0x83, 0x90, 0xA0, 0xA2, 0xA4, 0xA5, 0xA6, 0xB0, 0xB1, 0xC0, 0xC1, 0xC2, 0xC3,
      0xC4, 0xC5, 0xC6, 0xC7], unitCmd up 0 opc = none)
    ∧ works (atWork (cmdOf 0x22)) (cmdOf 0x22) (mstoreBody 0) = true ∧ works sVpload cVpload (vploadBody 0) = true
    ∧ works (atWork (cmdOf 0x42)) (cmdOf 0x42) (vtransBody 0) = true ∧ works sSample cSample sampleBody = true
    ∧ works sSwitch cSwitch (switchBody 0) = true
    ∧ worksHot = true
    ∧ works (atWork (cmdOf 0x80)) (cmdOf 0x80) (tresetBody 0) = true ∧ works (sTrough cTmerge 0) cTmerge (tmergeBody 0) = true
    ∧ works (atWork (cmdOf 0x90)) (cmdOf 0x90) tcodecBody = true ∧ works (atWork cUpdate) cUpdate (updateBody 0) = true
    ∧ works (atWork (cmdOf 0xA2)) (cmdOf 0xA2) flagLocalBody = true ∧ works sPct cPct pcSwitchBody = true
    ∧ works sBegin cBegin (replayBeginBody 0) = true ∧ works sEnd cEnd replayEndBody = true
    ∧ works (atWork (cmdOf 0xB0)) (cmdOf 0xB0) pruneMaskBody = true ∧ works (atWork (cmdOf 0xB1)) (cmdOf 0xB1) prunePackBody = true
    ∧ works (atWork (cmdOf 0xC0)) (cmdOf 0xC0) xferBody = true
    ∧ (∀ opc ∈ [0xC1, 0xC2, 0xC3, 0xC4, 0xC5, 0xC6, 0xC7], works (sAll opc) (cAll opc) (colBody 0) = true)
    ∧ fails (atWork cVpload) cVpload (vploadBody 0) 0x10 = true ∧ fails (atWork cSample) cSample sampleBody 0x10 = true
    ∧ fails (atWork cSkipped) cSkipped (updateBody 0) 0x20 = true ∧ fails (atWork cEnd) cEnd replayEndBody 0x10 = true
    ∧ fails (atWork (cAll 0xC1)) (cAll 0xC1) (colBody 0) 0x10 = true := by decide +kernel

/-- Array 0 with what MLOAD leaves in its shadow plane in its active plane. -/
def loaded : State :=
  let c := cmdOf 0x21 [(16, 0, 1), (20, 0, 1), (24, 0, 0x1000), (36, 0, 1)]
  let m := (endOf sMload 0 cMload (mloadBody 0)).s.mc 0
  let s := atWork c [(0x1000, 16, tile)]
  s.setMc 0 { m with arrays := [(0, ⟨(m.arr 0).shadow, none⟩)] }

theorem test_wit_MatrixCommands :
    (works sMload cMload (mloadBody 0) = true ∧ shadowBusy sMload 0 cMload.raw.toNat = false)
    ∧ (let s := (endOf sMload 0 cMload (mloadBody 0)).s
      ((s.mc 0).arr 0).shadow ≠ none ∧ ∀ p ∈ ((s.mc 0).arr 0).shadow, planeNeeded s 0 p = false)
    ∧ ((up.mc 191).arr 15).shadow = none
    ∧ (let c := cmdOf 0x21 [(16, 0, 1), (20, 0, 1), (24, 0, 0x1000), (36, 0, 1)]
      works loaded c (mmulBody 0) = true ∧ mmWaits loaded 0 c = false ∧ ((loaded.mc 0).arr 0).active ≠ none) := by decide +kernel

/-- MLOAD of one BF16 tile, and of the three parts of an FP32 one; MMUL with the plane that MLOAD leaves. -/
theorem test_wit_MatrixOperands :
    (∀ sc ∈ [(sMload, cMload), (sMload3, cMload3)],
      let s := sc.1
      let c := sc.2
      let raw := c.raw.toNat
      let mode := cf raw 18 0 2
      let x3 := cf raw 18 2 1
      let at_ (t : Nat) : Nat := cf raw 24 0 43 + t * cf raw 20 0 32
      let desc (t : Nat) : Desc := descOf (s.rdN (at_ t) 16)
      unitCmd s 0 0x20 = some c ∧ shadowBusy s 0 raw = false ∧ c.waits = 0
      ∧ ∀ t, t < mloadTiles mode x3 (maskBits (cf raw 16 0 16)) → inMain (at_ t) 16 ∧ mloadDescOk mode x3 (desc t) = true
        ∧ inMain (at_ t) (if mode = 2 then 16 + 256 + 32 * (desc t).slot + 256 else (desc t).size))
    ∧ freeMem sMload 0 ∧ freeMem sMload3 0
    ∧ (let c := cmdOf 0x21 [(16, 0, 1), (20, 0, 1), (24, 0, 0x1000), (36, 0, 1)]
      let s := loaded
      let raw := c.raw.toNat
      let arrs := maskBits (cf raw 16 0 16)
      let fs := arrs.flatMap fun a => match ((s.mc (mcHome s 0)).arr a).active with | some p => feedsOf a p | none => []
      let at_ (ik : Nat × Nat) : Nat := cf raw 24 0 43 + (ik.1 * cf raw 36 0 16 + ik.2) * cf raw 32 0 32
      unitCmd s 0 0x21 = some c ∧ mmWaits s 0 c = false ∧ c.waits = 0 ∧ fs ≠ []
      ∧ (∀ a ∈ arrs, ((s.mc (mcHome s 0)).arr a).active.isSome = true)
      ∧ ∀ f ∈ fs, f.k < cf raw 36 0 16 ∧ feedMax (cf raw 20 0 32) (cf raw 40 0 32) (cf raw 44 0 32) f < 196608
        ∧ ∀ ik ∈ feedTiles (cf raw 20 0 32) f, inMain (at_ ik) 16 ∧ aTileOk f (descOf (s.rdN (at_ ik) 16)) = true
          ∧ inMain (at_ ik) ((descOf (s.rdN (at_ ik) 16)).size + 128))
    ∧ freeMem loaded 0 ∧ look sMload.ctxs (hMc 0) = none :=
  ⟨by decide +kernel, freeMem_of (by decide +kernel), freeMem_of (by decide +kernel), by decide +kernel,
    freeMem_of (by decide +kernel), by decide +kernel⟩

theorem test_wit_mstore : let c := cmdOf 0x22 [(20, 0, 1), (24, 0, 1), (28, 0, 196607), (40, 0, 0x10DFFFFFFFC)]
    unitCmd (atWork c) 0 0x22 = some c ∧ c.waits = 0 ∧ 196607 + (1 - 1) * 0 + (1 - 1) < 196608
      ∧ plainMem (atWork c) 0 0x10DFFFFFFFC ((1 - 1) * 4 + 4 * 1) :=
  ⟨by decide +kernel, by decide +kernel, by decide, plainMem_of (by decide +kernel)⟩

/-- VPLOAD, VTRANS into a tile, VMASK filling, loading and storing, and VEXEC. -/
theorem test_wit_VectorCommands :
    (unitCmd sVpload 0 0x40 = some cVpload ∧ plainMem sVpload 0 0x1000 192 ∧ imageOk (sVpload.rdBytes 0x1000 192) = true)
    ∧ (let c := cmdOf 0x42 [(18, 0, 1), (20, 0, 1), (24, 0, 0x1000), (40, 0, 2 ^ 63 + 31)]
      unitCmd (atWork c) 0 0x42 = some c ∧ operandAddr (cf c.raw.toNat 24 0 64) = some (false, 0x1000)
        ∧ operandAddr (cf c.raw.toNat 40 0 64) = some (true, 63488) ∧ plainMem (atWork c) 0 0x1000 ((1 - 1) * 1 + 1 * 1))
    ∧ (∀ op ∈ [0, 4, 5], let c := cmdOf 0x43 [(16, 0, op), (24, 0, 0x1000)]
      unitCmd (atWork c) 0 0x43 = some c ∧ maskPending (atWork c) 0 c = false ∧ cf c.raw.toNat 16 0 3 = op)
    ∧ (let c := cmdOf 0x43 [(16, 0, 5), (24, 0, 0x1000)]
      plainMem (atWork c) 0 0x1000 8192)
    ∧ works sVexec cVexec (vexecBody 0) = true ∧ maskPending sVexec 0 cVexec = false :=
  ⟨⟨by decide +kernel, plainMem_of (by decide +kernel), by decide +kernel⟩,
    ⟨by decide +kernel, by decide +kernel, by decide +kernel, plainMem_of (by decide +kernel)⟩, by decide +kernel,
    plainMem_of (by decide +kernel), by decide +kernel, by decide +kernel⟩

/-- VEXEC of the loaded program, its descriptor and its output stream in main memory. -/
theorem test_wit_VexecOperands :
    let s := sVexec
    let c := cVexec
    let raw := c.raw.toNat
    let p := Prog.ofBytes (leBytes 192 image)
    let n := cf raw 18 0 16
    let rowlen := if cf raw 20 0 16 = 0 then n else cf raw 20 0 16
    let sd := cf raw 24 0 43
    let nd := p.nin + p.nout
    let x : Shape := ⟨n, rowlen, (n + rowlen - 1) / rowlen,
      (upto n).filter fun i => (maskOf (s.ve (veHome s 0)) (cf raw 16 4 3)).testBit i⟩
    let ds := (upto nd).map fun k => strmOf p.cls (decide (k ≥ p.nin)) (s.rdN (sd + 32 * k) 32)
    let ss := ds.filterMap id
    (unitCmd s 0 0x41 = some c ∧ maskPending s 0 c = false ∧ c.waits = 0
      ∧ look (s.ve (veHome s 0)).progs (cf raw 16 0 4) = some (leBytes 192 image) ∧ (selsOf p (cf raw 32 0 64)).isSome = true
      ∧ inMain sd (32 * nd) ∧ ds.all (·.isSome) = true ∧ rangesOk x sd nd ss = true ∧ ss ≠ []
      ∧ (∀ y ∈ ss, (y.tile = false → y.mode ≠ 4 → inMain y.addr (strmSpan y x)) ∧ y.sums = 0))
    ∧ freeMem sVexec 0 := ⟨by decide +kernel, freeMem_of (by decide +kernel)⟩

/-- An outstanding request of a running SAMPLE; a switch of a loaded table; a GATHER bound, and one that a commit of the
same table holds back. -/
theorem test_wit_GraphCommands :
    (let s : State := { withCmd 2048 { cSample with phase := .running } with samps := [⟨7, 0, 1, 0, 0, 0, []⟩] };
      (s.samps.find? fun r => r.id == 7) = some ⟨7, 0, 1, 0, 0, 0, []⟩ ∧ (s.findCmd 0 1).map (·.phase) = some .running)
    ∧ (up.samps.find? fun r => r.id == 7) = none
    ∧ works sSwitch cSwitch (switchBody 0) = true ∧ look sSwitch.tables 0 ≠ none ∧ (sSwitch.jent 0 1).bound = none
    ∧ (let s := sGather.setQ 1 { QState.init with started := [{ cRow with stage := 1 }] }
      unitCmd s 0 0x68 = some cGather ∧ ((bindGather s 0 cGather).jent 0 1).bound = none ∧ committing s 0 = true)
    ∧ unitCmd sGather 0 0x68 = some cGather ∧ ((bindGather sGather 0 cGather).jent 0 1).bound ≠ none
    ∧ works (bindGather sGather 0 cGather) cGather (gatherBody 0) = true
    ∧ worksHot = true ∧ works sSample cSample sampleBody = true := by decide +kernel

/-- SAMPLE of 2 of the 3 neighbours of node 0, and of a padding seed. -/
def cSample2 := cmdOf 0x60 [(17, 0, 1), (20, 0, 2), (24, 0, 0x2000), (32, 0, 2), (36, 0, 4096), (40, 0, 0x3000)]
def sSample2 := atWork cSample2 [(0, 64, 1 + 0x1000 * 2 ^ 64 + 0x5000 * 2 ^ 128 + 0x7000 * 2 ^ 320 + 2 ^ 384 + 2 ^ 416 + 2 ^ 448),
  (0x1008, 8, 3), (0x2005, 5, padId), (0x5000, 15, 7 + 8 * 2 ^ 40 + 9 * 2 ^ 80)]

/-- The table of `sSwitch` with one gather in flight. -/
def sSwitchBusy : State := { sSwitch with tables := [(0, ⟨0x4000, 0, 0, 0, false, 1, 0⟩)] }

/-- TABLE_SWITCH with no gather in flight and with one; HOT_REFRESH that clears, and one with HOT_CFG.EN = 0. -/
theorem test_wit_TableOperands :
    (∀ s ∈ [sSwitch, sSwitchBusy], unitCmd s 0 0x70 = some cSwitch ∧ (s.jent 0 1).bound = none ∧ inMain (tableAddr s 0) 64
      ∧ (tdescOf (s.rdN (tableAddr s 0) 64)).ok = true)
    ∧ look sSwitch.tables 0 = some ⟨0x4000, 0, 0, 0, false, 0, 0⟩ ∧ look sSwitchBusy.tables 0 = some ⟨0x4000, 0, 0, 0, false, 1, 0⟩
    ∧ cf cSwitch.raw.toNat 16 0 12 = 0 ∧ cf cSwitch.raw.toNat 18 0 16 ≠ 0 ∧ cSwitch.waits = 0
    ∧ freeMem sSwitch 0 ∧ freeMem sSwitchBusy 0
    ∧ ∀ k ∈ [0, 1], let c := cmdOf 0x71 [(16, 0, k)]
      unitCmd (atWork c) 0 0x71 = some c ∧ c.waits = 0 ∧ c.bnd = [] ∧ (atWork c).flag HOT_CFG_EN = false ∧ cf c.raw.toNat 16 0 1 = k :=
  ⟨by decide +kernel, by decide +kernel, by decide +kernel, by decide +kernel, by decide +kernel, by decide +kernel,
    freeMem_of (by decide +kernel), freeMem_of (by decide +kernel), by decide +kernel⟩

theorem test_wit_SampleOperands :
    let s := sSample2
    let c := cSample2
    let raw := c.raw.toNat
    let g := graphOf (s.rdN (graphAddr s (cf raw 16 0 8)) 64)
    let fan := cf raw 20 0 8
    let n := cf raw 32 0 32
    let l := (upto n).map fun i => s.rdN (cf raw 24 0 43 + 5 * i) 5
    let base := bits (s.rdN g.part 16) 64 40
    let row (nid : Nat) : Nat := nid + base
    let e0 (nid : Nat) : Nat := s.rdN (g.off + 8 * row nid) 8
    let deg (nid : Nat) : Nat := s.rdN (g.off + 8 * row nid + 8) 8 - e0 nid
    let kn (nid : Nat) : Nat := nodeKey (stepKey (s.rg GSV_KEY (cf raw 19 0 4)).toNat (cf raw 48 0 64)) 1 nid
    let picks (nid : Nat) : List Nat := if fan = 0 ∨ deg nid ≤ fan then upto (deg nid) else sortBy id (floyd (kn nid) (deg nid) fan)
    let drawn (nid : Nat) : Drawn :=
      if nid = padId then ⟨[], [], 0, 0⟩ else ⟨(picks nid).map fun p => s.rdN (g.col + 5 * (e0 nid + p)) 5, [], 0, 0⟩
    let blk := (hopBlock 1 (cf raw 19 4 1 == 1) false false ⟨nubN l, n - (nubN l).length⟩ ((nubN l).map drawn)).1
    (unitCmd s 0 0x60 = some c ∧ c.waits = 0 ∧ cf raw 17 0 3 = 1 ∧ cf raw 18 0 1 = 0 ∧ cf raw 19 5 1 = 0
      ∧ inMain (graphAddr s (cf raw 16 0 8)) 64 ∧ graphOk (s.rdN (graphAddr s (cf raw 16 0 8)) 64) = true
      ∧ oneOwner s g.part g.ranges s.me base ∧ inMain (cf raw 24 0 43) (5 * n) ∧ l = [0, padId]
      ∧ (∀ nid ∈ l, nid ≠ padId → nid < g.nodes ∧ row nid < g.rows ∧ inMain (g.off + 8 * row nid) 16
        ∧ e0 nid ≤ s.rdN (g.off + 8 * row nid + 8) 8 ∧ deg nid < 2 ^ 32 ∧ inMain (g.col + 5 * e0 nid) (5 * deg nid))
      ∧ blk.length ≤ cf raw 36 0 32 ∧ inMain (cf raw 40 0 43) blk.length)
    ∧ freeMem sSample2 0 := ⟨by decide +kernel, freeMem_of (by decide +kernel)⟩

/-- GATHER in mode `m` of row 0 and of a padding key. -/
def cGather2 (m : Nat) : Cmd := cmdOf 0x68 [(18, 0, m), (20, 0, 2), (24, 0, 0x2000), (32, 0, 0x8000), (40, 0, 0x6000)]
def sGather2 (m : Nat) : State := bindGather (atWork (cGather2 m) [(0, 64, tdesc), (0x2005, 5, padId)]) 0 (cGather2 m)

theorem test_wit_GatherOperands :
    (∀ m ∈ [0, 1, 2],
    let s := sGather2 m
    let c := cGather2 m
    let raw := c.raw.toNat
    let t := cf raw 16 0 12
    let mode := cf raw 18 0 2
    let d := tdescOf (s.rdN (tableAddr s t) 64)
    let hd := s.rdN (cf raw 24 0 43) 64
    let n := if cf raw 19 0 1 = 1 then bits hd 64 32 else cf raw 20 0 32
    let list := if cf raw 19 0 1 = 1 then cf raw 24 0 43 + bits hd 256 32 else cf raw 24 0 43
    let key (i : Nat) : Nat := s.rdN (list + 5 * i) 5
    let lb := bits (s.rdN d.part 16) 64 40
    let src (i : Nat) : Nat := 0x4000 + d.stride * (key i + lb)
    let len := if mode = 0 then d.rowBytes else d.elemBytes
    let dest := cf raw 32 0 43
    let scale := cf raw 40 0 43
    let ds := cf raw 48 0 32
    let pitch := if ds ≠ 0 then ds else if mode = 0 then d.stride else d.elemBytes
    let dn := if mode = 2 then (n + 31) / 32 * ((d.elems + 31) / 32) * tileSize d.fmt else (n - 1) * pitch + len
    let sn := if mode = 0 then 0 else 4 * n
    unitCmd s 0 0x68 = some c ∧ c.waits = 0 ∧ look s.tables t = some ⟨0x4000, 0, 0, 0, false, 1, 0⟩ ∧ (s.jent 0 1).bound = some 0
    ∧ mode ≤ 2 ∧ inMain (tableAddr s t) 64 ∧ d.ok = true ∧ (mode = 2 → fmtScaled d.fmt = true ∨ fmtBase d.fmt < 2)
    ∧ (mode = 2 ∨ ds = 0 ∨ (ds % 16 = 0 ∧ len ≤ ds)) ∧ (cf raw 19 0 1 = 1 → inMain (cf raw 24 0 43) 64)
    ∧ inMain list (5 * n) ∧ oneOwner s d.part d.ranges s.me lb ∧ inMain d.part 16 ∧ apart d.part 16 dest dn ∧ apart d.part 16 scale sn
    ∧ (cf raw 19 1 1 = 0 ∨ s.hot.active = [])
    ∧ (∀ i, i < n → key i ≠ padId → key i + lb < d.rows ∧ inMain (src i) d.rowBytes ∧ apart (src i) d.rowBytes dest dn
      ∧ apart (src i) d.rowBytes scale sn)
    ∧ inMain dest dn ∧ inMain scale sn ∧ apart dest dn scale sn)
    ∧ freeMem (sGather2 0) 0 ∧ freeMem (sGather2 1) 0 ∧ freeMem (sGather2 2) 0 :=
  ⟨by decide +kernel, freeMem_of (by decide +kernel), freeMem_of (by decide +kernel), freeMem_of (by decide +kernel)⟩

/-- UPDATE in an agreed step and in a skipped one; ROW_UPDATE held back by a bound GATHER, and at its end. -/
theorem test_wit_UpdateCommands :
    unitCmd (atWork (cmdOf 0xA2)) 0 0xA2 = some (cmdOf 0xA2) ∧ (atWork (cmdOf 0xA2)).replay = none
    ∧ works sPct cPct pcSwitchBody = true ∧ pctAddr sPct 0 + 32 ≤ 0x10E00000000
    ∧ works (atWork cUpdate) cUpdate (updateBody 0) = true ∧ look cUpdate.buf 1 = some (leBytes 64 pdesc)
    ∧ transOfQ (atWork cUpdate) 0 = false ∧ fails (atWork cSkipped) cSkipped (updateBody 0) 0x20 = true
    ∧ (let s := (sRow.setQ 1 { QState.init with started := [cGather] }).setJent 1 { JEnt.init 1 with bound := some 0 }
      unitCmd s 0 0xA1 = some cRow ∧ gathersBound (putCmd s 0 { cRow with stage := 1 }) 0 = true)
    ∧ unitCmd sRow 0 0xA1 = some cRow ∧ gathersBound (putCmd sRow 0 { cRow with stage := 1 }) 0 = false
    ∧ works (putCmd sRow 0 { cRow with stage := 1 }) { cRow with stage := 1 } (rowUpdateBody 0) = true := by decide +kernel

/-- UPDATE of one block, bound and not skipped, with its operands in main memory; ROW_UPDATE of row 0; PC_SWITCH to the
other slot. -/
theorem test_wit_UpdateOperands :
    (∀ c ∈ [cUpdate, cSkipped],
      let s := atWork c
      let raw := c.raw.toNat
      let d := pdescOf (leNat (leBytes 64 pdesc))
      let cur := listGet c.bnd 2 0
      let b0 := cf raw 20 0 32
      let bn := cf raw 24 0 32
      let mine (o b : Nat) : List (Nat × Nat) :=
        [(o + 192 * b, 192), (o + d.moff + momEntry b, 4), (o + d.moff + momSlot d b, slotBytes momFmt),
          (o + d.roff + momEntry b, 4), (o + d.roff + momSlot d b, slotBytes momFmt),
          ((workAt d o b).1, 16), ((workAt d o b).2.1, 4), ((workAt d o b).2.2, workLen d)]
      unitCmd s 0 0xA0 = some c ∧ c.waits = 0 ∧ look c.buf 1 = some (leBytes 64 pdesc) ∧ look c.buf 0 = some (leBytes 32 0)
      ∧ byteN (leBytes 32 0) 20 12 = 0 ∧ cf raw 40 0 43 % 32 = 0 ∧ listGet c.bnd 4 0 = 1 ∧ d.ok = true ∧ b0 + bn ≤ d.blocks
      ∧ snapHolds s (cf raw 16 0 12) (1 - cur) = false ∧ inMain (cf raw 32 0 43) (128 * bn)
      ∧ ∀ b, b < b0 + bn → b0 ≤ b → (∀ r ∈ mine (d.base cur) b ++ mine (d.base (1 - cur)) b, inMain r.1 r.2) ∧ d.prune = false)
    ∧ freeMem (atWork cUpdate) 0 ∧ freeMem (atWork cSkipped) 0 ∧ listGet cUpdate.bnd 3 0 = 0 ∧ listGet cSkipped.bnd 3 0 = 1
    ∧ (let s := sPct
      let a := pctAddr s (cf cPct.raw.toNat 16 0 12)
      let v := s.rdN a 32
      let dim := bits v 128 10
      unitCmd s 0 0xA4 = some cPct ∧ cPct.waits = 0 ∧ inMain a 32 ∧ v.testBit 146 = true ∧ 128 ≤ dim ∧ dim ≤ 512 ∧ dim % 32 = 0
      ∧ bits v 43 21 = 0 ∧ bits v 107 21 = 0 ∧ bits v 138 6 = 0 ∧ bits v 147 45 = 0 ∧ cf cPct.raw.toNat 18 0 1 ≠ bits v 144 1)
    ∧ freeMem sPct 0 :=
  ⟨by decide +kernel, freeMem_of (by decide +kernel), freeMem_of (by decide +kernel), by decide +kernel, by decide +kernel,
    by decide +kernel, freeMem_of (by decide +kernel)⟩

/-- The table of `sRow`, loaded. -/
def sRow2 : State := loadTable sRow 0

theorem test_wit_RowUpdateOperands :
    let s := sRow2
    let c := cRow
    let raw := c.raw.toNat
    let t := cf raw 16 0 12
    let n := cf raw 20 0 32
    let list := cf raw 24 0 43
    let ms := cf raw 40 0 32
    let d := tdescOf (s.rdN (tableAddr s t) 64)
    let mb := (rowMom d.elems).2 + (rowMom d.elems).1
    let esz := 16 + 16 * ((d.elems + 3) / 4)
    let pond := hPond (homeOfQ s 0)
    let slot := redoAddr s pond
    let lrow (i : Nat) : Nat := s.rdN (list + esz * i) 5
    let ranges (i : Nat) : List (Nat × Nat) :=
      [(0x4000 + d.stride * lrow i, d.rowBytes), (cf raw 32 0 43 + ms * lrow i, mb), (slot, 64 + d.rowBytes + mb)]
    (unitCmd s 0 0xA1 = some c ∧ c.waits = 0 ∧ gathersBound (putCmd s 0 { c with stage := 1 }) t = false
      ∧ look s.tables t = some ⟨0x4000, 0, 0, 0, false, 0, 0⟩ ∧ inMain (tableAddr s t) 64
      ∧ d.ok = true ∧ d.learnable = true ∧ d.fmt = 0 ∧ look c.buf 0 = some (leBytes 32 0)
      ∧ cf raw 48 0 43 % 32 = 0 ∧ list % 16 = 0 ∧ mb ≤ ms ∧ d.stride + ms + 64 ≤ s.get UPD_REDO_SIZE pond * 65536
      ∧ c.reissued = false ∧ s.snap.tables = [] ∧ inMain list (esz * n) ∧ n ≠ 0
      ∧ (∀ i, i < n → s.rdN (list + esz * i + 10) 2 % 4096 = t ∧ lrow i < d.rows
        ∧ ∀ r ∈ ranges i, inMain r.1 r.2 ∧ apart r.1 r.2 list (esz * n)))
    ∧ freeMem sRow2 0 := ⟨by decide +kernel, freeMem_of (by decide +kernel)⟩

/-- The last command of an agreed step, with SF bound clear and set; one started without agreement; and one started in a
replay. -/
theorem test_wit_StepClose :
    let c (sf agreed replay : Nat) : Cmd := { cmdOf 0xA3 with bnd := [7, 3, 0, sf, agreed, replay] }
    (∀ sf ∈ [0, 1], atRetire (atWork (c sf 1 0)) 0 0xA3 = some (c sf 1 0) ∧ unitUp (atWork (c sf 1 0)) 0 = true
      ∧ (mustRecord (c sf 1 0) (if sf = 1 then 0x20 else 0) && cmplFull (atWork (c sf 1 0)) 0) = false
      ∧ inMain (cf (c sf 1 0).raw.toNat 32 0 43) (2 * cf (c sf 1 0).raw.toNat 40 0 5))
    ∧ freeMem (atWork (c 0 1 0)) 0 ∧ freeMem (atWork (c 1 1 0)) 0
    ∧ (∀ x ∈ [(0, 0), (1, 1)], atRetire (atWork (c 0 x.1 x.2)) 0 0xA3 = some (c 0 x.1 x.2) ∧ unitUp (atWork (c 0 x.1 x.2)) 0 = true
      ∧ (listGet (c 0 x.1 x.2).bnd 5 0 = 1 ∨ listGet (c 0 x.1 x.2).bnd 4 0 = 0)
      ∧ (mustRecord (c 0 x.1 x.2) 0x10 && cmplFull (atWork (c 0 x.1 x.2)) 0) = false) :=
  ⟨by decide +kernel, freeMem_of (by decide +kernel), freeMem_of (by decide +kernel), by decide +kernel⟩

/-- PRUNE_MASK at step 1 of a period of 2 and at step 2, for one K-vector of 8 elements. -/
theorem test_wit_ReplayAndPrune : works sBegin cBegin (replayBeginBody 0) = true ∧ works sEnd cEnd replayEndBody = true
    ∧ (let c := cmdOf 0xB0 [(48, 0, 1)]
      unitCmd ((atWork c).set PRUNE_CFG_PERIOD 2) 0 0xB0 = some c ∧ 1 % max 1 (((atWork c).set PRUNE_CFG_PERIOD 2).get PRUNE_CFG_PERIOD) ≠ 0)
    ∧ (let c := cmdOf 0xB0 [(20, 0, 8), (24, 0, 1), (28, 0, 48), (40, 0, 0x1000), (48, 0, 2)]
      let s := (atWork c).set PRUNE_CFG_PERIOD 2
      unitCmd s 0 0xB0 = some c ∧ 2 % max 1 (s.get PRUNE_CFG_PERIOD) = 0 ∧ plainMem s 0 0 ((1 - 1) * 48 + 6 * 8)
        ∧ plainMem s 0 (0x1000 + 2 / 2 % 2 * (1 * 8 / 8)) (1 * 8 / 8))
    ∧ works (atWork (cmdOf 0xB1)) (cmdOf 0xB1) prunePackBody = true :=
  ⟨by decide +kernel, by decide +kernel, by decide +kernel,
    ⟨by decide +kernel, by decide +kernel, plainMem_of (by decide +kernel), plainMem_of (by decide +kernel)⟩, by decide +kernel⟩

/-- REPLAY_BEGIN of a data step that its journal slot holds; REPLAY_END of a replay; PRUNE_PACK of one pair of tiles. -/
theorem test_wit_ReplayAndPruneOperands :
    (unitCmd sBegin 0 0xA5 = some cBegin ∧ cBegin.waits = 0 ∧ (jrnlAddr sBegin (cf cBegin.raw.toNat 16 0 64)).isSome = true
      ∧ ∀ a ∈ jrnlAddr sBegin (cf cBegin.raw.toNat 16 0 64), inMain a 128 ∧ sBegin.rdN a 8 = cf cBegin.raw.toNat 16 0 64)
    ∧ freeMem sBegin 0
    ∧ (let r := replay0
      let cap := sEnd.get UPD_CFG_CLOG_MAX
      unitCmd sEnd 0 0xA6 = some cEnd ∧ cEnd.waits = 0 ∧ sEnd.replay = some r ∧ inMain r.clog (16 * min cap r.clogN)
        ∧ inMain r.rlog.addr (16 * min cap r.rlog.n) ∧ inMain (cf cEnd.raw.toNat 24 0 43) 32 ∧ r.digest = r.seedDigest
        ∧ r.clogN ≤ cap ∧ r.rlog.n ≤ cap)
    ∧ freeMem { sEnd with replay := none } 0
    ∧ (let s := sPack
      let c := cPack
      let raw := c.raw.toNat
      let pairs := cf raw 20 0 32
      let os := cf raw 36 0 32
      let dst := cf raw 40 0 43
      let src (j : Nat) : Nat := cf raw 24 0 43 + cf raw 32 0 32 * j
      let tile (j : Nat) : Desc := descOf (s.rdN (src j) 16)
      unitCmd s 0 0xB1 = some c ∧ c.waits = 0 ∧ pairs = 1
        ∧ (∀ i, i < pairs → tile (2 * i) = tile (2 * i + 1) ∧ (tile (2 * i)).ok = true ∧ (tile (2 * i)).dense = true
          ∧ (tile (2 * i)).sp = false ∧ (tile (2 * i)).qh = false ∧ fmtScaled (tile (2 * i)).fmt = true
          ∧ 2 * (tile (2 * i)).size ≤ os ∧ inMain (src (2 * i)) (tile (2 * i)).size
          ∧ inMain (src (2 * i + 1)) (tile (2 * i)).size
          ∧ apart (src (2 * i)) 16 dst (os * pairs + 128))
        ∧ inMain dst (os * pairs + 128))
    ∧ freeMem sPack 0 :=
  ⟨by decide +kernel, freeMem_of (by decide +kernel), by decide +kernel, freeMem_of (by decide +kernel), by decide +kernel,
    freeMem_of (by decide +kernel)⟩

/-- TRESET without and with a stage live; TSCAT of one row; TEXCH of a key owned elsewhere, and of one owned here; TMERGE;
TCODEC. -/
theorem test_wit_TroughCommands :
    let t := cmdOf 0x80
    let live := (atWork t).setTrough 0 { up.trough 0 with applied := [(0, 1)] }
    unitCmd (atWork t) 0 0x80 = some t ∧ anyLive ((atWork t).trough 0) = false ∧ unitCmd live 0 0x80 = some t
    ∧ anyLive (live.trough 0) = true
    ∧ (∀ op ∈ [0, 1], unitCmd (atWork (cTscat op)) 0 0x81 = some (cTscat op) ∧ ends (atWork (cTscat op)) 0 (cTscat op) (tscatBody 0) = true
      ∧ cf (cTscat op).raw.toNat 16 0 1 = op)
    ∧ (∀ row ∈ ([(0, .esend), (1, .efetch), (2, .asend)] : List (Nat × TroughKind)), ∀ dev ∈ [0, 1],
      let s := sTrough (cTexch row.1) dev
      unitCmd s 0 0x82 = some (cTexch row.1) ∧ ends s 0 (cTexch row.1) (texchBody 0 row.2) = true)
    ∧ works (sTrough cTmerge 0) cTmerge (tmergeBody 0) = true ∧ works (atWork (cmdOf 0x90)) (cmdOf 0x90) tcodecBody = true := by
  decide +kernel

/-- TSCAT of one gradient row; TEXCH of a table whose one owner is this device, or another; TMERGE of a dense row that
the trough holds, and with ZFILL of one that it does not; TCODEC of one tile each way. -/
theorem test_wit_TroughOperands :
    (∀ op ∈ [0, 1], let c := cTscat op
      let s := atWork c
      let raw := c.raw.toNat
      let eb := fmtBytes (cf raw 17 0 8)
      let elems := cf raw 20 0 16
      let pitch := if cf raw 32 0 32 = 0 then elems * eb else cf raw 32 0 32
      unitCmd s 0 0x81 = some c ∧ c.waits = 0 ∧ transOfQ s 0 = false ∧ s.replay = none ∧ s.poison = [] ∧ s.badLines = []
        ∧ s.chans = [] ∧ cf raw 16 1 2 ≠ 2 ∧ cf raw 16 3 2 = 0 ∧ inMain (cf raw 40 0 43) (5 * cf raw 36 0 32)
        ∧ cf raw 36 0 32 = 1 ∧ ∀ i, i < cf raw 36 0 32 → inMain (cf raw 24 0 43 + pitch * i) (elems * eb))
    ∧ (∀ op ∈ [0, 1, 2], ∀ dev ∈ [0, 1], let s := loadTable (sTrough (cTexch op) dev) 0
      let d := tdescOf (s.rdN (tableAddr s 0) 64)
      unitCmd s 0 0x82 = some (cTexch op) ∧ (cTexch op).waits = 0 ∧ transOfQ s 0 = false ∧ s.replay = none ∧ s.poison = []
        ∧ s.badLines = [] ∧ s.chans = [] ∧ cf (cTexch op).raw.toNat 16 0 2 = op ∧ cf (cTexch op).raw.toNat 18 0 12 = 0
        ∧ (look s.tables 0).isSome = true ∧ inMain (tableAddr s 0) 64 ∧ d.ok = true ∧ oneOwner s d.part d.ranges dev 0)
    ∧ (∀ z ∈ [0, 1], let c := cmdOf 0x83 [(16, 0, 1), (16, 3, z), (18, 0, 0), (20, 0, 8), (24, 0, 0x3000), (36, 0, 2)]
      let s := (atWork c).setTrough 0 { (up.trough 0) with slots := [(0, ⟨mkKey 1 0 0 0, none, zeroW, winZero, false, 1⟩)] }
      let raw := c.raw.toNat
      unitCmd s 0 0x83 = some c ∧ c.waits = 0 ∧ transOfQ s 0 = false ∧ s.replay = none ∧ s.poison = [] ∧ s.badLines = []
        ∧ s.chans = [] ∧ cf raw 16 0 2 = 1 ∧ cf raw 16 3 1 = z ∧ cf raw 32 0 32 = 0 ∧ cf raw 20 0 16 = 8
        ∧ (committedKeys (s.trough (hPond (homeOfQ s 0))) 1 0).map keyIdx = [0] ∧ cf raw 36 0 32 = 2
        ∧ ∀ i, i < 2 → inMain (0x3000 + 32 * i) 32)
    ∧ (∀ op ∈ [0, 1], let c := cmdOf 0x90 [(16, 0, op), (20, 0, 1), (24, 0, 0x1000), (32, 0, 1024), (36, 0, 8192), (40, 0, 0x8000)]
      let s := atWork c [(0x1000, 16, packTile)]
      let raw := c.raw.toNat
      let src (i : Nat) : Nat := cf raw 24 0 43 + cf raw 32 0 32 * i
      let ds := cf raw 36 0 32
      let dst := cf raw 40 0 43
      let d (i : Nat) : Desc := descOf (s.rdN (src i) 16)
      unitCmd s 0 0x90 = some c ∧ c.waits = 0 ∧ transOfQ s 0 = false ∧ s.replay = none ∧ s.poison = [] ∧ s.badLines = []
        ∧ s.chans = [] ∧ cf raw 20 0 32 = 1 ∧ cf raw 16 0 1 = op
        ∧ (∀ i, i < cf raw 20 0 32 → (d i).ok = true ∧ (d i).sp = false ∧ fmtBase (d i).fmt ≠ 0 ∧ (cf raw 16 0 1 = 1 ∨ (d i).dense = true)
          ∧ (d i).size ≤ ds ∧ inMain (src i) ((d i).size + 128) ∧ apart (src i) 16 dst (ds * cf raw 20 0 32))
        ∧ inMain dst (ds * cf raw 20 0 32)) := ⟨by decide +kernel, by decide +kernel, by decide +kernel, by decide +kernel⟩

/-- XFER of 8 bytes that overlap their destination; SEEDS_SET; a stream with one unacknowledged COLL frame, and none. -/
theorem test_wit_XferAndSeeds :
    (let c := cmdOf 0xC0 [(24, 0, 0x1000), (32, 0, 0x1004), (40, 0, 8)];
      unitCmd (atWork c) 0 0xC0 = some c ∧ 0x1000 / 2 ^ 43 = (atWork c).me ∧ plainMem (atWork c) 0 0x1000 8 ∧ plainMem (atWork c) 0 0x1004 8)
    ∧ atRetire (atWork (cmdOf 0xC8)) 0 0xC8 = some (cmdOf 0xC8) ∧ cmplFull (atWork (cmdOf 0xC8)) 0 = false
    ∧ (let s : State := { up with colAck := [(8191, (1, 5))] }
      look s.colAck 8191 = some (1, 5) ∧ s.fatal = false) ∧ look up.colAck 8191 = none :=
  ⟨⟨by decide +kernel, by decide +kernel, plainMem_of (by decide +kernel), plainMem_of (by decide +kernel)⟩, by decide +kernel,
    by decide +kernel, by decide +kernel, by decide +kernel⟩

/-- Each collective in a group of this device alone: 1 element, or 4 bytes to itself, or one table entry of 8 bytes. -/
def colOf (opc : Nat) : Cmd :=
  if opc = 0xC4 then cmdOf 0xC4 [(24, 0, 0x4800), (32, 0, 0x2000), (40, 0, 0x3000), (48, 0, 4), (56, 0, 0x5000)]
  else if opc = 0xC7 then cmdOf 0xC7 [(24, 0, 0x4000), (32, 0, 1)]
  else if opc ≤ 0xC2 then cmdOf opc [(24, 0, 1), (32, 0, 0x2000), (40, 0, 0x3000), (48, 0, 0x6000)]
  else cmdOf opc [(24, 0, 1), (32, 0, 0x2000), (40, 0, 0x3000)]
def sCol (opc : Nat) : State :=
  atWork (colOf opc) [(0, 64, group), (0x4000, 32, 0x2000 * 2 ^ 64 + 0x3000 * 2 ^ 128 + 8 * 2 ^ 192), (0x4800, 4, 4)]

/-- A queue that cannot work; and each collective with its operands in place. -/
theorem test_wit_Collectives :
    unitUp (up.set FLT_STAT_FATAL 1) 0 = false
    ∧ (∀ opc ∈ [0xC1, 0xC2, 0xC3, 0xC4, 0xC5, 0xC6, 0xC7],
      let s := sCol opc
      let c := colOf opc
      let raw := c.raw.toNat
      let ga := grpAddr s (cf raw 16 0 6)
      let g := s.rdN ga 64
      unitUp s 0 = true ∧ (s.q 0).started = [c] ∧ c.phase = .ready ∧ c.waits = 0 ∧ c.stage = 0 ∧ opcOf raw = opc
      ∧ transOfQ s 0 = false ∧ s.replay = none ∧ s.poison = [] ∧ s.badLines = [] ∧ s.chans = []
      ∧ inMain ga 64 ∧ bits g 0 14 = 1 ∧ bits g 16 13 = 0 ∧ g.testBit 32 = true ∧ bits g 48 14 = 0 ∧ g.testBit 33 = true
      ∧ bits g 14 2 = 0 ∧ bits g 29 3 = 0 ∧ bits g 34 6 = 0 ∧ bits g 44 4 = 0 ∧ bits g 62 2 = 0 ∧ bits g 107 21 = 0
      ∧ bits g 171 21 = 0 ∧ bits g 224 288 = 0 ∧ inMain (bits g 64 43) 2)
    ∧ (∀ opc ∈ [0xC1, 0xC2, 0xC3, 0xC5, 0xC6], let raw := (colOf opc).raw.toNat
      cf raw 24 0 32 = 1 ∧ cf raw 28 0 13 = 0 ∧ cf raw 30 0 8 = 0 ∧ cf raw 32 0 43 = 0x2000 ∧ cf raw 40 0 43 = 0x3000 ∧ cf raw 17 0 4 = 0
        ∧ (opc ≤ 0xC2 → cf raw 48 0 43 = 0x6000 ∧ redRefused raw (colOf opc).bnd = false))
    ∧ (let s := sCol 0xC4
      let raw := (colOf 0xC4).raw.toNat
      apart (cf raw 24 0 43) 4 (grpAddr s 0 + 24) 4 ∧ s.rdN (cf raw 24 0 43) 4 ≤ cf raw 48 0 32 ∧ inMain (cf raw 56 0 43) 4)
    ∧ (let s := sCol 0xC7
      let raw := (colOf 0xC7).raw.toNat
      let ents := (upto (cf raw 32 0 32)).map fun i => permEnt (s.rdN (cf raw 24 0 43 + 32 * i) 32)
      reservedOk raw ((bodyFields 0xC7).getD []) = true ∧ apart (cf raw 24 0 43) (32 * cf raw 32 0 32) (grpAddr s 0 + 24) 4
        ∧ permClash ents = false ∧ ents ≠ []
        ∧ (∀ e ∈ ents, e.ok = true ∧ e.srank = 0 ∧ e.drank = 0 ∧ inMain e.saddr e.len ∧ inMain e.daddr e.len)) := by
  decide +kernel

/-! Frames: ports in a state, and frames sealed as a neighbour with the same key would send them. -/

/-- Port 0 in state `st`. -/
def portIn (st : Nat) (s : State := up) : State := s.set LNK_STAT_STATE st 0

/-- The powered device as device 3 of a world whose bellwether is device 5, with port 0 UP. -/
def linked (s : State := up) : State :=
  portIn 4 (((s.set WD_STAT_DONE 1).set WD_SELF_DEVICE 3).set WD_SELF_BELL_DEV 5)

/-- An extended frame of type `ty` from device 5 to device 3, with `n` bytes that begin as `d`. -/
def frame (ty n : Nat) (d : List Nat := []) (addr : Nat := 0) : RxFrame :=
  { frame0 with ext := true, type := ty, len := n, dst := 3, src := 5, addr := addr, path := 2 ^ 48 - 1, rpath := 2 ^ 48 - 1,
                payload := (d ++ List.replicate (n - d.length) 0).map fun b => BitVec.ofNat 8 b }

/-- The carried payload of a clear one, for the first frame that port 0 of `s` receives. -/
def carried (s : State) (f : RxFrame) : List Byte :=
  if inClear f.type then f.payload else gcmCrypt (keyBytes (s.port 0).rxKey) (frameNonce f.type 0) f.payload

/-- The frame with its payload encrypted, its tag and its CRC. -/
def sealFor (s : State) (f : RxFrame) : RxFrame :=
  let p := carried s f
  let t := frameTag f.ext f.type 0 (s.port 0).rxKey (rxHeader f) p
  { f with payload := p, tag := t, crc := frameCrc f.ext 0 s.num (rxHeader f ++ p ++ t) }

theorem carried_length (s : State) (f : RxFrame) : (carried s f).length = f.payload.length := by
  unfold carried
  split
  · rfl
  · exact gcmCrypt_length (beBytes_length 32 _) _ _

theorem open_sealFor (s : State) (f : RxFrame) : openFrame (sealFor s f) 0 (s.port 0).rxKey = some f.payload := by
  have hh : rxHeader (sealFor s f) = rxHeader f := rfl
  unfold openFrame
  rw [hh]
  simp only [sealFor, carried]
  split_ifs <;> simp_all [gcmCrypt_twice (beBytes_length 32 _), keyBytes]

theorem crc_sealFor (s : State) (f : RxFrame) : crcOk s (sealFor s f) 0 = true := by
  simp only [crcOk, sealFor, rxHeader, beq_self_eq_true]

theorem fields_sealFor (s : State) (f : RxFrame) : fieldsOk (sealFor s f) = fieldsOk f := by
  simp only [fieldsOk, sealFor, carried_length]
  rfl

/-- The first frame at port 0 that passes its checks but for the seal. -/
def fitData (s : State) (f : RxFrame) : Bool :=
  f.port == 0 && portsUp s && carriesData s f && s.power.rest.isNone && f.fecOk && f.lseq == 0 && (s.port 0).rxLseq == 0
    && (f.ext || f.alive == lookD (s.port 0).rxAlive (vcOf f.type) 0) && f.kep == (s.port 0).rxKep && fieldsOk f && !rxByPath f

theorem takeData_sealFor {s : State} {f : RxFrame} (h : fitData s f = true) :
    takeData s (sealFor s f) = (some f.payload, deliver s (sealFor s f)) := by
  simp only [fitData, Bool.and_eq_true, beq_iff_eq, Bool.not_eq_true', Option.isNone_iff_eq_none] at h
  obtain ⟨⟨⟨⟨⟨⟨⟨⟨⟨⟨h1, h2⟩, h3⟩, h4⟩, h5⟩, h6⟩, h7⟩, h8⟩, h9⟩, h10⟩, h11⟩ := h
  have c : carriesData s (sealFor s f) = true := h3
  have hp : (sealFor s f).port = 0 := h1
  have hl : (sealFor s f).lseq = 0 := h6
  have hf : (sealFor s f).fecOk = true := h5
  have hk : (sealFor s f).kep = (s.port 0).rxKep := h9
  have hw : frameWakes s = s := by simp [frameWakes, h4]
  have ha : (!(sealFor s f).ext && (sealFor s f).alive != lookD (s.port 0).rxAlive (vcOf (sealFor s f).type) 0) = false := by
    have : ((sealFor s f).ext || (sealFor s f).alive == lookD (s.port 0).rxAlive (vcOf (sealFor s f).type) 0) = true := h8
    cases h : (sealFor s f).ext <;> simp_all
  have hb : rxByPath (sealFor s f) = false := h11
  have he : extend16 0 0 = 0 := by decide
  unfold takeData
  simp [hp, h2, c, hw, hl, h7, he, hf, crc_sealFor, hk, open_sealFor, ha, fields_sealFor, h10, hb]

/-- It is, besides, for this device and the next of its stream. -/
def fit (s : State) (f : RxFrame) : Bool :=
  fitData s f && f.dst == (deliver s (sealFor s f)).num
    && (f.eseq + 65536 - lookD (deliver s (sealFor s f)).link.rx (f.src * 4 + vcOf f.type) 0) % 65536 == 0

/-- The state in which it is taken. -/
def takenBy (s : State) (f : RxFrame) : State :=
  let r := deliver s (sealFor s f)
  { r with link := { r.link with
    rx := ins r.link.rx (f.src * 4 + vcOf f.type) ((lookD r.link.rx (f.src * 4 + vcOf f.type) 0 + 1) % 65536) } }

/-- What `fit` checks: the sealed frame arrives, and is taken in `takenBy s f`. -/
theorem arrives_of_fit {s : State} {f : RxFrame} (h : fit s f = true) :
    arrives s (sealFor s f) f.type f.payload (takenBy s f) := by
  simp only [fit, Bool.and_eq_true, beq_iff_eq] at h
  obtain ⟨⟨h1, h2⟩, h3⟩ := h
  have hb : rxByPath (sealFor s f) = false := by
    simp only [fitData, Bool.and_eq_true, Bool.not_eq_true'] at h1
    exact h1.2
  exact ⟨rfl, hb, _, takeData_sealFor h1, h2, h3, rfl⟩

/-- A VC3 frame at port 0 that passes its checks but for the seal. -/
def fitCtl (s : State) (f : RxFrame) (type : Nat) : Bool :=
  f.port == 0 && portsUp s && (if inClear type then portState s 0 == 2 || portState s 0 == 4 || portState s 0 == 3
      else portState s 0 == 3 || portState s 0 == 4) && f.type == type && s.power.rest.isNone && f.fecOk && f.lseq == 0
    && (s.port 0).rxCtl == 0 && f.kep == (s.port 0).rxKep && fieldsOk f

/-- The state in which it is taken. -/
def ctlBy (s : State) (f : RxFrame) : State :=
  traceFrame (s.setPort 0 { (s.port 0) with rxCtl := 1 }) 0 f.type f.len f.dst f.src f.addr f.eseq 1

theorem takeCtl_sealFor {s : State} {f : RxFrame} {type : Nat} (h : fitCtl s f type = true) :
    takeCtl s (sealFor s f) type = (some f.payload, ctlBy s f) := by
  simp only [fitCtl, Bool.and_eq_true, beq_iff_eq, Option.isNone_iff_eq_none] at h
  obtain ⟨⟨⟨⟨⟨⟨⟨⟨⟨h1, h2⟩, h3⟩, h4⟩, h5⟩, h6⟩, h7⟩, h8⟩, h9⟩, h10⟩ := h
  have hp : (sealFor s f).port = 0 := h1
  have hl : (sealFor s f).lseq = 0 := h7
  have hf : (sealFor s f).fecOk = true := h6
  have ht : (sealFor s f).type = type := h4
  have hk : (sealFor s f).kep = (s.port 0).rxKep := h9
  have hw : frameWakes s = s := by simp [frameWakes, h5]
  have he : extend16 0 0 = 0 := by decide
  unfold takeCtl
  simp [hp, h2, h3, ht, hw, hl, h8, he, hf, crc_sealFor, hk, open_sealFor, fields_sealFor, h10, ctlBy, h4]
  rfl

/-! The trough protocol. -/

/-- A powered device of one trough, with the message `m` waiting. -/
def told (m : TroughMsg) : State := { ((up.set TRG_HOME0_PONDS 1).set TRG_HOME1_PONDS 0) with tmsgs := [m] }

theorem home_is_0 (s : State) (k : Nat) (h : troughHomes s = [0]) : homeOf s k = 0 := by
  simp [homeOf, h, listGet, Nat.mod_one]

/-- The stage of `msg0`, and a slot of it. -/
def tag0 : Nat := tagOf msg0
def slot0 : TEntry := ⟨1, some tag0, zeroW, winZero, false, 1⟩

/-- A message to a lulled pond; a contribution to its staged slot; an EMAX where the trough has 1 MiB and no slot; ASEND,
EFETCH and ESEND of another device, refused and applied. -/
theorem test_wit_TroughContributions :
    (let s := (told msg0).setPond 0 { (up.pond 0) with lull := true };
      isWaiting s msg0 = true ∧ msg0.dstDev = s.me ∧ msg0.ack = false ∧ msg0.kind = .add ∧ homeReady s msg0.dst = false)
    ∧ (let s := (told msg0).setTrough 0 { (up.trough 0) with slots := [(3, slot0)] };
      isWaiting s msg0 = true ∧ msg0.dstDev = s.me ∧ homeReady s 0 = true ∧ findEnt (s.trough 0).slots 1 (some (tagOf msg0)) = some (3, slot0)
        ∧ look (s.trough 0).slots 3 = some slot0 ∧ ueRange s (slotPa s 0 3) 512 = false ∧ slot0.w.length = 32)
    ∧ (let m := { msg0 with kind := .emax }
      let s := (told m).set SLAB_STAT_TRG_NOW 1 0;
      isWaiting s m = true ∧ m.dstDev = s.me ∧ homeReady s 0 = true ∧ trgNow s 0 ≠ 0 ∧ (s.trough 0).slots = [] ∧ (s.trough 0).recs = [])
    ∧ (let s := (told msg0).setTrough 0 { (up.trough 0) with slots := [(3, { slot0 with tag := none, w := [1], e := 5 })] };
      troughHomes s = [0] ∧ homeReady s 0 = true
        ∧ (∀ k ∈ ([.asend, .efetch, .esend] : List TroughKind), fromAfar s { msg0 with kind := k, srcDev := 1, dev := 1 } = true)
        ∧ (0 : Nat) ≠ committedE (s.trough 0) 1 ∧ expMax (committedE (s.trough 0) 1) 9 ≠ committedE (s.trough 0) 1
        ∧ keyNonzero (s.trough 0) 1 = true ∧ expMax (committedE (s.trough 0) 1) 5 = committedE (s.trough 0) 1
        ∧ findEnt (s.trough 0).slots 1 none = some (3, { slot0 with tag := none, w := [1], e := 5 })
        ∧ ueRange s (slotPa s 0 3) 512 = false) := by decide +kernel

/-- PREPARE with the count it expects, without a spill area, with another count, and with a window under another exponent; COMMIT and ABORT of a stage that is
live, and COMMIT of one that is not; acknowledgements of a commit and a stage, the last and one before. -/
theorem test_wit_StageEnds :
    let at_ (k : TroughKind) (x : TroughSt) := (told { msg0 with kind := k, count := 1 }).setTrough 0 x
    let staged : TroughSt := { (up.trough 0) with slots := [(3, slot0)], applied := [(tag0, 1)] }
    let m (k : TroughKind) : TroughMsg := { msg0 with kind := k, count := 1 }
    (∀ k ∈ ([.prepare, .commit, .abort] : List TroughKind), isWaiting (at_ k staged) (m k) = true ∧ (m k).dstDev = (at_ k staged).me
      ∧ (m k).srcDev = (at_ k staged).me ∧ (m k).dst < 96 ∧ homeReady (at_ k staged) 0 = true ∧ tagOf (m k) = tag0)
    ∧ stageFits staged tag0 = true
    ∧ stageFits { staged with slots := (1, { slot0 with tag := none, e := 5 }) :: staged.slots } tag0 = false
    ∧ stageLive staged tag0 = true ∧ stageLive (up.trough 0) tag0 = false ∧ lookD staged.applied tag0 0 = 1
    ∧ lookD (up.trough 0).applied tag0 0 ≠ 1
    ∧ spillFree (at_ .prepare staged) 0 { staged with resv := del staged.resv tag0 }
      < countOf (fun ie : Nat × TEntry => ie.2.tag == some tag0) (staged.slots ++ staged.recs)
    ∧ countOf (fun ie : Nat × TEntry => ie.2.tag == some tag0) (staged.slots ++ staged.recs)
      ≤ spillFree ((at_ .prepare staged).set TRG_SPILL_LOG2N 10 0) 0 { staged with resv := del staged.resv tag0 }
    ∧ (staged.slots.map Prod.fst).Pairwise (· < ·) ∧ (staged.recs.map Prod.fst).Pairwise (· < ·)
    ∧ (∀ x ∈ [(4, 1), (2, 1), (4, 2)], let c : Cmd := { cmdOf 0x81 with phase := .running, stage := x.1, waits := x.2 }
      let a : TroughMsg := { msg0 with ack := true, ok := true, seq := 1 }
      let s : State := { withCmd 2050 c with tmsgs := [a] }
      isWaiting s a = true ∧ a.dstDev = s.me ∧ a.srcDev = s.me ∧ a.dev = s.me ∧ running s = true ∧ s.findCmd 0 1 = some c
        ∧ c.fin.getD 0 = 0) := by decide +kernel

/-- A trough of no threshold below its one slot; one whose threshold 0 its one slot passes; windows ended with each count. -/
theorem test_wit_TroughUpkeep :
    let v : TEntry := { slot0 with tag := none }
    let s := (up.setTrough 0 { (up.trough 0) with slots := [(3, v)] }).set TRG_SPILL_LOG2N 10 0
    let x := s.trough 0
    (up.trough 0).slots.length ≤ thetaOf up (up.trough 0) * trgNow up 0 * 128
    ∧ homeReady s 0 = true ∧ thetaOf s x * trgNow s 0 * 128 < x.slots.length ∧ (∃ ie ∈ x.slots, ie.2.tag = none)
    ∧ (x.slots.map Prod.fst).Pairwise (· < ·) ∧ x.recs = [] ∧ 0 < spillFree s 0 x
    ∧ (up.trough 0).placed < 65536
    ∧ (∀ n ∈ [0, 1024, 1025], 65536 ≤ ((up.setTrough 0 { (up.trough 0) with placed := 65536, crowded := n }).trough 0).placed) := by
  decide +kernel

/-! Frames. -/

/-- A group-0 collective that has started here, of the number that its GDT entry gives next. -/
def collecting : State := ((linked (sAll 0xC1)).setJent 0 { JEnt.init 1 with bound := some 0 })

/-- A chunk, a DONE and an ABORT: new, of a past number, one held already, and one for a started collective; and an
acknowledgement. -/
theorem test_wit_CollFrames :
    let f (fl cseq : Nat) : RxFrame := frame 0xE 16 [4, fl] (64 * cseq)
    (∀ row ∈ [(0, 0), (2, 2), (3, 4)],
      let g := f row.2 0
      fit linked g = true ∧ collKind g.payload = row.1 ∧ (lookD (takenBy linked g).colAck 5 (0, 0)).1 < 63
      ∧ colPast (takenBy linked g) 0 0 = false ∧ (takenBy linked g).colIn = [] ∧ colCmd (takenBy linked g) 0 0 = none
      ∧ fit linked (f row.2 65535) = true ∧ colPast (takenBy linked (f row.2 65535)) 0 65535 = true
      ∧ (let s : State := { linked with colIn := [colMsgOf 5 0 g.payload] }
        fit s g = true ∧ (takenBy s g).colIn.any (sameChunk (colMsgOf 5 0 g.payload)) = true)
      ∧ fit collecting g = true ∧ colPast (takenBy collecting g) 0 0 = false ∧ (takenBy collecting g).colIn = []
      ∧ colCmd (takenBy collecting g) 0 0 = some (0, cAll 0xC1) ∧ running (takenBy collecting g) = true)
    ∧ fit linked (f 1 0) = true ∧ collKind (f 1 0).payload = 1 := by decide +kernel

/-- A frame of each type that fits its fields. -/
def frames : List RxFrame :=
  [frame 4 1, frame 5 0, frame 6 4, frame 7 24, frame 8 8, frame 9 0, frame 0xA 0, frame 0xB 0, frame 0xC 0, frame 0xD 12].map
    fun f => if f.type = 5 then { f with len := 1 } else if f.type = 9 then { f with len := 8 } else f

/-- Command 1 of queue 0 runs and waits for answer 7 to the first frame of type `ty` to device 5; its end is held as `fin`. -/
def asked (ty : Nat) (fin : Option Nat) (who : Requester := .cmd 0 1 7) : State :=
  let s := linked (withCmd 4096 { cmdOf 0xC0 with phase := .running, waits := 1, fin := fin })
  { s with link := { s.link with outst := [⟨who, ⟨ty, true, 8, 0, 0, 0, 5, 3, 0, 0, 0, 2 ^ 48 - 1, 2 ^ 48 - 1, [], none⟩, false⟩] } }

/-- Each type: another type; the reserved type; a port that is down; a frame for another device; one that is ahead of its stream. A WRITE
that has come before. The answers of a running command's one request: data, an acknowledgement, and a SAMPLE_RSP that is
not the last of 5 samples, and one that is the last of none. -/
theorem test_wit_FramesAndAnswers :
    (∀ f ∈ frames, carriesData (portIn 0 linked) f = false ∧ fitData linked { f with dst := 4 } = true
      ∧ (4 : Nat) ≠ (deliver linked (sealFor linked { f with dst := 4 })).num ∧ fitData linked { f with eseq := 1 } = true
      ∧ f.dst = (deliver linked (sealFor linked { f with eseq := 1 })).num ∧ 4 ≤ f.type ∧ f.type ≤ 0xD)
    ∧ homeReady linked (requestPond linked (frame 7 24).payload) = true ∧ (frame 0xF 0).type = 0xF
    ∧ frames.map RxFrame.type = [4, 5, 6, 7, 8, 9, 0xA, 0xB, 0xC, 0xD]
    ∧ lookD (deliver linked (sealFor linked (frame 4 1))).link.rx (5 * 4 + vcOf 4) 0 = 0
    ∧ fitData linked { frame 4 1 with eseq := 65535 } = true
    ∧ (∀ x ∈ [(0xC, 5, 8, none), (0xB, 4, 0, some 0)], let s := asked x.2.1 x.2.2.2;
      let f := frame x.1 x.2.2.1
      fit s f = true ∧ ((answeredReq (takenBy s f) f).map (·.who)) = some (.cmd 0 1 7) ∧ bits f.addr 16 8 = 0
        ∧ ((takenBy s f).findCmd 0 1).map (fun c => (c.phase, c.waits, c.fin)) = some (.running, 1, x.2.2.2))
    ∧ (∀ x ∈ [(5, true), (0, false)], let s : State := { asked 7 none (.sampling 2) with samps := [⟨2, 0, 1, 7, 5, 0, []⟩] };
      let f := frame 0xD 16 [0, 0, 0, 0, x.1]
      fit s f = true ∧ ((answeredReq (takenBy s f) f).map (·.who)) = some (.sampling 2)
        ∧ (sampReply (takenBy s f) 2 0 f.payload).samps.any (fun r => r.id == 2) = x.2) := by decide +kernel

/-- Nothing in memory is poisoned or retired where none is. -/
theorem sound_of {s : State} (h : (s.poison == [] && s.chans == []) = true) (b : Nat) :
    poisonedAt s b = false ∧ retiredAt s b = false := by
  simp only [Bool.and_eq_true, beq_iff_eq] at h
  constructor
  · simp [poisonedAt, h.1]
  · simp [retiredAt, State.chan, lookD, look, h.2, ChanSt.init]

/-- The bellwether itself, with the host window open. -/
def bell : State :=
  let s := (linked.set WD_SELF_IS_BELL 1).set HB_HOSTWIN_V 1
  { s with host := { s.host with busMaster := true, msixEn := true } }

/-- A register access is answered. -/
def regOk (x : RegAns × State) : Bool := match x.1 with | .ok _ => true | _ => false

/-- A WRITE to main memory, and to the host window closed and open; a READ_REQ of sound main memory and of
bytes that cannot be read; SIGNAL; SAMPLE_REQ to a lulled pond, refused and served; a read of a held QTAB_TAIL; MGMT_WR and MGMT_RD of HOT_CFG by the bellwether and
by another device; IRQ at a device that is not the bellwether, and of a masked and an unmasked vector. -/
theorem test_wit_FrameRequests :
    (let f := frame 4 2 [1, 2] 0x1000;
      fit linked f = true ∧ f.payload ≠ [] ∧ f.addr + f.payload.length ≤ 0x10E00000000
        ∧ ((takenBy linked f).poison == [] && (takenBy linked f).chans == []) = true)
    ∧ (let f := frame 4 2 [1, 2] (2 ^ 42);
      fit linked f = true ∧ frameAt (takenBy linked f) f.addr 2 = .nowhere
      ∧ fit bell f = true ∧ frameAt (takenBy bell f) f.addr 2 = .host)
    ∧ (let f := { frame 5 0 [] 0x1000 with len := 8 }
      let bad : State := { linked with poison := [16] };
      fit linked f = true ∧ frameAt (takenBy linked f) f.addr 8 = .here ∧ ueRange (takenBy linked f) f.addr 8 = false
      ∧ fit bad f = true ∧ frameAt (takenBy bad f) f.addr 8 = .here ∧ ueRange (takenBy bad f) f.addr 8 = true)
    ∧ (let f := frame 6 4 [1] 255;
      fit linked f = true ∧ leNat f.payload ≠ 0 ∧ (takenBy linked f).waitersOf (semOffFar f.addr) = [])
    ∧ (let f := frame 7 24
      let s := (poke [(0, 64, 1 + 0x7000 * 2 ^ 64 + 0x5000 * 2 ^ 128 + 0x1000 * 2 ^ 320 + 2 ^ 384 + 2 ^ 416 + 2 ^ 448),
        (0x1000, 16, 3 * 2 ^ 40)] linked).set GSV_REMOTE_T 0;
      let late : State := linked.setPond 0 { (linked.pond 0) with lull := true };
      homeReady linked (requestPond linked f.payload) = true ∧ homeReady s (requestPond s f.payload) = true
      ∧ fitData late f = true ∧ f.dst = late.num ∧ homeReady late (requestPond late f.payload) = false
      ∧ fit linked f = true ∧ (serveSample (takenBy linked f) f.payload).2.1 = []
      ∧ fit s f = true ∧ (serveSample (takenBy s f) f.payload).2.1 ≠ [])
    ∧ (∀ row ∈ [(8, 8), (9, 0)], ∀ src ∈ [5, 6],
      let f := { frame row.1 row.2 [] (0x70000000000 + HOT_CFG.off) with len := 8, src := src };
      fit linked f = true ∧ areaOf f.addr = .config HOT_CFG.off ∧ mgmtAdmits (takenBy linked f) src = (src == 5)
      ∧ regOk (writeReg (takenBy linked f) HOT_CFG.off 8 0) = true ∧ regOk (readReg (takenBy linked f) HOT_CFG.off 8) = true)
    ∧ (let f := { frame 9 0 [] (0x70000000000 + QTAB_TAIL.off 0 0) with len := 8 }
      let s : State := { linked with fault := { linked.fault with held := [(0, 5)] } };
      fit s f = true ∧ areaOf f.addr = .config (QTAB_TAIL.off 0 0) ∧ mgmtAdmits (takenBy s f) 5 = true
        ∧ tailHeld (takenBy s f) (QTAB_TAIL.off 0 0) = true ∧ tailHeld linked HOT_CFG.off = false)
    ∧ (let f := frame 0xA 0
      let open_ : State := { bell with host := { bell.host with msix := [(3, 0)] } };
      fit linked f = true ∧ (takenBy linked f).isBell = false ∧ fit bell f = true ∧ (takenBy bell f).isBell = true
      ∧ msixMasked (takenBy bell f) 0 = true ∧ fit open_ f = true ∧ (takenBy open_ f).isBell = true
      ∧ msixMasked (takenBy open_ f) 0 = false) := by decide +kernel

/-- Control frames from the neighbour at port 0, in DISCOVER after our IDENT: a key exchange in which both ends have the
private keys 1, and the neighbour signs with the number 1. -/
def keying : State :=
  let s := portIn 2 (((linked.set LNK_CFG_PEER_V 1 0).set LNK_CFG_PEER_DEV 5 0).set LNK_STAT_NBR_DEV 5 0)
  s.setPort 0 { (s.port 0) with eph := some (1, 7), peerIdent := leBytes 4 5 ++ pubKey 1 }

/-- The neighbour's KEYX: its ephemeral key 1, a nonce of zeros, and its signature. -/
def keyxFrame (good : Bool) : RxFrame :=
  let eph := pubKey 1
  let dig := keyxDigest (identPayload keying 0) (leBytes 4 5 ++ pubKey 1) eph eph (beBytes 32 7) (beBytes 32 0)
  { frame 2 160 with payload := eph ++ beBytes 32 0 ++ (if good then ecdsaSign 1 1 dig else List.replicate 64 0) }

/-- Port 0 down; CTRL; IDENT with and without a random source; KEYX outside an exchange and with a bad signature; TIME
with no bytes, one byte, and as an answer. The clause of a good signature is `test_wit_ControlFrames_keyx`. -/
theorem test_wit_ControlFrames :
    (∀ k ∈ [0, 1, 2, 3], (takeCtl up (frame k 0) k).1 = none)
    ∧ fitCtl linked (frame 0 16) 0 = true ∧ (ctlBy linked (frame 0 16)).link.waitq = []
    ∧ byteN (frame 0 16).payload 2 1 % 2 = 0
    ∧ (∀ h ∈ [0, 1], let s := (portIn 2 linked).set RNG_STAT_HALTED h;
      fitCtl s (frame 1 68) 1 = true ∧ portState (ctlBy s (frame 1 68)) 0 = 2 ∧ ((ctlBy s (frame 1 68)).port 0).peerKeyx = []
        ∧ (ctlBy s (frame 1 68)).flag RNG_STAT_HALTED = (h == 1))
    ∧ fitCtl (portIn 2 linked) (frame 2 160) 2 = true ∧ ((ctlBy (portIn 2 linked) (frame 2 160)).port 0).eph = none
    ∧ fitCtl keying (keyxFrame false) 2 = true ∧ ((ctlBy keying (keyxFrame false)).port 0).eph = some (1, 7)
    ∧ ecdsaVerify (pubKey 1) (keyxDigest (identPayload (ctlBy keying (keyxFrame false)) 0) (leBytes 4 5 ++ pubKey 1) (pubKey 1)
      (pubKey 1) (beBytes 32 7) (beBytes 32 0)) (((keyxFrame false).payload.drop 96).take 64) = false
    ∧ (∀ n ∈ [0, 1], fitCtl linked (frame 3 n) 3 = true)
    ∧ (let s : State := { (linked.set TIME_CTRL_UP_PORT 0) with time := { linked.time with waiting := true, exch := some (1, 2, 3) } };
      let t := ctlBy s (frame 3 16)
      fitCtl s (frame 3 16) 3 = true ∧ t.time.waiting = true ∧ 0 = t.get TIME_CTRL_UP_PORT ∧ t.flag TIME_CTRL_MASTER = false
        ∧ t.time.exch = some (1, 2, 3)) := by decide +kernel

/-- A good signature of the neighbour's. -/
theorem test_wit_ControlFrames_keyx :
    let f := keyxFrame true
    let t := ctlBy keying f
    let x := t.port 0
    let d := f.payload
    let dig := keyxDigest (identPayload t 0) x.peerIdent (pubKey 1) (d.take 64) (beBytes 32 7) ((d.drop 64).take 32)
    fitCtl keying f 2 = true ∧ x.eph = some (1, 7) ∧ ecdsaVerify (identKey x.peerIdent) dig ((d.drop 96).take 64) = true
    ∧ ecdh 1 (d.take 64) ≠ none ∧ portState t 0 = 2 ∧ t.flag LNK_CFG_PEER_V 0 = true ∧ peerMatches t 0 = true := by decide +kernel

/-! Timers of the links; power, rest and time. -/

/-- Port 0 UP with the fields that `f` gives it. -/
def portWith (f : PortSt → PortSt) : State := linked.setPort 0 (f (linked.port 0))

/-- A frame to device 5 in a replay buffer. -/
def sent : TxFrame := ⟨4, true, 8, 0, 0, 0, 5, 3, 0, 0, 0, 2 ^ 48 - 1, 2 ^ 48 - 1, [], none⟩

/-- The states of a port, with its lanes and checks at their bounds. -/
theorem test_wit_LinkTimers :
    (∀ st ∈ [0, 1, 2, 3, 4, 5], portState (portIn st) 0 = st)
    ∧ laneCount 0 < minLanes up 0 ∧ minLanes up 0 ≤ laneCount 15
    ∧ (linked.get LNK_STAT_LANES 0).testBit 3 = false ∧ lookD (linked.port 0).laneChecks 3 0 + 1 < 10
    ∧ 10 ≤ lookD ((portWith fun x => { x with laneChecks := [(3, 9)] }).port 0).laneChecks 3 0 + 1
    ∧ portState (portWith fun x => { x with laneChecks := [(3, 9)] }) 0 = 4
    ∧ (let s := up.set LNK_CFG_EN 1 0;
      portState s 0 = 0 ∧ s.flag LNK_CFG_EN 0 = true ∧ s.pins.por = true ∧ s.fatal = false)
    ∧ (portIn 4).link.ports = [] ∧ (PortSt.init.eph = none ∧ PortSt.init.replay = [])
    ∧ (let s := portWith fun x => { x with txLseq := 2 ^ 31, peerIdent := [1] };
      portState s 0 = 4 ∧ 2 ^ 31 ≤ (s.port 0).txLseq ∧ (s.port 0).nextTx = none ∧ (s.port 0).eph = none
        ∧ (s.port 0).peerIdent ≠ [] ∧ s.flag RNG_STAT_HALTED = false)
    ∧ (∀ n ∈ [7, 8], let s := portWith fun x => { x with replay := [sent], resends := n };
      portState s 0 = 4 ∧ (s.port 0).replay ≠ [] ∧ (s.port 0).resends = n)
    ∧ (let s := portWith fun x => { x with ackDue := true };
      portState s 0 = 4 ∧ (s.port 0).ackDue = true)
    ∧ (PortSt.init.ackDue = false ∧ PortSt.init.freed = []) := by decide +kernel

/-- Requests and trough messages to device 5 in either state of their timers; training that fails with half rate allowed
and not. -/
theorem test_wit_LinkTimers_requests :
    (∀ b ∈ [false, true], let s : State := { linked with link := { linked.link with outst := [⟨.posted, sent, b⟩] } };
      portsUp s = true ∧ streamKey sent / 4 = 5 ∧ streamKey sent % 4 ≠ 4
        ∧ (s.link.outst.find? fun o => streamKey o.frame == 5 * 4 + streamKey sent % 4 && o.frame.eseq == 0) = some ⟨.posted, sent, b⟩)
    ∧ (up.link.outst.find? fun o => streamKey o.frame == 5 * 4 && o.frame.eseq == 0) = none
    ∧ (∀ r ∈ [false, true], let m : TroughMsg := { msg0 with dstDev := 5 }
      let s : State := { linked with tmsgs := [msg0, m], tresent := if r then [m] else [] };
      portsUp s = true ∧ (s.tmsgs.filter fun m => !m.ack && m.dstDev == 5 && 5 != s.me)[0]? = some m
        ∧ (s.tmsgs.filter fun m => !m.ack && m.dstDev == 5 && 5 != s.me)[1]? = none ∧ decide (m ∈ s.tresent) = r)
    ∧ (∀ st ∈ [1, 5], ∀ h ∈ [0, 1], let s := (portIn st).set LNK_CFG_HALF_OK h 0;
      portState s 0 = st ∧ s.flag LNK_CFG_HALF_OK 0 = (h == 1) ∧ laneCount 0 < minLanes s 0) := by decide +kernel

/-- A REST command in queue 0, and the rest that it has begun. -/
def cRest (allow next : Nat) (ph : CPhase := .running) : Cmd :=
  { cmdOf 0xE0 [(24, 0, allow), (16, 0, next)] with phase := ph }

/-- The device at `ph` of a rest in the state `k`. -/
def resting (ph : RestPhase) (k : Nat) (allow : Nat := 7) (next : Nat := 0) : State :=
  let s := withCmd (conOf 0xE0) (cRest allow next);
  { s with power := { s.power with rest := some ⟨0, 1, ph, k, 255, 0⟩ } }

/-- The device on; in Drowse with a sensor hot on the sample before; telemetry enabled; each rail below, in and above its
range. -/
theorem test_wit_SensorsAndVoltage :
    up.pins.por = true ∧ up.fatal = false ∧ restIn up (2 ≤ ·) = false ∧ up.power.rest = none ∧ up.power.monExcl = []
    ∧ up.power.monDiffer = [] ∧ up.power.phaseDiffer = [] ∧ up.flag TEL_CFG_EN = false
    ∧ (([(0, 400), (1151, -16)] : List (Nat × Int)).map Prod.fst).Nodup
    ∧ (([(0, 3000), (767, 0)] : List (Nat × Nat)).map Prod.fst).Nodup
    ∧ (let s := (resting .resting 2).set RAIL_STAT_IN_RANGE 2
      let s : State := { s with power := { s.power with hot := [1151] } };
      (s.get RAIL_STAT_IN_RANGE).testBit 1 = true ∧
      s.pins.por = true ∧ s.fatal = false ∧ restIn s (2 ≤ ·) = true ∧ s.pins.thermtrip = false ∧ sensorGood s 1151 = true
        ∧ 1151 ∈ s.power.hot)
    ∧ (∀ k, k < 9 → 0 < (railRange k).1 ∧ (railRange k).1 ≤ (railRange k).2) ∧ 659 < (railRange 1).1
    ∧ (let s := up.set TEL_CFG_EN 1;
      s.get PWR_STAT_STATE = 0 ∧ s.flag TEL_CFG_EN = true ∧ s.get TEL_BASE_BASE = 0 ∧ s.get TEL_HEAD_SEQ = 0 ∧ s.me = 0
        ∧ (s.poison == [] && s.chans == []) = true) := by decide +kernel

/-- A pond awake and quiet, live, lulled, and waiting for its supply; REST ready, quiescing with a state allowed, with none
and with another command started, entering each state, at rest with a threshold that crosses and one that does not, and
waking. -/
theorem test_wit_LullAndRest :
    (let s := up.set PWR_POND_LULL_US 5;
      running s = true ∧ hubFenced s 95 = false ∧ (s.pond 95).lull = false ∧ (s.pond 95).wakeWait = false
        ∧ s.get PWR_POND_LULL_US ≠ 0 ∧ pondQuiet s 95 = true)
    ∧ pondQuiet (up.setTrough 95 { up.trough 95 with applied := [(0, 1)] }) 95 = false
    ∧ (let s := up.setPond 95 { up.pond 95 with lull := true };
      running s = true ∧ (s.pond 95).lull = true)
    ∧ ((up.setPond 95 { up.pond 95 with wakeWait := true }).pond 95).wakeWait = true ∧ (up.power.rest.any fun r => r.phase == .waking) = false
    ∧ (let c := cRest 7 0 .ready
      let s := withCmd (conOf 0xE0) c;
      readyCmd s 0 0xE0 = some c ∧ s.findCmd 0 c.seq = some c ∧ s.power.rest = none ∧ unitUp s 0 = true)
    ∧ readyCmd up 0 0xE0 = none
    ∧ (∀ x ∈ [(7, 0, true), (0, 0, true), (7, 1, false)],
      let s := if x.2.2 then resting .quiescing 0 x.1 x.2.1
        else (resting .quiescing 0 x.1 x.2.1).setQ 1 { QState.init with started := [cmdOf 0] };
      restCmd s ⟨0, 1, .quiescing, 0, 255, 0⟩ = some (cRest x.1 x.2.1) ∧ s.power.rest = some ⟨0, 1, .quiescing, 0, 255, 0⟩
        ∧ running s = true ∧ (cRest x.1 x.2.1).fx = [] ∧ quiescent s ⟨0, 1, .quiescing, 0, 255, 0⟩ = x.2.2)
    ∧ cf (cRest 7 0).raw.toNat 16 0 64 = 0 ∧ restTarget (cf (cRest 7 0).raw.toNat 24 0 3) none = some 3
    ∧ restTarget (cf (cRest 0 0).raw.toNat 24 0 3) none = none
    ∧ (∀ k ∈ [1, 2, 3], (resting .entering k).power.rest = some ⟨0, 1, .entering, k, 255, 0⟩)
    ∧ (let s := (resting .resting 2 7 9).set PWR_THR_EN 1 31;
      s.power.rest = some ⟨0, 1, .resting, 2, 255, 0⟩ ∧ restCmd s ⟨0, 1, .resting, 2, 255, 0⟩ = some (cRest 7 9)
        ∧ cf (cRest 7 9).raw.toNat 16 0 64 ≠ 0 ∧ (upto 32).find? (thrCrosses s [(0, 5)]) = some 31
        ∧ (upto 32).find? (thrCrosses s [(0, -5)]) = none)
    ∧ (let s := resting .waking 1;
      s.power.rest = some ⟨0, 1, .waking, 1, 255, 0⟩ ∧ restCmd s ⟨0, 1, .waking, 1, 255, 0⟩ = some (cRest 7 0)
        ∧ (cRest 7 0).fx = []) := by decide +kernel

/-- The time as it is after reset; an epoch that waits; master and follower; the upstream port UP and down; edges. -/
theorem test_wit_TimeRows :
    up.pins.por = true ∧ up.time.slew = 0 ∧ up.time.epoch = none ∧ up.time.step = none ∧ up.time.resync = []
    ∧ up.time.since = 0 ∧ (∀ n ∈ [0, 5, 2 ^ 64 - 1], ({ up with time := { up.time with count := n } } : State).time.count < 2 ^ 64)
    ∧ up.flag OBS_CAPTURE_BUSY = false ∧ up.time.count = 0 ∧ State.reset.pins.por = false ∧ up.flag TIME_CTRL_MASTER = false
    ∧ (up.set TIME_CTRL_MASTER 1).flag TIME_CTRL_MASTER = true
    ∧ (∀ st ∈ [0, 4], let s := portIn st (up.set TIME_CTRL_UP_PORT 0);
      s.pins.por = true ∧ s.flag TIME_CTRL_MASTER = false ∧ s.get TIME_CTRL_UP_PORT < 12 ∧ portState s 0 = st)
    ∧ up.time.ppsLast = none ∧ (499999999 + 2 ^ 64 - 0) % 2 ^ 64 < 500000000
    ∧ (let s := (up.set TIME_CTRL_MASTER 1).set TIME_CTRL_PPS_IN_EN 1;
      s.flag TIME_CTRL_MASTER = true ∧ s.flag TIME_CTRL_PPS_IN_EN = true)
    ∧ ((up.set TIME_CTRL_PPS_OUT_EN 1).flag TIME_CTRL_PPS_OUT_EN = true) := by decide +kernel

/-! Holds, the host bridge, and what memory does on its own. -/

/-- A pond not held and held by its supply; a capture idle and busy; a closed counter set, and an offset of none. -/
theorem test_wit_TrimsHoldsObservation :
    (up.pond 95).trims.length = 7 ∧ up.flag POND_PACE_UV_HELD 95 = false
    ∧ (let s := up.set POND_PACE_UV_HELD 1 95;
      s.flag POND_PACE_UV_HELD 95 = true ∧ s.pins.por = true ∧ s.fatal = false ∧ hubFenced s 95 = false ∧ s.fault.recovering = [])
    ∧ (∀ b ∈ [0, 1], (up.set OBS_CAPTURE_BUSY b).flag OBS_CAPTURE_BUSY = (b == 1)) ∧ (2 ^ 63).testBit 63 = true ∧ (2 ^ 63 - 1).testBit 63 = false
    ∧ up.pins.por = true
    ∧ pccKeyOf (PCC_TAG.off 95 15) = some 1535 ∧ pccKeyOf (TPCC_TAG.off 11 3) = some 10047 ∧ pccKeyOf 0 = none
    ∧ (let s : State := { up with pcc := [(1535, { PccSet.init with closed := true })] };
      (s.pccSet 1535).closed = true) := by decide +kernel

/-- The endpoint up and serving, with the boot done. -/
def served (s : State := up) : State :=
  let s := s.set BOOT_STAT_STAGE 9;
  { s with host := { s.host with l0 := true, disabled := false } }

/-- A host-window read of the running command 1 of queue 0. -/
def hreq : HostReq := ⟨0, .cmd 0 1 7, false, 0x40000000000, 8, [], none⟩

/-- The endpoint down and up; an 8-byte write and read of HOT_CFG; the last MSI-X word; a window closed, onto this device,
and onto another; a host-window read of a running command; and the link's states. -/
theorem test_wit_HostBridgeRows :
    pcieServes up = false ∧ pcieUp up = false ∧ pcieServes served = true ∧ pcieUp served = true ∧ served.power.rest = none
    ∧ 9 ≤ served.get BOOT_STAT_STAGE
    ∧ (let o := HOT_CFG.off;
      o < 0x3FF0000 ∧ widthOk o 8 = true ∧ pageListed o = true ∧ pageFenced served o = false ∧ wakePage served o = served
        ∧ regOf o = some (HOT_CFG, 0, 0) ∧ pccKeyOf o = none ∧ tailHeld served o = false)
    ∧ (0x1FFF < 0x2000 ∧ (leBytes 4 1).length = 4)
    ∧ (let a : HostAccess := ⟨true, 2 ^ 40 - 8, 8, leBytes 8 5⟩
      let r : HostAccess := ⟨false, 15 * 2 ^ 36 + 16, 512, []⟩
      let s := served.set HB_WIN_V 1 15
      let t := s.set HB_WIN_DEVICE 1 15;
      a.data.length = a.width ∧ a.off < 2 ^ 40 ∧ a.off / 2 ^ 36 = 15 ∧ r.off / 2 ^ 36 = 15 ∧ served.flag HB_WIN_V 15 = false
      ∧ s.flag HB_WIN_V 15 = true ∧ s.flag HB_WIN_PATH 15 = false ∧ s.get HB_WIN_DEVICE 15 = s.me
      ∧ s.get HB_WIN_BASE 15 * 2 ^ 36 + a.off % 2 ^ 36 + 8 ≤ 0x10E00000000 ∧ (s.poison == [] && s.chans == []) = true
      ∧ t.flag HB_WIN_V 15 = true ∧ t.flag HB_WIN_PATH 15 = false ∧ t.get HB_WIN_DEVICE 15 ≠ t.me
      ∧ t.get HB_WIN_BASE 15 * 2 ^ 36 + r.off % 2 ^ 36 < 0x70000000000)
    ∧ (up.host.reqs.find? fun r => r.id == 5) = none
    ∧ (let c : Cmd := { cmdOf 0xC0 with phase := .running, waits := 1 }
      let s := served (withCmd 4096 c)
      let s : State := { s with host := { s.host with reqs := [hreq] } };
      (s.host.reqs.find? fun x => x.id == hreq.id) = some hreq ∧ s.findCmd 0 1 = some c ∧ c.fin = none ∧ pcieUp s = true
        ∧ noAsks s ∧ opcOf c.raw.toNat ≠ 0x68 ∧ (s.host.reqs.find? fun x => x.id == hreq.id && !x.write) = some hreq)
    ∧ served.host.reqs = [] ∧ served.pins.por = true ∧ served.host.disabled = false ∧ served.flag WD_STAT_DONE = false
    ∧ (let s : State := { up with host := { up.host with disabled := true } };
      s.host.disabled = true) ∧ up.host.l0 = false ∧ served.host.l0 = true := by decide +kernel

/-- Errors of five symbols, which no radius corrects, of one data symbol, and of one address symbol. -/
def five : List (Nat × Nat) := [(0, 1), (1, 2), (2, 4), (3, 8), (4, 16)]
def one : List (Nat × Nat) := [(5, 7)]
def addressed : List (Nat × Nat) := [(136, 1)]

/-- A command's fill of line 32 that has been served, with what it holds. -/
def fill32 (stale : Bool) (d : Option (List Byte)) : Fill := ⟨32, 0, 0, false, stale, true, d, false⟩

/-- A block that is sound, poisoned and retired, read clean, corrected and not decoded; a write to sound and to poisoned
memory; fills stale, poisoned and good, a held pond, and purged fills served and not; windows of prefetches; a pond with a pending change, idle and busy. -/
theorem test_wit_MemoryAndCaches :
    up.flag OBS_CFG_MEM_EN = false ∧ (up.chan (chanOf 0x1000)).probe = none ∧ (up.poison == [] && up.chans == []) = true
    ∧ (lookD up.dirs (chanOf 0x1000 / 8) []).length < 1048576
    ∧ decodeCw (eccRadius up) [] = .clean ∧ decodeCw (eccRadius up) one = .corrected [5]
    ∧ decodeCw (eccRadius up) five = .failed false ∧ decodeCw (eccRadius up) addressed = .failed true
    ∧ (let s : State := { up with poison := [16] };
      poisonedAt s 0x1000 = true ∧ retiredAt s 0x1000 = false ∧ 0x1000 % 256 + 256 ≤ 256 ∧ s.flag OBS_CFG_MEM_EN = false)
    ∧ retiredAt { up with chans := (upto 768).map fun k => (k, { ChanSt.init with retired := [0] }) } 0x1000 = true
    ∧ ((up.pond 0).fills.find? fun f => f.line == 32 && f.served) = none
    ∧ (∀ f ∈ [fill32 true (some []), fill32 false none, fill32 false (some [])],
      let s := (up.set SLAB_STAT_CACHE_NOW 8 0).setPond 0 { up.pond 0 with fills := [f] };
      ((s.pond 0).fills.find? fun f => f.line == 32 && f.served) = some f ∧ cacheNow s 0 ≠ 0 ∧ s.flag POND_PACE_UV_HELD 0 = false)
    ∧ (up.set POND_PACE_UV_HELD 1 0).flag POND_PACE_UV_HELD 0 = true
    ∧ (∀ b ∈ [true, false], let s := up.setPond 0 { up.pond 0 with fills := [⟨32, 0, 0, false, false, b, none, true⟩] };
      (if b then ∀ kx ∈ s.ponds, ∀ f ∈ kx.2.fills, f.purged = true → f.served = true
        else ∃ kx ∈ s.ponds, ∃ f ∈ kx.2.fills, f.purged = true ∧ f.served = false))
    ∧ (up.pond 0).pfIssued < 4096 ∧ 4096 ≤ ((up.setPond 0 { up.pond 0 with pfIssued := 4096 }).pond 0).pfIssued
    ∧ (let s := up.set SLAB_CFG_CACHE_MIB 3 0;
      pondIdle s 0 = true ∧ slabPending s 0 = true)
    ∧ pondIdle (core 0 0 0) 0 = false
    ∧ (∀ b ∈ [0, 1], (up.set MEM_TLBINV_BUSY b).flag MEM_TLBINV_BUSY = (b == 1)) := by decide +kernel

/-- A patrol read with at most the radius' wrong symbols, clean, corrected, and located in an address symbol; a slab word
of a bank fenced and not, of sound sources and bad; a channel without a probe, and probes in either phase, short of reads,
full and aborted, whose centre stays, moves, and would pass its bound. -/
theorem test_wit_ScrubSlabAndProbes :
    (let pa := paOfBlock 95 0;
      pa < 0x10E00000000 ∧ up.flag OBS_CFG_MEM_EN = false ∧ (up.chan (chanOf pa)).probe = none ∧ poisonedAt up pa = false
        ∧ retiredAt up pa = false)
    ∧ (∀ l ∈ [[], one, addressed], realErrors l ≤ eccRadius up)
    ∧ fencedBank up 95 1 = 15 ∧ fencedBank (up.set SLAB_STAT_FENCED1 3 95) 95 1 = 3
    ∧ (24 * 2 ^ 20 - 64) / 64 % 2 = 1 ∧ (24 * 2 ^ 20 - 64) / 128 % 8 = 7 ∧ (3 * 128 + 64) / 64 % 2 = 1 ∧ (3 * 128 + 64) / 128 % 8 = 3
    ∧ up.flag MEM_CAL_EN = true ∧ (up.chan 95).probe = none ∧ (up.set MEM_CAL_EN 0).flag MEM_CAL_EN = false
    ∧ (∀ p ∈ [(⟨3, false, 0, 0, 0, false, 1⟩ : Probe), ⟨3, false, 2 ^ 20, 0, 0, false, 1⟩, ⟨3, false, 0, 0, 0, true, 1⟩,
        ⟨3, true, 2 ^ 20, 0, 0, false, 1⟩, ⟨3, true, 2 ^ 20, 0, 100, false, 1⟩],
      (({ up with chans := [(95, { ChanSt.init with probe := some p })] } : State).chan 95).probe = some p)
    ∧ max 256 (up.get MEM_CAL_WIN) ≤ 2 ^ 20 ∧ up.get MEM_CAL_HYST < 100 ∧ up.get MEM_CAL_MAX_OFF < 255 := by decide +kernel

/-! Faults, snapshots, boot and the sideband. -/

/-- Queue 0 bound to the unit `con`, with no entries. -/
def boundTo (con : Nat) : State := bind con up

/-- A fault before and after; units that are valid, fenced, alone, and beside one that recovers; a matrix core with its
peer; a command stalled and not; a unit that takes its own context and another's; a warm reset before, in and after. -/
theorem test_wit_FaultsAndWarmReset :
    up.pins.por = true ∧ up.fatal = false ∧ up.flag SILT_CTL_FROZEN = false ∧ State.reset.pins.por = false
    ∧ (up.set FLT_STAT_FATAL 1).fatal = true ∧ (up.set FLT_STAT_FATAL 1).pins.por = true
    ∧ hValid 4095 = false ∧ hValid 0 = true ∧ hFenced up 0 = false ∧ hFenced (up.setRg FLT_FGC 1 0) 0 = true
    ∧ (let s : State := { up with fault := { up.fault with recovering := [1] } };
      (s.fault.recovering.any fun u => hPond u == hPond 0) = true ∧ hFenced s 0 = false ∧ s.fatal = false)
    ∧ up.fault.recovering = [] ∧ hValid 383 = true ∧ queuesOf up 383 = []
    ∧ (let h := 1024 + 4 * 95 + 1
      let s := boundTo h;
      hValid h = true ∧ hFenced s h = false ∧ s.fatal = false ∧ s.pins.por = true ∧ s.fault.recovering = []
        ∧ hubFenced s 95 = false ∧ mcFenced s (2 * 95 + (1 - 1)) = false ∧ queuesOf s h = [0] ∧ (s.q 0).started = [])
    ∧ (let s := withCmd 0 (cmd 8);
      consumerOf s 0 = .unit 0 ∧ running s = true ∧ runnerOf s 0 (qHead s 0) = none ∧ (s.q 0).started.any stalled = true)
    ∧ (consumerOf (boundTo 0) 0 = .unit 0 ∧ ((boundTo 0).q 0).started.any stalled = false)
    ∧ consumerOf (boundTo 4107) 0 = .te 11
    ∧ (let s := (boundTo 0).set FLT_SAVE_V 1
      let t : State := s.setQ 0 { QState.init with home := some 1 }
      let u : State := { s with ctxs := [(0, 1)] };
      running s = true ∧ hFenced s 0 = false ∧ contextBusy s 0 = false ∧ s.flag FLT_SAVE_V = true
      ∧ contextBusy t 0 = false ∧ (t.queues.any fun kx => consumerOf t kx.1 == .unit 0 && kx.2.home == some 1) = true
      ∧ t.flag FLT_SAVE_V = true ∧ (look t.ctxs 0).getD 0 = 0 ∧ (look u.ctxs 0).getD 0 = 1 ∧ running t = true
      ∧ running u = true ∧ contextBusy u 0 = false ∧ u.flag FLT_SAVE_V = true)
    ∧ contextBusy (withCmd 0 (cmd 8)) 0 = true
    ∧ up.fault.warm = false ∧ up.queues = [] ∧ up.troughs = [] ∧ (∀ p, p < 96 → up.get UPD_REDO_SIZE p = 0)
    ∧ (let s : State := { up with fault := { up.fault with warm := true } };
      s.fault.warm = true ∧ s.pins.wrst = true ∧ s.fatal = false ∧ s.fault.held = [] ∧ s.fault.heldReads = [])
    ∧ up.pins.wrst = true ∧ (∀ p, p < 96 → up.get POND_VREG_PHASE_OK p = 255) ∧ (up.set POND_VREG_PHASE_OK 7 95).get POND_VREG_PHASE_OK 95 ≠ 255 := by decide +kernel

/-- A snapshot draining these items at DEST 0x1000 of 4 KiB. -/
def draining (items : List SnapItem) (endSent : Bool := false) : State :=
  let s := up.set SNAP_STAT_DRAINING 1;
  { s with snap := { s.snap with items := items, dest := 0x1000, dsize := 4096, endSent := endSent } }

/-- An image at 0 of one section of 16 bytes, whose check value is of configuration `k`, and the end section. -/
def image16 (type id : Nat) (d : List Byte) (k : Nat) : State :=
  poke [(0, 2, type), (2, 2, id), (8, 8, 16), (16, 8, cv (cvCfg up k) d), (32, 16, leNat d), (64, 2, 0xFF)] up

/-- A register pair for HOT_CFG, and a queue section for queue 5. -/
def pair16 : List Byte := pairBytes (0x70000000000 + HOT_CFG.off) 7
def queue16 : List Byte := leBytes 4 9 ++ leBytes 4 9 ++ leBytes 4 8 ++ leBytes 4 0

/-- A snapshot armed, idle, late and in time; a section to drain; buffers written and not; the end of a drain; a restore
without GO and with a queue enabled; images that are broken, of one register pair and of one queue. -/
theorem test_wit_SnapshotRows :
    (up.set SNAP_STAT_ARMED 1).flag SNAP_STAT_ARMED = true ∧ up.flag SNAP_STAT_ARMED = false ∧ up.flag SNAP_STAT_DRAINING = false
    ∧ up.rdN 0 8 ≤ up.get UPD_DATA_DATA ∧ (poke [(0, 8, 5)] up).get UPD_DATA_DATA < (poke [(0, 8, 5)] up).rdN 0 8
    ∧ (let s := draining [.fixed 1 0 pair16]
      let n := (secHead 1 0 16 (cv (CvCfg.ofList s.snap.cv) pair16) ++ pair16).length;
      running s = true ∧ s.flag SNAP_STAT_DRAINING = true ∧ s.snap.items = [.fixed 1 0 pair16] ∧ s.snap.pos + n ≤ s.snap.dsize
        ∧ (s.snap.dest + s.snap.pos) / 2 ^ 43 = s.me ∧ (s.snap.dest + s.snap.pos) % 2 ^ 43 + n ≤ 0x10E00000000
        ∧ (s.poison == [] && s.chans == []) = true ∧ s.snap.items ≠ [])
    ∧ (let s : State := { up with snap := { up.snap with bufs := [(1, 0, false), (2, 1, true)] } };
      (s.snap.bufs.find? fun b => b.2.2) = some (2, 1, true) ∧ s.snap.out = 0)
    ∧ (up.snap.bufs.find? fun b => b.2.2) = none
    ∧ (∀ e ∈ [false, true], let s := draining [] e;
      running s = true ∧ s.flag SNAP_STAT_DRAINING = true ∧ s.snap.items = [] ∧ s.snap.out = 0 ∧ s.flag SNAP_CFG_IRQ_EN = false
        ∧ s.snap.endSent = e ∧ s.snap.pos + 56 ≤ s.snap.dsize ∧ s.snap.dest + s.snap.pos + 56 ≤ 0x10E00000000 ∧ s.me = 0)
    ∧ (2 ^ 63).testBit 63 = true ∧ enabledQueues up = [] ∧ enabledQueues (boundTo 0) = [0]
    ∧ (let t := up.set SNAP_RST_ADDR (bits (2 ^ 63) 6 37);
      readSections t (cvCfg t (Config.restoreCvu % 16)) 100000 (bits (2 ^ 63) 6 37 * 64) = none)
    ∧ HOT_CFG.off < 0x8000000 := by decide +kernel

/-- Each image reads as its one section, whichever configuration restore uses. -/
theorem test_wit_SnapshotRows_image : ∀ x ∈ [(1, 0, pair16), (2, 5, queue16)],
    let s := image16 x.1 x.2.1 x.2.2 (Config.restoreCvu % 16)
    let t := s.set SNAP_RST_ADDR (bits (2 ^ 63) 6 37);
    readSections t (cvCfg t (Config.restoreCvu % 16)) 100000 (bits (2 ^ 63) 6 37 * 64) = some [x] ∧ enabledQueues s = [] :=
  have h : ∀ k, k < 16 → ∀ x ∈ [(1, 0, pair16), (2, 5, queue16)],
      let s := image16 x.1 x.2.1 x.2.2 k
      let t := s.set SNAP_RST_ADDR (bits (2 ^ 63) 6 37);
      readSections t (cvCfg t k) 100000 (bits (2 ^ 63) 6 37 * 64) = some [x] ∧ enabledQueues s = [] := by decide +kernel
  h _ (Nat.mod_lt _ (by decide))

/-- A device whose flash of 64 MiB is idle, its boot ended in slot 0. -/
def flashed : State := up.set FLASH_STAT_SIZE_MIB 64

/-- A write of FLASH_OP with FADDR and LEN. -/
def fop (fa len : Nat) : Nat := fa * 2 ^ 8 + len * 2 ^ 40

/-- POR_N low with an erased flash; a boot at READY's gate with and without a description; a commit before, at, with and
against the description. -/
theorem test_wit_BootRows :
    State.reset.pins.por = false ∧ up.pins.por = true ∧ State.reset.boot.flashOp = none
    ∧ slotOrder (((({ State.reset with pins := { State.reset.pins with por := true } }).set BOOT_VER_ROM_VERSION
      Config.romVersion).set RAIL_STAT_IN_RANGE 0x1FF).set FLASH_STAT_SIZE_MIB 64) = []
    ∧ (∀ st ∈ [7, 8], ∀ pend ∈ [0, 1], let s := (((up.set BOOT_STAT_STAGE st).set WD_STAT_PENDING pend).set WD_SELF_IS_BELL 1);
      s.pins.por = true ∧ s.get BOOT_STAT_ERR = 0 ∧ s.get BOOT_STAT_STAGE = st ∧ s.flag WD_STAT_PENDING = (pend == 1)
        ∧ (s.flag WD_SELF_IS_BELL == (s.get WD_SELF_BELL_DEV == s.get WD_SELF_DEVICE)) = true)
    ∧ (up.set BOOT_STAT_ERR 1).get BOOT_STAT_ERR ≠ 0 ∧ 9 ≤ (up.set BOOT_STAT_STAGE 9).get BOOT_STAT_STAGE
    ∧ (up.set WD_STAT_DONE 1).flag WD_STAT_DONE = true ∧ (up.set WD_STAT_PENDING 1).flag WD_STAT_PENDING = true
    ∧ up.flag WD_STAT_DONE = false ∧ up.flag WD_STAT_PENDING = false ∧ up.get BOOT_STAT_STAGE < 9
    ∧ (∀ b ∈ [0, 1], let s := (up.set BOOT_STAT_STAGE 9).set WD_SELF_IS_BELL b;
      s.flag WD_STAT_DONE = false ∧ s.flag WD_STAT_PENDING = false ∧ 9 ≤ s.get BOOT_STAT_STAGE
        ∧ (s.flag WD_SELF_IS_BELL == (s.get WD_SELF_BELL_DEV == s.get WD_SELF_DEVICE)) = (b == 1)) := by decide +kernel

/-- Flash operations that start and that are refused, and each one's end; the random source sound, bad and halted. -/
theorem test_wit_BootRows_flash :
    (up.set FLASH_OP_BUSY 1).flag FLASH_OP_BUSY = true ∧ flashed.flag FLASH_OP_BUSY = false ∧ flashed.get BOOT_STAT_ERR = 0
    ∧ flashed.get FLASH_BUF_BUF + 256 ≤ 0x10E00000000
    ∧ (let h := 2 ^ 25;
      bits (fop h 256) 8 32 = h ∧ bits (fop h 256) 40 24 = 256 ∧ h + 256 ≤ flashBytes flashed ∧ inOtherSlot flashed h 256 = true
        ∧ bits (fop (2 * h) 256) 8 32 = 2 * h ∧ flashBytes flashed < 2 * h + 256 ∧ inOtherSlot flashed (2 * h) 256 = false
        ∧ h % 4096 = 0 ∧ h % 65536 = 0 ∧ inOtherSlot flashed h 4096 = true ∧ inOtherSlot flashed h 65536 = true
        ∧ (h + 1) % 4096 ≠ 0 ∧ (h + 1) % 65536 ≠ 0 ∧ inOtherSlot flashed 0 4096 = false ∧ inOtherSlot flashed 0 65536 = false)
    ∧ (∀ op ∈ [1, 2, 3, 4], let s : State := { up with boot := { up.boot with flashOp := some (op, 0, 16) } };
      s.boot.flashOp = some (op, 0, 16) ∧ s.get FLASH_BUF_BUF + 16 ≤ 0x10E00000000 ∧ (s.poison == [] && s.chans == []) = true
        ∧ ueRange s (s.get FLASH_BUF_BUF) 16 = false)
    ∧ (∀ b ∈ [false, true], ∀ h ∈ [0, 1], let t := (up.set RNG_STAT_SEEDED 1).set RNG_STAT_HALTED h
      let s : State := { t with boot := { t.boot with rngBad := b } };
      s.pins.por = true ∧ s.flag RNG_STAT_SEEDED = true ∧ s.flag RNG_STAT_HALTED = (h == 1) ∧ s.boot.rngBad = b) := by
  decide +kernel

/-- The access address at HOT_CFG and at no register. -/
def sideAt (a : Nat) : State := { up with boot := { up.boot with smbAddr := a } }

/-- An SPDM or IDE_KM message of code `code`, PARAM1 0 and PARAM2 `p`, of `n` bytes. -/
def spdmMsg (mctp : Bool) (code p n : Nat) : SpdmMsg := ⟨mctp, 9, leBytes 4 (0x12 + 2 ^ 8 * code + 2 ^ 24 * p) ++ leBytes (n - 4) 0⟩

/-- A responder of phase `ph` on both ways, its boot at `stage`, the endpoint up. -/
def responder (stage ph : Nat) (session : Option Nat := none) (finished : Bool := false) (chain : List Byte := [1]) : State :=
  let s := served.set BOOT_STAT_STAGE stage;
  { s with boot := { s.boot with spdm := [(0, ⟨ph, session, finished, 0⟩), (1, ⟨ph, session, finished, 0⟩)], chain := chain } }

/-- The sideband at a register and outside configuration space; a request of each code by both ways, before the random
source. -/
theorem test_wit_SidebandRows :
    (let o := HOT_CFG.off
      let s := sideAt (0x70000000000 + o);
      s.pins.por = true ∧ s.boot.smbAddr = 0x70000000000 + o ∧ o % 8 = 0 ∧ pageListed o = true ∧ smbReaches s o = true
        ∧ s.boot.smbStat = 0 ∧ pageFenced s o = false ∧ wakePage s o = s ∧ regOf o = some (HOT_CFG, 0, 0) ∧ pccKeyOf o = none)
    ∧ areaOf (sideAt (2 ^ 43)).boot.smbAddr = .unassigned
    ∧ (∀ code ∈ [0x84, 0xE1, 0xE3, 0x81, 0x82, 0x83, 0xE0, 0xE4, 0xE5, 0xE8, 0xEC, 0, 2, 4, 5], ∀ w ∈ [false, true],
      let m := spdmMsg w code 0 104;
      byteN m.bytes 1 1 = code ∧ m.mctp = w ∧ spdmHears State.reset m = false ∧ spdmHears (responder 4 0) m = true
        ∧ (responder 4 0).get BOOT_STAT_STAGE < 5) := by decide +kernel

/-- The responder in each phase; and in and at the end of a session. -/
theorem test_wit_SidebandRows_phases :
    (∀ w ∈ [false, true], ∀ ph ∈ [0, 1, 2, 3], let s := responder 5 ph
      let m := spdmMsg w 0x84 0 104;
      spdmHears s m = true ∧ 5 ≤ s.get BOOT_STAT_STAGE ∧ (spdmSt s (spdmWay m)).phase = ph ∧ (spdmSt s (spdmWay m)).session = none
        ∧ s.boot.chain ≠ [] ∧ byteN m.bytes 2 1 = 0 ∧ byteN m.bytes 4 2 < (spdmChain s).length ∧ 104 ≤ m.bytes.length
        ∧ s.flag RNG_STAT_HALTED = false ∧ byteN m.bytes 3 1 = 0 ∧ byteN (spdmMsg w 0xE0 1 104).bytes 3 1 = 1) := by decide +kernel

theorem test_wit_SidebandRows_session :
    (∀ w ∈ [false, true], ∀ fin ∈ [false, true], let s := responder 5 3 (some 9) fin
      let m := spdmMsg w 0xE5 0 104;
      (spdmSt s (spdmWay m)).session = some m.session ∧ (spdmSt s (spdmWay m)).finished = fin
        ∧ inSession (spdmSt s (spdmWay m)) m = fin ∧ spdmHears s m = true) := by decide +kernel

/-- IDE_KM in a session, with keys of the right and the wrong length and place; and the TAP with POR_N low and high. -/
theorem test_wit_SidebandRows_keys :
    (let s := responder 5 3 (some 9) true
      let t : State := { s with boot := { s.boot with ideKeys := [(keyPlace [], [])] } }
      let m := spdmMsg false 2 0 48;
      s.get BOOT_STAT_STAGE = 5 ∧ inSession (spdmSt s 0) m = true ∧ m.bytes.length = 48 ∧ byteN m.bytes 6 1 / 16 < 3
        ∧ (spdmMsg false 2 0 47).bytes.length ≠ 48
        ∧ (let b := m.bytes.set 6 0x30;
          b.length = 48 ∧ 3 ≤ byteN b 6 1 / 16 ∧ byteN b 1 1 = 2)
        ∧ inSession (spdmSt t 0) (spdmMsg false 4 0 48) = true
        ∧ (look t.boot.ideKeys (keyPlace (spdmMsg false 4 0 48).bytes)).isSome = true)
    ∧ tapSelects .extest = true ∧ tapSelects .bypass = false
    ∧ (let s : State := { State.reset with pins := { State.reset.pins with tapIr := .extest } };
      tapSelects s.pins.tapIr = true ∧ s.pins.por = false) := by decide +kernel

/-- Offsets of no page, of a width not carried, of a fenced page, and of no register; MEM_PF as it is and with a bound that
is moved; a port's states. -/
theorem test_wit_RegisterWrites :
    pageListed 0x120000 = false ∧ (pageListed HOT_CFG.off = true ∧ widthOk HOT_CFG.off 3 = false ∧ widthOk HOT_CFG.off 8 = true)
    ∧ (let s := up.setRg FLT_FHUB 1 0;
      pageListed 0x800000 = true ∧ widthOk 0x800000 8 = true ∧ pageFenced s 0x800000 = true)
    ∧ (pageListed 0x11FFF8 = true ∧ widthOk 0x11FFF8 8 = true ∧ wakePage up 0x11FFF8 = up ∧ regOf (0x11FFF8 / 8 * 8) = none)
    ∧ (let o := MEM_PF.off;
      pageListed o = true ∧ widthOk o 8 = true ∧ pageFenced up o = false ∧ wakePage up o = up
        ∧ regOf (o / 8 * 8) = some (MEM_PF, 0, 0) ∧ partialWo MEM_PF 8 = false)
    ∧ (∀ v ∈ [(MEM_PF.rst, true), (5, false)],
      let rw := BitVec.ofNat 64 MEM_PF.rw
      let kept := (up.regAt MEM_PF.off MEM_PF.rstW) &&& ~~~BitVec.ofNat 64 (carriedMask MEM_PF.off 8)
      let join := kept ||| BitVec.ofNat 64 (placed MEM_PF.off 8 v.1);
      (takenAs MEM_PF join &&& rw == join &&& rw) = v.2)
    ∧ MEM_PF.base ≠ PWR_LOOP.base ∧ (boundLoop.find? fun x => x.1 == MEM_PF.base) = some (MEM_PF.base, 4)
    ∧ (∀ st ∈ [0, 3, 4, 6], portState (portIn st) 0 = st) := by decide +kernel

theorem test_wit_RegisterWrites_action : ∀ s' old v c m, regAction s' MEM_PF 0 0 old v c m = none := fun _ _ _ _ _ => rfl

/-- No command waits, with POR_N low and high, one nanosecond before no beacon. -/
theorem test_wit_StepTakesFront : State.reset.pending = [] ∧ State.reset.pins.por = false ∧ up.pending = [] ∧ up.pins.por = true
    ∧ up.time.slew = 0 ∧ (up.time.count + 1) % 64 ≠ 0 := by decide +kernel

/-- A register that its table's value holds at reset. -/
theorem test_wit_ResetState : regOf (HOT_CFG.off 0 0) = some (HOT_CFG, 0, 0) ∧ look resetRegs (HOT_CFG.off 0 0) = none := by
  decide +kernel

/-- The memory of the state after reset has the canonical form. -/
theorem test_wit_StepKeepsMemoryForm : Memory.wf State.reset.stale State.reset.mem = true := by decide +kernel
end Sys2Proof.Tests
end

section
/-! SUPPORT. The part of a state that memory and the queue of commands make up, and the functions that leave it alone. -/

namespace Sys2Proof.Machine

open Sys2Proof

/-- What the invariant speaks of: the commands that wait, the unspecified ranges and the listed bytes. -/
abbrev Store := List Instr × List (Nat × Nat × Nat) × List Host.Cell

/-- The part of a state that the invariant speaks of. -/
def State.store (s : State) : Store := (s.pending, s.stale, s.mem)

-- `(rfl)` and not `rfl`: simp then writes these steps down, and the kernel need not evaluate what stands in the fields
@[simp] theorem State.store_eta (s : State) : (s.pending, s.stale, s.mem) = s.store := (rfl)

@[simp] theorem State.store_mk (pending : List Instr) (regs : SMap W64) (mem : List Host.Cell)
    (stale : List (Nat × Nat × Nat)) (poison badLines : List Nat) (time : TimeSt) (queues : SMap QState)
    (turns : SMap Nat) (waiters : SMap (List Waiter)) (bars : SMap Barrier) (gcs : SMap GcState) (ves : SMap VeState)
    (mcs : SMap McSt) (tables : SMap TableSt) (hot : HotSt) (sketches : SMap Sketch) (samps : List SampReq)
    (sampNext : Nat) (troughs : SMap TroughSt) (tmsgs tresent : List TroughMsg) (treply : Option TroughMsg)
    (clog : Option CLog) (replay : Option Replay) (stepVers : SMap Nat) (memKey : List Byte) (snap : SnapSt)
    (colIn : List ColMsg) (colAck : SMap (Nat × Nat)) (ctxs : SMap Nat) (ponds : SMap PondSt) (chans : SMap ChanSt)
    (scrubbed : Nat) (dirs : SMap (SMap (List Nat))) (rem : SMap Nat) (pcc pccLast : SMap PccSet)
    (traces : SMap TraceSt) (silt : List SiltRec) (siltSerial : Nat) (fault : FaultSt) (power : PowerSt)
    (link : LinkSt) (host : HostSt) (boot : BootSt) (pins : PinSt) (irqs : List Nat) (free : Nat) :
    State.store ⟨pending, regs, mem, stale, poison, badLines, time, queues, turns, waiters, bars, gcs, ves, mcs,
      tables, hot, sketches, samps, sampNext, troughs, tmsgs, tresent, treply, clog, replay, stepVers, memKey, snap,
      colIn, colAck, ctxs, ponds, chans, scrubbed, dirs, rem, pcc, pccLast, traces, silt, siltSerial, fault, power,
      link, host, boot, pins, irqs, free⟩ = (pending, stale, mem) := (rfl)

@[simp] theorem State.store_ite (c : Prop) [Decidable c] (s t : State) :
    (if c then s else t).store = if c then s.store else t.store := apply_ite State.store c s t

/-- What each step of a fold leaves alone, the fold leaves alone. -/
theorem foldl_field {α γ : Type} (φ : State → γ) {f : State → α → State} (hf : ∀ s a, φ (f s a) = φ s) (l : List α)
    (s : State) : φ (l.foldl f s) = φ s := by
  induction l generalizing s with
  | nil => rfl
  | cons a l ih => rw [List.foldl_cons, ih, hf]

@[simp] theorem foldl_store {α : Type} (f : State → α → State) (l : List α) (s : State)
    (hf : ∀ s a, (f s a).store = s.store) : (l.foldl f s).store = s.store := foldl_field State.store hf l s

theorem foldl_snd_store {α β : Type} (f : β × State → α → β × State) (l : List α) (b : β) (s : State)
    (hf : ∀ b s a, (f (b, s) a).2.store = s.store) : (l.foldl f (b, s)).2.store = s.store := by
  induction l generalizing b s with
  | nil => rfl
  | cons a l ih => rw [List.foldl_cons, ← Prod.mk.eta (p := f (b, s) a), ih, hf]

theorem snd_store {α : Type} {p : α × State} {a : α} {t : State} (h : p = (a, t)) : t.store = p.2.store := by rw [h]

@[simp] theorem snd_store_ite {α : Type} (c : Prop) [Decidable c] (p q : α × State) :
    (if c then p else q).2.store = if c then p.2.store else q.2.store := apply_ite (fun p : α × State => p.2.store) c p q

@[simp] theorem fst_store_ite {α : Type} (c : Prop) [Decidable c] (p q : State × α) :
    (if c then p else q).1.store = if c then p.1.store else q.1.store := apply_ite (fun p : State × α => p.1.store) c p q

/-! Of Machine/Ops. -/

@[simp] theorem State.setRegAt_store (s : State) (o : Nat) (v : W64) : (s.setRegAt o v).store = s.store := by
  simp [State.setRegAt]

@[simp] theorem State.setRg_store (s : State) (r : Reg) (v : W64) (i j : Nat) :
    (s.setRg r v i j).store = s.store := by
  simp [State.setRg]

@[simp] theorem State.set_store (s : State) (f : Fld) (n : Nat) (i j : Nat) : (s.set f n i j).store = s.store := by
  simp [State.set]

@[simp] theorem State.bump_store (s : State) (f : Fld) (n : Nat) (i j : Nat) : (s.bump f n i j).store = s.store := by
  simp [State.bump]

@[simp] theorem State.sat_store (s : State) (f : Fld) (n : Nat) (i j : Nat) : (s.sat f n i j).store = s.store := by
  simp [State.sat]

@[simp] theorem State.stick_store (s : State) (f : Fld) (i j : Nat) : (s.stick f i j).store = s.store := by
  simp [State.stick]

@[simp] theorem gatePond_store (s : State) (p : Nat) : (gatePond s p).store = s.store := by
  simp [gatePond]

@[simp] theorem State.hostReq_store (s : State) (who : Requester) (write : Bool) (a n : Nat) (d : List Byte)
    (frame : Option (Nat × Nat)) :
    (s.hostReq who write a n d frame).store = s.store := by
  simp [State.hostReq]

@[simp] theorem State.fresh_store (s : State) : (s.fresh).2.store = s.store := by
  simp [State.fresh]

@[simp] theorem randomBytes_store (s : State) (n : Nat) : (randomBytes s n).2.store = s.store := by
  simp [randomBytes]

@[simp] theorem State.noteEvent_store (s : State) (p r : Nat) : (s.noteEvent p r).store = s.store := by
  simp [State.noteEvent]

@[simp] theorem State.devErr_store (s : State) (f : Fld) (a : Nat) (write : Bool) :
    (s.devErr f a write).store = s.store := by
  simp [State.devErr]

@[simp] theorem State.setChan_store (s : State) (c : Nat) (x : ChanSt) : (s.setChan c x).store = s.store := by
  simp [State.setChan]

@[simp] theorem State.setPond_store (s : State) (p : Nat) (x : PondSt) : (s.setPond p x).store = s.store := by
  simp [State.setPond]

@[simp] theorem State.invalidateAll_store (s : State) (line : Nat) : (s.invalidateAll line).store = s.store := by
  simp [State.invalidateAll]

@[simp] theorem State.silt'_store (s : State) (code handle queue seq : Nat) (data : List Nat) :
    (s.silt' code handle queue seq data).store = s.store := by
  unfold State.silt'
  split <;> simp

@[simp] theorem State.siltDev_store (s : State) (code : Nat) (data : List Nat) :
    (s.siltDev code data).store = s.store := by
  simp [State.siltDev]

@[simp] theorem fatalFault_store (s : State) (cause : Nat) : (fatalFault s cause).store = s.store := by
  simp [fatalFault]

@[simp] theorem singleFault_store (s : State) (pond : Option Nat) : (singleFault s pond).store = s.store := by
  unfold singleFault
  (repeat' split) <;> simp

@[simp] theorem State.setTrace_store (s : State) (p : Nat) (t : TraceSt) : (s.setTrace p t).store = s.store := by
  simp [State.setTrace]

@[simp] theorem traceDrop_store (s : State) (p stamp : Nat) : (traceDrop s p stamp).store = s.store := by
  simp [traceDrop]

/-! Of Machine/Traces. -/

@[simp] theorem traceSample_store (s : State) (p key : Nat) : (traceSample s p key).2.store = s.store := by
  simp [traceSample]

/-! Of Machine/LinkCore. -/

@[simp] theorem State.setPort_store (s : State) (p : Nat) (x : PortSt) : (s.setPort p x).store = s.store := by
  simp [State.setPort]

@[simp] theorem freeVia_store (s : State) (f : TxFrame) : (freeVia s f).store = s.store := by
  unfold freeVia
  split <;> simp

@[simp] theorem State.newFrame_store (s : State) (type dst addr len : Nat) (payload : List Byte) :
    (s.newFrame type dst addr len payload).2.store = s.store := by
  simp [State.newFrame]

@[simp] theorem State.msixRaise_store (s : State) (v : Nat) : (s.msixRaise v).store = s.store := by
  simp [State.msixRaise]

/-! Of Machine/Trans. -/

@[simp] theorem installLine_store (s : State) (rem : SMap Nat) (p : Nat) (l : CacheLine) :
    (installLine s rem p l).store = s.store := by
  simp [installLine]

@[simp] theorem State.dirMark_store (s : State) (p line : Nat) : (s.dirMark p line).store = s.store := by
  unfold State.dirMark
  dsimp only
  (repeat' split) <;> simp

@[simp] theorem State.chanRead_store (s : State) (pa : Nat) : (s.chanRead pa).store = s.store := by
  unfold State.chanRead
  dsimp only
  split <;> simp

@[simp] theorem walkRead_store (s : State) (p a : Nat) : (walkRead s p a).store = s.store := by
  unfold walkRead
  dsimp only
  split
  · simp
  · split <;> simp

@[simp] theorem walkEntry_store (s : State) (p a : Nat) : (walkEntry s p a).2.store = s.store := by
  unfold walkEntry
  split <;> simp

@[simp] theorem walkLeaf_store (s : State) (p space va e1 : Nat) : (walkLeaf s p space va e1).2.store = s.store := by
  unfold walkLeaf
  split
  · rfl
  · split <;> rename_i h <;> simp [snd_store h]

@[simp] theorem walkTable_store (s : State) (p space va : Nat) : (walkTable s p space va).2.store = s.store := by
  unfold walkTable
  dsimp only
  split
  · rfl
  · cases (s.pond p).walk.find? (fun w => w.1 == space * 8192 + va / 2 ^ 30) with
    | some w =>
      dsimp only
      (repeat' split) <;> simp
    | none =>
      dsimp only
      split
      · rename_i h
        simp [snd_store h]
      · rename_i h
        (repeat' split) <;> simp [snd_store h]

@[simp] theorem translate_store (s : State) (p space va : Nat) (wr : Bool) :
    (translate s p space va wr).2.store = s.store := by
  unfold translate
  dsimp only
  split
  · rfl
  · cases (s.pond p).tlb.find? (fun e => e.covers space va) with
    | some e => simp
    | none =>
      rcases h : walkTable s p space va with ⟨_ | ⟨e, e1⟩, t⟩ <;> simp [snd_store h]

@[simp] theorem resolve1_store (s : State) (c : Ctx) (a : Nat) (wr : Bool) :
    (resolve1 s c a wr).2.store = s.store := by
  simp [resolve1]

@[simp] theorem resolveParts_store (s : State) (c : Ctx) (wr : Bool) (l : List (Nat × Nat)) :
    (resolveParts s c wr l).2.store = s.store := by
  induction l generalizing s with
  | nil => rfl
  | cons an l ih =>
    rw [resolveParts]
    split
    · rename_i h
      simp [snd_store h]
    · rename_i h
      split
      · simp [snd_store h]
      · simp [snd_store h]
      · split <;> rename_i h2 <;> simp [snd_store h2, ih, snd_store h]

@[simp] theorem resolve_store (s : State) (c : Ctx) (a n : Nat) (wr : Bool) :
    (resolve s c a n wr).2.store = s.store := by
  simp [resolve]

@[simp] theorem tensorOf_store (s : State) (p space a : Nat) : (tensorOf s p space a).2.store = s.store := by
  unfold tensorOf
  dsimp only
  split <;> simp

/-! Of Machine/Cache. -/

@[simp] theorem issuePrefetch_store (s : State) (c : Ctx) (tag a : Nat) (st : Stream) :
    (issuePrefetch s c tag a st).2.store = s.store := by
  unfold issuePrefetch
  dsimp only
  (repeat' split) <;> simp

@[simp] theorem runAhead_store (s : State) (c : Ctx) (tag last : Nat) (t : Tensor) (n : Nat) (st : Stream) :
    (runAhead s c tag last t n st).2.store = s.store := by
  induction n generalizing s st with
  | zero => rfl
  | succ n ih =>
    rw [runAhead]
    dsimp only
    split
    · rfl
    · split
      · rfl
      · split <;> simp [ih]

@[simp] theorem advanceStream_store (s : State) (c : Ctx) (tag a : Nat) :
    (advanceStream s c tag a).store = s.store := by
  simp [advanceStream]

@[simp] theorem demandLine_store (s : State) (c : Ctx) (a pa : Nat) : (demandLine s c a pa).2.store = s.store := by
  unfold demandLine
  dsimp only
  rw [advanceStream_store]
  cases c.t && decide (a ≤ 0x5FFFFFFFFFF) with
  | true =>
    simp only [if_true]
    (repeat' split) <;> simp
  | false =>
    simp only [Bool.false_eq_true, if_false]
    (repeat' split) <;> simp

@[simp] theorem demandParts_store (s : State) (c : Ctx) (a : Nat) (l : List (Nat × Nat)) :
    (demandParts s c a l).2.store = s.store := by
  induction l generalizing s a with
  | nil => rfl
  | cons pn l ih =>
    rw [demandParts]
    simp [ih]
    rw [foldl_snd_store]
    simp

@[simp] theorem demandPlain_store (s : State) (p a n : Nat) : (demandPlain s p a n).store = s.store := by
  simp [demandPlain]

@[simp] theorem directParts_store (s : State) (parts : List (Nat × Nat)) : (directParts s parts).store = s.store := by
  simp [directParts]

/-! Of Machine/Sync. -/

@[simp] theorem State.setQ_store (s : State) (q : Nat) (x : QState) : (s.setQ q x).store = s.store := by
  simp [State.setQ]

@[simp] theorem State.updCmd_store (s : State) (q seq : Nat) (f : Cmd → Cmd) :
    (s.updCmd q seq f).store = s.store := by
  simp [State.updCmd]

@[simp] theorem State.setJent_store (s : State) (q : Nat) (j : JEnt) : (s.setJent q j).store = s.store := by
  simp [State.setJent]

@[simp] theorem State.qset_store (s : State) (f : Fld) (v q : Nat) : (s.qset f v q).store = s.store := by
  simp [State.qset]

@[simp] theorem State.setGc_store (s : State) (g : Nat) (x : GcState) : (s.setGc g x).store = s.store := by
  simp [State.setGc]

@[simp] theorem State.gcCount_store (s : State) (g i n : Nat) : (s.gcCount g i n).store = s.store := by
  unfold State.gcCount
  split <;> simp

@[simp] theorem State.gcBlock_store (s : State) (g : Nat) (b : Blocked) : (s.gcBlock g b).store = s.store := by
  simp [State.gcBlock]

@[simp] theorem State.gcUnblock_store (s : State) (g : Nat) : (s.gcUnblock g).store = s.store := by
  simp [State.gcUnblock]

@[simp] theorem State.gcAdvance_store (s : State) (g pc : Nat) : (s.gcAdvance g pc).store = s.store := by
  simp [State.gcAdvance]

@[simp] theorem State.effectDone_store (s : State) (g kind rd result : Nat) :
    (s.effectDone g kind rd result).store = s.store := by
  unfold State.effectDone
  dsimp only
  split <;> simp

@[simp] theorem semPut_store (s : State) (off v : Nat) : (semPut s off v).store = s.store := by
  simp [semPut]

@[simp] theorem semOr_store (s : State) (off bit : Nat) : (semOr s off bit).store = s.store := by
  simp [semOr]

@[simp] theorem State.setWaiters_store (s : State) (off : Nat) (l : List Waiter) :
    (s.setWaiters off l).store = s.store := by
  simp [State.setWaiters]

@[simp] theorem serveOne_store (s : State) (w : Waiter) : (serveOne s w).store = s.store := by
  unfold serveOne
  (repeat' split) <;> simp

@[simp] theorem serveWaiters_store (n : Nat) (s : State) (off : Nat) : (serveWaiters n s off).store = s.store := by
  induction n generalizing s with
  | zero => rfl
  | succ n ih =>
    rw [serveWaiters]
    split
    · rfl
    · split <;> simp [ih]

@[simp] theorem State.serve_store (s : State) (off : Nat) : (s.serve off).store = s.store := by
  simp [State.serve]

@[simp] theorem wakeYields_store (s : State) (home : Nat) : (wakeYields s home).store = s.store := by
  refine foldl_store _ _ _ fun s kx => ?_
  split <;> simp

@[simp] theorem State.semSignal_store (s : State) (off n : Nat) (who : SigSrc) :
    (s.semSignal off n who).store = s.store := by
  unfold State.semSignal
  split <;> simp

@[simp] theorem State.semJoin_store (s : State) (off : Nat) (w : Waiter) : (s.semJoin off w).store = s.store := by
  simp [State.semJoin]

theorem State.semTry_store {s t : State} {off n : Nat} (h : s.semTry off n = some t) : t.store = s.store := by
  simp only [State.semTry, Option.ite_none_right_eq_some, Option.some.injEq] at h
  rw [← h.2, semPut_store]

@[simp] theorem State.semDec_store (s : State) (off n : Nat) : (s.semDec off n).1.store = s.store := by
  simp [State.semDec]

@[simp] theorem State.semSet_store (s : State) (off v : Nat) : (s.semSet off v).store = s.store := by
  simp [State.semSet]

@[simp] theorem State.setBar_store (s : State) (p i : Nat) (b : Barrier) : (s.setBar p i b).store = s.store := by
  simp [State.setBar]

@[simp] theorem barComplete_store (s : State) (p i : Nat) : (barComplete s p i).store = s.store := by
  simp [barComplete]

/-! Of Machine/Queue. -/

@[simp] theorem wakeBegin_store (s : State) (cause thr : Nat) : (wakeBegin s cause thr).store = s.store := by
  unfold wakeBegin
  (repeat' split) <;> simp

@[simp] theorem pccStart_store (s : State) (k : Option Nat) (q seq opc : Nat) (re : Bool) :
    (pccStart s k q seq opc re).store = s.store := by
  unfold pccStart
  split <;> simp

@[simp] theorem pccClose_store (s : State) (c : Cmd) : (pccClose s c).store = s.store := by
  unfold pccClose
  split <;> simp

@[simp] theorem ringRead_store (s : State) (q seq : Nat) : (ringRead s q seq).store = s.store := by
  unfold ringRead
  split <;> simp

@[simp] theorem headWait_store (s : State) (q seq raw : Nat) : (headWait s q seq raw).store = s.store := by
  simp [headWait]

@[simp] theorem State.setVe_store (s : State) (g : Nat) (x : VeState) : (s.setVe g x).store = s.store := by
  simp [State.setVe]

@[simp] theorem logRetired_store (s : State) (unit q : Nat) (raw : BitVec 512) (covers whole reads : List Nat) :
    (logRetired s unit q raw covers whole reads).store = s.store := by
  simp [logRetired]

@[simp] theorem dropUses_store (s : State) (c : Cmd) : (dropUses s c).store = s.store := by
  simp [dropUses]

@[simp] theorem engineYields_store (s : State) (q opc : Nat) : (engineYields s q opc).store = s.store := by
  unfold engineYields
  split <;> simp

@[simp] theorem dropWaiters_store (s : State) (q : Nat) : (dropWaiters s q).store = s.store := by
  simp [dropWaiters]

@[simp] theorem abortStage_store (s : State) (q : Nat) (c : Cmd) : (abortStage s q c).1.store = s.store := by
  simp [abortStage]

@[simp] theorem resumeQueue_store (s : State) (q : Nat) : (resumeQueue s q).store = s.store := by
  simp [resumeQueue]

/-! Of Machine/Control. -/

@[simp] theorem barrierArrive_store (s : State) (q : Nat) (c : Cmd) : (barrierArrive s q c).store = s.store := by
  unfold barrierArrive
  dsimp only
  split <;> simp

@[simp] theorem semValWrite_store (s : State) (off v : Nat) : (semValWrite s off v).store = s.store := by
  simp [semValWrite]

@[simp] theorem fsemSigWrite_store (s : State) (n amount : Nat) : (fsemSigWrite s n amount).store = s.store := by
  simp [fsemSigWrite]

/-! Of Machine/Engine. -/

@[simp] theorem wakePond_store (s : State) (p : Nat) : (wakePond s p).store = s.store := by
  simp [wakePond]

@[simp] theorem touch_store (s : State) (pa : Nat) : (touch s pa).store = s.store := by
  unfold touch
  split <;> simp

@[simp] theorem noteNF_store (s : State) : (noteNF s).store = s.store := by
  unfold noteNF
  dsimp only
  split <;> simp

@[simp] theorem putCmd_store (s : State) (q : Nat) (c : Cmd) : (putCmd s q c).store = s.store := by
  simp [putCmd]

/-! Of Machine/Matrix. -/

@[simp] theorem State.setMc_store (s : State) (m : Nat) (x : McSt) : (s.setMc m x).store = s.store := by
  simp [State.setMc]

@[simp] theorem scramble_store (s : State) (m : Nat) (region : List Nat) : (scramble s m region).store = s.store := by
  simp [scramble]

/-! Of Machine/Slab. -/

@[simp] theorem slabSizes_store (s : State) (p cache trg hot trace : Nat) :
    (slabSizes s p cache trg hot trace).store = s.store := by
  simp [slabSizes]

/-! Of Machine/MemEvents. -/

@[simp] theorem poisonGranule_store (s : State) (pa : Nat) (misdir scrub : Bool) :
    (poisonGranule s pa misdir scrub).store = s.store := by
  simp [poisonGranule]

@[simp] theorem retireDie_store (s : State) (c rg : Nat) : (retireDie s c rg).store = s.store := by
  simp [retireDie]

@[simp] theorem countDie_store (s : State) (pa n : Nat) : (countDie s pa n).store = s.store := by
  simp [countDie]

@[simp] theorem countLanes_store (s : State) (pa : Nat) (lanes : List Nat) :
    (countLanes s pa lanes).store = s.store := by
  simp [countLanes]

@[simp] theorem scrubPass_store (s : State) : (scrubPass s).store = s.store := by
  simp [scrubPass]

@[simp] theorem fenceBank_store (s : State) (p die bank : Nat) : (fenceBank s p die bank).store = s.store := by
  simp [fenceBank]

@[simp] theorem countRebuild_store (s : State) (p die bank : Nat) : (countRebuild s p die bank).store = s.store := by
  simp [countRebuild]

@[simp] theorem slabLost_store (s : State) (p off : Nat) : (slabLost s p off).store = s.store := by
  simp [slabLost]

@[simp] theorem recentre_store (s : State) (chan lane plus minus : Nat) :
    (recentre s chan lane plus minus).store = s.store := by
  simp [recentre]

@[simp] theorem tlbInvWrite_store (s : State) (v : Nat) : (tlbInvWrite s v).store = s.store := by
  simp [tlbInvWrite]

/-! Of Machine/Graph. -/

@[simp] theorem sketchKey_store (s : State) (p table ver key : Nat) :
    (sketchKey s p table ver key).store = s.store := by
  simp [sketchKey]

@[simp] theorem hotBoundary_store (s : State) : (hotBoundary s).store = s.store := by
  simp [hotBoundary]

/-! Of Machine/Trough. -/

@[simp] theorem noPlace_store (s : State) (p : Nat) (n : NoPlace) : (noPlace s p n).1.store = s.store := by
  simp [noPlace]

@[simp] theorem winExceeded_store (s : State) (n : Nat) : (winExceeded s n).store = s.store := by
  simp [winExceeded]

@[simp] theorem sendStage_store (s : State) (q : Nat) (c : Cmd) (kind : TroughKind) :
    (sendStage s q c kind).store = s.store := by
  simp [sendStage]

@[simp] theorem stageNext_store (s : State) (q : Nat) (c : Cmd) : (stageNext s q c).store = s.store := by
  unfold stageNext
  split <;> simp

@[simp] theorem stageAnswer_store (s : State) (q seq st : Nat) (f : Cmd → Cmd) :
    (stageAnswer s q seq st f).store = s.store := by
  unfold stageAnswer
  split <;> simp

@[simp] theorem wakeHome_store (s : State) (p : Nat) : (wakeHome s p).store = s.store := by
  unfold wakeHome
  split <;> simp

@[simp] theorem dropMsg_store (s : State) (m : TroughMsg) : (dropMsg s m).store = s.store := by
  simp [dropMsg]

@[simp] theorem replyTo_store (s : State) (m : TroughMsg) (p e : Nat) (nf ok : Bool) :
    (replyTo s m p e nf ok).store = s.store := by
  simp [replyTo]

/-! Of Machine/Snap. -/

@[simp] theorem snapArm_store (s : State) (v : Nat) : (snapArm s v).store = s.store := by
  simp [snapArm]

@[simp] theorem unstall_store (s : State) : (unstall s).store = s.store := by
  unfold unstall
  split <;> simp

@[simp] theorem stallOn_store (s : State) (q seq : Nat) : (stallOn s q seq).store = s.store := by
  simp [stallOn]

/-! Of Machine/Update. -/

@[simp] theorem lossScale_store (s : State) (sf : Bool) (ls : Nat) : (lossScale s sf ls).store = s.store := by
  simp [lossScale]

@[simp] theorem remBoundary_store (s : State) : (remBoundary s).store = s.store := by
  simp [remBoundary]

/-! Of Machine/Retire. -/

@[simp] theorem journalStage_store (s : State) (q : Nat) (c : Cmd) : (journalStage s q c).store = s.store := by
  simp [journalStage]

/-! Of Machine/Faults. -/

@[simp] theorem siltCtlWrite_store (s : State) (v : Nat) : (siltCtlWrite s v).store = s.store := by
  simp [siltCtlWrite]

@[simp] theorem forgetAnswers_store (s : State) (q : Nat) : (forgetAnswers s q).store = s.store := by
  simp [forgetAnswers]

@[simp] theorem stopGrun_store (s : State) (q : Nat) : (stopGrun s q).store = s.store := by
  refine foldl_store _ _ _ fun s kx => ?_
  split <;> simp

@[simp] theorem dropSets_store (s : State) (q : Nat) : (dropSets s q).store = s.store := by
  refine foldl_store _ _ _ fun s c => ?_
  split
  · rfl
  · split <;> simp

@[simp] theorem reissueQueue_store (s : State) (q : Nat) : (reissueQueue s q).store = s.store := by
  simp [reissueQueue]

@[simp] theorem loseItem_store (h : Nat) (s : State) (i : Nat) : (loseItem h s i).store = s.store := by
  simp [loseItem]

@[simp] theorem isolate_store (s : State) (h : Nat) : (isolate s h).store = s.store := by
  simp [isolate]

@[simp] theorem rebindQueue_store (s : State) (h q : Nat) : (rebindQueue s h q).store = s.store := by
  unfold rebindQueue
  dsimp only
  split <;> simp

@[simp] theorem noteRecovering_store (s : State) (l : List Nat) : (noteRecovering s l).store = s.store := by
  simp [noteRecovering]

@[simp] theorem dropLocal_store (s : State) : (dropLocal s).store = s.store := by
  simp [dropLocal]

@[simp] theorem settleKept_store (s : State) (q : Nat) : (settleKept s q).store = s.store := by
  simp [settleKept]

@[simp] theorem warmLose_store (s : State) : (warmLose s).store = s.store := by
  simp [warmLose]

@[simp] theorem limitOfPhases_store (s : State) (p : Nat) : (limitOfPhases s p).store = s.store := by
  simp [limitOfPhases]

/-! Of Machine/Time. -/

@[simp] theorem countBusy_store (s : State) (n : Nat) : (countBusy s n).store = s.store := by
  simp [countBusy]

@[simp] theorem tick_store (s : State) : (tick s).store = s.store := by
  simp [tick]

@[simp] theorem toBeacon_store (n : Nat) (s : State) : (toBeacon n s).store = s.store := by
  induction n generalizing s with
  | zero => rfl
  | succ n ih =>
    rw [toBeacon]
    split <;> simp [ih]

@[simp] theorem timeEpochWrite_store (s : State) (v : Nat) : (timeEpochWrite s v).store = s.store := by
  simp [timeEpochWrite]

@[simp] theorem loseLock_store (s : State) : (loseLock s).store = s.store := by
  simp [loseLock]

@[simp] theorem freeRun_store (s : State) : (freeRun s).store = s.store := by
  simp [freeRun]

@[simp] theorem portLost_store (s : State) (p : Nat) : (portLost s p).store = s.store := by
  simp [portLost]

@[simp] theorem timeCtrlWrite_store (s : State) (v : W64) : (timeCtrlWrite s v).store = s.store := by
  simp [timeCtrlWrite]

@[simp] theorem takeOffset_store (s : State) (off : Int) : (takeOffset s off).store = s.store := by
  simp [takeOffset]

@[simp] theorem setTrim_store (s : State) (p r v : Nat) : (setTrim s p r v).store = s.store := by
  simp [setTrim]

@[simp] theorem obsCaptureWrite_store (s : State) (v : Nat) : (obsCaptureWrite s v).store = s.store := by
  simp [obsCaptureWrite]

@[simp] theorem pccSampleAt_store (s : State) (k : Nat) : (pccSampleAt s k).store = s.store := by
  simp [pccSampleAt]

/-! Of Machine/LinkPort. -/

@[simp] theorem moveReplay_store (s : State) (p : Nat) : (moveReplay s p).store = s.store := by
  simp [moveReplay]

@[simp] theorem portTrain_store (s : State) (p : Nat) : (portTrain s p).store = s.store := by
  simp [portTrain]

@[simp] theorem frameWakes_store (s : State) : (frameWakes s).store = s.store := by
  unfold frameWakes
  split <;> simp

/-! Of Machine/Power. -/

@[simp] theorem State.pw_store (s : State) (f : PowerSt → PowerSt) : (s.pw f).store = s.store := by
  simp [State.pw]

@[simp] theorem exclude_store (s : State) (i : Nat) : (exclude s i).store = s.store := by
  simp [exclude]

@[simp] theorem judgeSensor_store (s : State) (i : Nat) : (judgeSensor s i).store = s.store := by
  simp [judgeSensor]

@[simp] theorem thermTrip_store (s : State) : (thermTrip s).store = s.store := by
  simp [thermTrip]

@[simp] theorem comparators_store (s : State) (temps : List (Nat × Int)) : (comparators s temps).store = s.store := by
  simp [comparators]

@[simp] theorem judgeMonitor_store (s : State) (p vin : Nat) (ph : List (Nat × Nat)) :
    (judgeMonitor s p vin ph).store = s.store := by
  simp [judgeMonitor]

@[simp] theorem fastTerms_store (s : State) (p : Nat) : (fastTerms s p).store = s.store := by
  simp [fastTerms]

@[simp] theorem setVolt_store (s : State) (p : Nat) : (setVolt s p).store = s.store := by
  simp [setVolt]

@[simp] theorem setVolts_store (s : State) : (setVolts s).store = s.store := by
  simp [setVolts]

@[simp] theorem coolantWrite_store (s : State) (v : Nat) : (coolantWrite s v).store = s.store := by
  simp [coolantWrite]

@[simp] theorem loseCaches_store (s : State) : (loseCaches s).store = s.store := by
  simp [loseCaches]

/-! Of Machine/Access. -/

@[simp] theorem wakePage_store (s : State) (o : Nat) : (wakePage s o).store = s.store := by
  unfold wakePage
  split <;> simp

@[simp] theorem readReg_store (s : State) (o w : Nat) : (readReg s o w).2.store = s.store := by
  unfold readReg
  (repeat' split) <;> simp

@[simp] theorem noteClamp_store (s : State) (r : Reg) (wrote took : W64) :
    (noteClamp s r wrote took).store = s.store := by
  unfold noteClamp
  split <;> simp

@[simp] theorem flashOpWrite_store (s : State) (op fa len : Nat) : (flashOpWrite s op fa len).store = s.store := by
  simp [flashOpWrite]

@[simp] theorem pcieDisable_store (s : State) : (pcieDisable s).store = s.store := by
  simp [pcieDisable]

@[simp] theorem wdApply_store (s : State) : (wdApply s).store = s.store := by
  simp [wdApply]

@[simp] theorem wdCommit_store (s : State) : (wdCommit s).store = s.store := by
  simp [wdCommit]

/-! Of Machine/Boot. -/

@[simp] theorem State.bt_store (s : State) (f : BootSt → BootSt) : (s.bt f).store = s.store := by
  simp [State.bt]

@[simp] theorem putBytes_store (s : State) (r : Reg) (d : List Byte) : (putBytes s r d).store = s.store := by
  simp [putBytes]

@[simp] theorem bootFail_store (s : State) (stage err : Nat) : (bootFail s stage err).store = s.store := by
  simp [bootFail]

@[simp] theorem showSlot_store (s : State) (n : Nat) (x : Slot) (owner : List Byte) :
    (showSlot s n x owner).store = s.store := by
  simp [showSlot]

theorem identify_store {s t : State} {l : List Rec} {pufOk : Bool} (h : identify s l pufOk = some t) :
    t.store = s.store := by
  unfold identify at h
  dsimp only at h
  split at h
  · exact absurd h nofun
  · obtain rfl := Option.some.inj h
    split
    · simp only [State.bt_store, State.set_store, putBytes_store, State.store_ite, ite_self]
    · split <;> simp only [State.bt_store, State.set_store, putBytes_store, State.store_ite, ite_self]

@[simp] theorem flashCmd_store (op value : Nat) (s : State) : (flashCmd op value s).store = s.store := by
  simp [flashCmd]

/-! Of Machine/Gc. -/

@[simp] theorem endGrun_store (s : State) (g status : Nat) : (endGrun s g status).store = s.store := by
  unfold endGrun
  split <;> simp

@[simp] theorem enterHandler_store (s : State) (g : Nat) (e : GcExc) : (enterHandler s g e).store = s.store := by
  unfold enterHandler
  split <;> simp

@[simp] theorem gcRaise_store (s : State) (g : Nat) (e : GcExc) (addr : Option Nat) :
    (gcRaise s g e addr).store = s.store := by
  unfold gcRaise
  dsimp only
  (repeat' split) <;> simp

@[simp] theorem gcAccErr_store (s : State) (kind : GcExc) (a : Nat) (wr : Bool) (x1 : AccErr) :
    (gcAccErr s kind a wr x1).2.store = s.store := by
  unfold gcAccErr
  split <;> simp

@[simp] theorem gcReadMem_store (s : State) (g : Nat) (r : GcRun) (a n : Nat) :
    (gcReadMem s g r a n).2.store = s.store := by
  unfold gcReadMem
  dsimp only
  split
  · rename_i h
    simp [snd_store h]
  · rename_i h
    split <;> simp [snd_store h]

@[simp] theorem gcReadConfig_store (s : State) (a n : Nat) : (gcReadConfig s a n).2.store = s.store := by
  -- unfolded as a constant: the kernel would compare the applied terms by running `readReg`
  have h : gcReadConfig = gcReadConfig := rfl
  conv_rhs at h => delta gcReadConfig
  rw [congrFun (congrFun (congrFun h s) a) n]
  split <;> rename_i h <;> exact (snd_store h).trans (readReg_store ..)

@[simp] theorem gcRead_store (s : State) (g : Nat) (r : GcRun) (a n : Nat) :
    (gcRead s g r a n).2.store = s.store := by
  simp [gcRead]

@[simp] theorem fillLine_store (s : State) (g line : Nat) (d : List Byte) :
    (fillLine s g line d).store = s.store := by
  simp [fillLine]

@[simp] theorem fetchScratch_store (s : State) (g a : Nat) : (fetchScratch s g a).2.store = s.store := by
  unfold fetchScratch
  dsimp only
  split <;> simp

@[simp] theorem gcFetch_store (s : State) (g : Nat) (r : GcRun) : (gcFetch s g r).2.store = s.store := by
  unfold gcFetch
  dsimp only
  (repeat' split) <;> simp

@[simp] theorem putReg_store (s : State) (g rd : Nat) (v : W64) : (putReg s g rd v).store = s.store := by
  simp [putReg]

@[simp] theorem readImage_store (s : State) (g q : Nat) (own : Bool) (a n : Nat) :
    (readImage s g q own a n).2.store = s.store := by
  unfold readImage
  dsimp only
  split
  · rfl
  · split
    · rfl
    · split
      · rename_i h
        split <;> simp [snd_store h]
      · rename_i h
        split <;> simp [snd_store h]

@[simp] theorem startStat_store (s : State) (g q seq : Nat) (own : Bool) :
    (startStat s g q seq own).store = s.store := by
  simp [startStat]

@[simp] theorem grunStart_store (s : State) (q : Nat) (c : Cmd) : (grunStart s q c).store = s.store := by
  unfold grunStart
  dsimp only
  split
  · rename_i h
    simp [snd_store h]
  · rename_i h
    split
    · simp [snd_store h]
    · split
      · rename_i h2
        simp [snd_store h2, snd_store h]
      · rename_i h2
        split <;> rename_i h3 <;> simp [snd_store h3, snd_store h2, snd_store h]

/-! Of Machine/Links. -/

@[simp] theorem pathRequest_store (s : State) (f : RxFrame) : (pathRequest s f).2.store = s.store := by
  unfold pathRequest
  dsimp only
  split <;> simp

@[simp] theorem noteRefused_store (s : State) (a : Nat) (write : Bool) : (noteRefused s a write).store = s.store := by
  simp [noteRefused]

@[simp] theorem wakeScratch_store (s : State) (a : Nat) : (wakeScratch s a).store = s.store := by
  unfold wakeScratch
  split <;> simp

@[simp] theorem hostAnswer_store (s : State) (id k : Nat) (ok : Bool) (data : List Byte) :
    (hostAnswer s id k ok data).store = s.store := by
  unfold hostAnswer
  split <;> simp

@[simp] theorem closeReq_store (s : State) (o : Outstanding) : (closeReq s o).store = s.store := by
  simp [closeReq]

@[simp] theorem loseTroughs_store (s : State) (d : Nat) : (loseTroughs s d).store = s.store := by
  simp [loseTroughs]

/-! Of Machine/HostBridge. -/

@[simp] theorem State.hb_store (s : State) (f : HostSt → HostSt) : (s.hb f).store = s.store := by
  simp [State.hb]

@[simp] theorem msixFlush_store (s : State) : (msixFlush s).store = s.store := by
  simp [msixFlush]

@[simp] theorem msixPut_store (s : State) (k v : Nat) : (msixPut s k v).store = s.store := by
  simp [msixPut]

@[simp] theorem msixWrite_store (s : State) (o w v : Nat) : (msixWrite s o w v).store = s.store := by
  simp [msixWrite]

@[simp] theorem hostReply_store (s : State) (r : Option (List Byte)) : (hostReply s r).store = s.store := by
  simp [hostReply]

@[simp] theorem unsupported_store (s : State) (a : HostAccess) : (unsupported s a).store = s.store := by
  simp [unsupported]

@[simp] theorem hostWakes_store (s : State) : (hostWakes s).store = s.store := by
  unfold hostWakes
  split <;> simp

@[simp] theorem waitFor_store (s : State) (a : HostAccess) (parts : Nat) : (waitFor s a parts).2.store = s.store := by
  simp [waitFor]

/-! Of Machine/Sideband. -/

@[simp] theorem smbAdvance_store (s : State) : (smbAdvance s).store = s.store := by
  simp [smbAdvance]

@[simp] theorem attestation_store (s : State) (nonce : List Byte) : (attestation s nonce).2.store = s.store := by
  simp [attestation]

@[simp] theorem putSpdm_store (s : State) (w : Nat) (x : SpdmSt) : (putSpdm s w x).store = s.store := by
  simp [putSpdm]

@[simp] theorem spdmSay_store (s : State) (r : SpdmReply) : (spdmSay s r).store = s.store := by
  simp [spdmSay]

@[simp] theorem measurement_store (s : State) (i : Nat) (nonce : List Byte) :
    (measurement s i nonce).2.store = s.store := by
  unfold measurement
  split <;> simp

@[simp] theorem measureAll_store (s : State) (nonce : List Byte) (l : List Nat) :
    (measureAll s nonce l).2.store = s.store := by
  induction l generalizing s with
  | nil => rfl
  | cons i l ih =>
    rw [measureAll]
    split <;> rename_i h <;> simp [ih, snd_store h]

@[simp] theorem spdmServe_store (s : State) (m : SpdmMsg) : (spdmServe s m).store = s.store := by
  unfold spdmServe
  dsimp only
  split <;> simp

@[simp] theorem spdmRequest_store (s : State) (m : SpdmMsg) : (spdmRequest s m).store = s.store := by
  simp [spdmRequest]

end Sys2Proof.Machine
end

section
/-! SUPPORT. The invariant of a step: the queue of commands stays, and memory keeps its canonical form. -/

namespace Sys2Proof.Machine

open Sys2Proof

/-- From a store `σ` a step may reach the store `y`: the queue is the same, and the canonical form is kept. -/
def Keeps (σ y : Store) : Prop :=
  y.1 = σ.1 ∧ (Memory.wf σ.2.1 σ.2.2 = true → Memory.wf y.2.1 y.2.2 = true)

@[simp] theorem Keeps_ite {σ y z : Store} {c : Prop} [Decidable c] :
    Keeps σ (if c then y else z) ↔ (c → Keeps σ y) ∧ (¬c → Keeps σ z) := by
  split <;> simp [*]

variable {σ : Store} {α β : Type}

theorem foldl_keeps {f : State → α → State} {s : State} (l : List α) (h : Keeps σ s.store)
    (hf : ∀ s a, Keeps σ s.store → Keeps σ (f s a).store) : Keeps σ (l.foldl f s).store := by
  induction l generalizing s with
  | nil => exact h
  | cons a l ih => exact ih (hf s a h)

theorem foldl_fst_keeps {f : State × β → α → State × β} {s : State} (l : List α) (b : β) (h : Keeps σ s.store)
    (hf : ∀ s b a, Keeps σ s.store → Keeps σ (f (s, b) a).1.store) : Keeps σ (l.foldl f (s, b)).1.store := by
  induction l generalizing s b with
  | nil => exact h
  | cons a l ih => exact ih (f (s, b) a).2 (hf s b a h)

/-- Where a run stops to hold, the state that it holds on to has a property. -/
def Stop.Holds (H : State → Prop) : Stop → Prop
  | .hold s => H s
  | _ => True

@[simp] theorem Stop.holds_hold {H : State → Prop} {s : State} : (Stop.hold s).Holds H ↔ H s := .rfl

/-- The same of a run's result. -/
def Stopped.Holds (H : State → Prop) : Except Stop α → Prop
  | .ok _ => True
  | .error stop => stop.Holds H

/-- A unit's program keeps a property `P` of what it works on, and holds on to states with the property `H` only. -/
structure Preserves (P : Eng → Prop) (H : State → Prop) (m : EM α) : Prop where
  run : ∀ e, P e → P (m.run e).2 ∧ Stopped.Holds H (m.run e).1

variable {P : Eng → Prop} {H : State → Prop}

@[simp] theorem Preserves.pure (a : α) : Preserves P H (pure a : EM α) :=
  ⟨fun _ h => ⟨h, trivial⟩⟩

@[simp] theorem Preserves.throw {stop : Stop} (h : stop.Holds H) : Preserves P H (throw stop : EM α) :=
  ⟨fun _ he => ⟨he, h⟩⟩

theorem Preserves.bind {m : EM α} {f : α → EM β} (hm : Preserves P H m) (hf : ∀ a, Preserves P H (f a)) :
    Preserves P H (m >>= f) := by
  refine ⟨fun e he => ?_⟩
  have h := hm.run e he
  have hrun : (m >>= f).run e = (ExceptT.bindCont f (m.run e).1 : StateM Eng _) (m.run e).2 := rfl
  rw [hrun]
  generalize m.run e = r at h
  obtain ⟨stop | a, e'⟩ := r
  · exact h
  · exact (hf a).run e' h.1

theorem Preserves.getBind {f : Eng → EM β} (hf : ∀ e, P e → Preserves P H (f e)) :
    Preserves P H (get >>= f) :=
  ⟨fun e he => (hf e he).run e he⟩

@[simp] theorem Preserves.get : Preserves P H (get : EM Eng) := ⟨fun _ h => ⟨h, trivial⟩⟩

@[simp] theorem Preserves.set {e : Eng} (h : P e) : Preserves P H (set e : EM PUnit) :=
  ⟨fun _ _ => ⟨h, trivial⟩⟩

theorem Preserves.modify {f : Eng → Eng} (hf : ∀ e, P e → P (f e)) :
    Preserves P H (modify f : EM PUnit) :=
  ⟨fun e he => ⟨hf e he, trivial⟩⟩

theorem Preserves.catching {m : EM α} {f : Stop → EM α} (hm : Preserves P H m)
    (hf : ∀ stop, stop.Holds H → Preserves P H (f stop)) : Preserves P H (tryCatch m f) := by
  refine ⟨fun e he => ?_⟩
  have h : P (m e).2 ∧ Stopped.Holds H (m e).1 := hm.run e he
  simp only [tryCatch, tryCatchThe, MonadExceptOf.tryCatch, ExceptT.tryCatch, ExceptT.run_mk, Bind.bind, StateT.bind]
  generalize m e = r at h
  obtain ⟨stop | a, e'⟩ := r
  · exact (hf stop h.2).run e' h.1
  · exact h

theorem Preserves.ite {c : Prop} [Decidable c] {m n : EM α} (hm : c → Preserves P H m) (hn : ¬c → Preserves P H n) :
    Preserves P H (if c then m else n) := by
  split
  · exact hm ‹_›
  · exact hn ‹_›

theorem Preserves.forLoop {l : List α} {b : β} {f : α → β → EM (ForInStep β)} (hf : ∀ a b, Preserves P H (f a b)) :
    Preserves P H (forIn l b f) := by
  induction l generalizing b with
  | nil => exact .pure b
  | cons a l ih =>
    rw [List.forIn_cons]
    refine .bind (hf a b) fun r => ?_
    cases r with
    | done b => exact .pure b
    | yield b => exact ih

theorem Preserves.mapList {l : List α} {f : α → EM β} (hf : ∀ a, Preserves P H (f a)) : Preserves P H (l.mapM f) := by
  induction l with
  | nil => exact .pure []
  | cons a l ih =>
    rw [List.mapM_cons]
    exact .bind (hf a) fun b => .bind ih fun bs => .pure _

theorem Preserves.foldLoop {l : List α} {b : β} {f : β → α → EM β} (hf : ∀ b a, Preserves P H (f b a)) :
    Preserves P H (l.foldlM f b) := by
  induction l generalizing b with
  | nil => exact .pure b
  | cons a l ih =>
    rw [List.foldlM_cons]
    exact .bind (hf b a) fun _ => ih

theorem Preserves.filterList {l : List α} {f : α → EM Bool} (hf : ∀ a, Preserves P H (f a)) :
    Preserves P H (l.filterM f) := by
  have haux (kept : List α) : Preserves P H (l.filterAuxM f kept) := by
    induction l generalizing kept with
    | nil => exact .pure kept
    | cons a l ih => exact .bind (hf a) fun _ => ih _
  exact .bind (haux []) fun _ => .pure _

theorem Preserves.forList {l : List α} {f : α → EM PUnit} (hf : ∀ a, Preserves P H (f a)) : Preserves P H (l.forM f) := by
  induction l with
  | nil => exact .pure _
  | cons a l ih =>
    exact .bind (hf a) fun _ => ih

theorem Preserves.map {m : EM α} {f : α → β} (hm : Preserves P H m) : Preserves P H (f <$> m) := by
  rw [map_eq_pure_bind]
  exact .bind hm fun _ => .pure _

/-- A unit's program keeps the invariant, whether it ends, waits or holds. -/
abbrev RunKeeps (σ : Store) (m : EM α) : Prop := Preserves (fun e => Keeps σ e.s.store) (fun s => Keeps σ s.store) m

@[simp] theorem emStop_keeps {n : Nat} : Preserves P H (emStop n : EM α) := .throw trivial

@[simp] theorem need_keeps {b : Bool} {n : Nat} : Preserves P H (need b n) := by
  unfold need
  split <;> simp

@[simp] theorem gets_keeps {f : State → α} : Preserves P H (gets f) := .bind .get fun _ => .pure _

theorem Preserves.getsBind {f : State → α} {g : α → EM β} (hg : ∀ e, P e → Preserves P H (g (f e.s))) :
    Preserves P H (gets f >>= g) :=
  ⟨fun e he => (hg e he).run e he⟩

theorem onS_keeps {f : State → State} (hf : ∀ s, Keeps σ s.store → Keeps σ (f s).store) : RunKeeps σ (onS f) :=
  .modify fun _ h => hf _ h

@[simp] theorem onC_keeps {f : Cmd → Cmd} : RunKeeps σ (onC f) := .modify fun _ h => h

@[simp] theorem fld_keeps {byte lo w : Nat} : Preserves P H (fld byte lo w) := .bind .get fun _ => .pure _

@[simp] theorem countC_keeps {i n : Nat} : RunKeeps σ (countC i n) := onC_keeps

@[simp] theorem noteTensors_keeps {l : List Nat} : RunKeeps σ (noteTensors l) := onC_keeps

/-- A program put together from programs that keep the invariant. -/
inductive Composed (σ : Store) : {α : Type} → EM α → Prop where
  | getBind {β : Type} {f : Eng → EM β} (hf : ∀ e, Keeps σ e.s.store → RunKeeps σ (f e)) : Composed σ (get >>= f)
  | bind {α β : Type} {m : EM α} {f : α → EM β} (hm : RunKeeps σ m) (hf : ∀ a, RunKeeps σ (f a)) :
    Composed σ (m >>= f)
  | ite {α : Type} {c : Prop} [Decidable c] {m n : EM α} (hm : c → RunKeeps σ m) (hn : ¬c → RunKeeps σ n) :
    Composed σ (if c then m else n)
  | forLoop {α β : Type} {l : List α} {b : β} {f : α → β → EM (ForInStep β)} (hf : ∀ a b, RunKeeps σ (f a b)) :
    Composed σ (forIn l b f)
  | foldLoop {α β : Type} {l : List α} {b : β} {f : β → α → EM β} (hf : ∀ b a, RunKeeps σ (f b a)) :
    Composed σ (l.foldlM f b)
  | mapList {α β : Type} {l : List α} {f : α → EM β} (hf : ∀ a, RunKeeps σ (f a)) : Composed σ (l.mapM f)
  | filterList {α : Type} {l : List α} {f : α → EM Bool} (hf : ∀ a, RunKeeps σ (f a)) : Composed σ (l.filterM f)
  | forList {α : Type} {l : List α} {f : α → EM PUnit} (hf : ∀ a, RunKeeps σ (f a)) : Composed σ (l.forM f)
  | map {α β : Type} {m : EM α} {f : α → β} (hm : RunKeeps σ m) : Composed σ (f <$> m)
  | catching {α : Type} {m : EM α} {f : Stop → EM α} (hm : RunKeeps σ m)
    (hf : ∀ stop, stop.Holds (fun s => Keeps σ s.store) → RunKeeps σ (f stop)) : Composed σ (tryCatch m f)
  | pure {α : Type} (a : α) : Composed σ (pure a : EM α)
  | onS {f : State → State} (hf : ∀ s, Keeps σ s.store → Keeps σ (f s).store) : Composed σ (onS f)

theorem Composed.keeps {m : EM α} (h : Composed σ m) : RunKeeps σ m := by
  cases h with
  | getBind hf => exact .getBind hf
  | bind hm hf => exact .bind hm hf
  | ite hm hn => exact .ite hm hn
  | forLoop hf => exact .forLoop hf
  | foldLoop hf => exact .foldLoop hf
  | mapList hf => exact .mapList hf
  | filterList hf => exact .filterList hf
  | forList hf => exact .forList hf
  | map hm => exact .map hm
  | catching hm hf => exact .catching hm hf
  | pure a => exact .pure a
  | onS hf => exact onS_keeps hf

/-- An instruction answers a next state and keeps the invariant. -/
def Answers (σ : Store) (r : Res) : Prop :=
  ∃ t, r = .next t ∧ Keeps σ t.store

@[simp] theorem Answers_next {s : State} : Answers σ (.next s) ↔ Keeps σ s.store :=
  ⟨fun ⟨_, ht, h⟩ => by cases ht; exact h, fun h => ⟨s, rfl, h⟩⟩

end Sys2Proof.Machine
end

section
/-! SUPPORT. Writes to memory, queues, commands and the loads and stores of the units' programs keep the invariant. -/

namespace Sys2Proof.Machine

open Sys2Proof

variable {σ : Store} {α β : Type}

/-! Of Machine/Ops. -/

theorem State.wr8_keeps {s : State} (a : Nat) (b : Byte) (h : Keeps σ s.store) : Keeps σ (s.wr8 a b).store :=
  ⟨h.1, wr8_wf s a b ∘ h.2⟩

@[simp] theorem State.wrBytes_keeps {s : State} (a : Nat) (bs : List Byte) (h : Keeps σ s.store) :
    Keeps σ (s.wrBytes a bs).store := by
  induction bs generalizing s a with
  | nil => exact h
  | cons b bs ih => exact ih (a + 1) (s.wr8_keeps a b h)

@[simp] theorem State.makeStale_keeps {s : State} (lo hi : Nat) (h : Keeps σ s.store) :
    Keeps σ (s.makeStale lo hi).store :=
  ⟨h.1, makeStale_wf s lo hi ∘ h.2⟩

theorem Wrote.keeps {a n : Nat} {s t : State} (ht : Wrote a n s t) (h : Keeps σ s.store) : Keeps σ t.store := by
  obtain ⟨⟨m, p, d, q, b, r, rfl⟩, -, hw⟩ := ht
  exact ⟨h.1, hw ∘ h.2⟩

@[simp] theorem State.wrMain_keeps {s : State} (pa : Nat) (bs : List Byte) (h : Keeps σ s.store) :
    Keeps σ (s.wrMain pa bs).1.store := (wrMain_wrote s pa bs).keeps h

/-- Outside the cut range, the cut ranges hold what the ranges held. -/
theorem staleAt_flatMap_cutRange {a b c : Nat} (l : List (Nat × Nat × Nat)) (hc : ¬(a ≤ c ∧ c < b)) :
    staleAt (l.flatMap (cutRange a b)) c = staleAt l c := by
  induction l with
  | nil => rfl
  | cons r l ih =>
    obtain ⟨lo, hi, n⟩ := r
    rw [List.flatMap_cons, cutRange, staleAt]
    split <;> split <;> simp only [List.cons_append, List.nil_append, staleAt, ih] <;> grind

@[simp] theorem State.clearMain_keeps {s : State} (a b : Nat) (h : Keeps σ s.store) :
    Keeps σ (s.clearMain a b).store := by
  refine ⟨h.1, fun hσ => ?_⟩
  have hs := h.2 hσ
  simp only [Memory.wf, Bool.and_eq_true, List.all_eq_true] at hs ⊢
  refine ⟨risingFrom_filter 0 _ _ hs.1, fun c hc => ?_⟩
  obtain ⟨hcs, hout⟩ := List.mem_filter.mp hc
  have hout : ¬(a ≤ c.1 ∧ c.1 < b) := by simp at hout; omega
  rw [show (s.clearMain a b).store.2.1 = s.stale.flatMap (cutRange a b) from rfl, staleAt_flatMap_cutRange _ hout]
  exact hs.2 c hcs

@[simp] theorem State.wrScratch_keeps {s : State} (a : Nat) (bs : List Byte) (h : Keeps σ s.store) :
    Keeps σ (s.wrScratch a bs).1.store := (wrScratch_wrote s a bs).keeps h

@[simp] theorem State.wrLocal_keeps {s : State} (a : Nat) (bs : List Byte) (h : Keeps σ s.store) :
    Keeps σ (s.wrLocal a bs).1.store := (wrLocal_wrote s a bs).keeps h

@[simp] theorem tracePut_keeps {s : State} (p type flags source skind stamp : Nat) (payload : List Byte)
    (h : Keeps σ s.store) :
    Keeps σ (tracePut s p type flags source skind stamp payload).store := by
  simp [tracePut, h]

@[simp] theorem State.traceRec_keeps {s : State} (p type flags source skind stamp : Nat) (payload : List Byte)
    (marker : Bool) (h : Keeps σ s.store) :
    Keeps σ (s.traceRec p type flags source skind stamp payload marker).store := by
  simp [State.traceRec, h]

/-! Of Machine/Traces. -/

@[simp] theorem traceAccess_keeps {s : State} (kind pa pond : Nat) (h : Keeps σ s.store) :
    Keeps σ (traceAccess s kind pa pond).store := by
  simp [traceAccess, h]

@[simp] theorem traceCe_keeps {s : State} (pa w n lane : Nat) (h : Keeps σ s.store) :
    Keeps σ (traceCe s pa w n lane).store := by
  simp [traceCe, h]

@[simp] theorem traceFrame_keeps {s : State} (port type len dst src addr eseq dir : Nat) (h : Keeps σ s.store) :
    Keeps σ (traceFrame s port type len dst src addr eseq dir).store := by
  simp [traceFrame, h]

@[simp] theorem traceLink_keeps {s : State} (port event : Nat) (h : Keeps σ s.store) :
    Keeps σ (traceLink s port event).store := by
  simp [traceLink, h]

/-! Of Machine/LinkCore. -/

@[simp] theorem sendOn_keeps {s : State} (p : Nat) (f : TxFrame) (h : Keeps σ s.store) :
    Keeps σ (sendOn s p f).store := by
  unfold sendOn
  extract_lets f₀ s₁ y vc wrap f₁ f₂ y₁ y₂ s₂
  have h₂ : Keeps σ s₂.store := traceFrame_keeps _ _ _ _ _ _ _ _ (by rw [State.setPort_store, freeVia_store]; exact h)
  split
  · rw [State.store_mk]
    exact h₂
  · exact h₂

@[simp] theorem flushN_keeps {s : State} (n : Nat) (h : Keeps σ s.store) : Keeps σ (flushN n s).store := by
  induction n generalizing s with
  | zero => exact h
  | succ n ih =>
    rw [flushN]
    split
    · exact h
    · exact ih (sendOn_keeps _ _ (by simpa using h))

@[simp] theorem State.flushLinks_keeps {s : State} (h : Keeps σ s.store) : Keeps σ (s.flushLinks).store := by
  simp [State.flushLinks, h]

@[simp] theorem State.sendFrame_keeps {s : State} (f : TxFrame) (h : Keeps σ s.store) :
    Keeps σ (s.sendFrame f).store := by
  simp [State.sendFrame, h]

@[simp] theorem State.request_keeps {s : State} (who : Requester) (type dst addr len : Nat) (payload : List Byte)
    (h : Keeps σ s.store) :
    Keeps σ (s.request who type dst addr len payload).store := by
  simp [State.request, h]

@[simp] theorem State.requestPath_keeps {s : State} (who : Requester) (type path addr len : Nat)
    (payload : List Byte) (h : Keeps σ s.store) :
    Keeps σ (s.requestPath who type path addr len payload).store := by
  simp [State.requestPath, h]

@[simp] theorem sendCtl_keeps {s : State} (p type : Nat) (payload : List Byte) (h : Keeps σ s.store) :
    Keeps σ (sendCtl s p type payload).store := by
  unfold sendCtl
  exact traceFrame_keeps _ _ _ _ _ _ _ _ (by rw [State.setPort_store]; exact h)

@[simp] theorem sendCtrl_keeps {s : State} (p : Nat) (nak : Bool) (h : Keeps σ s.store) :
    Keeps σ (sendCtrl s p nak).store := by
  unfold sendCtrl
  exact sendCtl_keeps _ _ _ (by rw [State.setPort_store]; exact h)

@[simp] theorem answer_keeps {s : State} (f : RxFrame) (type status : Nat) (data : List Byte) (h : Keeps σ s.store) :
    Keeps σ (answer s f type status data).store := by
  simp [answer, h]

@[simp] theorem State.raiseIrq_keeps {s : State} (v : Nat) (h : Keeps σ s.store) : Keeps σ (s.raiseIrq v).store := by
  simp [State.raiseIrq, h]

/-! Of Machine/Sync. -/

@[simp] theorem State.signalRef_keeps {s : State} (r : SemRef) (n : Nat) (who : SigSrc) (h : Keeps σ s.store) :
    Keeps σ (s.signalRef r n who).store := by
  simp [State.signalRef, h]

/-! Of Machine/Queue. -/

@[simp] theorem writeSeqs_keeps {s : State} (q c n : Nat) (h : Keeps σ s.store) : Keeps σ (writeSeqs s q c n).store := by
  induction n generalizing s c with
  | zero => exact h
  | succ n ih => exact ih _ (State.wrLocal_keeps _ _ h)

@[simp] theorem doorbell_keeps {s : State} (q v : Nat) (h : Keeps σ s.store) : Keeps σ (doorbell s q v).store := by
  simp [doorbell, h]

@[simp] theorem tailWrite_keeps {s : State} (q v : Nat) (h : Keeps σ s.store) : Keeps σ (tailWrite s q v).store := by
  simp [tailWrite, h]

@[simp] theorem answerHeld_keeps {s : State} (r : HeldRead) (h : Keeps σ s.store) :
    Keeps σ (answerHeld s r).store := by
  unfold answerHeld
  split <;> simp [h]

@[simp] theorem judgeHeld_keeps {s : State} (h : Keeps σ s.store) : Keeps σ (judgeHeld s).store := by
  refine foldl_keeps _ (foldl_keeps _ (by simpa using h) fun t qv ht => ?_) fun t a ht => ?_
  · exact doorbell_keeps _ _ ht
  · exact answerHeld_keeps _ ht

@[simp] theorem traceCmd_keeps {s : State} (q : Nat) (c : Cmd) (retire : Bool) (status : Nat) (h : Keeps σ s.store) :
    Keeps σ (traceCmd s q c retire status).store := by
  simp [traceCmd, h]

@[simp] theorem startCmd_keeps {s : State} (q : Nat) (raw : BitVec 512) (seq : Nat) (phase : CPhase) (ringErr : Bool)
    (h : Keeps σ s.store) :
    Keeps σ (startCmd s q raw seq phase ringErr).store := by
  unfold startCmd
  dsimp only
  split <;> simp [h]

@[simp] theorem headStart_keeps {s : State} (q seq raw : Nat) (wants : Nat → Bool) (h : Keeps σ s.store) :
    Keeps σ (headStart s q seq raw wants).store := by
  simp [headStart, h]

@[simp] theorem commandStart_keeps {s : State} (q : Nat) (h : Keeps σ s.store) :
    Keeps σ (commandStart s q).store := by
  simp [commandStart, h]

@[simp] theorem syncTable_keeps {s : State} (t : Nat) (h : Keeps σ s.store) : Keeps σ (syncTable s t).store := by
  unfold syncTable
  split <;> simp [h]

@[simp] theorem tableDrained_keeps {s : State} (t : Nat) (h : Keeps σ s.store) :
    Keeps σ (tableDrained s t).store := by
  unfold tableDrained
  split <;> simp [h]

@[simp] theorem settleTable_keeps {s : State} (t : Nat) (h : Keeps σ s.store) : Keeps σ (settleTable s t).store := by
  unfold settleTable
  split <;> simp [h]

@[simp] theorem unbindTable_keeps {s : State} (t ver : Nat) (h : Keeps σ s.store) :
    Keeps σ (unbindTable s t ver).store := by
  unfold unbindTable
  split <;> simp [h]

@[simp] theorem endBinding_keeps {s : State} (raw : Nat) (j : JEnt) (h : Keeps σ s.store) :
    Keeps σ (endBinding s raw j).store := by
  unfold endBinding
  (repeat' split) <;> simp [h]

@[simp] theorem State.setTrough_keeps {s : State} (p : Nat) (x : TroughSt) (h : Keeps σ s.store) :
    Keeps σ (s.setTrough p x).store := by
  have put (s : State) (f : State → Nat × TEntry → State) (g : State → Nat × TEntry → State) (a b : SMap TEntry)
      (hf : ∀ s e, Keeps σ s.store → Keeps σ (f s e).store) (hg : ∀ s e, Keeps σ s.store → Keeps σ (g s e).store)
      (h : Keeps σ s.store) : Keeps σ (a.foldl g (b.foldl f s)).store := foldl_keeps _ (foldl_keeps _ h hf) hg
  have wr (c : Prop) [Decidable c] (s : State) (a : Nat) (d : List Byte) (h : Keeps σ s.store) :
      Keeps σ (if c then s else (s.wrLocal a d).1).store := by simp [h]
  unfold State.setTrough
  simp only [State.store_mk, State.store_eta, State.set_store]
  refine put _ _ _ _ _ (fun _ _ => wr _ _ _ _) (fun _ _ => wr _ _ _ _) ?_
  exact put _ _ _ _ _ (fun _ _ => wr _ _ _ _) (fun _ _ => wr _ _ _ _) h

@[simp] theorem freeKeys_keeps {s : State} (p : Nat) (ks : List Nat) (h : Keeps σ s.store) :
    Keeps σ (freeKeys s p ks).store := s.setTrough_keeps _ _ h

@[simp] theorem addStats_keeps {s : State} (lg sl sg n : Nat) (h : Keeps σ s.store) :
    Keeps σ (addStats s lg sl sg n).store := by
  simp [addStats, h]

@[simp] theorem commitFx_keeps {s : State} (q : Nat) (c : Cmd) (x1 : RetFx) (h : Keeps σ s.store) :
    Keeps σ (commitFx q c s x1).store := by
  unfold commitFx
  split <;> simp [h]

@[simp] theorem writeCmpl_keeps {s : State} (q seq status layer op : Nat) (h : Keeps σ s.store) :
    Keeps σ (writeCmpl s q seq status layer op).store := by
  simp [writeCmpl, h]

@[simp] theorem clogAppend_keeps {s : State} (l : CLog) (d : List Byte) (h : Keeps σ s.store) :
    Keeps σ (clogAppend s l d).1.store := by
  unfold clogAppend
  dsimp only
  split
  · simpa using h
  · split <;> rename_i hr
    · exact foldl_fst_keeps _ _ (by rw [snd_store hr]; simpa using h) fun t b a ht => State.wrLocal_keeps _ _ ht
    · rw [State.stick_store, snd_store hr]
      simpa using h

@[simp] theorem checkLog_keeps {s : State} (c : Cmd) (h : Keeps σ s.store) : Keeps σ (checkLog s c).store := by
  unfold checkLog
  split <;> simp [h]

theorem retireStep_keeps {s : State} (q : Nat) (c : Cmd) (status : Nat) {extra : State → State} (h : Keeps σ s.store)
    (hx : ∀ t, Keeps σ t.store → Keeps σ (extra t).store) : Keeps σ (retireStep s q c status extra).store := by
  unfold retireStep
  extract_lets raw status' ok s₁ s₂ s₃ s₄ y j s₅ s₆ s₇ s₈ s₉ s₁₀ halts
  have h₂ : Keeps σ s₂.store := by
    unfold s₂
    split
    · exact hx _ (foldl_keeps _ (checkLog_keeps _ h) fun t fx ht => commitFx_keeps _ _ _ ht)
    · exact checkLog_keeps _ h
  have h₆ : Keeps σ s₆.store := endBinding_keeps _ _ (by simpa [s₅, s₄, s₃] using h₂)
  have h₉ : Keeps σ s₉.store := by simp [s₉, s₈, s₇, h₆]
  have h₁₀ : Keeps σ s₁₀.store := by
    unfold s₁₀
    split <;> simpa using h₉
  split
  extract_lets s₁₁ s₁₂ s₁₃ s₁₄ s₁₅ s₁₆
  have h₁₁ : Keeps σ s₁₁.store := by simp [s₁₁, h₁₀]
  have h₁₃ : Keeps σ s₁₃.store := by simp [s₁₃, s₁₂, h₁₁]
  have h₁₅ : Keeps σ s₁₅.store := by simp [s₁₅, s₁₄, h₁₃]
  have h₁₆ : Keeps σ s₁₆.store := by simp [s₁₆, h₁₅]
  simp [h₁₆]

theorem retireOldest_keeps {s : State} (q : Nat) (c : Cmd) (status : Nat) {extra : State → State} (h : Keeps σ s.store)
    (hx : ∀ t, Keeps σ t.store → Keeps σ (extra t).store) : Keeps σ (retireOldest s q c status extra).store := by
  unfold retireOldest
  split
  · simpa using h
  · exact retireStep_keeps q c status h hx

theorem controlRetire_keeps {s : State} (q opc : Nat) {act : State → Cmd → Nat × (State → State)} (h : Keeps σ s.store)
    (ha : ∀ s c t, Keeps σ t.store → Keeps σ ((act s c).2 t).store) : Keeps σ (controlRetire s q opc act).store := by
  unfold controlRetire
  split
  · exact h
  · exact retireOldest_keeps _ _ _ h (ha _ _)

@[simp] theorem discardOne_keeps {s : State} (q : Nat) (h : Keeps σ s.store) : Keeps σ (discardOne s q).store := by
  unfold discardOne
  extract_lets y seq s₁ a raw s₂ s₃ s₄ j s₅ s₆ s₇ s₈
  have h₁ : Keeps σ s₁.store := by
    unfold s₁
    split <;> simp [h]
  have h₂ : Keeps σ s₂.store := by
    unfold s₂
    split <;> simpa using h₁
  have h₆ : Keeps σ s₆.store := by simp [s₆, s₅, s₄, s₃, h₂]
  have h₇ : Keeps σ s₇.store := by
    unfold s₇
    split <;> simpa using h₆
  simp [s₈, h₇]

@[simp] theorem discardLoop_keeps {s : State} (n q : Nat) (h : Keeps σ s.store) : Keeps σ (discardLoop n s q).store := by
  induction n generalizing s with
  | zero => exact h
  | succ n ih =>
    rw [discardLoop]
    split
    · simpa using h
    · split
      · simpa using h
      · exact ih (by simpa using discardOne_keeps q h)

@[simp] theorem discard_keeps {s : State} (q : Nat) (h : Keeps σ s.store) : Keeps σ (discard s q).store := by
  simp [discard, h]

@[simp] theorem discardQueue_keeps {s : State} (q : Nat) (h : Keeps σ s.store) :
    Keeps σ (discardQueue s q).store := by
  simp [discardQueue, h]

@[simp] theorem cheadWrite_keeps {s : State} (q v : Nat) (h : Keeps σ s.store) :
    Keeps σ (cheadWrite s q v).store := by
  simp [cheadWrite, h]

@[simp] theorem qcfgWrite_keeps {s : State} (q v : Nat) (h : Keeps σ s.store) : Keeps σ (qcfgWrite s q v).store := by
  simp [qcfgWrite, h]

/-! Of Machine/Control. -/

@[simp] theorem execTailDoorbell_keeps {s : State} (q value : Nat) (h : Keeps σ s.store) :
    Answers σ (execTailDoorbell q value s) := by
  simp [execTailDoorbell, h]

@[simp] theorem execQtabCfgWrite_keeps {s : State} (q value : Nat) (h : Keeps σ s.store) :
    Answers σ (execQtabCfgWrite q value s) := by
  simp [execQtabCfgWrite, h]

@[simp] theorem execResume_keeps {s : State} (q : Nat) (h : Keeps σ s.store) : Answers σ (execResume q s) := by
  simp [execResume, h]

@[simp] theorem execDiscard_keeps {s : State} (q : Nat) (h : Keeps σ s.store) : Answers σ (execDiscard q s) := by
  simp [execDiscard, h]

@[simp] theorem execQtabCheadWrite_keeps {s : State} (q value : Nat) (h : Keeps σ s.store) :
    Answers σ (execQtabCheadWrite q value s) := by
  simp [execQtabCheadWrite, h]

@[simp] theorem execNop_keeps {s : State} (q : Nat) (h : Keeps σ s.store) : Answers σ (execNop q s) :=
  Answers_next.mpr (controlRetire_keeps _ _ h fun _ _ _ h => h)

@[simp] theorem execSignal_keeps {s : State} (q : Nat) (h : Keeps σ s.store) : Answers σ (execSignal q s) := by
  refine Answers_next.mpr (controlRetire_keeps _ _ h fun s c t ht => ?_)
  unfold signalAct
  dsimp only
  split <;> simp [ht]

@[simp] theorem execDecsem_keeps {s : State} (q : Nat) (h : Keeps σ s.store) : Answers σ (execDecsem q s) := by
  have ht : Keeps σ (controlRetire s q 3 decsemAct).store := by
    refine controlRetire_keeps _ _ h fun s c t ht => ?_
    unfold decsemAct
    dsimp only
    split
    · split <;> simp [ht]
    · exact ht
  unfold execDecsem
  rw [Answers_next]
  dsimp only
  split
  · split
    · split <;> simp [ht]
    · exact ht
  · exact ht

@[simp] theorem execSemset_keeps {s : State} (q : Nat) (h : Keeps σ s.store) : Answers σ (execSemset q s) := by
  refine Answers_next.mpr (controlRetire_keeps _ _ h fun s c t ht => ?_)
  unfold semsetAct
  dsimp only
  split <;> simp [ht]

@[simp] theorem execBarInit_keeps {s : State} (q : Nat) (h : Keeps σ s.store) : Answers σ (execBarInit q s) := by
  refine Answers_next.mpr (controlRetire_keeps _ _ h fun s c t ht => ?_)
  unfold barInitAct
  dsimp only
  split <;> simp [ht]

@[simp] theorem execWaitsem_keeps {s : State} (q : Nat) (h : Keeps σ s.store) : Answers σ (execWaitsem q s) := by
  unfold execWaitsem
  (repeat' split) <;> simp [h]

@[simp] theorem execBarrier_keeps {s : State} (q : Nat) (h : Keeps σ s.store) : Answers σ (execBarrier q s) := by
  unfold execBarrier
  split <;> simp [h]

@[simp] theorem execSemValWrite_keeps {s : State} (off value : Nat) (h : Keeps σ s.store) :
    Answers σ (execSemValWrite off value s) := by
  simp [execSemValWrite, h]

@[simp] theorem execFsemSigWrite_keeps {s : State} (n amount : Nat) (h : Keeps σ s.store) :
    Answers σ (execFsemSigWrite n amount s) := by
  simp [execFsemSigWrite, h]

/-! Of Machine/Engine. -/

@[simp] theorem accStop_keeps {wr : Bool} {e : AccErr} : RunKeeps σ (accStop wr e : EM α) := by
  unfold accStop
  split
  · exact emStop_keeps
  · exact .bind (onS_keeps (by simp)) fun _ => emStop_keeps
  · exact .bind (onS_keeps (by simp)) fun _ => emStop_keeps
  · exact .bind (onS_keeps (by simp)) fun _ => emStop_keeps
  · exact emStop_keeps

@[simp] theorem place_keeps {a n : Nat} {wr : Bool} : RunKeeps σ (place a n wr) := by
  unfold place
  refine .getBind fun e he => ?_
  have hr := resolve_store e.s e.ctx a n wr
  generalize resolve e.s e.ctx a n wr = r at hr
  refine .bind (.set (hr ▸ he)) fun _ => ?_
  split
  · exact .pure _
  · split
    · exact .pure _
    · split <;> simp
  · exact accStop_keeps

@[simp] theorem notHost_keeps {a : Nat} : RunKeeps σ (notHost a) := by
  unfold notHost
  refine .getBind fun e he => ?_
  have hr := resolve_store e.s e.ctx a 1 false
  generalize resolve e.s e.ctx a 1 false = r at hr
  refine .bind (.set (hr ▸ he)) fun _ => ?_
  split <;> simp

@[simp] theorem ld_keeps {a n : Nat} : RunKeeps σ (ld a n) := by
  unfold ld
  refine .ite (fun _ => .pure _) fun _ => .bind place_keeps fun p => ?_
  split
  · refine .bind .get fun _ => ?_
    split
    · exact .pure _
    · exact .throw trivial
  · next parts =>
    refine .getBind fun e he => ?_
    have ht : Keeps σ (parts.foldl (fun s p => touch s p.1) e.s).store := foldl_keeps _ he (by simp)
    refine .ite (fun _ => .bind emStop_keeps fun _ => ?_) fun _ => ?_
    all_goals
      dsimp only
      split
      · refine .bind (.set ?_) fun _ => .bind noteTensors_keeps fun _ => .pure _
        rw [demandParts_store]
        exact ht
      · refine .bind (.set ?_) fun _ => .bind noteTensors_keeps fun _ => .pure _
        rw [directParts_store]
        exact ht

@[simp] theorem ldN_keeps {a n : Nat} : RunKeeps σ (ldN a n) := .bind ld_keeps fun _ => .pure _

@[simp] theorem ldLocal_keeps {a n : Nat} : RunKeeps σ (ldLocal a n) :=
  .getBind fun _ he => .bind (.set he) fun _ => .bind ld_keeps fun _ =>
    .bind (.modify fun _ h => h) fun _ => .pure _

@[simp] theorem ldLocalN_keeps {a n : Nat} : RunKeeps σ (ldLocalN a n) := .bind ldLocal_keeps fun _ => .pure _

@[simp] theorem putParts_keeps {l : List (Nat × Nat)} {d : List Byte} : RunKeeps σ (putParts l d) := by
  induction l generalizing d with
  | nil => exact .pure _
  | cons p l ih => exact .bind (.modify fun e he => by simp [he]) fun _ => ih

@[simp] theorem hostStore_keeps {h : Nat} {d : List Byte} : RunKeeps σ (hostStore h d) :=
  .modify fun e he => by simpa using he

@[simp] theorem noteWrite_keeps {a : Nat} {l : List (Nat × Nat)} {d : List Byte} : RunKeeps σ (noteWrite a l d) := by
  induction l generalizing a d with
  | nil => exact .pure _
  | cons p l ih => exact .bind (.modify fun e he => by dsimp only; split <;> exact he) fun _ => ih

@[simp] theorem noteHost_keeps {a : Nat} {d : List Byte} : RunKeeps σ (noteHost a d) :=
  .modify fun e he => by dsimp only; split <;> exact he

@[simp] theorem sideOk_keeps {a n : Nat} : RunKeeps σ (sideOk a n) := by
  refine .bind .get fun e => ?_
  split <;> simp

@[simp] theorem st_keeps {a : Nat} {d : List Byte} : RunKeeps σ (st a d) := by
  unfold st
  refine .ite (fun _ => .pure _) fun _ => .bind sideOk_keeps fun _ => .bind place_keeps fun p => ?_
  split
  · exact .bind noteHost_keeps fun _ => hostStore_keeps
  · exact .bind noteWrite_keeps fun _ => putParts_keeps

@[simp] theorem canStore_keeps {a n : Nat} : RunKeeps σ (canStore a n) :=
  .ite (fun _ => .pure _) fun _ => .bind place_keeps fun _ => .pure _

@[simp] theorem stN_keeps {a n v : Nat} : RunKeeps σ (stN a n v) := st_keeps

@[simp] theorem stLocal_keeps {a : Nat} {d : List Byte} : RunKeeps σ (stLocal a d) := by
  unfold stLocal
  refine .ite (fun _ => .pure _) fun _ => .getBind fun e he => .bind (.set he) fun _ => .bind place_keeps fun p => ?_
  have hm : RunKeeps σ (modify fun e' => { e' with ctx := e.ctx } : EM Unit) := .modify fun _ h => h
  dsimp only
  split
  · exact .bind noteHost_keeps fun _ => .bind hostStore_keeps fun _ => hm
  · exact .bind noteWrite_keeps fun _ => .bind putParts_keeps fun _ => hm

@[simp] theorem needAll_keeps {asks : List Ask} : RunKeeps σ (needAll asks) :=
  .ite (fun _ => .pure _) fun _ => .throw trivial

@[simp] theorem rdRemote_keeps {key dev addr n : Nat} : RunKeeps σ (rdRemote key dev addr n) := by
  refine .bind .get fun e => ?_
  dsimp only
  split
  · exact .pure _
  · exact .throw trivial

@[simp] theorem wrRemote_keeps {dev addr : Nat} {d : List Byte} : RunKeeps σ (wrRemote dev addr d) :=
  .forList fun c => .modify fun e he => by simp [he]

@[simp] theorem ldFab_keeps {key fa n : Nat} : RunKeeps σ (ldFab key fa n) := by
  unfold ldFab
  repeat' with_reducible first | (apply Composed.keeps; constructor) | intro _ | simp [*]

@[simp] theorem stFab_keeps {fa : Nat} {d : List Byte} : RunKeeps σ (stFab fa d) := by
  unfold stFab
  repeat' with_reducible first | (apply Composed.keeps; constructor) | intro _ | simp [*]

@[simp] theorem sendAsk_keeps {s : State} (q seq : Nat) (a : Ask) (h : Keeps σ s.store) :
    Keeps σ (sendAsk s q seq a).store := by
  unfold sendAsk
  split <;> simp [h]

@[simp] theorem sendAsks_keeps {s : State} (n q seq : Nat) (h : Keeps σ s.store) :
    Keeps σ (sendAsks n s q seq).store := by
  induction n generalizing s with
  | zero => exact h
  | succ n ih =>
    rw [sendAsks]
    split
    · exact h
    · split
      · exact h
      · split
        · exact ih (sendAsk_keeps _ _ _ (by simpa using h))
        · exact h

@[simp] theorem moreAsks_keeps {s : State} (h : Keeps σ s.store) : Keeps σ (moreAsks s).store :=
  foldl_keeps _ h fun _ _ h => foldl_keeps _ h fun _ _ h => sendAsks_keeps _ _ _ h

@[simp] theorem finish_keeps {e : Eng} (q status : Nat) (h : Keeps σ e.s.store) : Keeps σ (finish q e status).store := by
  simp [finish, h]

@[simp] theorem runBody_keeps {s : State} (q : Nat) (c : Cmd) {body : EM Unit} (h : Keeps σ s.store)
    (hb : RunKeeps σ body) : Keeps σ (runBody s q c body).store := by
  have hr := hb.run ⟨s, c, ctxOfQ s q, false⟩ h
  unfold runBody
  generalize body.run ⟨s, c, ctxOfQ s q, false⟩ = r at hr ⊢
  obtain ⟨r, e⟩ := r
  obtain ⟨he, hs⟩ := hr
  dsimp only at he hs ⊢
  split
  · exact finish_keeps _ _ he
  · exact finish_keeps _ _ he
  · exact hs
  · exact sendAsks_keeps _ _ _ (by simpa using h)

@[simp] theorem runUnit_keeps {s : State} (q opc : Nat) {body : EM Unit} (h : Keeps σ s.store) (hb : RunKeeps σ body) :
    Keeps σ (runUnit s q opc body).store := by
  unfold runUnit
  split
  · exact h
  · exact runBody_keeps _ _ h hb

@[simp] theorem answerCmd_keeps {s : State} (q seq key status : Nat) (data : List Byte) (h : Keeps σ s.store) :
    Keeps σ (answerCmd s q seq key status data).store := by
  simp [answerCmd, h]

end Sys2Proof.Machine
end

section
/-! SUPPORT. Matrix programs, the main memory's events and the slabs keep the invariant. -/

namespace Sys2Proof.Machine

open Sys2Proof

variable {σ : Store} {α β : Type}

/-! Of Machine/Tiles. -/

@[simp] theorem ldDesc_keeps {a : Nat} : RunKeeps σ (ldDesc a) := by
  unfold ldDesc
  repeat' with_reducible first | (apply Composed.keeps; constructor) | intro _ | simp [*]

@[simp] theorem ldEntries_keeps {d : Desc} {a : Nat} : RunKeeps σ (ldEntries d a) := by
  unfold ldEntries
  repeat' with_reducible first | (apply Composed.keeps; constructor) | intro _ | simp [*]

@[simp] theorem ldTile_keeps {d : Desc} {a : Nat} : RunKeeps σ (ldTile d a) := by
  unfold ldTile
  repeat' with_reducible first | (apply Composed.keeps; constructor) | intro _ | simp [*]

/-! Of Machine/Matrix. -/

@[simp] theorem ldSparse_keeps {d : Desc} {a k n : Nat} : RunKeeps σ (ldSparse d a k n) := by
  unfold ldSparse
  repeat' with_reducible first | (apply Composed.keeps; constructor) | intro _ | simp [*]

@[simp] theorem mloadOne_keeps {mode x3 : Nat} {arrs : List Nat} {t : Nat} {d : Desc} {a k n : Nat} :
    RunKeeps σ (mloadOne mode x3 arrs t d a k n) := by
  unfold mloadOne
  repeat' with_reducible first | (apply Composed.keeps; constructor) | intro _ | simp [*]

@[simp] theorem mloadBody_keeps {q : Nat} : RunKeeps σ (mloadBody q) := by
  unfold mloadBody
  repeat' with_reducible first | (apply Composed.keeps; constructor) | intro _ | simp [*]

@[simp] theorem execMload_keeps {s : State} (q : Nat) (h : Keeps σ s.store) : Answers σ (execMload q s) := by
  unfold execMload
  split <;> simp [h]

@[simp] theorem execPlaneSwap_keeps {s : State} (m array : Nat) (h : Keeps σ s.store) :
    Answers σ (execPlaneSwap m array s) := by
  unfold execPlaneSwap
  dsimp only
  split <;> simp [h]

@[simp] theorem ldATiles_keeps {a stride akt rows : Nat} {fs : List Feed} :
    RunKeeps σ (ldATiles a stride akt rows fs) := by
  unfold ldATiles
  repeat' with_reducible first | (apply Composed.keeps; constructor) | intro _ | simp [*] | split

@[simp] theorem mmulBody_keeps {q : Nat} : RunKeeps σ (mmulBody q) := by
  unfold mmulBody
  repeat' with_reducible first | (apply Composed.keeps; constructor) | intro _ | simp [*] | split

@[simp] theorem execMmul_keeps {s : State} (q : Nat) (h : Keeps σ s.store) : Answers σ (execMmul q s) := by
  unfold execMmul
  split <;> simp [h]

@[simp] theorem mstoreBody_keeps {q : Nat} : RunKeeps σ (mstoreBody q) := by
  unfold mstoreBody
  repeat' with_reducible first | (apply Composed.keeps; constructor) | intro _ | simp [*]

@[simp] theorem execMstore_keeps {s : State} (q : Nat) (h : Keeps σ s.store) : Answers σ (execMstore q s) := by
  simp [execMstore, h]

/-! Of Machine/Slab. -/

@[simp] theorem slabApply_keeps {s : State} (p cache trg hot trace : Nat) (h : Keeps σ s.store) :
    Keeps σ (slabApply s p cache trg hot trace).store := by
  unfold slabApply
  split
  extract_lets old moved x s₁ s₂ s₃ traced s₄ s₅
  have h₂ : Keeps σ s₂.store := by
    unfold s₂
    split <;> simpa [s₁] using h
  have h₃ : Keeps σ s₃.store := foldl_keeps _ h₂ fun s m hs => State.makeStale_keeps _ _ hs
  have h₄ : Keeps σ s₄.store := by simpa [s₄] using h₃
  split <;> simp [s₅, h₄]

@[simp] theorem slabReconfig_keeps {s : State} (p : Nat) (h : Keeps σ s.store) :
    Keeps σ (slabReconfig s p).store := by
  simp [slabReconfig, h]

@[simp] theorem slabBoundary_keeps {s : State} (h : Keeps σ s.store) : Keeps σ (slabBoundary s).store :=
  foldl_keeps _ h fun _ _ h => slabReconfig_keeps _ h

/-! Of Machine/MemEvents. -/

@[simp] theorem probeRead_keeps {s : State} (pa : Nat) (sample : RawErrors) (h : Keeps σ s.store) :
    Keeps σ (probeRead s pa sample).store := by
  unfold probeRead
  dsimp only
  split <;> simp [h]

@[simp] theorem readBlock_keeps {s : State} (pa : Nat) (e : RawErrors) (scrub : Bool) (h : Keeps σ s.store) :
    Keeps σ (readBlock s pa e scrub).2.2.store := by
  unfold readBlock
  dsimp only
  (repeat' split) <;> simp [h]

@[simp] theorem memoryRead_keeps {s : State} (r : MemRead) (h : Keeps σ s.store) : Keeps σ (memoryRead s r).store := by
  unfold memoryRead
  extract_lets line s₁ err s₂ s₃
  have h₁ : Keeps σ s₁.store := by simp [s₁, h]
  have h₃ : Keeps σ s₃.store := by simp [s₃, s₂, h₁]
  split
  · exact h
  · rw [State.setPond_store]
    exact readBlock_keeps _ _ _ h₃

@[simp] theorem execMemoryRead_keeps {s : State} (r : MemRead) (h : Keeps σ s.store) :
    Answers σ (execMemoryRead r s) := by
  simp [execMemoryRead, h]

@[simp] theorem execMemoryWrite_keeps {s : State} (w : MemWrite) (h : Keeps σ s.store) :
    Answers σ (execMemoryWrite w s) := by
  simp [execMemoryWrite, h]

@[simp] theorem execInvalidation_keeps {s : State} (p line : Nat) (h : Keeps σ s.store) :
    Answers σ (execInvalidation p line s) := by
  simp [execInvalidation, h]

@[simp] theorem execPondCacheFill_keeps {s : State} (p line : Nat) (h : Keeps σ s.store) :
    Answers σ (execPondCacheFill p line s) := by
  unfold execPondCacheFill
  dsimp only
  split <;> simp [h]

@[simp] theorem execPrefetchDepthAdjust_keeps {s : State} (p : Nat) (h : Keeps σ s.store) :
    Answers σ (execPrefetchDepthAdjust p s) := by
  simp [execPrefetchDepthAdjust, h]

@[simp] theorem execPatrolScrub_keeps {s : State} (chan block : Nat) (e sample : RawErrors) (last : Bool)
    (h : Keeps σ s.store) : Answers σ (execPatrolScrub chan block e sample last s) := by
  unfold execPatrolScrub
  extract_lets pa e' s₁ s₂
  have h₁ : Keeps σ s₁.store := by simp [s₁, h]
  have h₂ : Keeps σ s₂.store := by
    unfold s₂
    split
    · exact h
    · split
      next ok fixed t hr =>
        have ht : Keeps σ t.store := by simpa [hr] using readBlock_keeps pa e' true h₁
        extract_lets s₃ r
        have h₃ : Keeps σ s₃.store := by
          unfold s₃
          split <;> exact ht
        simp [h₃]
  simp [h₂]

@[simp] theorem slabWord_keeps {s : State} (p off : Nat) (e : SlabErrors) (h : Keeps σ s.store) :
    Keeps σ (slabWord s p off e).store := by
  simp [slabWord, h]

@[simp] theorem execSlabScrub_keeps {s : State} (p off : Nat) (e : SlabErrors) (h : Keeps σ s.store) :
    Answers σ (execSlabScrub p off e s) := by
  simp [execSlabScrub, h]

@[simp] theorem execSlabRead_keeps {s : State} (p off : Nat) (e : SlabErrors) (h : Keeps σ s.store) :
    Answers σ (execSlabRead p off e s) := by
  simp [execSlabRead, h]

@[simp] theorem execCalibrationProbe_keeps {s : State} (chan : Nat) (h : Keeps σ s.store) :
    Answers σ (execCalibrationProbe chan s) := by
  simp [execCalibrationProbe, h]

@[simp] theorem execProbePhaseEnd_keeps {s : State} (chan : Nat) (h : Keeps σ s.store) :
    Answers σ (execProbePhaseEnd chan s) := by
  unfold execProbePhaseEnd
  dsimp only
  split <;> simp [h]

@[simp] theorem execProbeAbandon_keeps {s : State} (chan : Nat) (h : Keeps σ s.store) :
    Answers σ (execProbeAbandon chan s) := by
  unfold execProbeAbandon
  dsimp only
  split <;> simp [h]

@[simp] theorem execTlbInvalidate_keeps {s : State} (value : Nat) (h : Keeps σ s.store) :
    Answers σ (execTlbInvalidate value s) := by
  simp [execTlbInvalidate, h]

@[simp] theorem execTlbInvalidateDone_keeps {s : State} (h : Keeps σ s.store) :
    Answers σ (execTlbInvalidateDone s) := by
  simp [execTlbInvalidateDone, h]

@[simp] theorem execSlabReconfigure_keeps {s : State} (p : Nat) (h : Keeps σ s.store) :
    Answers σ (execSlabReconfigure p s) := by
  simp [execSlabReconfigure, h]

@[simp] theorem execPerBankRefresh_keeps {s : State} (chan bank mr4 : Nat) (h : Keeps σ s.store) :
    Answers σ (execPerBankRefresh chan bank mr4 s) := by
  simp [execPerBankRefresh, h]

/-! Of Machine/Vector. -/

@[simp] theorem runVector_keeps {s : State} (q opc : Nat) {body : EM Unit} (h : Keeps σ s.store)
    (hb : RunKeeps σ body) : Keeps σ (runVector s q opc body).store := by
  unfold runVector
  split
  · exact h
  · simp [h, hb]

end Sys2Proof.Machine
end

section
/-! SUPPORT. Vector and graph programs keep the invariant. -/

namespace Sys2Proof.Machine

open Sys2Proof

variable {σ : Store} {α β : Type}

/-! Of Machine/Vector. -/

@[simp] theorem rdOp_keeps {home : Nat} {tile : Bool} {a n : Nat} : RunKeeps σ (rdOp home tile a n) := by
  unfold rdOp
  repeat' with_reducible first | (apply Composed.keeps; constructor) | intro _ | simp [*]

@[simp] theorem wrOp_keeps {home : Nat} {tile : Bool} {a : Nat} {d : List Byte} :
    RunKeeps σ (wrOp home tile a d) := by
  unfold wrOp
  repeat' with_reducible first | (apply Composed.keeps; constructor) | intro _ | simp [*]

@[simp] theorem wouldFail_keeps {a n : Nat} : RunKeeps σ (wouldFail a n) := by
  unfold wouldFail
  repeat' with_reducible first | (apply Composed.keeps; constructor) | intro _

@[simp] theorem suppress_keeps {unit n : Nat} : RunKeeps σ (suppress unit n) := by
  unfold suppress
  repeat' with_reducible first | (apply Composed.keeps; constructor) | intro _ | simp [*]

@[simp] theorem fetch_keeps {home : Nat} {act : List Nat} {r : Run} : RunKeeps σ (fetch home act r) := by
  unfold fetch
  repeat' with_reducible first | (apply Composed.keeps; constructor) | intro _ | simp [*]

@[simp] theorem decodeVec_keeps {cls : Nat} {s : Strm} {n : Nat} {d : List Byte} {act : List Nat} :
    RunKeeps σ (decodeVec cls s n d act) := by
  unfold decodeVec
  repeat' with_reducible first | (apply Composed.keeps; constructor) | intro _ | simp [*]

@[simp] theorem readInput_keeps {home cls : Nat} {x : Shape} {seg : List Nat} {s : Strm} :
    RunKeeps σ (readInput home cls x seg s) := by
  unfold readInput
  repeat' with_reducible first | (apply Composed.keeps; constructor) | intro _ | simp [*]

@[simp] theorem readInputs_keeps {home unit cls : Nat} {x : Shape} {ins : List Strm} :
    RunKeeps σ (readInputs home unit cls x ins) := by
  unfold readInputs
  repeat' with_reducible first | (apply Composed.keeps; constructor) | intro _ | simp [*]

@[simp] theorem writeFails_keeps {a n : Nat} : RunKeeps σ (writeFails a n) := by
  unfold writeFails
  repeat' with_reducible first | (apply Composed.keeps; constructor) | intro _

@[simp] theorem putPiece_keeps {home : Nat} {tile : Bool} {sup : List Nat} {p : Nat × List Byte} :
    RunKeeps σ (putPiece home tile sup p) := by
  unfold putPiece
  repeat' with_reducible first | (apply Composed.keeps; constructor) | intro _ | simp [*]

@[simp] theorem putOutputs_keeps {home unit : Nat} {counted : List Nat} {l : List Put} :
    RunKeeps σ (putOutputs home unit counted l) := by
  unfold putOutputs
  repeat' with_reducible first | (apply Composed.keeps; constructor) | intro _ | simp [*] | split

@[simp] theorem addReport_keeps {l : List (List Byte × List Byte × Report)} : RunKeeps σ (addReport l) := by
  unfold addReport
  repeat' with_reducible first | (apply Composed.keeps; constructor) | intro _ | simp [*]

@[simp] theorem escSeen_keeps {unit : Nat} {l : List (List Byte × List Byte × Report)} :
    RunKeeps σ (escSeen unit l) := by
  unfold escSeen
  repeat' with_reducible first | (apply Composed.keeps; constructor) | intro _ | simp [*]

@[simp] theorem writeOutput_keeps {home unit cls : Nat} {x : Shape} {s : Strm} {cfg : EscCfg}
    {ents0 : SMap (List Nat)} {code : Nat → Option Nat} :
    RunKeeps σ (writeOutput home unit cls x s cfg ents0 code) := by
  unfold writeOutput
  repeat' with_reducible first | (apply Composed.keeps; constructor) | intro _ | simp [*] | split

@[simp] theorem vexecBody_keeps {q : Nat} : RunKeeps σ (vexecBody q) := by
  unfold vexecBody
  repeat' with_reducible first | (apply Composed.keeps; constructor) | intro _ | simp [*] | split

@[simp] theorem execVexec_keeps {s : State} (q : Nat) (h : Keeps σ s.store) : Answers σ (execVexec q s) := by
  simp [execVexec, h]

@[simp] theorem vploadBody_keeps {q : Nat} : RunKeeps σ (vploadBody q) := by
  unfold vploadBody
  repeat' with_reducible first | (apply Composed.keeps; constructor) | intro _ | simp [*]

@[simp] theorem execVpload_keeps {s : State} (q : Nat) (h : Keeps σ s.store) : Answers σ (execVpload q s) := by
  simp [execVpload, h]

@[simp] theorem vtransBody_keeps {q : Nat} : RunKeeps σ (vtransBody q) := by
  unfold vtransBody
  repeat' with_reducible first | (apply Composed.keeps; constructor) | intro _ | simp [*] | split

@[simp] theorem execVtrans_keeps {s : State} (q : Nat) (h : Keeps σ s.store) : Answers σ (execVtrans q s) := by
  simp [execVtrans, h]

@[simp] theorem vmaskBody_keeps {q : Nat} : RunKeeps σ (vmaskBody q) := by
  unfold vmaskBody
  repeat' with_reducible first | (apply Composed.keeps; constructor) | intro _ | simp [*] | split

@[simp] theorem execVmask_keeps {s : State} (q : Nat) (h : Keeps σ s.store) : Answers σ (execVmask q s) := by
  simp [execVmask, h]

/-! Of Machine/Graph. -/

@[simp] theorem partEntry_keeps {part r : Nat} : RunKeeps σ (partEntry part r) := by
  unfold partEntry
  repeat' with_reducible first | (apply Composed.keeps; constructor) | intro _ | simp [*]

@[simp] theorem partBisect_keeps {part nid n lo hi : Nat} {seen : List PartEnt} :
    RunKeeps σ (partBisect part nid n lo hi seen) := by
  induction n generalizing lo hi seen with
  | zero => exact .pure _
  | succ n ih =>
    rw [partBisect]
    refine .ite (fun _ => .pure _) fun _ => .bind partEntry_keeps fun e => .bind need_keeps fun _ => ?_
    exact .ite (fun _ => ih) fun _ => ih

@[simp] theorem partLookup_keeps {part ranges nid : Nat} : RunKeeps σ (partLookup part ranges nid) := by
  unfold partLookup
  repeat' with_reducible first | (apply Composed.keeps; constructor) | intro _ | simp [*] | split

@[simp] theorem graphDesc_keeps {g : Nat} : RunKeeps σ (graphDesc g) := by
  unfold graphDesc
  repeat' with_reducible first | (apply Composed.keeps; constructor) | intro _ | simp [*]

@[simp] theorem rowEdges_keeps {g : Graph} {row : Nat} : RunKeeps σ (rowEdges g row) := by
  unfold rowEdges
  repeat' with_reducible first | (apply Composed.keeps; constructor) | intro _ | simp [*]

@[simp] theorem aliasDraws_keeps {g : Graph} {kn d k e0 n i : Nat} {l : List Nat} :
    RunKeeps σ (aliasDraws g kn d k e0 n i l) := by
  induction n generalizing i l with
  | zero => exact .pure _
  | succ n ih =>
    rw [aliasDraws]
    exact .ite (fun _ => .pure _) fun _ => .bind ldN_keeps fun _ => .bind need_keeps fun _ => ih

@[simp] theorem sampleRow_keeps {g : Graph} {kstep hop nid row fan : Nat} {weighted wantW : Bool} :
    RunKeeps σ (sampleRow g kstep hop nid row fan weighted wantW) := by
  unfold sampleRow
  repeat' with_reducible first | (apply Composed.keeps; constructor) | intro _ | simp [*]

@[simp] theorem serveSample_keeps {s : State} (req : List Byte) (h : Keeps σ s.store) :
    Keeps σ (serveSample s req).2.2.store := by
  unfold serveSample
  extract_lets v nid p flags weighted wantW body c
  have hbody : RunKeeps σ body :=
    .bind graphDesc_keeps fun _ => .bind need_keeps fun _ => .bind partLookup_keeps fun _ => .bind gets_keeps fun _ =>
      .bind need_keeps fun _ => sampleRow_keeps
  have hr := (hbody.run ⟨s, c, ⟨p, s.get GSV_REMOTE_SPACE, s.flag GSV_REMOTE_T, false, 0⟩, false⟩ h).1
  split
  next r e hre =>
    rw [hre] at hr
    split <;> exact hr

@[simp] theorem sampReply_keeps {s : State} (id status : Nat) (b : List Byte) (h : Keeps σ s.store) :
    Keeps σ (sampReply s id status b).store := by
  unfold sampReply
  split <;> simp [h]

@[simp] theorem execSamplingTimeout_keeps {s : State} (id : Nat) (h : Keeps σ s.store) :
    Answers σ (execSamplingTimeout id s) := by
  unfold execSamplingTimeout
  split <;> simp [h]

@[simp] theorem placeDst_keeps {g : Graph} {nid : Nat} : RunKeeps σ (placeDst g nid) := by
  unfold placeDst
  repeat' with_reducible first | (apply Composed.keeps; constructor) | intro _ | simp [*]

@[simp] theorem sampleHop_keeps {g : Graph} {graph kstep hop fan : Nat} {weighted wantW : Bool} {h : HopIn} :
    RunKeeps σ (sampleHop g graph kstep hop fan weighted wantW h) := by
  unfold sampleHop
  repeat' with_reducible first | (apply Composed.keeps; constructor) | intro _ | simp [*] | split

@[simp] theorem sampleHops_keeps {g : Graph} {graph kstep weighted fanout : Nat} {dstFirst wantW : Bool}
    {out size : Nat} {hops : List Nat} {off : Nat} {prev : Option Nat} {h : HopIn} :
    RunKeeps σ (sampleHops g graph kstep weighted fanout dstFirst wantW out size hops off prev h) := by
  induction hops generalizing off prev h with
  | nil => exact .pure _
  | cons hop hops ih =>
    unfold sampleHops
    refine .bind sampleHop_keeps fun dr => ?_
    split
    split
    extract_lets patch
    have hpatch : RunKeeps σ patch := by
      unfold patch
      split <;> simp
    refine .ite (fun _ => ?_) fun _ => .ite (fun _ => ?_) fun _ => emStop_keeps
    · refine .bind st_keeps fun _ => .bind hpatch fun _ => .bind .get fun _ => .bind (onS_keeps (by simp)) fun _ => ?_
      exact .bind countC_keeps fun _ => .bind countC_keeps fun _ => .bind countC_keeps fun _ =>
        .bind countC_keeps fun _ => ih
    · exact .bind st_keeps fun _ => .bind hpatch fun _ => emStop_keeps

@[simp] theorem sampleBody_keeps : RunKeeps σ (sampleBody) := by
  unfold sampleBody
  repeat' with_reducible first | (apply Composed.keeps; constructor) | intro _ | simp [*]

@[simp] theorem execSample_keeps {s : State} (q : Nat) (h : Keeps σ s.store) : Answers σ (execSample q s) := by
  simp [execSample, h]

@[simp] theorem loadTable_keeps {s : State} (t : Nat) (h : Keeps σ s.store) : Keeps σ (loadTable s t).store := by
  unfold loadTable
  split <;> simp [h]

@[simp] theorem useTable_keeps {t : Nat} : RunKeeps σ (useTable t) := by
  unfold useTable
  repeat' with_reducible first | (apply Composed.keeps; constructor) | intro _ | simp [*]

@[simp] theorem bindGather_keeps {s : State} (q : Nat) (c : Cmd) (h : Keeps σ s.store) :
    Keeps σ (bindGather s q c).store := by
  unfold bindGather
  dsimp only
  (repeat' split) <;> simp [h]

@[simp] theorem rowSegments_keeps {l : List (Nat × Nat)} : RunKeeps σ (rowSegments l) := by
  induction l with
  | nil => exact .pure _
  | cons p l ih =>
    rw [rowSegments]
    refine .bind place_keeps fun r => ?_
    split
    · exact .bind ih fun _ => .pure _
    · exact emStop_keeps

@[simp] theorem gatherRow_keeps {d : TDesc} {t base ver : Nat} {hotOk : Bool} {i key : Nat} :
    RunKeeps σ (gatherRow d t base ver hotOk i key) := by
  unfold gatherRow
  repeat' with_reducible first | (apply Composed.keeps; constructor) | intro _ | simp [*] | split

@[simp] theorem gatherAsks_keeps {d : TDesc} {t base ver : Nat} {hotOk : Bool} {i : Nat} {l : List Nat} :
    RunKeeps σ (gatherAsks d t base ver hotOk i l) := by
  induction l generalizing i with
  | nil => exact .pure _
  | cons key l ih =>
    rw [gatherAsks]
    refine .bind (.catching ?_ fun stop hs => ?_) fun _ => .bind ih fun _ => .pure _
    · exact .ite (fun _ => .bind gatherRow_keeps fun _ => .pure _) fun _ => .pure _
    · split
      · exact .pure _
      · exact .throw hs

@[simp] theorem gatherBody_keeps {q : Nat} : RunKeeps σ (gatherBody q) := by
  unfold gatherBody
  repeat' with_reducible first | (apply Composed.keeps; constructor) | intro _ | simp [*]

@[simp] theorem execGather_keeps {s : State} (q : Nat) (h : Keeps σ s.store) : Answers σ (execGather q s) := by
  unfold execGather
  split <;> simp [h]

@[simp] theorem switchTable_keeps {s : State} (q seq t ver base : Nat) (h : Keeps σ s.store) :
    Keeps σ (switchTable s q seq t ver base).store := by
  unfold switchTable
  split <;> simp [h]

@[simp] theorem switchBody_keeps {q : Nat} : RunKeeps σ (switchBody q) := by
  unfold switchBody
  repeat' with_reducible first | (apply Composed.keeps; constructor) | intro _ | simp [*]

@[simp] theorem execTableSwitch_keeps {s : State} (q : Nat) (h : Keeps σ s.store) :
    Answers σ (execTableSwitch q s) := by
  simp [execTableSwitch, h]

@[simp] theorem hotRows_keeps {s : State} {i : Nat} {l : List Nat} {room : Nat} : RunKeeps σ (hotRows s i l room) := by
  fun_induction hotRows s i l room with
  | case1 i t ver key base l room ht ih => exact ih
  | case2 => exact .pure _
  | case3 i t ver key base l room d hd hroom ih =>
    refine .bind gatherRow_keeps fun r => ?_
    split
    · exact emStop_keeps
    · exact .bind ih fun _ => .pure _
  | case4 => exact .pure _

@[simp] theorem staleHot_keeps {s : State} (h : Keeps σ s.store) : Keeps σ (staleHot s).store :=
  foldl_keeps _ h fun s p hs => by simp [hs]

@[simp] theorem hotRefreshBody_keeps : RunKeeps σ (hotRefreshBody) := by
  unfold hotRefreshBody
  repeat' with_reducible first | (apply Composed.keeps; constructor) | intro _ | simp [*]

@[simp] theorem execHotRefresh_keeps {s : State} (q : Nat) (h : Keeps σ s.store) :
    Answers σ (execHotRefresh q s) := by
  unfold execHotRefresh
  split <;> simp [h]

end Sys2Proof.Machine
end

section
/-! SUPPORT. The troughs, the collectives, copies and seeds keep the invariant. -/

namespace Sys2Proof.Machine

open Sys2Proof

variable {σ : Store} {α β : Type}

/-! Of Machine/Trough. -/

@[simp] theorem storePlaced_keeps {s : State} (p : Nat) (r : Placed) (f : TEntry → TEntry) (h : Keeps σ s.store) :
    Keeps σ (storePlaced s p r f).store := by
  simp [storePlaced, h]

@[simp] theorem applyEmax_keeps {s : State} (p k e : Nat) (nf : Bool) (h : Keeps σ s.store) :
    Keeps σ (applyEmax s p k e nf).1.store := by
  unfold applyEmax
  dsimp only
  (repeat' split) <;> simp [h]

@[simp] theorem noteApplied_keeps {s : State} (p tag : Nat) (h : Keeps σ s.store) :
    Keeps σ (noteApplied s p tag).store := by
  simp [noteApplied, h]

@[simp] theorem applyAdd_keeps {s : State} (p k tag : Nat) (els : List Nat) (h : Keeps σ s.store) :
    Keeps σ (applyAdd s p k tag els).1.store := by
  unfold applyAdd
  split <;> simp [h]

@[simp] theorem applyWindow_keeps {s : State} (p k tag e : Nat) (nf : Bool) (w : List Nat) (count : Nat)
    (h : Keeps σ s.store) :
    Keeps σ (applyWindow s p k tag e nf w count).1.store := by
  unfold applyWindow
  (repeat' split) <;> simp [h]

@[simp] theorem prepareAt_keeps {s : State} (p tag count : Nat) (h : Keeps σ s.store) :
    Keeps σ (prepareAt s p tag count).1.store := by
  simp [prepareAt, h]

@[simp] theorem commitAt_keeps {s : State} (p tag : Nat) (h : Keeps σ s.store) :
    Keeps σ (commitAt s p tag).store := by
  simp [commitAt, h]

@[simp] theorem abortAt_keeps {s : State} (p tag : Nat) (h : Keeps σ s.store) : Keeps σ (abortAt s p tag).store := by
  simp [abortAt, h]

@[simp] theorem contribution_keeps {s : State} (m : TroughMsg) (h : Keeps σ s.store) :
    Keeps σ (contribution s m).store := by
  simp [contribution, h]

@[simp] theorem execTroughContribution_keeps {s : State} (m : TroughMsg) (h : Keeps σ s.store) :
    Answers σ (execTroughContribution m s) := by
  simp [execTroughContribution, h]

@[simp] theorem exponentMessage_keeps {s : State} (m : TroughMsg) (h : Keeps σ s.store) :
    Keeps σ (exponentMessage s m).store := by
  simp [exponentMessage, h]

@[simp] theorem execTroughExponentMessage_keeps {s : State} (m : TroughMsg) (h : Keeps σ s.store) :
    Answers σ (execTroughExponentMessage m s) := by
  simp [execTroughExponentMessage, h]

theorem stageEnd_keeps {s : State} (m : TroughMsg) (kind : TroughKind) {act : State → Nat → State × Bool}
    (h : Keeps σ s.store) (ha : ∀ s p, Keeps σ s.store → Keeps σ (act s p).1.store) :
    Keeps σ (stageEnd s m kind act).store := by
  unfold stageEnd
  split
  · exact h
  · split
    · exact h
    · split
      · exact foldl_keeps _ h fun s p hs => by simp [hs]
      · extract_lets s₁
        have h₁ : Keeps σ s₁.store := by simp [s₁, h]
        split
        next t ok ht =>
          rw [replyTo_store]
          split at ht
          · simpa [ht] using ha _ m.dst h₁
          · simpa [ht] using foldl_fst_keeps (f := fun r p => ((act r.1 p).1, r.2)) (upto 96) true h₁
              fun s _ p hs => ha s p hs

@[simp] theorem execPrepare_keeps {s : State} (m : TroughMsg) (h : Keeps σ s.store) : Answers σ (execPrepare m s) :=
  Answers_next.mpr (stageEnd_keeps m _ h fun _ _ hs => prepareAt_keeps _ _ _ hs)

@[simp] theorem execCommit_keeps {s : State} (m : TroughMsg) (h : Keeps σ s.store) : Answers σ (execCommit m s) :=
  Answers_next.mpr (stageEnd_keeps m _ h fun _ _ hs => by simp [hs])

@[simp] theorem execAbort_keeps {s : State} (m : TroughMsg) (h : Keeps σ s.store) : Answers σ (execAbort m s) :=
  Answers_next.mpr (stageEnd_keeps m _ h fun _ _ hs => by simp [hs])

@[simp] theorem fetched_keeps {s : State} (p k e : Nat) (nf : Bool) (h : Keeps σ s.store) :
    Keeps σ (fetched s p k e nf).store := by
  simp [fetched, h]

@[simp] theorem homeAck_keeps {s : State} (m : TroughMsg) (h : Keeps σ s.store) : Keeps σ (homeAck s m).store := by
  unfold homeAck
  dsimp only
  (repeat' split) <;> simp [h]

@[simp] theorem execHomeAcknowledgement_keeps {s : State} (m : TroughMsg) (h : Keeps σ s.store) :
    Answers σ (execHomeAcknowledgement m s) := by
  simp [execHomeAcknowledgement, h]

@[simp] theorem tresetBody_keeps {q : Nat} : RunKeeps σ (tresetBody q) := by
  refine .bind gets_keeps fun s => .bind need_keeps fun _ => onS_keeps fun t ht => ?_
  dsimp only
  exact slabApply_keeps _ _ _ _ _ (State.clearMain_keeps _ _ (State.setTrough_keeps _ _ ht))

@[simp] theorem execTreset_keeps {s : State} (q : Nat) (h : Keeps σ s.store) : Answers σ (execTreset q s) := by
  simp [execTreset, h]

@[simp] theorem scatterRows_keeps {kind imode count index : Nat} :
    RunKeeps σ (scatterRows kind imode count index) := by
  unfold scatterRows
  repeat' with_reducible first | (apply Composed.keeps; constructor) | intro _ | simp [*]

@[simp] theorem scatterCheck_keeps {d : TDesc} {t : Nat} {l : List (Nat × Nat)} : RunKeeps σ (scatterCheck d t l) := by
  induction l with
  | nil => exact .pure _
  | cons p l ih =>
    refine .ite (fun _ => ih) fun _ => .bind partLookup_keeps fun _ => .bind gets_keeps fun _ => ?_
    exact .bind need_keeps fun _ => .bind ih fun _ => .pure _

@[simp] theorem tscatBody_keeps {q : Nat} : RunKeeps σ (tscatBody q) := by
  unfold tscatBody
  repeat' with_reducible first | (apply Composed.keeps; constructor) | intro _ | simp [*]

@[simp] theorem runOp_keeps {s : State} (q opc w op : Nat) {body : EM Unit} (h : Keeps σ s.store)
    (hb : RunKeeps σ body) : Keeps σ (runOp s q opc w op body).store := by
  unfold runOp
  split
  · exact h
  · simp [h, hb]

@[simp] theorem execTscatEmax_keeps {s : State} (q : Nat) (h : Keeps σ s.store) : Answers σ (execTscatEmax q s) := by
  simp [execTscatEmax, h]

@[simp] theorem execTscatAdd_keeps {s : State} (q : Nat) (h : Keeps σ s.store) : Answers σ (execTscatAdd q s) := by
  simp [execTscatAdd, h]

@[simp] theorem texchBody_keeps {q : Nat} {kind : TroughKind} : RunKeeps σ (texchBody q kind) := by
  unfold texchBody
  repeat' with_reducible first | (apply Composed.keeps; constructor) | intro _ | simp [*]

@[simp] theorem execTexchEsend_keeps {s : State} (q : Nat) (h : Keeps σ s.store) :
    Answers σ (execTexchEsend q s) := by
  simp [execTexchEsend, h]

@[simp] theorem execTexchEfetch_keeps {s : State} (q : Nat) (h : Keeps σ s.store) :
    Answers σ (execTexchEfetch q s) := by
  simp [execTexchEfetch, h]

@[simp] theorem execTexchAsend_keeps {s : State} (q : Nat) (h : Keeps σ s.store) :
    Answers σ (execTexchAsend q s) := by
  simp [execTexchAsend, h]

@[simp] theorem staleJob_keeps {a n : Nat} : RunKeeps σ (staleJob a n) := by
  unfold staleJob
  repeat' with_reducible first | (apply Composed.keeps; constructor) | apply foldl_keeps | intro _ | simp [*] | split

@[simp] theorem bytesAtRetire_keeps {a : Nat} {d : List Byte} : RunKeeps σ (bytesAtRetire a d) := by
  unfold bytesAtRetire
  repeat' with_reducible first | (apply Composed.keeps; constructor) | intro _ | simp [*] | split

@[simp] theorem tmergeBody_keeps {q : Nat} : RunKeeps σ (tmergeBody q) := by
  unfold tmergeBody
  repeat' with_reducible first | (apply Composed.keeps; constructor) | intro _ | simp [*]

@[simp] theorem execTmerge_keeps {s : State} (q : Nat) (h : Keeps σ s.store) : Answers σ (execTmerge q s) := by
  simp [execTmerge, h]

@[simp] theorem tcodecBody_keeps : RunKeeps σ (tcodecBody) := by
  unfold tcodecBody
  repeat' with_reducible first | (apply Composed.keeps; constructor) | intro _ | simp [*]

@[simp] theorem execTcodec_keeps {s : State} (q : Nat) (h : Keeps σ s.store) : Answers σ (execTcodec q s) := by
  simp [execTcodec, h]

@[simp] theorem backgroundEvict_keeps {s : State} (p : Nat) (h : Keeps σ s.store) :
    Keeps σ (backgroundEvict s p).store := by
  unfold backgroundEvict
  dsimp only
  (repeat' split) <;> simp [h]

@[simp] theorem execTroughBackgroundEvict_keeps {s : State} (p : Nat) (h : Keeps σ s.store) :
    Answers σ (execTroughBackgroundEvict p s) := by
  simp [execTroughBackgroundEvict, h]

@[simp] theorem thresholdAdjust_keeps {s : State} (p : Nat) (h : Keeps σ s.store) :
    Keeps σ (thresholdAdjust s p).store := by
  simp [thresholdAdjust, h]

@[simp] theorem execSpillThresholdAdjust_keeps {s : State} (p : Nat) (h : Keeps σ s.store) :
    Answers σ (execSpillThresholdAdjust p s) := by
  simp [execSpillThresholdAdjust, h]

/-! Of Machine/Collective. -/

@[simp] theorem useGroup_keeps {q g : Nat} : RunKeeps σ (useGroup q g) := by
  unfold useGroup
  repeat' with_reducible first | (apply Composed.keeps; constructor) | intro _ | simp [*]

@[simp] theorem takeCseq_keeps {q g : Nat} : RunKeeps σ (takeCseq q g) := by
  unfold takeCseq
  repeat' with_reducible first | (apply Composed.keeps; constructor) | intro _ | simp [*] | split

@[simp] theorem sendCol_keeps {s : State} (dev : Nat) (m : ColMsg) (h : Keeps σ s.store) :
    Keeps σ (sendCol s dev m).store := by
  simp [sendCol, h]

@[simp] theorem sendAll_keeps {s : State} (g : Group) (m : ColMsg) (h : Keeps σ s.store) :
    Keeps σ (sendAll s g m).store :=
  foldl_keeps _ h fun _ d hs => sendCol_keeps d m hs

@[simp] theorem colHold_keeps {q : Nat} : RunKeeps σ (colHold q) := by
  unfold colHold
  repeat' with_reducible first | (apply Composed.keeps; constructor) | intro _ | simp [*]

@[simp] theorem colNeed_keeps {q : Nat} {b : Bool} : RunKeeps σ (colNeed q b) := by
  unfold colNeed
  repeat' with_reducible first | (apply Composed.keeps; constructor) | intro _ | simp [*]

@[simp] theorem setStage_keeps {n : Nat} : RunKeeps σ (setStage n) := by
  unfold setStage
  repeat' with_reducible first | intro _ | simp [*]

@[simp] theorem colAbortAll_keeps {c : Col} : RunKeeps σ (colAbortAll c) := by
  unfold colAbortAll
  repeat' with_reducible first | (apply Composed.keeps; constructor) | intro _ | simp [*]

@[simp] theorem colCheck_keeps {c : Col} {counted : Bool} : RunKeeps σ (colCheck c counted) := by
  unfold colCheck
  repeat' with_reducible first | (apply Composed.keeps; constructor) | intro _ | simp [*]

@[simp] theorem colDone_keeps {c : Col} {flags val0 val1 : Nat} : RunKeeps σ (colDone c flags val0 val1) := by
  unfold colDone
  repeat' with_reducible first | (apply Composed.keeps; constructor) | intro _ | simp [*]

@[simp] theorem colEnd_keeps {c : Col} : RunKeeps σ (colEnd c) := by
  unfold colEnd
  repeat' with_reducible first | (apply Composed.keeps; constructor) | intro _ | simp [*]

@[simp] theorem colDigest_keeps {dst : Nat} {d : List Byte} : RunKeeps σ (colDigest dst d) := by
  unfold colDigest
  repeat' with_reducible first | (apply Composed.keeps; constructor) | intro _ | simp [*]

@[simp] theorem redBlocks_keeps {src ifmt count : Nat} : RunKeeps σ (redBlocks src ifmt count) := by
  unfold redBlocks
  repeat' with_reducible first | (apply Composed.keeps; constructor) | intro _ | simp [*]

@[simp] theorem redParams_keeps : RunKeeps σ (redParams) := by
  unfold redParams
  repeat' with_reducible first | (apply Composed.keeps; constructor) | intro _ | simp [*]

@[simp] theorem redCheck_keeps : RunKeeps σ (redCheck) := by
  unfold redCheck
  repeat' with_reducible first | (apply Composed.keeps; constructor) | intro _ | simp [*]

@[simp] theorem redStart_keeps {c : Col} {r : Red} : RunKeeps σ (redStart c r) := by
  unfold redStart
  repeat' with_reducible first | (apply Composed.keeps; constructor) | intro _ | simp [*]

@[simp] theorem redWindows_keeps {c : Col} {r : Red} : RunKeeps σ (redWindows c r) := by
  unfold redWindows
  repeat' with_reducible first | (apply Composed.keeps; constructor) | apply foldl_keeps | intro _ | simp [*] | split

@[simp] theorem redConvert_keeps {c : Col} {r : Red} : RunKeeps σ (redConvert c r) := by
  unfold redConvert
  repeat' with_reducible first | (apply Composed.keeps; constructor) | intro _ | simp [*]

@[simp] theorem redGather_keeps {c : Col} {r : Red} : RunKeeps σ (redGather c r) := by
  unfold redGather
  repeat' with_reducible first | (apply Composed.keeps; constructor) | intro _ | simp [*] | split

@[simp] theorem redBody_keeps {c : Col} : RunKeeps σ (redBody c) := by
  unfold redBody
  repeat' with_reducible first | (apply Composed.keeps; constructor) | intro _ | simp [*]

@[simp] theorem sendBytes_keeps {c : Col} {devs : List Nat} {kind off : Nat} {d : List Byte} :
    RunKeeps σ (sendBytes c devs kind off d) := by
  unfold sendBytes
  repeat' with_reducible first | (apply Composed.keeps; constructor) | apply foldl_keeps | intro _ | simp [*]

@[simp] theorem gatherAllBody_keeps {c : Col} : RunKeeps σ (gatherAllBody c) := by
  unfold gatherAllBody
  repeat' with_reducible first | (apply Composed.keeps; constructor) | intro _ | simp [*]

@[simp] theorem broadcastBody_keeps {c : Col} : RunKeeps σ (broadcastBody c) := by
  unfold broadcastBody
  repeat' with_reducible first | (apply Composed.keeps; constructor) | intro _ | simp [*] | split

@[simp] theorem maxBody_keeps {c : Col} : RunKeeps σ (maxBody c) := by
  unfold maxBody
  repeat' with_reducible first | (apply Composed.keeps; constructor) | intro _ | simp [*]

@[simp] theorem alltoallBody_keeps {c : Col} : RunKeeps σ (alltoallBody c) := by
  unfold alltoallBody
  repeat' with_reducible first | (apply Composed.keeps; constructor) | intro _ | simp [*]

@[simp] theorem permuteBody_keeps {c : Col} : RunKeeps σ (permuteBody c) := by
  unfold permuteBody
  repeat' with_reducible first | (apply Composed.keeps; constructor) | intro _ | simp [*]

@[simp] theorem colRun_keeps {c : Col} : RunKeeps σ (colRun c) := by
  unfold colRun
  repeat' with_reducible first | (apply Composed.keeps; constructor) | intro _ | simp [*]

@[simp] theorem colStart_keeps {q : Nat} : RunKeeps σ (colStart q) := by
  unfold colStart
  repeat' with_reducible first | (apply Composed.keeps; constructor) | intro _ | simp [*]

@[simp] theorem startOne_keeps {s : State} (q : Nat) (c : Cmd) (h : Keeps σ s.store) :
    Keeps σ (startOne q c s).store := by
  have hr := ((colStart_keeps (σ := σ) (q := q)).run ⟨s, c, ctxOfQ s q, false⟩ h).1
  unfold startOne
  split
  next r e hre =>
    rw [hre] at hr
    split
    · simpa using hr
    · simp [h]

@[simp] theorem colStarts_keeps {s : State} (n q : Nat) (h : Keeps σ s.store) : Keeps σ (colStarts n s q).store := by
  induction n generalizing s with
  | zero => exact h
  | succ n ih =>
    rw [colStarts]
    split
    · exact h
    · split
      · exact ih (startOne_keeps _ _ h)
      · exact h

@[simp] theorem colTally_keeps : RunKeeps σ (colTally) := by
  unfold colTally
  repeat' with_reducible first | (apply Composed.keeps; constructor) | intro _ | simp [*]

@[simp] theorem colBody_keeps {q : Nat} : RunKeeps σ (colBody q) := by
  unfold colBody
  repeat' with_reducible first | (apply Composed.keeps; constructor) | intro _ | simp [*] | split

@[simp] theorem colOne_keeps {s : State} (q seq : Nat) (h : Keeps σ s.store) : Keeps σ (colOne q s seq).store := by
  unfold colOne
  split <;> simp [h]

@[simp] theorem runCols_keeps {s : State} (q opc : Nat) (h : Keeps σ s.store) : Keeps σ (runCols s q opc).store := by
  unfold runCols
  split
  · exact h
  · exact foldl_keeps _ (colStarts_keeps _ _ h) fun _ _ hs => colOne_keeps _ _ hs

@[simp] theorem execAllreduce_keeps {s : State} (q : Nat) (h : Keeps σ s.store) : Answers σ (execAllreduce q s) := by
  simp [execAllreduce, h]

@[simp] theorem execReduceScatter_keeps {s : State} (q : Nat) (h : Keeps σ s.store) :
    Answers σ (execReduceScatter q s) := by
  simp [execReduceScatter, h]

@[simp] theorem execAllgather_keeps {s : State} (q : Nat) (h : Keeps σ s.store) : Answers σ (execAllgather q s) := by
  simp [execAllgather, h]

@[simp] theorem execAlltoall_keeps {s : State} (q : Nat) (h : Keeps σ s.store) : Answers σ (execAlltoall q s) := by
  simp [execAlltoall, h]

@[simp] theorem execBroadcast_keeps {s : State} (q : Nat) (h : Keeps σ s.store) : Answers σ (execBroadcast q s) := by
  simp [execBroadcast, h]

@[simp] theorem execMaxreduce_keeps {s : State} (q : Nat) (h : Keeps σ s.store) : Answers σ (execMaxreduce q s) := by
  simp [execMaxreduce, h]

@[simp] theorem execPermute_keeps {s : State} (q : Nat) (h : Keeps σ s.store) : Answers σ (execPermute q s) := by
  simp [execPermute, h]

@[simp] theorem colSendAck_keeps {s : State} (src : Nat) (m : ColMsg) (eseq : Nat) (h : Keeps σ s.store) :
    Keeps σ (colSendAck s src m eseq).store := by
  simp [colSendAck, h]

@[simp] theorem colTakeAck_keeps {s : State} (src eseq : Nat) (h : Keeps σ s.store) :
    Keeps σ (colTakeAck s src eseq).store := by
  simp [colTakeAck, h]

@[simp] theorem colReceive_keeps {s : State} (src addr eseq : Nat) (b : List Byte) (h : Keeps σ s.store) :
    Keeps σ (colReceive s src addr eseq b).store := by
  unfold colReceive
  dsimp only
  (repeat' split) <;> simp [h]

@[simp] theorem execCollAckTimer_keeps {s : State} (src : Nat) (h : Keeps σ s.store) :
    Answers σ (execCollAckTimer src s) := by
  unfold execCollAckTimer
  split <;> simp [h]

@[simp] theorem xferBody_keeps : RunKeeps σ (xferBody) := by
  unfold xferBody
  repeat' with_reducible first | (apply Composed.keeps; constructor) | intro _ | simp [*]

@[simp] theorem execXfer_keeps {s : State} (q : Nat) (h : Keeps σ s.store) : Answers σ (execXfer q s) := by
  simp [execXfer, h]

@[simp] theorem noiseBoundary_keeps {s : State} (sf : Bool) (ls : Nat) (h : Keeps σ s.store) :
    Keeps σ (noiseBoundary s sf ls).store := by
  unfold noiseBoundary
  extract_lets base
  split
  · exact h
  · refine foldl_keeps _ h fun t i ht => ?_
    dsimp only
    split
    · exact ht
    · exact State.wrLocal_keeps _ _ ht

@[simp] theorem execSeedsSet_keeps {s : State} (q : Nat) (h : Keeps σ s.store) : Answers σ (execSeedsSet q s) := by
  refine Answers_next.mpr (controlRetire_keeps _ _ h fun s c t ht => ?_)
  simpa [seedsAct] using ht

@[simp] theorem seedsBoundary_keeps {s : State} (next : Nat) (h : Keeps σ s.store) :
    Keeps σ (seedsBoundary s next).store := by
  simp [seedsBoundary, h]

end Sys2Proof.Machine
end

section
/-! SUPPORT. Snapshots, pruning, updates, the end of a step, faults and resets keep the invariant. -/

namespace Sys2Proof.Machine

open Sys2Proof

variable {σ : Store} {α β : Type}

/-! Of Machine/Snap. -/

@[simp] theorem execSnapshotArm_keeps {s : State} (value : Nat) (h : Keeps σ s.store) :
    Answers σ (execSnapshotArm value s) := by
  simp [execSnapshotArm, h]

@[simp] theorem snapCapture_keeps {s : State} (q t : Nat) (h : Keeps σ s.store) : Keeps σ (snapCapture s q t).store := by
  unfold snapCapture
  extract_lets x c buf ps img s₁ live tabs rows held s₂ s₃
  have h₁ : Keeps σ s₁.store := foldl_keeps _ h fun s _ hs => loadTable_keeps _ hs
  have h₂ : Keeps σ s₂.store := foldl_keeps _ h₁ fun s _ hs => hs
  have h₃ : Keeps σ s₃.store := h₂
  split
  · exact h
  · simpa using h₃

@[simp] theorem drainStop_keeps {s : State} (h : Keeps σ s.store) : Keeps σ (drainStop s).store := by
  unfold drainStop
  rw [unstall_store, State.set_store, State.stick_store]
  exact foldl_keeps _ h fun s _ hs => unbindTable_keeps _ _ hs

@[simp] theorem drainWrite_keeps {s : State} (off : Nat) (d : List Byte) (h : Keeps σ s.store) :
    Keeps σ (drainWrite s off d).store := by
  unfold drainWrite
  extract_lets fa a outs r
  have houts (s : State) (n : Nat) (hs : Keeps σ s.store) : Keeps σ (outs s n).store := hs
  split
  · exact h
  · split
    · exact drainStop_keeps h
    · split
      · exact foldl_keeps _ h fun s k hs => houts _ _ (State.request_keeps _ _ _ _ _ _ hs)
      · split
        · simp [r, h]
        all_goals simp [h, houts]

@[simp] theorem drainAck_keeps {s : State} (status : Nat) (h : Keeps σ s.store) :
    Keeps σ (drainAck s status).store := by
  simp [drainAck, h]

@[simp] theorem drainSection_keeps {s : State} (type id : Nat) (d : List Byte) (h : Keeps σ s.store) :
    Keeps σ (drainSection s type id d).store := by
  simp [drainSection, h]

@[simp] theorem setMapBit_keeps {s : State} (t : SnapTable) (row : Nat) (h : Keeps σ s.store) :
    Keeps σ (setMapBit s t row).store := by
  simp [setMapBit, h]

@[simp] theorem drainRow_keeps {s : State} (idx table ver row : Nat) (h : Keeps σ s.store) :
    Keeps σ (drainRow s idx table ver row).2.store := by
  unfold drainRow
  split <;> simp [h]

@[simp] theorem drainStep_keeps {s : State} (h : Keeps σ s.store) : Keeps σ (drainStep s).store := by
  unfold drainStep
  split <;> simp [h]

@[simp] theorem drainSteps_keeps {s : State} (n : Nat) (h : Keeps σ s.store) : Keeps σ (drainSteps n s).store := by
  induction n generalizing s with
  | zero => exact h
  | succ n ih => exact ih (drainStep_keeps h)

@[simp] theorem execSnapshotDrain_keeps {s : State} (n : Nat) (h : Keeps σ s.store) :
    Answers σ (execSnapshotDrain n s) := by
  simp [execSnapshotDrain, h]

@[simp] theorem execSnapshotBufferRelease_keeps {s : State} (h : Keeps σ s.store) :
    Answers σ (execSnapshotBufferRelease s) := by
  unfold execSnapshotBufferRelease
  split <;> simp [h]

@[simp] theorem snapFinish_keeps {s : State} (h : Keeps σ s.store) : Keeps σ (snapFinish s).store := by
  unfold snapFinish
  dsimp only
  split <;> simp [h]

@[simp] theorem execSnapshotDone_keeps {s : State} (h : Keeps σ s.store) : Answers σ (execSnapshotDone s) := by
  simp [execSnapshotDone, h]

@[simp] theorem applyPair_keeps {s : State} (a v : Nat) (h : Keeps σ s.store) : Keeps σ (applyPair s a v).store := by
  unfold applyPair
  split <;> simp [h]

@[simp] theorem applyPairs_keeps {s : State} (n : Nat) (d : List Byte) (h : Keeps σ s.store) :
    Keeps σ (applyPairs n s d).store := by
  induction n generalizing s d with
  | zero => exact h
  | succ n ih =>
    rw [applyPairs]
    split
    · exact h
    · exact ih _ (applyPair_keeps _ _ h)

@[simp] theorem applyQueue_keeps {s : State} (q : Nat) (d : List Byte) (h : Keeps σ s.store) :
    Keeps σ (applyQueue s q d).store :=
  foldl_keeps _ (by simpa using h) fun _ _ hs => State.wrLocal_keeps _ _ hs

@[simp] theorem snapRestore_keeps {s : State} (v : Nat) (h : Keeps σ s.store) : Keeps σ (snapRestore s v).store := by
  unfold snapRestore
  extract_lets s₁ s₂
  have h₂ : Keeps σ s₂.store := by simp [s₂, s₁, h]
  split
  · exact h₂
  · split
    · simpa using h₂
    · refine foldl_keeps _ (foldl_keeps _ h₂ fun s x hs => ?_) fun s x hs => ?_
      · simp [hs]
      · simp [hs]

@[simp] theorem execSnapshotRestore_keeps {s : State} (value : Nat) (h : Keeps σ s.store) :
    Answers σ (execSnapshotRestore value s) := by
  simp [execSnapshotRestore, h]

/-! Of Machine/Prune. -/

@[simp] theorem pruneMaskBody_keeps : RunKeeps σ (pruneMaskBody) := by
  unfold pruneMaskBody
  repeat' with_reducible first | (apply Composed.keeps; constructor) | intro _ | simp [*]

@[simp] theorem execPruneMask_keeps {s : State} (q : Nat) (h : Keeps σ s.store) : Answers σ (execPruneMask q s) := by
  simp [execPruneMask, h]

@[simp] theorem prunePackBody_keeps : RunKeeps σ (prunePackBody) := by
  unfold prunePackBody
  repeat' with_reducible first | (apply Composed.keeps; constructor) | intro _ | simp [*]

@[simp] theorem execPrunePack_keeps {s : State} (q : Nat) (h : Keeps σ s.store) : Answers σ (execPrunePack q s) := by
  simp [execPrunePack, h]

/-! Of Machine/Update. -/

@[simp] theorem momVals_keeps {entry slot : List Byte} : RunKeeps σ (momVals entry slot) := by
  unfold momVals
  repeat' with_reducible first | (apply Composed.keeps; constructor) | intro _ | simp [*]

@[simp] theorem bindUpdate_keeps {s : State} (q : Nat) (c : Cmd) (h : Keeps σ s.store) :
    Keeps σ (bindUpdate s q c).store := by
  unfold bindUpdate
  extract_lets opc body
  have hbody : RunKeeps σ body := by
    refine .bind fld_keeps fun _ => .bind ld_keeps fun _ => .ite (fun _ => ?_) fun _ => ?_
    · exact .bind ldLocal_keeps fun _ => onC_keeps
    · exact .bind (.pure _) fun _ => onC_keeps
  have hr := (hbody.run ⟨s, c, ctxOfQ s q, false⟩ h).1
  split
  · exact h
  · split
    next r e hre =>
      rw [hre] at hr
      split
      · simpa using hr
      · exact h

@[simp] theorem boundHp_keeps {hp : Nat} : RunKeeps σ (boundHp hp) := by
  unfold boundHp
  repeat' with_reducible first | (apply Composed.keeps; constructor) | intro _ | simp [*] | split

@[simp] theorem boundDesc_keeps {p : Nat} : RunKeeps σ (boundDesc p) := by
  unfold boundDesc
  repeat' with_reducible first | (apply Composed.keeps; constructor) | intro _ | simp [*] | split

@[simp] theorem noteNfr_keeps {n : Nat} : RunKeeps σ (noteNfr n) := by
  unfold noteNfr
  repeat' with_reducible first | (apply Composed.keeps; constructor) | intro _ | simp [*]

@[simp] theorem copyBlock_keeps {d : PDesc} {src dst b : Nat} : RunKeeps σ (copyBlock d src dst b) := by
  unfold copyBlock
  repeat' with_reducible first | (apply Composed.keeps; constructor) | intro _ | simp [*]

@[simp] theorem updateBlock_keeps {d : PDesc} {r : Rule} {p key t src dst b grad half : Nat} :
    RunKeeps σ (updateBlock d r p key t src dst b grad half) := by
  unfold updateBlock
  repeat' with_reducible first | (apply Composed.keeps; constructor) | intro _ | simp [*]

@[simp] theorem boundStep_keeps {i : Nat} : RunKeeps σ (boundStep i) := by
  unfold boundStep
  repeat' with_reducible first | (apply Composed.keeps; constructor) | intro _

@[simp] theorem updateBody_keeps {q : Nat} : RunKeeps σ (updateBody q) := by
  unfold updateBody
  repeat' with_reducible first | (apply Composed.keeps; constructor) | intro _ | simp [*]

@[simp] theorem execUpdate_keeps {s : State} (q : Nat) (h : Keeps σ s.store) : Answers σ (execUpdate q s) := by
  simp [execUpdate, h]

@[simp] theorem putJob_keeps {s : State} (c : Ctx) (a : Nat) (d : List Byte) (h : Keeps σ s.store) :
    Keeps σ (putJob s c a d).store := by
  unfold putJob
  split <;> rename_i hr
  · exact foldl_fst_keeps _ _ (by simpa [snd_store hr] using h) fun _ _ _ hs => State.wrLocal_keeps _ _ hs
  · simpa [snd_store hr] using h

@[simp] theorem redoCopy_keeps {s : State} (p : Nat) (h : Keeps σ s.store) : Keeps σ (redoCopy s p).store := by
  unfold redoCopy
  extract_lets a sp c row rlen mom mlen s₁ rowB s₂ s₃ s₄ s₅
  have h₁ : Keeps σ s₁.store := by simpa [s₁] using h
  have h₄ : Keeps σ s₄.store := putJob_keeps _ _ _ (putJob_keeps _ _ _ (putJob_keeps _ _ _ h₁))
  split
  · exact h
  · simp [s₅, h₄]

@[simp] theorem poolCopy_keeps {q t ver row a stride mstride : Nat} :
    RunKeeps σ (poolCopy q t ver row a stride mstride) := by
  unfold poolCopy
  refine .getBind fun e he => ?_
  extract_lets x
  split
  · exact .pure _
  · refine .ite (fun _ => .bind ld_keeps fun b => .bind ld_keeps fun mb => ?_) fun _ => .pure _
    refine .ite (fun _ => .getsBind fun e' he' => .bind (.throw (by simpa using he')) fun _ => ?_) fun _ => ?_
    all_goals
      refine onS_keeps fun s hs => ?_
      extract_lets s₁ s₂
      have h₁ : Keeps σ s₁.store := by simp [s₁, hs]
      exact setMapBit_keeps _ _ h₁

@[simp] theorem rowMomVals_keeps {b : List Byte} {elems : Nat} : RunKeeps σ (rowMomVals b elems) := by
  unfold rowMomVals
  repeat' with_reducible first | (apply Composed.keeps; constructor) | intro _ | simp [*]

@[simp] theorem updateRow_keeps {q : Nat} {d : TDesc} {t : Nat} {h : List Byte}
    {ls clip ver rowA momA lrow table : Nat} {g : List Nat} :
    RunKeeps σ (updateRow q d t h ls clip ver rowA momA lrow table g) := by
  unfold updateRow
  repeat' with_reducible first | (apply Composed.keeps; constructor) | intro _ | simp [*]

@[simp] theorem rowUpdateBody_keeps {q : Nat} : RunKeeps σ (rowUpdateBody q) := by
  unfold rowUpdateBody
  repeat' with_reducible first | (apply Composed.keeps; constructor) | intro _ | simp [*]

@[simp] theorem execRowUpdate_keeps {s : State} (q : Nat) (h : Keeps σ s.store) : Answers σ (execRowUpdate q s) := by
  unfold execRowUpdate
  split <;> simp [h]

@[simp] theorem flagLocalBody_keeps : RunKeeps σ (flagLocalBody) := by
  unfold flagLocalBody
  repeat' with_reducible first | (apply Composed.keeps; constructor) | intro _ | simp [*]

@[simp] theorem execFlagLocal_keeps {s : State} (q : Nat) (h : Keeps σ s.store) : Answers σ (execFlagLocal q s) := by
  simp [execFlagLocal, h]

@[simp] theorem pcSwitchBody_keeps : RunKeeps σ (pcSwitchBody) := by
  unfold pcSwitchBody
  repeat' with_reducible first | (apply Composed.keeps; constructor) | intro _ | simp [*]

@[simp] theorem execPcSwitch_keeps {s : State} (q : Nat) (h : Keeps σ s.store) : Answers σ (execPcSwitch q s) := by
  simp [execPcSwitch, h]

@[simp] theorem applySwitches_keeps {s : State} (t : Nat) (h : Keeps σ s.store) : Keeps σ (applySwitches s t).store := by
  refine foldl_keeps _ h fun s i hs => ?_
  dsimp only
  split
  · exact State.wrLocal_keeps _ _ (State.wrLocal_keeps _ _ hs)
  · exact hs

theorem closeStep_keeps {s : State} (q : Nat) (c : Cmd) (tabs : List Nat) (h : Keeps σ s.store) :
    Keeps σ (closeStep q c tabs s).store := by
  unfold closeStep
  extract_lets raw t ls sf data s₁ x s₂ s₃ s₄ s₅ s₆ s₇ s₈ s₉ s₁₀ s₁₁
  have h₁ : Keeps σ s₁.store := by
    unfold s₁
    split
    · exact State.wrLocal_keeps _ _ h
    · exact h
  have h₂ : Keeps σ s₂.store := h₁
  have h₃ : Keeps σ s₃.store := noiseBoundary_keeps _ _ h₂
  have h₄ : Keeps σ s₄.store := by simp [s₄, h₃]
  have h₈ : Keeps σ s₈.store := applySwitches_keeps _ (by simpa [s₇, s₆, s₅] using h₄)
  have h₁₀ : Keeps σ s₁₀.store := seedsBoundary_keeps _ (by simpa [s₉] using h₈)
  have h₁₁ : Keeps σ s₁₁.store := by simp [s₁₁, h₁₀]
  exact snapCapture_keeps _ _ h₁₁

@[simp] theorem tlist_keeps : RunKeeps σ (tlist) := by
  unfold tlist
  repeat' with_reducible first | (apply Composed.keeps; constructor) | intro _ | simp [*]

@[simp] theorem execStepClose_keeps {s : State} (q : Nat) (h : Keeps σ s.store) : Answers σ (execStepClose q s) := by
  unfold execStepClose
  rw [Answers_next]
  split
  · exact h
  next c hc =>
    have hr := ((tlist_keeps (σ := σ)).run ⟨s, c, ctxOfQ s q, false⟩ h).1
    split
    · exact h
    · split
      · exact retireOldest_keeps _ _ _ h fun _ ht => ht
      · split
        next r e hre =>
          rw [hre] at hr
          split
          · refine retireOldest_keeps _ _ _ ?_ fun _ ht => closeStep_keeps _ _ _ ht
            exact foldl_keeps _ hr fun _ _ hs => loadTable_keeps _ hs
          · exact retireOldest_keeps _ _ _ hr fun _ ht => ht
          · exact h

@[simp] theorem replayBeginBody_keeps {q : Nat} : RunKeeps σ (replayBeginBody q) := by
  unfold replayBeginBody
  repeat' with_reducible first | (apply Composed.keeps; constructor) | intro _ | simp [*] | split

@[simp] theorem execReplayBegin_keeps {s : State} (q : Nat) (h : Keeps σ s.store) :
    Answers σ (execReplayBegin q s) := by
  simp [execReplayBegin, h]

@[simp] theorem replayEndBody_keeps : RunKeeps σ (replayEndBody) := by
  unfold replayEndBody
  repeat' with_reducible first | (apply Composed.keeps; constructor) | intro _ | simp [*] | split

@[simp] theorem execReplayEnd_keeps {s : State} (q : Nat) (h : Keeps σ s.store) : Answers σ (execReplayEnd q s) := by
  simp [execReplayEnd, h]

/-! Of Machine/Retire. -/

@[simp] theorem startBind_keeps {s : State} (q seq : Nat) (h : Keeps σ s.store) :
    Keeps σ (startBind s q seq).store := by
  unfold startBind
  split <;> simp [h]

@[simp] theorem execCommandStart_keeps {s : State} (q : Nat) (h : Keeps σ s.store) :
    Answers σ (execCommandStart q s) := by
  simp [execCommandStart, h]

@[simp] theorem execCommandRetire_keeps {s : State} (q : Nat) (h : Keeps σ s.store) :
    Answers σ (execCommandRetire q s) := by
  have hret (c : Cmd) (st : Nat) : Keeps σ (retireOldest s q c st id).store := retireOldest_keeps _ _ _ h fun _ ht => ht
  unfold execCommandRetire
  rw [Answers_next]
  split
  · exact h
  · split
    · simp [h, hret]
    · exact h

/-! Of Machine/Faults. -/

@[simp] theorem execFatalFault_keeps {s : State} (cause : Nat) (h : Keeps σ s.store) :
    Answers σ (execFatalFault cause s) := by
  simp [execFatalFault, h]

@[simp] theorem execSiltUnfreeze_keeps {s : State} (h : Keeps σ s.store) : Answers σ (execSiltUnfreeze s) := by
  simp [execSiltUnfreeze, h]

@[simp] theorem rerun_store (h : Nat) (s : State) (e : LogEnt) : (rerun h s e).store = s.store := by
  unfold rerun
  dsimp only
  split
  split
  · rw [State.store_ite, State.setMc_store, State.setVe_store, State.store_mk, State.store_eta, ite_self]
  · rfl

@[simp] theorem rebuild_store (s : State) (h : Nat) : (rebuild s h).store = s.store := by
  simp [rebuild]

@[simp] theorem rebuildPlanes_store (s : State) (h : Nat) : (rebuildPlanes s h).store = s.store := by
  simp [rebuildPlanes]

@[simp] theorem spillSlots_keeps {s : State} (p : Nat) (h : Keeps σ s.store) : Keeps σ (spillSlots s p).store := by
  refine foldl_keeps _ h fun s i hs => ?_
  split <;> simp [hs]

@[simp] theorem fence_keeps {s : State} (h cause : Nat) (hs : Keeps σ s.store) : Keeps σ (fence s h cause).store := by
  unfold fence
  extract_lets s₁ s₂ units held s₃ s₄ s₅ s₆ work s₇ homes
  have h₅ : Keeps σ s₅.store := by simpa [s₅, s₄, s₃, s₂, s₁] using hs
  have h₆ : Keeps σ s₆.store := by simp [s₆, h₅]
  have h₇ : Keeps σ s₇.store := by simpa [s₇] using h₆
  simp [hs, h₇]

@[simp] theorem execRegionFence_keeps {s : State} (handle cause : Nat) (h : Keeps σ s.store) :
    Answers σ (execRegionFence handle cause s) := by
  simp [execRegionFence, h]

@[simp] theorem execStallLimit_keeps {s : State} (q : Nat) (h : Keeps σ s.store) : Answers σ (execStallLimit q s) := by
  unfold execStallLimit
  rw [Answers_next]
  split <;> simp [h]

@[simp] theorem execUvHoldTimeout_keeps {s : State} (p : Nat) (h : Keeps σ s.store) :
    Answers σ (execUvHoldTimeout p s) := by
  simp [execUvHoldTimeout, h]

@[simp] theorem saveContext_keeps {s : State} (h : Nat) (hs : Keeps σ s.store) : Keeps σ (saveContext s h).store := by
  simp [saveContext, hs]

@[simp] theorem switchContext_keeps {s : State} (h incoming : Nat) (hs : Keeps σ s.store) :
    Keeps σ (switchContext s h incoming).store := by
  unfold switchContext
  extract_lets cur known s₁ s₂
  have h₂ : Keeps σ s₂.store := saveContext_keeps _ hs
  simp [hs, h₂]

@[simp] theorem execContextSwitch_keeps {s : State} (unit incoming : Nat) (h : Keeps σ s.store) :
    Answers σ (execContextSwitch unit incoming s) := by
  simp [execContextSwitch, h]

@[simp] theorem commitJournaled_keeps {s : State} (q : Nat) (h : Keeps σ s.store) :
    Keeps σ (commitJournaled s q).store := by
  refine foldl_keeps _ h fun s c hs => ?_
  split
  · exact foldl_keeps _ hs fun s u hs => by simp [hs]
  · exact hs

@[simp] theorem warmTroughs_keeps {s : State} (h : Keeps σ s.store) : Keeps σ (warmTroughs s).store :=
  foldl_keeps _ h fun _ _ hs => spillSlots_keeps _ (foldl_keeps _ hs fun _ _ hs => by simp [hs])

@[simp] theorem warmStart_keeps {s : State} (h : Keeps σ s.store) : Keeps σ (warmStart s).store := by
  unfold warmStart
  extract_lets s₁ qs s₂ s₃ s₄ s₅ s₆ s₇
  have h₂ : Keeps σ s₂.store := foldl_keeps _ (by simpa [s₁] using h) fun _ _ hs => commitJournaled_keeps _ hs
  have h₄ : Keeps σ s₄.store := warmTroughs_keeps (by simpa [s₃] using h₂)
  have h₅ : Keeps σ s₅.store := by simpa [s₅] using h₄
  have h₆ : Keeps σ s₆.store := foldl_keeps _ h₅ fun _ _ hs => redoCopy_keeps _ hs
  have h₇ : Keeps σ s₇.store := by simpa [s₇] using h₆
  split
  · exact h
  · exact h₇

@[simp] theorem execWarmReset_keeps {s : State} (h : Keeps σ s.store) : Answers σ (execWarmReset s) := by
  simp [execWarmReset, h]

@[simp] theorem execWrstN_keeps {s : State} (h : Keeps σ s.store) : Answers σ (execWrstN s) := by
  simp [execWrstN, h]

@[simp] theorem execWrstNRise_keeps {s : State} (h : Keeps σ s.store) : Answers σ (execWrstNRise s) := by
  simp [execWrstNRise, h]

@[simp] theorem execWarmResetDone_keeps {s : State} (lost : List (Nat × Nat)) (h : Keeps σ s.store) :
    Answers σ (execWarmResetDone lost s) := by
  unfold execWarmResetDone
  rw [Answers_next]
  split
  · exact h
  · extract_lets s₁ s₂ s₃ fault power s₄ s₅
    have h₂ : Keeps σ s₂.store := by simpa [s₂, s₁] using h
    have h₄ : Keeps σ s₄.store := by
      rw [show s₄.store = s₃.store from rfl, noteRecovering_store]
      exact h₂
    exact judgeHeld_keeps (by simpa [s₅] using h₄)

end Sys2Proof.Machine
end

section
/-! SUPPORT. Time, link ports, power and register accesses keep the invariant. -/

namespace Sys2Proof.Machine

open Sys2Proof

variable {σ : Store} {α β : Type}

/-! Of Machine/Time. -/

@[simp] theorem epochMarkers_keeps {s : State} (old new : Nat) (h : Keeps σ s.store) :
    Keeps σ (epochMarkers s old new).store := by
  unfold epochMarkers
  rw [State.siltDev_store]
  exact foldl_keeps _ h fun s p hs => by simp [hs]

@[simp] theorem resyncPond_keeps {s : State} (p : Nat) (h : Keeps σ s.store) : Keeps σ (resyncPond s p).store := by
  unfold resyncPond
  rw [State.setPond_store]
  refine foldl_keeps _ h fun s r hs => ?_
  simp [hs]

@[simp] theorem capture_keeps {s : State} (h : Keeps σ s.store) : Keeps σ (capture s).store := by
  simp [capture, h]

@[simp] theorem setCount_keeps {s : State} (new : Nat) (h : Keeps σ s.store) : Keeps σ (setCount s new).store := by
  simp [setCount, h]

@[simp] theorem beacon_keeps {s : State} (h : Keeps σ s.store) : Keeps σ (beacon s).store := by
  unfold beacon
  extract_lets t shown s₁ t₁ s₂ t₂ s₃ t₃ s₄ waking t₄ s₅
  have h₁ : Keeps σ s₁.store := h
  have h₂ : Keeps σ s₂.store := by
    unfold s₂
    split
    · exact setCount_keeps _ h₁
    · exact h₁
  have h₃ : Keeps σ s₃.store := by
    unfold s₃
    split
    · rw [State.stick_store]
      exact setCount_keeps _ h₂
    · exact h₂
  have h₄ : Keeps σ s₄.store := h₃
  exact capture_keeps (foldl_keeps _ h₄ fun s p hs => resyncPond_keeps p hs)

@[simp] theorem idle_keeps {s : State} (h : Keeps σ s.store) : Keeps σ (idle s).store := by
  simp [idle, h]

@[simp] theorem execTimeBeacon_keeps {s : State} (h : Keeps σ s.store) : Answers σ (execTimeBeacon s) := by
  simp [execTimeBeacon, h]

@[simp] theorem toStop_keeps {s : State} (n : Nat) (h : Keeps σ s.store) : Keeps σ (toStop n s).store := by
  induction n generalizing s with
  | zero => exact h
  | succ n ih =>
    rw [toStop]
    split
    · exact h
    · exact ih (idle_keeps h)

@[simp] theorem execInterpolationStop_keeps {s : State} (h : Keeps σ s.store) :
    Answers σ (execInterpolationStop s) := by
  simp [execInterpolationStop, h]

@[simp] theorem execTimeEpochWrite_keeps {s : State} (value : Nat) (h : Keeps σ s.store) :
    Answers σ (execTimeEpochWrite value s) := by
  simp [execTimeEpochWrite, h]

@[simp] theorem execTimeExchange_keeps {s : State} (h : Keeps σ s.store) : Answers σ (execTimeExchange s) := by
  simp [execTimeExchange, h]

@[simp] theorem execTimePpsIn_keeps {s : State} (h : Keeps σ s.store) : Answers σ (execTimePpsIn s) := by
  simp [execTimePpsIn, h]

@[simp] theorem execPpsMissing_keeps {s : State} (h : Keeps σ s.store) : Answers σ (execPpsMissing s) := by
  simp [execPpsMissing, h]

@[simp] theorem execTimePpsOut_keeps {s : State} (h : Keeps σ s.store) : Answers σ (execTimePpsOut s) := by
  simp [execTimePpsOut, h]

@[simp] theorem execTimePpsOutFall_keeps {s : State} (h : Keeps σ s.store) : Answers σ (execTimePpsOutFall s) := by
  simp [execTimePpsOutFall, h]

@[simp] theorem execTrimRaise_keeps {s : State} (p region : Nat) (h : Keeps σ s.store) :
    Answers σ (execTrimRaise p region s) := by
  simp [execTrimRaise, h]

@[simp] theorem execTrimLower_keeps {s : State} (p region : Nat) (h : Keeps σ s.store) :
    Answers σ (execTrimLower p region s) := by
  simp [execTrimLower, h]

@[simp] theorem execUvHold_keeps {s : State} (p : Nat) (h : Keeps σ s.store) : Answers σ (execUvHold p s) := by
  simp [execUvHold, h]

@[simp] theorem execUvHoldRelease_keeps {s : State} (p : Nat) (h : Keeps σ s.store) :
    Answers σ (execUvHoldRelease p s) := by
  simp [execUvHoldRelease, h]

@[simp] theorem execObsCapture_keeps {s : State} (value : Nat) (h : Keeps σ s.store) :
    Answers σ (execObsCapture value s) := by
  simp [execObsCapture, h]

@[simp] theorem execTraceBudgetWindow_keeps {s : State} (h : Keeps σ s.store) :
    Answers σ (execTraceBudgetWindow s) := by
  simp [execTraceBudgetWindow, h]

@[simp] theorem execPccSample_keeps {s : State} (off : Nat) (h : Keeps σ s.store) :
    Answers σ (execPccSample off s) := by
  unfold execPccSample
  split <;> simp [h]

/-! Of Machine/LinkPort. -/

@[simp] theorem portDown_keeps {s : State} (p : Nat) (went : Bool) (h : Keeps σ s.store) :
    Keeps σ (portDown s p went).store := by
  simp [portDown, h]

@[simp] theorem authFail_keeps {s : State} (p : Nat) (h : Keeps σ s.store) : Keeps σ (authFail s p).store := by
  simp [authFail, h]

@[simp] theorem enterRetrain_keeps {s : State} (p : Nat) (h : Keeps σ s.store) :
    Keeps σ (enterRetrain s p).store := by
  simp [enterRetrain, h]

@[simp] theorem startKeyx_keeps {s : State} (p : Nat) (h : Keeps σ s.store) : Keeps σ (startKeyx s p).store := by
  simp [startKeyx, h]

@[simp] theorem sendKeyx_keeps {s : State} (p : Nat) (h : Keeps σ s.store) : Keeps σ (sendKeyx s p).store := by
  simp [sendKeyx, h]

@[simp] theorem admitPeer_keeps {s : State} (p : Nat) (h : Keeps σ s.store) : Keeps σ (admitPeer s p).store := by
  simp [admitPeer, h]

@[simp] theorem takeKeyx_keeps {s : State} (p : Nat) (d : List Byte) (h : Keeps σ s.store) :
    Keeps σ (takeKeyx s p d).store := by
  unfold takeKeyx
  dsimp only
  (repeat' split) <;> simp [h]

@[simp] theorem takeIdent_keeps {s : State} (p : Nat) (d : List Byte) (h : Keeps σ s.store) :
    Keeps σ (takeIdent s p d).store := by
  simp [takeIdent, h]

@[simp] theorem trainingDone_keeps {s : State} (p lanes : Nat) (full : Bool) (h : Keeps σ s.store) :
    Keeps σ (trainingDone s p lanes full).store := by
  unfold trainingDone
  extract_lets st enough lanes' was lost bound s₁ s₂ s₃ s₄ x x' x₀ s₅ s₆
  have h₂ : Keeps σ s₂.store := by simp [s₂, s₁, h]
  have h₄ : Keeps σ s₄.store := by simp [s₄, s₃, h₂]
  have h₆ : Keeps σ s₆.store := by simp [s₆, s₅, h₄]
  split
  · exact h
  · split
    · exact h
    · split
      · simp [h]
      · split
        · simp [h₄]
        · simp [h₆]

@[simp] theorem execLinkTrainingDone_keeps {s : State} (port lanes : Nat) (full : Bool) (h : Keeps σ s.store) :
    Answers σ (execLinkTrainingDone port lanes full s) := by
  simp [execLinkTrainingDone, h]

@[simp] theorem execRetrainTimeout_keeps {s : State} (port : Nat) (h : Keeps σ s.store) :
    Answers σ (execRetrainTimeout port s) := by
  simp [execRetrainTimeout, h]

@[simp] theorem execLaneRecheck_keeps {s : State} (port lane : Nat) (pass : Bool) (h : Keeps σ s.store) :
    Answers σ (execLaneRecheck port lane pass s) := by
  simp [execLaneRecheck, h]

@[simp] theorem execPortTrainRetry_keeps {s : State} (port : Nat) (h : Keeps σ s.store) :
    Answers σ (execPortTrainRetry port s) := by
  simp [execPortTrainRetry, h]

@[simp] theorem execKeyxTimeout_keeps {s : State} (port : Nat) (h : Keeps σ s.store) :
    Answers σ (execKeyxTimeout port s) := by
  simp [execKeyxTimeout, h]

@[simp] theorem execRekey_keeps {s : State} (port : Nat) (h : Keeps σ s.store) : Answers σ (execRekey port s) := by
  simp [execRekey, h]

@[simp] theorem execEqualiserStep_keeps {s : State} (port lane errs : Nat) (up : Bool) (height width : Nat)
    (h : Keeps σ s.store) :
    Answers σ (execEqualiserStep port lane errs up height width s) := by
  simp [execEqualiserStep, h]

@[simp] theorem lnkCfgWrite_keeps {s : State} (p v : Nat) (h : Keeps σ s.store) :
    Keeps σ (lnkCfgWrite s p v).store := by
  simp [lnkCfgWrite, h]

@[simp] theorem takeAck_keeps {s : State} (p next : Nat) (h : Keeps σ s.store) :
    Keeps σ (takeAck s p next).store := by
  simp [takeAck, h]

@[simp] theorem resend_keeps {s : State} (p : Nat) (h : Keeps σ s.store) : Keeps σ (resend s p).store := by
  simp [resend, h]

@[simp] theorem execResendTimeout_keeps {s : State} (port : Nat) (h : Keeps σ s.store) :
    Answers σ (execResendTimeout port s) := by
  simp [execResendTimeout, h]

@[simp] theorem execAckTimer_keeps {s : State} (port : Nat) (h : Keeps σ s.store) :
    Answers σ (execAckTimer port s) := by
  simp [execAckTimer, h]

@[simp] theorem badFrame_keeps {s : State} (p : Nat) (h : Keeps σ s.store) : Keeps σ (badFrame s p).store := by
  simp [badFrame, h]

@[simp] theorem badTag_keeps {s : State} (p : Nat) (h : Keeps σ s.store) : Keeps σ (badTag s p).store := by
  simp [badTag, h]

@[simp] theorem takeCtl_keeps {s : State} (f : RxFrame) (type : Nat) (h : Keeps σ s.store) :
    Keeps σ (takeCtl s f type).2.store := by
  unfold takeCtl
  dsimp only
  (repeat' split) <;> simp [h]

@[simp] theorem execCtrlFrame_keeps {s : State} (f : RxFrame) (h : Keeps σ s.store) : Answers σ (execCtrlFrame f s) := by
  have hr := takeCtl_keeps f 0 h
  unfold execCtrlFrame
  rw [Answers_next]
  extract_lets r p x
  split
  · exact hr
  · extract_lets credit s₁ s₂ s₃
    have h₁ : Keeps σ s₁.store := by simpa [s₁] using hr
    have h₂ : Keeps σ s₂.store := takeAck_keeps _ _ h₁
    simp [s₃, h₂]

@[simp] theorem execIdent_keeps {s : State} (f : RxFrame) (h : Keeps σ s.store) : Answers σ (execIdent f s) := by
  have hr := takeCtl_keeps f 1 h
  unfold execIdent
  rw [Answers_next]
  extract_lets r s₁ s₂
  split
  · exact hr
  · have h₂ : Keeps σ s₂.store := by simp [s₂, s₁, r, hr]
    exact takeIdent_keeps _ _ h₂

@[simp] theorem execKeyx_keeps {s : State} (f : RxFrame) (h : Keeps σ s.store) : Answers σ (execKeyx f s) := by
  unfold execKeyx
  dsimp only
  split <;> simp [h]

@[simp] theorem execTimeFrame_keeps {s : State} (f : RxFrame) (rxAgo txIn : Nat) (h : Keeps σ s.store) :
    Answers σ (execTimeFrame f rxAgo txIn s) := by
  unfold execTimeFrame
  dsimp only
  (repeat' split) <;> simp [h]

/-! Of Machine/Power. -/

@[simp] theorem execTemperatureSample_keeps {s : State} (temps : List (Nat × Int)) (rails : List Nat)
    (h : Keeps σ s.store) :
    Answers σ (execTemperatureSample temps rails s) := by
  simp [execTemperatureSample, h]

@[simp] theorem disablePhase_keeps {s : State} (p i : Nat) (h : Keeps σ s.store) :
    Keeps σ (disablePhase s p i).store := by
  simp [disablePhase, h]

@[simp] theorem judgePhases_keeps {s : State} (p : Nat) (ph : List (Nat × Nat)) (h : Keeps σ s.store) :
    Keeps σ (judgePhases s p ph).store :=
  foldl_keeps _ h fun s x hs => by simp [hs]

@[simp] theorem execCurrentSample_keeps {s : State} (volts phases : List (Nat × Nat)) (vinMa : Nat)
    (h : Keeps σ s.store) : Answers σ (execCurrentSample volts phases vinMa s) := by
  unfold execCurrentSample
  rw [Answers_next]
  split
  · exact h
  · extract_lets s₁ s₂ ponds of s₃ s₄
    have h₂ : Keeps σ s₂.store := by simpa [s₂, s₁] using h
    have h₃ : Keeps σ s₃.store := foldl_keeps _ h₂ fun _ _ hs => by simp [hs]
    simp [s₄, h₃]

@[simp] theorem execCeilingUpdate_keeps {s : State} (h : Keeps σ s.store) : Answers σ (execCeilingUpdate s) := by
  simp [execCeilingUpdate, h]

@[simp] theorem execVoltageTargetUpdate_keeps {s : State} (busy : List (Nat × Nat)) (h : Keeps σ s.store) :
    Answers σ (execVoltageTargetUpdate busy s) := by
  simp [execVoltageTargetUpdate, h]

@[simp] theorem execPwrCoolantWrite_keeps {s : State} (value : Nat) (h : Keeps σ s.store) :
    Answers σ (execPwrCoolantWrite value s) := by
  simp [execPwrCoolantWrite, h]

@[simp] theorem execCoolantStale_keeps {s : State} (h : Keeps σ s.store) : Answers σ (execCoolantStale s) := by
  simp [execCoolantStale, h]

@[simp] theorem execRailOutOfRange_keeps {s : State} (rail mv : Nat) (h : Keeps σ s.store) :
    Answers σ (execRailOutOfRange rail mv s) := by
  simp [execRailOutOfRange, h]

@[simp] theorem telWrite_keeps {s : State} (fa : Nat) (d : List Byte) (h : Keeps σ s.store) :
    Keeps σ (telWrite s fa d).store := by
  unfold telWrite
  dsimp only
  (repeat' split) <;> simp [h]

@[simp] theorem execTelemetryRecord_keeps {s : State} (h : Keeps σ s.store) : Answers σ (execTelemetryRecord s) := by
  simp [execTelemetryRecord, h]

@[simp] theorem execPondLull_keeps {s : State} (p : Nat) (h : Keeps σ s.store) : Answers σ (execPondLull p s) := by
  simp [execPondLull, h]

@[simp] theorem execPondWake_keeps {s : State} (p : Nat) (h : Keeps σ s.store) : Answers σ (execPondWake p s) := by
  simp [execPondWake, h]

@[simp] theorem execPondSupplyGood_keeps {s : State} (p : Nat) (bad : List Nat) (h : Keeps σ s.store) :
    Answers σ (execPondSupplyGood p bad s) := by
  unfold execPondSupplyGood
  rw [Answers_next]
  extract_lets s₁ s₂
  have h₁ : Keeps σ s₁.store := foldl_keeps _ h fun _ _ hs => by simp [hs]
  clear_value s₁
  have h₂ : Keeps σ s₂.store := by simpa [s₂] using h₁
  clear_value s₂
  split
  · split
    · exact h₁
    · split
      · exact h₂
      · exact h₂
  · exact h

@[simp] theorem execRest_keeps {s : State} (q : Nat) (h : Keeps σ s.store) : Answers σ (execRest q s) := by
  unfold execRest
  split <;> simp [h]

@[simp] theorem restEnd_keeps {s : State} (r : RestSt) (state cause thr : Nat) (h : Keeps σ s.store) :
    Keeps σ (restEnd s r state cause thr).store := by
  unfold restEnd
  extract_lets s₁ s₂ s₃ d
  have h₃ : Keeps σ s₃.store := by simpa [s₃, s₂, s₁] using h
  split
  · exact h₃
  · extract_lets wrec s₄
    have hbody : RunKeeps σ (if wrec = 0 then pure () else bytesAtRetire wrec d) := by
      split <;> simp
    have h₄ : Keeps σ s₄.store := runBody_keeps _ _ h₃ hbody
    split
    · split
      · split
        · exact retireOldest_keeps _ _ _ h₄ fun _ ht => ht
        · exact h₄
      · exact h₄
    · exact h₄

@[simp] theorem execRestCommit_keeps {s : State} (h : Keeps σ s.store) : Answers σ (execRestCommit s) := by
  unfold execRestCommit
  dsimp only
  (repeat' split) <;> simp [h]

@[simp] theorem execRestQuiescenceTimeout_keeps {s : State} (h : Keeps σ s.store) :
    Answers σ (execRestQuiescenceTimeout s) := by
  unfold execRestQuiescenceTimeout
  split <;> simp [h]

@[simp] theorem loseSegments_keeps {s : State} (retain : Nat) (h : Keeps σ s.store) :
    Keeps σ (loseSegments s retain).store := by
  unfold loseSegments
  extract_lets gone lost s₁ s₂ hotLost
  have h₁ : Keeps σ s₁.store :=
    foldl_keeps _ h fun _ _ hs => foldl_keeps _ hs fun _ _ hs => State.makeStale_keeps _ _ hs
  clear_value s₁
  have h₂ : Keeps σ s₂.store := h₁
  clear_value s₂
  split
  · rw [State.set_store]
    exact h₂
  · exact h₂

@[simp] theorem loseBands_keeps {s : State} (pasr : Nat) (h : Keeps σ s.store) : Keeps σ (loseBands s pasr).store := by
  unfold loseBands
  extract_lets band s₁
  have h₁ : Keeps σ s₁.store := by
    refine foldl_keeps _ h fun s b hs => ?_
    split
    · exact hs
    · exact State.makeStale_keeps _ _ hs
  exact h₁

@[simp] theorem restPorts_keeps {s : State} (h : Keeps σ s.store) : Keeps σ (restPorts s).store := by
  unfold restPorts
  extract_lets s₁ host boot s₂
  have h₁ : Keeps σ s₁.store := foldl_keeps _ h fun s p hs => by simp [hs]
  clear_value s₁
  have h₂ : Keeps σ s₂.store := h₁
  simp [h₂]

@[simp] theorem execRestStateReached_keeps {s : State} (h : Keeps σ s.store) : Answers σ (execRestStateReached s) := by
  unfold execRestStateReached
  rw [Answers_next]
  split
  · exact h
  · extract_lets raw s₁ s₂ s₃ s₄ s₅ s₆ s₇ power
    have h₂ : Keeps σ s₂.store := by simpa [s₂, s₁] using h
    have h₃ : Keeps σ s₃.store := by simpa [s₃] using h₂
    have h₄ : Keeps σ s₄.store := loseBands_keeps _ (loseSegments_keeps _ h₃)
    have h₅ : Keeps σ s₅.store := by
      unfold s₅
      split
      · exact loseSegments_keeps _ h₃
      · exact restPorts_keeps h₄
    have h₆ : Keeps σ s₆.store := by simpa [s₆] using h₅
    clear_value s₆
    have h₇ : Keeps σ s₇.store := by simpa [s₇] using h₆
    clear_value s₇
    split
    · exact h
    · split
      · exact h₆
      · exact h₇

@[simp] theorem execWakeTimer_keeps {s : State} (h : Keeps σ s.store) : Answers σ (execWakeTimer s) := by
  unfold execWakeTimer
  (repeat' split) <;> simp [h]

@[simp] theorem execWakeN_keeps {s : State} (h : Keeps σ s.store) : Answers σ (execWakeN s) := by
  simp [execWakeN, h]

@[simp] theorem execPwrCtrlWake_keeps {s : State} (h : Keeps σ s.store) : Answers σ (execPwrCtrlWake s) := by
  simp [execPwrCtrlWake, h]

@[simp] theorem execDrowseSample_keeps {s : State} (readings : List (Nat × Int)) (h : Keeps σ s.store) :
    Answers σ (execDrowseSample readings s) := by
  unfold execDrowseSample
  (repeat' split) <;> simp [h]

@[simp] theorem execWakeComplete_keeps {s : State} (h : Keeps σ s.store) : Answers σ (execWakeComplete s) := by
  unfold execWakeComplete
  rw [Answers_next]
  split
  · exact h
  · extract_lets s₁ time s₂ s₃ s₄ s₅ s₆
    have h₁ : Keeps σ s₁.store := by simpa [s₁] using h
    clear_value s₁
    have h₂ : Keeps σ s₂.store := h₁
    have h₃ : Keeps σ s₃.store := beacon_keeps (by rw [toBeacon_store]; exact h₂)
    clear_value s₃
    have h₄ : Keeps σ s₄.store := by simp [s₄, h₃]
    have h₆ : Keeps σ s₆.store := judgeHeld_keeps (by simpa [s₅] using h₄)
    split
    · exact h
    · exact restEnd_keeps _ _ _ _ h₆

/-! Of Machine/Access. -/

@[simp] theorem lnkGcfgWrite_keeps {s : State} (old v : W64) (h : Keeps σ s.store) :
    Keeps σ (lnkGcfgWrite s old v).store := by
  simp [lnkGcfgWrite, h]

/-- Where a write to a register takes a state of its own, that state keeps the invariant. -/
def GivesKept (σ : Store) (o : Option State) : Prop :=
  ∀ t, o = some t → Keeps σ t.store

@[simp] theorem GivesKept_some {s : State} : GivesKept σ (some s) ↔ Keeps σ s.store :=
  ⟨fun h => h s rfl, fun h _ ht => Option.some.inj ht ▸ h⟩

@[simp] theorem GivesKept_none : GivesKept σ none := fun _ ht => nomatch ht

theorem GivesKept.ite {c : Prop} [Decidable c] {o o' : Option State} (ho : GivesKept σ o) (ho' : GivesKept σ o') :
    GivesKept σ (if c then o else o') := by
  split
  · exact ho
  · exact ho'

theorem regAction_keeps {s : State} (r : Reg) (i j : Nat) (old v c : W64) (m : Nat) (h : Keeps σ s.store) :
    GivesKept σ (regAction s r i j old v c m) := by
  unfold regAction
  extract_lets o q is low act keep s₁ s₂ w1c head
  have hk : Keeps σ keep.store := by simpa [keep] using h
  have h₁ : Keeps σ s₁.store := by simp [s₁, h]
  have h₂ : Keeps σ s₂.store := by simpa [s₂] using h
  clear_value keep s₁ s₂
  have hhot : Keeps σ ((upto 96).foldl (fun s p => if pondIdle s p then slabReconfig s p else s) keep).store :=
    foldl_keeps _ hk fun s p hs => by simp [hs]
  repeat' with_reducible apply GivesKept.ite
  all_goals simp [h, hk, h₁, h₂, hhot]

@[simp] theorem writeFields_keeps {s : State} (r : Reg) (i j m : Nat) (c : W64) (h : Keeps σ s.store) :
    Keeps σ (writeFields s r i j m c).store := by
  unfold writeFields
  extract_lets o rw w1c old joined took s₁ v wo
  have h₁ : Keeps σ s₁.store := by simpa [s₁] using h
  split
  next t ht => exact regAction_keeps _ _ _ _ _ _ _ h₁ t ht
  · simpa using h₁

@[simp] theorem writeReg_keeps {s : State} (o w value : Nat) (h : Keeps σ s.store) :
    Keeps σ (writeReg s o w value).2.store := by
  unfold writeReg
  (repeat' split) <;> simp [h]

@[simp] theorem execLnkCfgWrite_keeps {s : State} (port value : Nat) (h : Keeps σ s.store) :
    Answers σ (execLnkCfgWrite port value s) := by
  simp [execLnkCfgWrite, h]

@[simp] theorem execRegisterWrite_keeps {s : State} (w : RegWrite) (h : Keeps σ s.store) :
    Answers σ (execRegisterWrite w s) := by
  simp [execRegisterWrite, h]

end Sys2Proof.Machine
end

section
/-! SUPPORT. Boot, the general cores, frames, the host and sideband messages keep the invariant. -/

namespace Sys2Proof.Machine

open Sys2Proof

variable {σ : Store} {α β : Type}

/-! Of Machine/Boot. -/

@[simp] theorem applyRecord_keeps {s : State} (r : Rec) (h : Keeps σ s.store) : Keeps σ (applyRecord s r).store := by
  unfold applyRecord
  extract_lets b s₁ host s₂
  have h₁ : Keeps σ s₁.store := by simpa [s₁] using h
  clear_value s₁
  have h₂ : Keeps σ s₂.store := by simpa [s₂] using h
  clear_value s₂
  split
  · exact foldl_keeps _ h fun s k hs => writeReg_keeps _ _ _ hs
  · simpa using h
  · simpa using h
  · simpa using h
  · exact h₁
  · simpa using h
  · exact foldl_keeps _ h₂ fun s p hs => by simpa using hs
  · simpa using h
  · exact h

@[simp] theorem applyRecords_keeps {s : State} (l : List Rec) (h : Keeps σ s.store) :
    Keeps σ (applyRecords s l).1.store := by
  induction l generalizing s with
  | nil => exact h
  | cons r l ih =>
    rw [applyRecords]
    split
    · exact ih (applyRecord_keeps r h)
    · split
      · exact h
      · exact ih (by simpa using h)

@[simp] theorem bootFrom_keeps {s : State} (n : Nat) (x : Slot) (owner : List Byte) (b : BootInput)
    (h : Keeps σ s.store) : Keeps σ (bootFrom s n x owner b).store := by
  unfold bootFrom
  extract_lets s₁ recs
  have h₁ : Keeps σ s₁.store := by simpa [s₁] using h
  clear_value s₁
  split
  · simpa using h₁
  next t ht =>
    have h₂ : Keeps σ t.store := by rwa [identify_store ht]
    split
    · simpa using h₂
    · split
      next k u hu =>
        have h₃ : Keeps σ u.store := by simpa [snd_store hu] using h₂
        extract_lets v w
        have h₄ : Keeps σ v.store := h₃
        clear_value v
        have h₅ : Keeps σ w.store := foldl_keeps _ h₄ fun _ _ hs => by simpa using hs
        have h₆ := applyRecords_keeps recs h₅
        clear_value w
        split <;> rename_i hr <;> rw [hr] at h₆
        · simpa using h₆
        · extract_lets v₁ v₂ v₃
          have h₇ : Keeps σ v₁.store := by simpa [v₁] using h₆
          clear_value v₁
          have h₈ : Keeps σ v₂.store := foldl_keeps _ h₇ fun _ _ hs => by simp [hs]
          clear_value v₂
          have h₉ : Keeps σ v₃.store := by
            refine foldl_keeps _ h₈ fun _ _ hs => ?_
            split
            · exact foldl_keeps _ hs fun _ _ hs => foldl_keeps _ hs fun _ _ hs => by simpa using hs
            · exact hs
          exact foldl_keeps _ h₉ fun _ _ hs => by simpa using hs

@[simp] theorem boot_keeps {s : State} (b : BootInput) (h : Keeps σ s.store) : Keeps σ (boot s b).store := by
  unfold boot
  split
  · simpa using h
  · split <;> simp [h]
  · extract_lets s₁
    have h₁ : Keeps σ s₁.store := by simpa [s₁] using h
    clear_value s₁
    split
    · exact bootFrom_keeps _ _ _ _ h
    · split <;> simp [h₁]

@[simp] theorem execPorNRelease_keeps {s : State} (b : BootInput) (h : Keeps σ s.store) :
    Answers σ (execPorNRelease b s) := by
  unfold execPorNRelease
  (repeat' split) <;> simp [h]

@[simp] theorem flashSpoil_keeps {s : State} (h : Keeps σ s.store) : Keeps σ (flashSpoil s).store := by
  unfold flashSpoil
  split <;> simp [h]

@[simp] theorem execPorNAssert_keeps {s : State} (h : Keeps σ s.store) : Answers σ (execPorNAssert s) := by
  unfold execPorNAssert
  rw [Answers_next]
  extract_lets t r boot pins
  have ht : Keeps σ t.store := by simp [t, h]
  rw [State.store_mk]
  exact ⟨ht.1, fun _ => reset_wf⟩

@[simp] theorem execBootReady_keeps {s : State} (h : Keeps σ s.store) : Answers σ (execBootReady s) := by
  simp [execBootReady, h]

@[simp] theorem execWorldDescriptionCommit_keeps {s : State} (h : Keeps σ s.store) :
    Answers σ (execWorldDescriptionCommit s) := by
  simp [execWorldDescriptionCommit, h]

@[simp] theorem execFlashRead_keeps {s : State} (value : Nat) (h : Keeps σ s.store) :
    Answers σ (execFlashRead value s) := by
  simp [execFlashRead, h]

@[simp] theorem execFlashProgram_keeps {s : State} (value : Nat) (h : Keeps σ s.store) :
    Answers σ (execFlashProgram value s) := by
  simp [execFlashProgram, h]

@[simp] theorem execFlashErase4k_keeps {s : State} (value : Nat) (h : Keeps σ s.store) :
    Answers σ (execFlashErase4k value s) := by
  simp [execFlashErase4k, h]

@[simp] theorem execFlashErase64k_keeps {s : State} (value : Nat) (h : Keeps σ s.store) :
    Answers σ (execFlashErase64k value s) := by
  simp [execFlashErase64k, h]

@[simp] theorem flashEffect_keeps {s : State} (op a n : Nat) (h : Keeps σ s.store) :
    Keeps σ (flashEffect s op a n).1.store := by
  simp [flashEffect, h]

@[simp] theorem execFlashOpDone_keeps {s : State} (ok : Bool) (h : Keeps σ s.store) :
    Answers σ (execFlashOpDone ok s) := by
  unfold execFlashOpDone
  split <;> simp [h]

@[simp] theorem execDrbgReseed_keeps {s : State} (healthy : Bool) (h : Keeps σ s.store) :
    Answers σ (execDrbgReseed healthy s) := by
  simp [execDrbgReseed, h]

@[simp] theorem execRngHealthFailure_keeps {s : State} (h : Keeps σ s.store) :
    Answers σ (execRngHealthFailure s) := by
  simp [execRngHealthFailure, h]

/-! Of Machine/Gc. -/

@[simp] theorem misaligned_keeps {s : State} (g a n : Nat) (wr : Bool) (h : Keeps σ s.store) :
    Keeps σ (misaligned s g a n wr).store := by
  simp [misaligned, h]

@[simp] theorem gcLoad_keeps {s : State} (g : Nat) (r : GcRun) (a n : Nat) (h : Keeps σ s.store) :
    Keeps σ (gcLoad s g r a n).2.store := by
  simp [gcLoad, h]

@[simp] theorem gcWriteMem_keeps {s : State} (g : Nat) (r : GcRun) (a : Nat) (d : List Byte) (h : Keeps σ s.store) :
    Keeps σ (gcWriteMem s g r a d).2.store := by
  unfold gcWriteMem
  split <;> rename_i hr
  · simpa [snd_store hr] using h
  · split
    · simpa [snd_store hr] using h
    next t _ p _ =>
      have hw : Keeps σ ((touch t p.1).wrLocal p.1 d).1.store := by
        refine State.wrLocal_keeps _ _ ?_
        rwa [touch_store, snd_store hr, resolve_store]
      split
      next u bad hu =>
        rw [hu] at hw
        simp [hw]

@[simp] theorem gcWriteConfig_keeps {s : State} (a : Nat) (d : List Byte) (h : Keeps σ s.store) :
    Keeps σ (gcWriteConfig s a d).2.store := by
  -- unfolded as a constant: the kernel would compare the applied terms by running `writeReg`
  have hd : gcWriteConfig = gcWriteConfig := rfl
  conv_rhs at hd => delta gcWriteConfig
  rw [congrFun (congrFun (congrFun hd s) a) d]
  have hk := writeReg_keeps (configOff a) d.length (leNat d) h
  split <;> rename_i hw <;> rw [← snd_store hw] at hk <;> exact hk

@[simp] theorem gcStore_keeps {s : State} (g : Nat) (r : GcRun) (a : Nat) (d : List Byte) (h : Keeps σ s.store) :
    Keeps σ (gcStore s g r a d).2.store := by
  simp [gcStore, h]

/-- The store of the state that an instruction's outcome carries. -/
def GcOut.store : GcOut → Store
  | .go s _ | .exc _ _ s | .keep s => s.store

@[simp] theorem GcOut.store_go (s : State) (pc : Nat) : (GcOut.go s pc).store = s.store := rfl

@[simp] theorem GcOut.store_exc (e : GcExc) (a : Option Nat) (s : State) : (GcOut.exc e a s).store = s.store := rfl

@[simp] theorem GcOut.store_keep (s : State) : (GcOut.keep s).store = s.store := rfl

@[simp] theorem GcOut.store_ite (c : Prop) [Decidable c] (o o' : GcOut) :
    (if c then o else o').store = if c then o.store else o'.store := by
  split <;> rfl

@[simp] theorem gcApply_store (g : Nat) (o : GcOut) : (gcApply g o).store = o.store := by
  cases o <;> simp [gcApply]

@[simp] theorem gcStep_keeps {s : State} (g : Nat) (op : GcOp) {body : State → GcRun → Nat → GcOut}
    (h : Keeps σ s.store) (hb : ∀ t r w, Keeps σ t.store → Keeps σ (body t r w).store) :
    Keeps σ (gcStep s g op body).store := by
  unfold gcStep
  split
  · exact h
  · split <;> rename_i hf
    · rw [gcRaise_store, snd_store hf, gcFetch_store]
      exact h
    · split
      · rw [gcRaise_store, snd_store hf, gcFetch_store]
        exact h
      · split
        · rw [gcApply_store]
          exact hb _ _ _ (by rw [snd_store hf, gcFetch_store]; exact h)
        · exact h

@[simp] theorem gcAlu_store (g : Nat) (f : W64 → W64 → W64) (s : State) (r : GcRun) (w : Nat) :
    (gcAlu g f s r w).store = s.store := by
  simp [gcAlu]

@[simp] theorem gcImm_store (g : Nat) (f : W64 → Nat → W64) (s : State) (r : GcRun) (w : Nat) :
    (gcImm g f s r w).store = s.store := by
  simp [gcImm]

@[simp] theorem gcBranch_store (g : Nat) (f : W64 → W64 → Bool) (s : State) (r : GcRun) (w : Nat) :
    (gcBranch g f s r w).store = s.store := by
  simp [gcBranch]

@[simp] theorem gcLd_keeps {s : State} (g n : Nat) (r : GcRun) (w : Nat) (h : Keeps σ s.store) :
    Keeps σ (gcLd g n s r w).store := by
  have hl := gcLoad_keeps g r (gcAddr s g w) n h
  unfold gcLd
  dsimp only
  split <;> rename_i hr <;> rw [← snd_store hr] at hl
  · exact hl
  · split <;> simpa using hl

@[simp] theorem gcSt_keeps {s : State} (g n : Nat) (r : GcRun) (w : Nat) (h : Keeps σ s.store) :
    Keeps σ (gcSt g n s r w).store := by
  have hl := gcStore_keeps g r (gcAddr s g w) (leBytes n (gval s g (wX w)).toNat) h
  unfold gcSt
  split <;> rename_i hr <;> rw [← snd_store hr] at hl <;> exact hl

@[simp] theorem ueFirst_keeps {s : State} (g : Nat) {k : State → GcOut} (h : Keeps σ s.store)
    (hk : Keeps σ (k s).store) : Keeps σ (ueFirst g s k).store := by
  unfold ueFirst
  split
  · simpa using h
  · exact hk

@[simp] theorem gcEffect_keeps {s : State} (g kind : Nat) (r : GcRun) (w : Nat) {act : State → GcOut}
    (h : Keeps σ s.store) (ha : Keeps σ (act s).store) : Keeps σ (gcEffect g kind s r w act).store := by
  unfold gcEffect
  split
  · split <;> simpa using h
  · split
    · exact h
    · exact ha

@[simp] theorem execGrun_keeps {s : State} (q : Nat) (h : Keeps σ s.store) : Answers σ (execGrun q s) := by
  unfold execGrun
  split <;> simp [h]

/-! Of Machine/GcInstr. -/

@[simp] theorem execAdd_keeps {s : State} (g : Nat) (h : Keeps σ s.store) : Answers σ (execAdd g s) := by
  simp [execAdd, h]

@[simp] theorem execSub_keeps {s : State} (g : Nat) (h : Keeps σ s.store) : Answers σ (execSub g s) := by
  simp [execSub, h]

@[simp] theorem execMul_keeps {s : State} (g : Nat) (h : Keeps σ s.store) : Answers σ (execMul g s) := by
  simp [execMul, h]

@[simp] theorem execAnd_keeps {s : State} (g : Nat) (h : Keeps σ s.store) : Answers σ (execAnd g s) := by
  simp [execAnd, h]

@[simp] theorem execOr_keeps {s : State} (g : Nat) (h : Keeps σ s.store) : Answers σ (execOr g s) := by
  simp [execOr, h]

@[simp] theorem execXor_keeps {s : State} (g : Nat) (h : Keeps σ s.store) : Answers σ (execXor g s) := by
  simp [execXor, h]

@[simp] theorem execShl_keeps {s : State} (g : Nat) (h : Keeps σ s.store) : Answers σ (execShl g s) := by
  simp [execShl, h]

@[simp] theorem execShr_keeps {s : State} (g : Nat) (h : Keeps σ s.store) : Answers σ (execShr g s) := by
  simp [execShr, h]

@[simp] theorem execCmplu_keeps {s : State} (g : Nat) (h : Keeps σ s.store) : Answers σ (execCmplu g s) := by
  simp [execCmplu, h]

@[simp] theorem execFadd_keeps {s : State} (g : Nat) (h : Keeps σ s.store) : Answers σ (execFadd g s) := by
  simp [execFadd, h]

@[simp] theorem execFsub_keeps {s : State} (g : Nat) (h : Keeps σ s.store) : Answers σ (execFsub g s) := by
  simp [execFsub, h]

@[simp] theorem execFmul_keeps {s : State} (g : Nat) (h : Keeps σ s.store) : Answers σ (execFmul g s) := by
  simp [execFmul, h]

@[simp] theorem execFdiv_keeps {s : State} (g : Nat) (h : Keeps σ s.store) : Answers σ (execFdiv g s) := by
  simp [execFdiv, h]

@[simp] theorem execFsqrt_keeps {s : State} (g : Nat) (h : Keeps σ s.store) : Answers σ (execFsqrt g s) := by
  simp [execFsqrt, h]

@[simp] theorem execFcmplt_keeps {s : State} (g : Nat) (h : Keeps σ s.store) : Answers σ (execFcmplt g s) := by
  simp [execFcmplt, h]

@[simp] theorem execFcvti_keeps {s : State} (g : Nat) (h : Keeps σ s.store) : Answers σ (execFcvti g s) := by
  simp [execFcvti, h]

@[simp] theorem execIcvtf_keeps {s : State} (g : Nat) (h : Keeps σ s.store) : Answers σ (execIcvtf g s) := by
  simp [execIcvtf, h]

@[simp] theorem execAddk_keeps {s : State} (g : Nat) (h : Keeps σ s.store) : Answers σ (execAddk g s) := by
  simp [execAddk, h]

@[simp] theorem execAndk_keeps {s : State} (g : Nat) (h : Keeps σ s.store) : Answers σ (execAndk g s) := by
  simp [execAndk, h]

@[simp] theorem execOrk_keeps {s : State} (g : Nat) (h : Keeps σ s.store) : Answers σ (execOrk g s) := by
  simp [execOrk, h]

@[simp] theorem execShlk_keeps {s : State} (g : Nat) (h : Keeps σ s.store) : Answers σ (execShlk g s) := by
  simp [execShlk, h]

@[simp] theorem execShrk_keeps {s : State} (g : Nat) (h : Keeps σ s.store) : Answers σ (execShrk g s) := by
  simp [execShrk, h]

@[simp] theorem execSark_keeps {s : State} (g : Nat) (h : Keeps σ s.store) : Answers σ (execSark g s) := by
  simp [execSark, h]

@[simp] theorem execHik_keeps {s : State} (g : Nat) (h : Keeps σ s.store) : Answers σ (execHik g s) := by
  simp [execHik, h]

@[simp] theorem execLd8_keeps {s : State} (g : Nat) (h : Keeps σ s.store) : Answers σ (execLd8 g s) := by
  refine Answers_next.mpr (gcStep_keeps _ _ h fun _ _ _ ht => ?_)
  simp [ht]

@[simp] theorem execLd16_keeps {s : State} (g : Nat) (h : Keeps σ s.store) : Answers σ (execLd16 g s) := by
  refine Answers_next.mpr (gcStep_keeps _ _ h fun _ _ _ ht => ?_)
  simp [ht]

@[simp] theorem execLd32_keeps {s : State} (g : Nat) (h : Keeps σ s.store) : Answers σ (execLd32 g s) := by
  refine Answers_next.mpr (gcStep_keeps _ _ h fun _ _ _ ht => ?_)
  simp [ht]

@[simp] theorem execLd64_keeps {s : State} (g : Nat) (h : Keeps σ s.store) : Answers σ (execLd64 g s) := by
  refine Answers_next.mpr (gcStep_keeps _ _ h fun _ _ _ ht => ?_)
  simp [ht]

@[simp] theorem execSt8_keeps {s : State} (g : Nat) (h : Keeps σ s.store) : Answers σ (execSt8 g s) := by
  refine Answers_next.mpr (gcStep_keeps _ _ h fun _ _ _ ht => ?_)
  simp [ht]

@[simp] theorem execSt16_keeps {s : State} (g : Nat) (h : Keeps σ s.store) : Answers σ (execSt16 g s) := by
  refine Answers_next.mpr (gcStep_keeps _ _ h fun _ _ _ ht => ?_)
  simp [ht]

@[simp] theorem execSt32_keeps {s : State} (g : Nat) (h : Keeps σ s.store) : Answers σ (execSt32 g s) := by
  refine Answers_next.mpr (gcStep_keeps _ _ h fun _ _ _ ht => ?_)
  simp [ht]

@[simp] theorem execSt64_keeps {s : State} (g : Nat) (h : Keeps σ s.store) : Answers σ (execSt64 g s) := by
  refine Answers_next.mpr (gcStep_keeps _ _ h fun _ _ _ ht => ?_)
  simp [ht]

@[simp] theorem execBreq_keeps {s : State} (g : Nat) (h : Keeps σ s.store) : Answers σ (execBreq g s) := by
  simp [execBreq, h]

@[simp] theorem execBrne_keeps {s : State} (g : Nat) (h : Keeps σ s.store) : Answers σ (execBrne g s) := by
  simp [execBrne, h]

@[simp] theorem execBrlt_keeps {s : State} (g : Nat) (h : Keeps σ s.store) : Answers σ (execBrlt g s) := by
  simp [execBrlt, h]

@[simp] theorem execBrge_keeps {s : State} (g : Nat) (h : Keeps σ s.store) : Answers σ (execBrge g s) := by
  simp [execBrge, h]

@[simp] theorem execBrltu_keeps {s : State} (g : Nat) (h : Keeps σ s.store) : Answers σ (execBrltu g s) := by
  simp [execBrltu, h]

@[simp] theorem execBrgeu_keeps {s : State} (g : Nat) (h : Keeps σ s.store) : Answers σ (execBrgeu g s) := by
  simp [execBrgeu, h]

@[simp] theorem callBody_store (g : Nat) (s : State) (r : GcRun) (w : Nat) : (callBody g s r w).store = s.store := by
  simp [callBody]

@[simp] theorem execCall_keeps {s : State} (g : Nat) (h : Keeps σ s.store) : Answers σ (execCall g s) := by
  simp [execCall, h]

@[simp] theorem callrBody_store (g : Nat) (s : State) (r : GcRun) (w : Nat) : (callrBody g s r w).store = s.store := by
  simp [callrBody]

@[simp] theorem execCallr_keeps {s : State} (g : Nat) (h : Keeps σ s.store) : Answers σ (execCallr g s) := by
  simp [execCallr, h]

@[simp] theorem execFence_keeps {s : State} (g : Nat) (h : Keeps σ s.store) : Answers σ (execFence g s) := by
  refine Answers_next.mpr (gcStep_keeps _ _ h fun t r w ht => ueFirst_keeps _ ht ?_)
  simpa using ht

@[simp] theorem yieldBody_store (g : Nat) (s : State) (r : GcRun) (w : Nat) : (yieldBody g s r w).store = s.store := by
  simp [yieldBody]

@[simp] theorem execYield_keeps {s : State} (g : Nat) (h : Keeps σ s.store) : Answers σ (execYield g s) := by
  simp [execYield, h]

@[simp] theorem execYieldTimeout_keeps {s : State} (g : Nat) (h : Keeps σ s.store) :
    Answers σ (execYieldTimeout g s) := by
  unfold execYieldTimeout
  rw [Answers_next]
  split <;> simp [h]

@[simp] theorem execHalt_keeps {s : State} (g : Nat) (h : Keeps σ s.store) : Answers σ (execHalt g s) := by
  refine Answers_next.mpr (gcStep_keeps _ _ h fun t r w ht => ueFirst_keeps _ ht ?_)
  dsimp only
  split <;> simpa using ht

@[simp] theorem tretBody_store (g : Nat) (s : State) (r : GcRun) (w : Nat) : (tretBody g s r w).store = s.store := by
  simp [tretBody]

@[simp] theorem execTret_keeps {s : State} (g : Nat) (h : Keeps σ s.store) : Answers σ (execTret g s) := by
  simp [execTret, h]

@[simp] theorem execTrap_keeps {s : State} (g : Nat) (h : Keeps σ s.store) : Answers σ (execTrap g s) :=
  Answers_next.mpr (gcStep_keeps _ _ h fun _ _ _ ht => ht)

@[simp] theorem crrBody_store (g : Nat) (s : State) (r : GcRun) (w : Nat) : (crrBody g s r w).store = s.store := by
  unfold crrBody
  extract_lets n
  have hr := readReg_store s (crOff g n) 8
  split
  · rfl
  · split
    · rfl
    · split <;> rename_i hv <;> rw [hv] at hr <;> simpa using hr

@[simp] theorem execCrr_keeps {s : State} (g : Nat) (h : Keeps σ s.store) : Answers σ (execCrr g s) := by
  simp [execCrr, h]

@[simp] theorem crwBody_keeps {s : State} (g : Nat) (r : GcRun) (w : Nat) (h : Keeps σ s.store) :
    Keeps σ (crwBody g s r w).store := by
  unfold crwBody
  dsimp only
  split
  · exact h
  · split
    · exact h
    · exact writeReg_keeps _ _ _ h

@[simp] theorem execCrw_keeps {s : State} (g : Nat) (h : Keeps σ s.store) : Answers σ (execCrw g s) :=
  Answers_next.mpr (gcStep_keeps _ _ h fun _ _ _ ht => crwBody_keeps _ _ _ ht)

@[simp] theorem issueAppend_keeps {s : State} (g q rd : Nat) (cmd : List Byte) (h : Keeps σ s.store) :
    Keeps σ (issueAppend g q rd s cmd).store := by
  unfold issueAppend
  extract_lets t a
  have hw : Keeps σ ((touch s a).wrLocal a cmd).1.store := by simp [h]
  split
  · exact h
  · split <;> rename_i hr <;> rw [hr] at hw
    · exact h
    · simpa using doorbell_keeps q _ hw

@[simp] theorem issueAct_keeps {s : State} (g : Nat) (r : GcRun) (w : Nat) (h : Keeps σ s.store) :
    Keeps σ (issueAct g r w s).store := by
  unfold issueAct
  extract_lets a q
  have hr := gcRead_store s g r a 64
  rw [GcOut.store_ite, GcOut.store_ite, Keeps_ite, Keeps_ite]
  refine ⟨fun _ => h, fun _ => ⟨fun _ => h, fun _ => ?_⟩⟩
  split <;> rename_i hread <;> rw [hread] at hr
  · rwa [GcOut.store_exc, hr]
  next cmd t =>
    have ht : Keeps σ t.store := by rwa [hr]
    split
    · exact ht
    · split
      · split
        · simpa using ht
        · split <;> simpa using ht
      · exact issueAppend_keeps _ _ _ _ ht

@[simp] theorem execIssue_keeps {s : State} (g : Nat) (h : Keeps σ s.store) : Answers σ (execIssue g s) :=
  Answers_next.mpr (gcStep_keeps _ _ h fun _ r w ht =>
    ueFirst_keeps _ ht (gcEffect_keeps _ _ _ _ ht (issueAct_keeps g r w ht)))

@[simp] theorem sigAct_keeps {s : State} (g : Nat) (r : GcRun) (w : Nat) (h : Keeps σ s.store) :
    Keeps σ (sigAct g r w s).store := by
  unfold sigAct
  dsimp only
  split <;> simp [h]

@[simp] theorem execSig_keeps {s : State} (g : Nat) (h : Keeps σ s.store) : Answers σ (execSig g s) :=
  Answers_next.mpr (gcStep_keeps _ _ h fun _ r w ht =>
    ueFirst_keeps _ ht (gcEffect_keeps _ _ _ _ ht (sigAct_keeps g r w ht)))

@[simp] theorem waitAct_store (g : Nat) (r : GcRun) (w : Nat) (s : State) : (waitAct g r w s).store = s.store := by
  unfold waitAct
  dsimp only
  split <;> simp

@[simp] theorem execWait_keeps {s : State} (g : Nat) (h : Keeps σ s.store) : Answers σ (execWait g s) :=
  Answers_next.mpr (gcStep_keeps _ _ h fun _ _ _ ht => gcEffect_keeps _ _ _ _ ht (by simpa using ht))

@[simp] theorem trywaitAct_store (g : Nat) (r : GcRun) (w : Nat) (s : State) :
    (trywaitAct g r w s).store = s.store := by
  unfold trywaitAct
  dsimp only
  split
  · rfl
  · split
    next t ht => simp [State.semTry_store ht]
    · simp

@[simp] theorem execTrywait_keeps {s : State} (g : Nat) (h : Keeps σ s.store) : Answers σ (execTrywait g s) :=
  Answers_next.mpr (gcStep_keeps _ _ h fun _ _ _ ht => gcEffect_keeps _ _ _ _ ht (by simpa using ht))

@[simp] theorem decAct_store (g : Nat) (r : GcRun) (w : Nat) (s : State) : (decAct g r w s).store = s.store := by
  unfold decAct
  dsimp only
  split
  · rfl
  next ref hr =>
    have hd := s.semDec_store ref.off (gval s g (wZ w)).toNat
    split <;> rename_i ht <;> rw [ht] at hd <;> simpa using hd

@[simp] theorem execDec_keeps {s : State} (g : Nat) (h : Keeps σ s.store) : Answers σ (execDec g s) :=
  Answers_next.mpr (gcStep_keeps _ _ h fun _ _ _ ht => gcEffect_keeps _ _ _ _ ht (by simpa using ht))

@[simp] theorem sumrBody_store (g : Nat) (s : State) (r : GcRun) (w : Nat) : (sumrBody g s r w).store = s.store := by
  simp [sumrBody]

@[simp] theorem execSumr_keeps {s : State} (g : Nat) (h : Keeps σ s.store) : Answers σ (execSumr g s) := by
  simp [execSumr, h]

/-! Of Machine/Links. -/

@[simp] theorem deliver_keeps {s : State} (f : RxFrame) (h : Keeps σ s.store) : Keeps σ (deliver s f).store := by
  simp [deliver, h]

@[simp] theorem takeData_keeps {s : State} (f : RxFrame) (h : Keeps σ s.store) : Keeps σ (takeData s f).2.store := by
  unfold takeData
  dsimp only
  (repeat' split) <;> simp [h]

@[simp] theorem passOn_keeps {s : State} (f : RxFrame) (d : List Byte) (h : Keeps σ s.store) :
    Keeps σ (passOn s f d).store := by
  simp [passOn, h]

@[simp] theorem receive_keeps {s : State} (f : RxFrame) (type : Nat) {late : List Byte → Option State}
    {act : State → Bool → List Byte → State} (h : Keeps σ s.store) (hl : ∀ d t, late d = some t → Keeps σ t.store)
    (ha : ∀ t dup d, Keeps σ t.store → Keeps σ (act t dup d).store) : Keeps σ (receive s f type late act).store := by
  have ht := takeData_keeps f h
  unfold receive
  split
  · exact ht
  · split
    · exact h
    · split <;> rename_i hd <;> rw [hd] at ht
      · exact ht
      next d t =>
        split
        next t' hlate => exact hl _ _ hlate
        · split
          · have hp : Keeps σ (if vcOf f.type = 0 then pathRequest t f else (false, t)).2.store := by simpa using ht
            split
            · split
              next dup u hu =>
                rw [hu] at hp
                exact State.flushLinks_keeps (ha _ _ _ hp)
            · split
              · exact passOn_keeps _ _ ht
              · simpa using ht
          · split
            · exact passOn_keeps _ _ ht
            · extract_lets k e ahead
              split
              · exact State.flushLinks_keeps (ha _ _ _ ht)
              · split
                · exact State.flushLinks_keeps ht
                · exact State.flushLinks_keeps (ha _ _ _ ht)

@[simp] theorem execWriteFrame_keeps {s : State} (f : RxFrame) (h : Keeps σ s.store) :
    Answers σ (execWriteFrame f s) := by
  refine Answers_next.mpr (receive_keeps _ _ h (fun _ _ ht => nomatch ht) fun t dup d ht => ?_)
  split
  · split <;> simp [ht]
  · split <;> simp [ht]

@[simp] theorem execReadReq_keeps {s : State} (f : RxFrame) (h : Keeps σ s.store) : Answers σ (execReadReq f s) := by
  refine Answers_next.mpr (receive_keeps _ _ h (fun _ _ ht => nomatch ht) fun t dup d ht => ?_)
  dsimp only
  split <;> simp [ht]

@[simp] theorem execSignalFrame_keeps {s : State} (f : RxFrame) (h : Keeps σ s.store) :
    Answers σ (execSignalFrame f s) := by
  refine Answers_next.mpr (receive_keeps _ _ h (fun _ _ ht => nomatch ht) fun t dup d ht => ?_)
  simp [ht]

theorem sampleLate_keeps {s t : State} {f : RxFrame} {d : List Byte} (h : Keeps σ s.store)
    (ht : sampleLate s f d = some t) : Keeps σ t.store := by
  unfold sampleLate at ht
  simp only [Option.ite_none_left_eq_some, Option.some.injEq] at ht
  obtain ⟨-, rfl⟩ := ht
  simpa using h

@[simp] theorem execSampleReq_keeps {s : State} (f : RxFrame) (h : Keeps σ s.store) : Answers σ (execSampleReq f s) := by
  refine Answers_next.mpr (receive_keeps _ _ h (fun _ _ ht => sampleLate_keeps h ht) fun t dup d ht => ?_)
  have hs := serveSample_keeps d ht
  dsimp only
  split
  · exact answer_keeps _ _ _ _ hs
  · exact foldl_keeps _ hs fun _ _ hs => answer_keeps _ _ _ _ hs

@[simp] theorem execMgmtWr_keeps {s : State} (f : RxFrame) (h : Keeps σ s.store) : Answers σ (execMgmtWr f s) := by
  refine Answers_next.mpr (receive_keeps _ _ h (fun _ _ ht => nomatch ht) fun t dup d ht => ?_)
  dsimp only
  split
  · simp [ht]
  · split
    · simp [ht]
    · split
      · exact answer_keeps _ _ _ _ (writeReg_keeps _ _ _ ht)
      · simp [ht]

@[simp] theorem execMgmtRd_keeps {s : State} (f : RxFrame) (h : Keeps σ s.store) : Answers σ (execMgmtRd f s) := by
  refine Answers_next.mpr (receive_keeps _ _ h (fun _ _ ht => nomatch ht) fun t dup d ht => ?_)
  dsimp only
  split
  · simp [ht]
  · split
    · split
      · exact ht
      · split <;> rename_i hr <;> exact answer_keeps _ _ _ _ (by simpa [snd_store hr] using ht)
    · simp [ht]

@[simp] theorem execIrqFrame_keeps {s : State} (f : RxFrame) (h : Keeps σ s.store) : Answers σ (execIrqFrame f s) := by
  refine Answers_next.mpr (receive_keeps _ _ h (fun _ _ ht => nomatch ht) fun t dup d ht => ?_)
  split <;> simp [ht]

@[simp] theorem settle_keeps {s : State} (who : Requester) (st : Nat) (data : List Byte) (h : Keeps σ s.store) :
    Keeps σ (settle s who st data).store := by
  unfold settle
  (repeat' split) <;> simp [h]

@[simp] theorem response_keeps {s : State} (f : RxFrame) (dup : Bool) (d : List Byte) (h : Keeps σ s.store) :
    Keeps σ (response f s dup d).store := by
  unfold response
  split <;> simp [h]

@[simp] theorem execWriteAck_keeps {s : State} (f : RxFrame) (h : Keeps σ s.store) : Answers σ (execWriteAck f s) :=
  Answers_next.mpr (receive_keeps _ _ h (fun _ _ ht => nomatch ht) fun _ _ _ ht => response_keeps _ _ _ ht)

@[simp] theorem execReadRsp_keeps {s : State} (f : RxFrame) (h : Keeps σ s.store) : Answers σ (execReadRsp f s) :=
  Answers_next.mpr (receive_keeps _ _ h (fun _ _ ht => nomatch ht) fun _ _ _ ht => response_keeps _ _ _ ht)

@[simp] theorem execSampleRsp_keeps {s : State} (f : RxFrame) (h : Keeps σ s.store) : Answers σ (execSampleRsp f s) := by
  refine Answers_next.mpr (receive_keeps _ _ h (fun _ _ ht => nomatch ht) fun t dup d ht => ?_)
  split
  · split
    · exact ht
    · split
      · simp [ht]
      · exact ht
  · exact ht

@[simp] theorem collFrame_keeps {s : State} (kind : Nat) (f : RxFrame) (h : Keeps σ s.store) :
    Keeps σ (collFrame kind f s).store := by
  refine receive_keeps _ _ h (fun d t ht => ?_) fun t dup d ht => ?_
  · simp only [Option.ite_none_left_eq_some, Option.some.injEq] at ht
    exact ht.2 ▸ h
  · simp [ht]

@[simp] theorem execCollChunk_keeps {s : State} (f : RxFrame) (h : Keeps σ s.store) :
    Answers σ (execCollChunk f s) := by
  simp [execCollChunk, h]

@[simp] theorem execCollAck_keeps {s : State} (f : RxFrame) (h : Keeps σ s.store) : Answers σ (execCollAck f s) := by
  simp [execCollAck, h]

@[simp] theorem execCollDone_keeps {s : State} (f : RxFrame) (h : Keeps σ s.store) :
    Answers σ (execCollDone f s) := by
  simp [execCollDone, h]

@[simp] theorem execCollAbort_keeps {s : State} (f : RxFrame) (h : Keeps σ s.store) :
    Answers σ (execCollAbort f s) := by
  simp [execCollAbort, h]

@[simp] theorem loseBody_keeps {q d : Nat} : RunKeeps σ (loseBody q d) := by
  unfold loseBody
  repeat' with_reducible first | (apply Composed.keeps; constructor) | intro _ | simp [*]

@[simp] theorem loseCollectives_keeps {s : State} (d : Nat) (h : Keeps σ s.store) :
    Keeps σ (loseCollectives s d).store :=
  foldl_keeps _ h fun _ _ hs => runBody_keeps _ _ hs loseBody_keeps

@[simp] theorem loseDevice_keeps {s : State} (d : Nat) (h : Keeps σ s.store) : Keeps σ (loseDevice s d).store := by
  unfold loseDevice
  extract_lets s₁ s₂ gone link s₃ s₄ s₅
  have h₂ : Keeps σ s₂.store := by simpa [s₂, s₁] using h
  clear_value s₂
  have h₃ : Keeps σ s₃.store := h₂
  have h₄ : Keeps σ s₄.store := foldl_keeps _ h₃ fun _ _ hs => by simp [hs]
  have h₅ : Keeps σ s₅.store := by simpa [s₅] using h₄
  simp [h₅]

@[simp] theorem troughTimeout_keeps {s : State} (dst n : Nat) (h : Keeps σ s.store) :
    Keeps σ (troughTimeout s dst n).store := by
  unfold troughTimeout
  split <;> simp [h]

@[simp] theorem execE2eTimeout_keeps {s : State} (dst seq : Nat) (h : Keeps σ s.store) :
    Answers σ (execE2eTimeout dst seq s) := by
  unfold execE2eTimeout
  dsimp only
  (repeat' split) <;> simp [h]

/-! Of Machine/HostBridge. -/

@[simp] theorem hostConfig_keeps {s : State} (a : HostAccess) (o : Nat) (h : Keeps σ s.store) :
    Keeps σ (hostConfig s a o).store := by
  unfold hostConfig
  split
  · exact writeReg_keeps _ _ _ h
  · split
    · exact h
    · split <;> rename_i hr <;> simpa [snd_store hr] using h

@[simp] theorem bar0_keeps {s : State} (a : HostAccess) (h : Keeps σ s.store) : Keeps σ (bar0 s a).store := by
  simp [bar0, h]

@[simp] theorem execBar0Access_keeps {s : State} (a : HostAccess) (h : Keeps σ s.store) :
    Answers σ (execBar0Access a s) := by
  simp [execBar0Access, h]

@[simp] theorem hostLocal_keeps {s : State} (a : HostAccess) (la : Nat) (h : Keeps σ s.store) :
    Keeps σ (hostLocal s a la).store := by
  unfold hostLocal
  split <;> simp [h]

@[simp] theorem hostRemote_keeps {s : State} (a : HostAccess) (dev la : Nat) (path : Option Nat) (h : Keeps σ s.store) :
    Keeps σ (hostRemote s a dev la path).store := by
  unfold hostRemote
  extract_lets send
  have hsend (s : State) (who : Requester) (type addr len : Nat) (d : List Byte) (hs : Keeps σ s.store) :
      Keeps σ (send s who type addr len d).store := by
    unfold send
    split <;> simp [hs]
  clear_value send
  split
  next o ho =>
    simp [h, hsend]
  · split
    · simpa using h
    · split
      · exact hsend _ _ _ _ _ _ h
      · exact foldl_keeps _ (by simpa using h) fun _ _ hs => hsend _ _ _ _ _ _ hs

@[simp] theorem bar2_keeps {s : State} (a : HostAccess) (h : Keeps σ s.store) : Keeps σ (bar2 s a).store := by
  simp [bar2, h]

@[simp] theorem execBar2Access_keeps {s : State} (a : HostAccess) (h : Keeps σ s.store) :
    Answers σ (execBar2Access a s) := by
  simp [execBar2Access, h]

@[simp] theorem endHostReq_keeps {s : State} (r : HostReq) (st : Nat) (data : List Byte) (h : Keeps σ s.store) :
    Keeps σ (endHostReq s r st data).store := by
  unfold endHostReq
  split <;> simp [h]

@[simp] theorem execHostWindowCompletion_keeps {s : State} (id : Nat) (r : HostReply) (h : Keeps σ s.store) :
    Answers σ (execHostWindowCompletion id r s) := by
  unfold execHostWindowCompletion
  (repeat' split) <;> simp [h]

@[simp] theorem dropHostReqs_keeps {s : State} (h : Keeps σ s.store) : Keeps σ (dropHostReqs s).store :=
  foldl_keeps _ h fun _ _ hs => endHostReq_keeps _ _ _ hs

@[simp] theorem flr_keeps {s : State} (h : Keeps σ s.store) : Keeps σ (flr s).store := by
  simp [flr, h]

@[simp] theorem execFunctionLevelReset_keeps {s : State} (h : Keeps σ s.store) :
    Answers σ (execFunctionLevelReset s) := by
  simp [execFunctionLevelReset, h]

@[simp] theorem execPoisonedTlp_keeps {s : State} (id : Option Nat) (h : Keeps σ s.store) :
    Answers σ (execPoisonedTlp id s) := by
  unfold execPoisonedTlp
  dsimp only
  (repeat' split) <;> simp [h]

@[simp] theorem execPePerstN_keeps {s : State} (h : Keeps σ s.store) : Answers σ (execPePerstN s) := by
  simp [execPePerstN, h]

@[simp] theorem execPcieTrainingTimeout_keeps {s : State} (h : Keeps σ s.store) :
    Answers σ (execPcieTrainingTimeout s) := by
  simp [execPcieTrainingTimeout, h]

@[simp] theorem execPcieL0Reached_keeps {s : State} (width speed : Nat) (flit : Bool) (h : Keeps σ s.store) :
    Answers σ (execPcieL0Reached width speed flit s) := by
  simp [execPcieL0Reached, h]

@[simp] theorem execPcieConfigWrite_keeps {s : State} (w : PcieCfgWrite) (h : Keeps σ s.store) :
    Answers σ (execPcieConfigWrite w s) := by
  simp [execPcieConfigWrite, h]

/-! Of Machine/Sideband. -/

@[simp] theorem execSmbusSetAddress_keeps {s : State} (a : Nat) (h : Keeps σ s.store) :
    Answers σ (execSmbusSetAddress a s) := by
  simp [execSmbusSetAddress, h]

@[simp] theorem execSmbusRead_keeps {s : State} (bus : Nat) (h : Keeps σ s.store) : Answers σ (execSmbusRead bus s) := by
  unfold execSmbusRead
  rw [Answers_next]
  split
  · exact h
  · split
    next st o _ =>
      split
      next v t ht =>
        have hk : Keeps σ t.store := by
          split at ht
          · split at ht <;> rename_i hr <;> cases ht <;> rwa [snd_store hr, readReg_store]
          · cases ht
            exact h
        simpa using hk

@[simp] theorem execSmbusWrite_keeps {s : State} (value bus : Nat) (h : Keeps σ s.store) :
    Answers σ (execSmbusWrite value bus s) := by
  simp [execSmbusWrite, h]

@[simp] theorem spdmRow_keeps {s : State} (code : Nat) (m : SpdmMsg) (h : Keeps σ s.store) :
    Answers σ (spdmRow code m s) := by
  simp [spdmRow, h]

@[simp] theorem execGetVersion_keeps {s : State} (m : SpdmMsg) (h : Keeps σ s.store) :
    Answers σ (execGetVersion m s) := by
  simp [execGetVersion, h]

@[simp] theorem execGetCapabilities_keeps {s : State} (m : SpdmMsg) (h : Keeps σ s.store) :
    Answers σ (execGetCapabilities m s) := by
  simp [execGetCapabilities, h]

@[simp] theorem execNegotiateAlgorithms_keeps {s : State} (m : SpdmMsg) (h : Keeps σ s.store) :
    Answers σ (execNegotiateAlgorithms m s) := by
  simp [execNegotiateAlgorithms, h]

@[simp] theorem execGetDigests_keeps {s : State} (m : SpdmMsg) (h : Keeps σ s.store) :
    Answers σ (execGetDigests m s) := by
  simp [execGetDigests, h]

@[simp] theorem execGetCertificate_keeps {s : State} (m : SpdmMsg) (h : Keeps σ s.store) :
    Answers σ (execGetCertificate m s) := by
  simp [execGetCertificate, h]

@[simp] theorem execChallenge_keeps {s : State} (m : SpdmMsg) (h : Keeps σ s.store) :
    Answers σ (execChallenge m s) := by
  simp [execChallenge, h]

@[simp] theorem execGetMeasurements_keeps {s : State} (m : SpdmMsg) (h : Keeps σ s.store) :
    Answers σ (execGetMeasurements m s) := by
  simp [execGetMeasurements, h]

@[simp] theorem execKeyExchange_keeps {s : State} (m : SpdmMsg) (h : Keeps σ s.store) :
    Answers σ (execKeyExchange m s) := by
  simp [execKeyExchange, h]

@[simp] theorem execFinish_keeps {s : State} (m : SpdmMsg) (h : Keeps σ s.store) : Answers σ (execFinish m s) := by
  simp [execFinish, h]

@[simp] theorem execHeartbeat_keeps {s : State} (m : SpdmMsg) (h : Keeps σ s.store) :
    Answers σ (execHeartbeat m s) := by
  simp [execHeartbeat, h]

@[simp] theorem execEndSession_keeps {s : State} (m : SpdmMsg) (h : Keeps σ s.store) :
    Answers σ (execEndSession m s) := by
  simp [execEndSession, h]

@[simp] theorem execMctp_keeps {s : State} (m : SpdmMsg) (h : Keeps σ s.store) : Answers σ (execMctp m s) := by
  simp [execMctp, h]

theorem ideRow_keeps {s : State} (object : Nat) (m : SpdmMsg) {act : State → State} (h : Keeps σ s.store)
    (ha : Keeps σ (act s).store) : Answers σ (ideRow object m s act) := by
  simp [ideRow, h, ha]

@[simp] theorem execQuery_keeps {s : State} (m : SpdmMsg) (h : Keeps σ s.store) : Answers σ (execQuery m s) :=
  ideRow_keeps _ _ h (by simpa using h)

@[simp] theorem execKeyProg_keeps {s : State} (m : SpdmMsg) (h : Keeps σ s.store) : Answers σ (execKeyProg m s) :=
  ideRow_keeps _ _ h (by simpa using h)

@[simp] theorem execKSetGo_keeps {s : State} (m : SpdmMsg) (h : Keeps σ s.store) : Answers σ (execKSetGo m s) :=
  ideRow_keeps _ _ h (by simpa using h)

@[simp] theorem execKSetStop_keeps {s : State} (m : SpdmMsg) (h : Keeps σ s.store) : Answers σ (execKSetStop m s) :=
  ideRow_keeps _ _ h (by simpa using h)

@[simp] theorem execTapInstruction_keeps {s : State} (t : TapOp) (h : Keeps σ s.store) :
    Answers σ (execTapInstruction t s) := by
  unfold execTapInstruction
  split <;> simp [h]

/-! Of Machine/Dispatch. -/

end Sys2Proof.Machine
end

section
/-! The step keeps the invariant. -/

namespace Sys2Proof.Machine

open Sys2Proof

variable {σ : Store} {α β : Type}

/-- Every instruction of the model answers a next state and keeps the invariant of the state it runs in. -/
theorem exec_keeps {s : State} (i : Instr) (h : Keeps σ s.store) : Answers σ (exec i s) := by
  cases i <;> simp [exec, h]

/-- A step takes the front command off the queue and keeps the canonical form. -/
theorem step_keeps (s : State) : Answers (s.pending.drop 1, s.stale, s.mem) (step s) := by
  unfold step
  split <;> rename_i hp
  · exact Answers_next.mpr (idle_keeps ⟨by simp [State.store, hp], id⟩)
  · exact exec_keeps _ ⟨by simp [State.store, hp], id⟩

/-- Settles O60: the queue behind the front command and the canonical form of memory are kept by every primitive of the
model, so by every instruction and by the idle step. -/
theorem stepKeepsMemoryForm : Obligations.StepKeepsMemoryForm := by
  unfold Obligations.StepKeepsMemoryForm
  intro s
  obtain ⟨t, ht, hq, hm⟩ := step_keeps s
  exact ⟨t, ht, hq, hm⟩

end Sys2Proof.Machine
end

section
/-! The step takes the front command, and the idle step between two beacons is a nanosecond of time. -/

namespace Sys2Proof.Machine

open Sys2Proof

theorem countBusy_time (s : State) (n : Nat) : (countBusy s n).time = s.time :=
  foldl_field State.time (fun _ _ => by split <;> simp) _ _

theorem countBusy_queues (s : State) (n : Nat) : (countBusy s n).queues = s.queues :=
  foldl_field State.queues (fun _ _ => by split <;> simp) _ _

theorem tick_time (s : State) : (tick s).time = tickTime s.time (s.get TIME_CTRL_SLEW_PPM) := countBusy_time ..

theorem tick_queues (s : State) : (tick s).queues = s.queues := countBusy_queues ..

theorem tickTime_count_of_no_slew {t : TimeSt} (ppm : Nat) (h : t.slew = 0) :
    (tickTime t ppm).count = (t.count + 1) % 2 ^ 64 := by
  simp [tickTime, h]

theorem store_eq_iff {s t : State} : t.store = s.store ↔ t.pending = s.pending ∧ t.stale = s.stale ∧ t.mem = s.mem := by
  rw [State.store, State.store, Prod.mk.injEq, Prod.mk.injEq]

theorem memKept_of_store_eq {s t : State} (h : t.store = s.store) : memKept s t := by
  obtain ⟨-, hs, hm⟩ := store_eq_iff.mp h
  intro a
  rw [State.rd8, State.rd8, hs, hm]

theorem idle_of_por_low {s : State} (h : s.pins.por = false) : idle s = s := by
  simp [idle, h]

/-- Between two beacons the idle step is a nanosecond of time. -/
theorem idle_eq_tick {s : State} (hpor : s.pins.por = true) (h : (tick s).time.count % 64 ≠ 0) : idle s = tick s := by
  simp [idle, hpor, h]

theorem step_of_empty {s : State} (h : s.pending = []) : step s = .next (idle s) := by
  simp [step, h]

/-- Settles O58: `step` is a match on the queue, and between two beacons `idle` is `tick`. -/
theorem stepTakesFront : Obligations.StepTakesFront := by
  unfold Obligations.StepTakesFront
  refine ⟨fun s c rest => rfl, fun s h => step_of_empty h, fun s h hpor => ?_, fun s h hpor hslew hcount => ?_⟩
  · rw [step_of_empty h, idle_of_por_low hpor]
  · have ht : (tick s).time.count = (s.time.count + 1) % 2 ^ 64 := by
      rw [tick_time, tickTime_count_of_no_slew _ hslew]
    have hidle : idle s = tick s := idle_eq_tick hpor (by rw [ht]; omega)
    obtain ⟨hq, -, -⟩ := store_eq_iff.mp (tick_store s)
    exact ⟨tick s, by rw [step_of_empty h, hidle], ht, hq.trans h, memKept_of_store_eq (tick_store s), tick_queues s⟩

end Sys2Proof.Machine
end

section
/-! SUPPORT. O24 fails: the queue map may hold a record under a number past the 16,384 queues, and the registers of queue
65,664 would lie where the semaphores of pond 0 do. Where a header wait is taken, the semaphore's value falls, and with
it changes which consumer that record's commands are read as bound to: an engine that was free for the head entry before
the wait is no longer so after it, and the entry does not go on to its start. -/

namespace Sys2Proof.Machine

open Sys2Proof

/-- A queue number past the last queue: `QTAB_CFG.off (qtI 65664) (qtJ 65664)` is `straySem`. -/
def strayQueue : Nat := 65664

/-- The first local semaphore of core 0. -/
def straySem : Nat := semOffLocal 0 0

/-- Queue 0 enabled and untranslated, bound to core 0, its ring of 16 slots at address 0, and one entry accepted. -/
def oneEntry : State :=
  let s : State := { State.reset with pins := { PinSt.reset with por := true } }
  ((s.qset QTAB_CFG_EN 1 0).qset QTAB_TAIL_TAIL 1 0).set MEM_QAS_T0 0

/-- A ready GRUN that a stray record holds. -/
def strayGrun : Cmd :=
  ⟨0, BitVec.ofNat 512 8, .ready, false, false, [], 0, [], 0, none, [], [], [], [], 0, [], none, [], [], none⟩

def strayRecord : QState := { QState.init with started := [strayGrun] }

/-- The entry of queue 0 is a GRUN with a header wait for 4 of the semaphore, whose value is 4; under the stray number
stands a record with a started GRUN. Read as a QTAB_CFG, 4 names core 1 and 0 names core 0. -/
def strayState : State :=
  semPut { oneEntry with mem := [(0, 8), (12, 0x80), (14, 4)]
                         queues := [(strayQueue, strayRecord)] } straySem 4

/-- The bytes of the head entry. -/
def strayRaw : Nat := strayState.rdN (slotAddr strayState 0 (nextSeq strayState 0)) 64

/-- A step of COMMAND_START that starts nothing binds nothing. -/
theorem execCommandStart_of_none_started {s : State} {q : Nat}
    (h : ((commandStart s q).q q).started.length = (s.q q).started.length) :
    execCommandStart q s = .next (commandStart s q) := by
  simp only [execCommandStart, h, if_true]

theorem headStart_of_not_canTake {s : State} {q raw : Nat} (seq : Nat) (wants : Nat → Bool)
    (h : canTake s q raw = false) : headStart s q seq raw wants = s := by
  simp [headStart, h]

theorem canTake_eq_false_of_grun {s : State} {q raw h k : Nat} {x : QState} {c : Cmd} (hopc : opcOf raw = 8)
    (hq : consumerOf s q = .unit h) (hk : consumerOf s k = .unit h) (hx : (k, x) ∈ s.queues) (hc : c ∈ x.started)
    (hgrun : (opcOf c.raw.toNat == 8 && c.phase == .ready) = true) : canTake s q raw = false := by
  have hbusy : (s.queues.any fun kx =>
      consumerOf s kx.1 == .unit h && kx.2.started.any fun c => opcOf c.raw.toNat == 8 && c.phase == .ready) = true :=
    List.any_eq_true.mpr ⟨(k, x), hx, by
      rw [Bool.and_eq_true, List.any_eq_true]
      exact ⟨by simp [hk], c, hc, hgrun⟩⟩
  simp only [canTake, hopc, scalarFree, hq, hbusy]
  simp

/-- Where no engine is free for the head entry after its header wait, COMMAND_START is the header wait alone. -/
theorem commandStart_eq_headWait {s : State} {q raw : Nat} (hraw : s.rdN (slotAddr s q (nextSeq s q)) 64 = raw)
    (hready : headReady s q = true) (hplain : plainOk s (slotAddr s q (nextSeq s q)) 64 = true)
    (hue : ueRange s (slotAddr s q (nextSeq s q)) 64 = false) (hheader : headerOk raw (consumerOf s q) = true)
    (hfence : cf raw 0 9 1 = 0) (hbusy : canTake (headWait s q (nextSeq s q) raw) q raw = false) :
    commandStart s q = headWait s q (nextSeq s q) raw := by
  simp only [commandStart, hraw, hready, hplain, hue, hheader, hfence, headStart_of_not_canTake _ _ hbusy]
  simp

theorem rdN_strayState : strayState.rdN (slotAddr strayState 0 (nextSeq strayState 0)) 64 = strayRaw := rfl

theorem strayState_headReady : headReady strayState 0 = true := by decide +kernel

theorem strayState_plainOk : plainOk strayState (slotAddr strayState 0 (nextSeq strayState 0)) 64 = true := by
  decide +kernel

theorem strayState_not_ueRange : ueRange strayState (slotAddr strayState 0 (nextSeq strayState 0)) 64 = false := by
  decide +kernel

theorem strayState_headerOk : headerOk strayRaw (consumerOf strayState 0) = true := by decide +kernel

theorem strayRaw_fence : cf strayRaw 0 9 1 = 0 := by decide +kernel

/-- Before the wait is taken the scalar side of core 0 is free: the stray GRUN reads as one of core 1. -/
theorem strayState_turn :
    let key := turnKey (consumerOf strayState 0) (opcOf strayRaw)
    (canTake strayState 0 strayRaw && hasTurn strayState 0 key (wantsTurn strayState key)) = true := by
  decide +kernel

/-- Once it is taken the stray GRUN reads as one of core 0. -/
theorem strayState_busy_after_wait :
    canTake (headWait strayState 0 (nextSeq strayState 0) strayRaw) 0 strayRaw = false := by
  have hq : consumerOf (headWait strayState 0 (nextSeq strayState 0) strayRaw) 0 = .unit 0 := by decide +kernel
  have hk : consumerOf (headWait strayState 0 (nextSeq strayState 0) strayRaw) strayQueue = .unit 0 := by
    decide +kernel
  have hx : (strayQueue, strayRecord) ∈ (headWait strayState 0 (nextSeq strayState 0) strayRaw).queues := by
    decide +kernel
  exact canTake_eq_false_of_grun (by decide +kernel) hq hk hx (List.mem_singleton_self strayGrun)
    (by decide +kernel)

theorem strayState_commandStart :
    commandStart strayState 0 = headWait strayState 0 (nextSeq strayState 0) strayRaw :=
  commandStart_eq_headWait rdN_strayState strayState_headReady strayState_plainOk strayState_not_ueRange
    strayState_headerOk strayRaw_fence strayState_busy_after_wait

theorem strayState_started : (strayState.q 0).started = [] := by decide +kernel

theorem strayState_started_after_wait :
    ((headWait strayState 0 (nextSeq strayState 0) strayRaw).q 0).started = [] := by
  decide +kernel

theorem exec_commandStart_strayState :
    exec (.commandStart 0) strayState = .next (headWait strayState 0 (nextSeq strayState 0) strayRaw) := by
  have h : execCommandStart 0 strayState = .next (commandStart strayState 0) :=
    execCommandStart_of_none_started (by
      rw [strayState_commandStart, strayState_started_after_wait, strayState_started])
  rwa [strayState_commandStart] at h

/-- The wait of the head entry is due, not on record, and the semaphore's value suffices. -/
theorem strayState_wait_due :
    cf strayRaw 8 39 1 = 1 ∧ (strayState.jent 0 (nextSeq strayState 0)).waitTaken = false
      ∧ (strayState.q 0).joined = false ∧ cf strayRaw 8 48 8 = 4 ∧ strayState.waitersOf straySem = []
      ∧ semOffLocal (strayState.qget QTAB_CFG_SEMCORE 0) (cf strayRaw 8 32 6) = straySem
      ∧ semValue strayState straySem = 4 ∧ isSemVal straySem = true := by
  decide +kernel

/-- Refutes O24: in `strayState` the head entry has its turn and its header wait is satisfied, and once the wait is
taken the engine is no longer free for it: the entry does not start in that step. -/
theorem not_commandStart : ¬ Obligations.CommandStart := by
  unfold Obligations.CommandStart
  intro h
  obtain ⟨hwait, htaken, hjoined, hn, hwaiters, hoff, hvalue, hsem⟩ := strayState_wait_due
  obtain ⟨-, -, -, -, -, -, hserved, -, -⟩ := h strayState 0 strayState_headReady (by simp [strayState_started])
  rw [rdN_strayState, hoff] at hserved
  obtain ⟨u, hexec, ⟨hbegun, -⟩, -⟩ := hserved
    (by simp [strayState_plainOk, strayState_not_ueRange, strayState_headerOk])
    (by simp [strayState_started]) (by simp [hwait, htaken]) hjoined hwaiters (by simp [hn, hvalue])
    hsem strayState_turn
  obtain rfl : headWait strayState 0 (nextSeq strayState 0) strayRaw = u :=
    Host.Outcome.next.inj (exec_commandStart_strayState.symm.trans hexec)
  simp [strayState_started, strayState_started_after_wait] at hbegun

end Sys2Proof.Machine
end

section
/-! SUPPORT. How a unit's work ends (R300, R302, R342): the row answers the state that the work reached, its command
finished with the status the work came to. -/

namespace Sys2Proof.Machine

open Sys2Proof

variable {s : State} {q : Nat} {c : Cmd} {e : Eng} {body : EM Unit}

theorem bodyEnds_of_isOk (h : (body.run ⟨s, c, ctxOfQ s q, false⟩).1.isOk = true) :
    bodyEnds s q c body (body.run ⟨s, c, ctxOfQ s q, false⟩).2 := by
  unfold bodyEnds
  match hrun : body.run ⟨s, c, ctxOfQ s q, false⟩ with
  | (.ok _, _) => rfl
  | (.error _, _) => rw [hrun] at h; cases h

theorem putCmd_regAt (s : State) (q : Nat) (c : Cmd) (o : Nat) (v : W64) :
    (putCmd s q c).regAt o v = s.regAt o v := rfl

theorem finish_of_no_waits (status : Nat) (hwaits : e.cmd.waits = 0) :
    finish q e status =
      putCmd e.s q { e.cmd with phase := .done (if e.bad && signals status then 0x30 else status) } := by
  simp only [finish, hwaits, if_true]

theorem runBody_of_bodyEnds (hend : bodyEnds s q c body e) (hwaits : e.cmd.waits = 0) :
    runBody s q c body = putCmd e.s q { e.cmd with phase := .done (if e.bad then 0x30 else 0) } := by
  have hrun : runBody s q c body = finish q e 0 := by simp only [runBody, show body.run _ = _ from hend]
  rw [hrun, finish_of_no_waits 0 hwaits, show signals 0 = true from rfl, Bool.and_true]

theorem runBody_of_status {n : Nat} (hstop : body.run ⟨s, c, ctxOfQ s q, false⟩ = (.error (.status n), e))
    (hbad : e.bad = false) (hwaits : e.cmd.waits = 0) :
    runBody s q c body = putCmd e.s q { e.cmd with phase := .done n } := by
  have hrun : runBody s q c body = finish q e n := by simp only [runBody, hstop]
  rw [hrun, finish_of_no_waits n hwaits, hbad, Bool.false_and, if_neg Bool.false_ne_true]

/-- The command that a unit works on: HOT_REFRESH keeps its list from its start (R92), every other row takes the command
as it stands. -/
def takenCmd (opc : Nat) (s : State) (c : Cmd) : Cmd := if opc = 0x71 then hotTaken s c else c

def takenState (opc : Nat) (s : State) (q : Nat) (c : Cmd) : State :=
  if opc = 0x71 then putCmd s q (takenCmd opc s c) else s

/-- What a row of a unit does: nothing where the unit can take no command, else the work of the command it takes. -/
def runTaken (s : State) (q opc : Nat) (body : EM Unit) : State :=
  match unitCmd s q opc with
  | none => s
  | some c => runBody (takenState opc s q c) q (takenCmd opc s c) body

theorem runTaken_of_none {opc : Nat} (h : unitCmd s q opc = none) : runTaken s q opc body = s := by
  simp only [runTaken, h]

theorem runTaken_of_some {opc : Nat} (h : unitCmd s q opc = some c) :
    runTaken s q opc body = runBody (takenState opc s q c) q (takenCmd opc s c) body := by
  simp only [runTaken, h]

/-- The rows of units whose work is one run of a body, each with its opcode and its body. -/
def unitRows : List (Nat × (Nat → Instr) × (Nat → EM Unit)) :=
  [(0x22, .mstore, mstoreBody), (0x40, .vpload, vploadBody), (0x42, .vtrans, vtransBody),
    (0x60, .sample, fun _ => sampleBody), (0x70, .tableSwitch, switchBody),
    (0x71, .hotRefresh, fun _ => hotRefreshBody), (0x80, .treset, tresetBody), (0x83, .tmerge, tmergeBody),
    (0x90, .tcodec, fun _ => tcodecBody), (0xA0, .update, updateBody), (0xA2, .flagLocal, fun _ => flagLocalBody),
    (0xA4, .pcSwitch, fun _ => pcSwitchBody), (0xA5, .replayBegin, replayBeginBody),
    (0xA6, .replayEnd, fun _ => replayEndBody), (0xB0, .pruneMask, fun _ => pruneMaskBody),
    (0xB1, .prunePack, fun _ => prunePackBody), (0xC0, .xfer, fun _ => xferBody)]

theorem exec_unitRow (s : State) (q : Nat) :
    ∀ row ∈ unitRows, exec (row.2.1 q) s = .next (runTaken s q row.1 (row.2.2 q)) := by
  simp only [unitRows, List.forall_mem_cons]
  exact ⟨rfl, rfl, rfl, rfl, rfl, rfl, rfl, rfl, rfl, rfl, rfl, rfl, rfl, rfl, rfl, rfl, rfl, List.forall_mem_nil _⟩

/-- Settles O29: every row of the list is `runTaken` with its body, and `runBody` finishes the command where the body
stopped. -/
theorem unitCommandsEnd : Obligations.UnitCommandsEnd := by
  unfold Obligations.UnitCommandsEnd
  intro s q c e row hrow
  have hexec := exec_unitRow s q row hrow
  refine ⟨fun hnone => ?_, fun hsome hend hwaits => ?_, fun n hsome hstop hbad hwaits => ?_⟩
  · rw [hexec, runTaken_of_none hnone]
  · exact ⟨_, hexec, (runTaken_of_some hsome).trans (runBody_of_bodyEnds hend hwaits)⟩
  · exact ⟨_, hexec, (runTaken_of_some hsome).trans (runBody_of_status hstop hbad hwaits)⟩

end Sys2Proof.Machine
end

section
/-! SUPPORT. O33 fails: a ROW_UPDATE that is reissued after the hub of its pond was fenced copies the redo slot of its
home pond (R244, R413), and the reads of that slot count in the home pond's PC_CNT. The statement lets only the counts
of the pond that serves the queue now differ. -/

namespace Sys2Proof.Machine

open Sys2Proof

/-- The update unit of pond 0, whose context queue 0 uses. -/
def lostUnit : Nat := hUnit 0 3

/-- Its peer in pond 1, to which queue 0 is bound. -/
def peerUnit : Nat := hUnit 1 3

/-- A valid descriptor of a learnable table: one FP32 element in rows of 32 bytes, one range, no rows. -/
def bareTable : Nat := 2 ^ 168 + 2 ^ 171 + 2 ^ 176 + 32 * 2 ^ 192 + 2 ^ 384

/-- A reissued ROW_UPDATE of table 0 with an empty list and 512 bytes of moments a row. At its start it bound a step that
is agreed and not skipped, and a hyperparameter record of zeros. -/
def reissuedRow : Cmd :=
  ⟨0, 0xA1#512 ||| 512#512 <<< 320, .ready, true, false, [], 0, [(0, leBytes 32 0)], 0, none, [],
    [0, 0, 0, 0, 1, 0], [], [], 0, [], none, [], [], none⟩

/-- The hub of pond 0 is fenced, and the peer has loaded the context that queue 0 brings. Table 0 is described at address
0, and the redo slot of pond 0, at 0x4000, is valid with nothing to copy. -/
def reboundState : State :=
  let s := (oneEntry.qset QTAB_CFG_CONSUMER peerUnit 0).setRg FLT_FHUB 1
  let s := (s.set UPD_REDO_SIZE 1 0).set UPD_REDO_BASE 0x100 0
  let s := (s.wrN 0 64 bareTable).wr8 (redoAddr s 0) 1
  { s with ctxs := [(peerUnit, lostUnit)]
           queues := [(0, { QState.init with started := [reissuedRow], home := some lostUnit })] }

/-- The command with its commit under way, and the state that holds it so. -/
def committingRow : Cmd := { reissuedRow with stage := 1 }

def committingState : State := putCmd reboundState 0 committingRow

/-- The peer's work on the command. -/
def reboundWork : Except Stop Unit × Eng :=
  (rowUpdateBody 0).run ⟨committingState, committingRow, ctxOfQ committingState 0, false⟩

theorem reboundState_unitCmd : unitCmd reboundState 0 0xA1 = some reissuedRow := by decide +kernel

theorem reboundState_no_gather : gathersBound committingState (cf reissuedRow.raw.toNat 16 0 12) = false := by
  decide +kernel

theorem reboundWork_ends : bodyEnds committingState 0 committingRow (rowUpdateBody 0) reboundWork.2 :=
  bodyEnds_of_isOk (show reboundWork.1.isOk = true by decide +kernel)

theorem reboundWork_sound : reboundWork.2.bad = false ∧ reboundWork.2.cmd.waits = 0 := by decide +kernel

/-- The read of the redo slot is a miss of pond 0. -/
theorem reboundWork_counts : reboundWork.2.s.regAt (PC_CNT.off 0) 0 = 2 ^ 32 := by decide +kernel

/-- The registers that the statement lets the row change are not that counter, which reads 0 before. -/
theorem reboundState_counter :
    PC_CNT.off 0 ∉ UPD_STAT.off :: NUM_STAT.off :: SNAP_STAT.off :: readCounts (pondOfQ reboundState 0)
      ∧ reboundState.regAt (PC_CNT.off 0) 0 = 0 := by
  decide +kernel

theorem execRowUpdate_of_no_gather {s : State} {q : Nat} {c : Cmd} (hcmd : unitCmd s q 0xA1 = some c)
    (hfree : gathersBound (putCmd s q { c with stage := 1 }) (cf c.raw.toNat 16 0 12) = false) :
    exec (.rowUpdate q) s
      = .next (runBody (putCmd s q { c with stage := 1 }) q { c with stage := 1 } (rowUpdateBody q)) := by
  have hexec : exec (.rowUpdate q) s = execRowUpdate q s := rfl
  simp only [hexec, execRowUpdate, hcmd, hfree, Bool.false_eq_true, if_false]

/-- Refutes O33: in `reboundState` ROW_UPDATE ends with 0x00, and it has counted a miss of pond 0, which is not the pond of
the peer. -/
theorem not_updateCommands : ¬ Obligations.UpdateCommands := by
  unfold Obligations.UpdateCommands
  intro h
  obtain ⟨-, -, -, -, -, hrow, -⟩ := h
  obtain ⟨hbad, hwaits⟩ := reboundWork_sound
  obtain ⟨hnot, hbefore⟩ := reboundState_counter
  obtain ⟨u, hexec, -, hregs, -⟩ := hrow reboundState 0 reissuedRow reboundWork.2 reboundState_unitCmd
    reboundState_no_gather reboundWork_ends hbad hwaits
  rw [execRowUpdate_of_no_gather reboundState_unitCmd reboundState_no_gather] at hexec
  obtain rfl := Host.Outcome.next.inj (hexec.symm.trans
    (congrArg _ (runBody_of_bodyEnds reboundWork_ends hwaits)))
  have hafter := hregs _ hnot 0
  rw [putCmd_regAt, reboundWork_counts, hbefore] at hafter
  exact absurd hafter (by decide)

end Sys2Proof.Machine
end

section
/-! SUPPORT. The state after reset: registers that nothing lists hold their table's value. -/

namespace Sys2Proof.Machine

open Sys2Proof

/-- Where the reset state lists no value, a register holds its table's. -/
theorem reset_rg {r : Reg} {i j : Nat} (h : look resetRegs (r.off i j) = none) : State.reset.rg r i j = r.rstW := by
  rw [State.rg, State.regAt, show State.reset.regs = resetRegs from rfl, h, Option.getD_none]

/-- The reset state lists values below offset 0x110200 only. -/
theorem look_resetRegs_of_le {o : Nat} (h : 0x110200 ≤ o) : look resetRegs o = none := by
  have h0 : (0x1101E0 : Nat) ≠ o := by omega
  have h1 : (0x1101E8 : Nat) ≠ o := by omega
  have h2 : (0x1101F0 : Nat) ≠ o := by omega
  have h3 : (0x1101F8 : Nat) ≠ o := by omega
  simp only [resetRegs, look, h0, h1, h2, h3, if_false]

theorem base_le_off (r : Reg) (i j : Nat) : r.base ≤ r.off i j := by
  rw [Reg.off]
  omega

/-- Every register past the check-value configurations holds its table's value. -/
theorem reset_rg_of_le {r : Reg} (h : 0x110200 ≤ r.base) (i j : Nat) : State.reset.rg r i j = r.rstW :=
  reset_rg (look_resetRegs_of_le (h.trans (base_le_off r i j)))

theorem reset_rd8 (a : Nat) : State.reset.rd8 a = 0 := rfl

theorem reset_portState (p : Nat) : portState State.reset p = 0 := by
  rw [portState, State.get, show LNK_STAT_STATE.reg = LNK_STAT from rfl, reset_rg_of_le (by decide)]
  decide

/-- Settles O59: an unlisted register holds its table's value, and the tables are closed data. -/
theorem resetState : Obligations.ResetState := by
  unfold Obligations.ResetState
  have hcounts (p : Nat) : State.reset.rg PC_CNT p = 0 ∧ State.reset.rg MCTL_CNT p = 0 ∧ State.reset.rg LNK_CNT p = 0 :=
    ⟨reset_rg_of_le (by decide) p 0, reset_rg_of_le (by decide) p 0, reset_rg_of_le (by decide) p 0⟩
  refine ⟨fun r i j _ h => reset_rg h, ?_⟩
  exact ⟨by decide, by decide, by decide, by decide, by decide, by decide, by decide, by decide, by decide, by decide,
    by decide, by decide, by decide, by decide, by decide, by decide, by decide, by decide, by decide, by decide,
    hcounts, rfl, fun _ => rfl, rfl, reset_wf, reset_rd8, rfl, rfl, rfl, by decide, reset_portState⟩

end Sys2Proof.Machine
end

section
/-! SUPPORT. What records of traces and frames that go out leave alone: every part of the state but the trace rings and
their registers, the silt record, the links and the free values. -/

namespace Sys2Proof.Machine

open Sys2Proof

/-- A register that no trace record and no busy counter touches: it lies below theirs, and is not OBS_STAT. -/
def plainReg (o : Nat) : Prop := o < OBS_BUSY.base ∧ o ≠ OBS_STAT.off

/-- Every plain register holds the same value. -/
def RegsKept (s u : State) : Prop := ∀ o, plainReg o → ∀ v, u.regAt o v = s.regAt o v

theorem RegsKept.refl (s : State) : RegsKept s s := fun _ _ _ => rfl

theorem RegsKept.of_regs_eq {s u : State} (h : u.regs = s.regs) : RegsKept s u := fun _ _ _ => by
  rw [State.regAt, State.regAt, h]

theorem RegsKept.trans {s t u : State} (h₁ : RegsKept s t) (h₂ : RegsKept t u) : RegsKept s u :=
  fun o ho v => (h₂ o ho v).trans (h₁ o ho v)

theorem RegsKept.rg {s u : State} (h : RegsKept s u) (r : Reg) (i j : Nat) (ho : plainReg (r.off i j)) :
    u.rg r i j = s.rg r i j := h _ ho _

theorem RegsKept.get {s u : State} (h : RegsKept s u) (f : Fld) (i j : Nat) (ho : plainReg (f.reg.off i j)) :
    u.get f i j = s.get f i j := by
  rw [State.get, State.get, h.rg _ _ _ ho]

theorem RegsKept.flag {s u : State} (h : RegsKept s u) (f : Fld) (i j : Nat) (ho : plainReg (f.reg.off i j)) :
    u.flag f i j = s.flag f i j := by
  rw [State.flag, State.flag, h.get _ _ _ ho]

theorem RegsKept.set (s : State) (f : Fld) (n i j : Nat) (h : OBS_BUSY.base ≤ f.reg.base ∨ f.reg.off i j = OBS_STAT.off) :
    RegsKept s (s.set f n i j) := by
  intro o ho v
  refine regAt_set_ne s f n i j v fun he => ?_
  obtain ⟨hlt, hne⟩ := ho
  rcases h with h | h
  · have := base_le_off f.reg i j
    omega
  · exact hne (he.trans h)

/-! Trace records. -/

/-- What trace records may change: the rings, which lie in scratch, their registers and the buffers' own state. -/
structure Records (s u : State) : Prop where
  rest : ∃ m b r t, u = { s with mem := m, badLines := b, regs := r, traces := t }
  regs : RegsKept s u
  main : mainKept s u

theorem Records.refl (s : State) : Records s s := ⟨⟨_, _, _, _, rfl⟩, .refl s, fun _ _ => rfl⟩

theorem Records.trans {s t u : State} (h₁ : Records s t) (h₂ : Records t u) : Records s u := by
  obtain ⟨⟨m, b, r, x, rfl⟩, hr₁, hm₁⟩ := h₁
  obtain ⟨⟨m', b', r', x', rfl⟩, hr₂, hm₂⟩ := h₂
  exact ⟨⟨m', b', r', x', rfl⟩, hr₁.trans hr₂, fun a ha => (hm₂ a ha).trans (hm₁ a ha)⟩

theorem Records.set (s : State) (f : Fld) (n i j : Nat)
    (h : OBS_BUSY.base ≤ f.reg.base ∨ f.reg.off i j = OBS_STAT.off) : Records s (s.set f n i j) :=
  ⟨⟨_, _, _, _, rfl⟩, .set s f n i j h, fun _ _ => rfl⟩

theorem Records.setTrace (s : State) (p : Nat) (x : TraceSt) : Records s (s.setTrace p x) :=
  ⟨⟨_, _, _, _, rfl⟩, fun _ _ _ => rfl, fun _ _ => rfl⟩

theorem Records.wrBytes (s : State) {x : Nat} (d : List Byte) (h : 0x10E00000000 ≤ x) :
    Records s (s.wrBytes x d) := by
  obtain ⟨m, hm⟩ := wrBytes_eq s x d
  exact ⟨⟨m, _, _, _, hm⟩, by rw [hm]; exact fun _ _ _ => rfl, fun a ha => by rw [rd8_wrBytes, if_neg (by omega)]⟩

theorem Records.badLines (s : State) (l : List Nat) : Records s { s with badLines := l } :=
  ⟨⟨_, _, _, _, rfl⟩, fun _ _ _ => rfl, fun _ _ => rfl⟩

theorem Records.tracePut (s : State) (p type flags source skind stamp : Nat) (payload : List Byte) :
    Records s (tracePut s p type flags source skind stamp payload) := by
  unfold Machine.tracePut
  extract_lets head cap a r w s₁ s₂ used
  have ha : 0x10E00000000 ≤ a := by
    simp only [a, scratchBase]
    omega
  have h₁ : Records s s₁ := (Records.wrBytes s r ha).trans (.badLines w _)
  have h₂ : Records s s₂ := h₁.trans (.set s₁ TRC_PTR_HEAD _ p 0 (.inl (by decide)))
  split
  · exact h₂.trans (.set s₂ TRC_PTR_TAIL _ p 0 (.inl (by decide)))
  · exact h₂

theorem Records.traceDrop (s : State) (p stamp : Nat) : Records s (traceDrop s p stamp) :=
  (((Records.setTrace s p _).trans (.set _ TRC_STAT_DROPPED _ _ _ (.inl (by decide)))).trans
    (.set _ OBS_STAT_DROPPED _ _ _ (.inr rfl))).trans (.set _ OBS_STAT_DROPS _ _ _ (.inr rfl))

theorem Records.traceRec (s : State) (p type flags source skind stamp : Nat) (payload : List Byte) (marker : Bool) :
    Records s (s.traceRec p type flags source skind stamp payload marker) := by
  unfold State.traceRec
  extract_lets t left dropRec s₁ s₂ t' s₃
  split
  · exact .traceDrop _ _ _
  · split
    · split
      · exact .tracePut _ _ _ _ _ _ _ _
      · exact ((Records.tracePut _ _ _ _ _ _ _ _).trans (.tracePut _ _ _ _ _ _ _ _)).trans (.setTrace _ _ _)
    · split
      · exact .traceDrop _ _ _
      · split
        · exact (Records.tracePut _ _ _ _ _ _ _ _).trans (.setTrace _ _ _)
        · have h₃ : Records s s₃ := (Records.tracePut _ _ _ _ _ _ _ _).trans (.setTrace _ _ _)
          split
          · exact h₃.trans (.traceDrop _ _ _)
          · exact (h₃.trans (.tracePut _ _ _ _ _ _ _ _)).trans (.setTrace _ _ _)

theorem Records.traceSample (s : State) (p key : Nat) : Records s (traceSample s p key).2 := .setTrace _ _ _

theorem Records.traceFrame (s : State) (port type len dst src addr eseq dir : Nat) :
    Records s (traceFrame s port type len dst src addr eseq dir) := by
  unfold Machine.traceFrame
  split
  · exact .refl s
  · extract_lets p
    have h := Records.traceSample s p (2000 + port)
    obtain ⟨take, s₁⟩ := traceSample s p (2000 + port)
    dsimp only
    split
    · exact h
    · exact h.trans (.traceRec _ _ _ _ _ _ _ _ _)

theorem Records.traceLink (s : State) (port event : Nat) : Records s (traceLink s port event) := by
  unfold Machine.traceLink
  split
  · exact .refl s
  · exact .traceRec _ _ _ _ _ _ _ _ _

/-! What goes out of a port. -/

/-- What frames that go out may change: the links, and where ports trace their frames the trace rings; silt records and
free values come with them. -/
structure Sends (s u : State) : Prop where
  rest : ∃ m b r t g n l k, u = { s with mem := m, badLines := b, regs := r, traces := t, silt := g, siltSerial := n,
                                         link := l, free := k }
  regs : RegsKept s u
  mem : linkMem s u

theorem linkMem_refl (s : State) : linkMem s s := ⟨fun _ _ => rfl, fun _ _ => rfl⟩

theorem linkMem_trans {s t u : State} (h₁ : linkMem s t) (hflag : t.flag OBS_CFG_LNK_EN = s.flag OBS_CFG_LNK_EN)
    (h₂ : linkMem t u) : linkMem s u :=
  ⟨fun a ha => (h₂.1 a ha).trans (h₁.1 a ha), fun hoff a => (h₂.2 (hflag.trans hoff) a).trans (h₁.2 hoff a)⟩

theorem linkMem_of_memKept {s u : State} (h : memKept s u) : linkMem s u := ⟨fun a _ => h a, fun _ => h⟩

theorem plainReg_obsCfg : plainReg (OBS_CFG_LNK_EN.reg.off 0 0) := ⟨by decide, by decide⟩

theorem Sends.refl (s : State) : Sends s s := ⟨⟨_, _, _, _, _, _, _, _, rfl⟩, .refl s, linkMem_refl s⟩

theorem Sends.trans {s t u : State} (h₁ : Sends s t) (h₂ : Sends t u) : Sends s u := by
  have hmem := linkMem_trans h₁.mem (h₁.regs.flag _ _ _ plainReg_obsCfg) h₂.mem
  obtain ⟨⟨m, b, r, x, g, n, l, k, rfl⟩, hr₁, -⟩ := h₁
  obtain ⟨⟨m', b', r', x', g', n', l', k', rfl⟩, hr₂, -⟩ := h₂
  exact ⟨⟨m', b', r', x', g', n', l', k', rfl⟩, hr₁.trans hr₂, hmem⟩

theorem Sends.time {s u : State} (h : Sends s u) : u.time = s.time := by
  obtain ⟨⟨m, b, r, t, g, n, l, k, rfl⟩, -⟩ := h
  rfl

/-- Records that are made only where ports trace their frames. -/
theorem Records.sends {s u : State} (h : Records s u) (hoff : s.flag OBS_CFG_LNK_EN = false → u = s) : Sends s u := by
  refine ⟨?_, h.regs, h.main, fun h0 => by rw [hoff h0]; exact fun _ => rfl⟩
  obtain ⟨m, b, r, t, rfl⟩ := h.rest
  exact ⟨m, b, r, t, _, _, _, _, rfl⟩

theorem Sends.traceFrame (s : State) (port type len dst src addr eseq dir : Nat) :
    Sends s (traceFrame s port type len dst src addr eseq dir) :=
  (Records.traceFrame s port type len dst src addr eseq dir).sends fun h => by simp [Machine.traceFrame, h]

theorem Sends.traceLink (s : State) (port event : Nat) : Sends s (traceLink s port event) :=
  (Records.traceLink s port event).sends fun h => by simp [Machine.traceLink, h]

theorem Sends.link (s : State) (l : LinkSt) : Sends s { s with link := l } :=
  ⟨⟨_, _, _, _, _, _, _, _, rfl⟩, fun _ _ _ => rfl, linkMem_of_memKept fun _ => rfl⟩

theorem Sends.setPort (s : State) (p : Nat) (x : PortSt) : Sends s (s.setPort p x) := .link s _

theorem Sends.free (s : State) (k : Nat) : Sends s { s with free := k } :=
  ⟨⟨_, _, _, _, _, _, _, _, rfl⟩, fun _ _ _ => rfl, linkMem_of_memKept fun _ => rfl⟩

theorem Sends.silt' (s : State) (code handle queue seq : Nat) (data : List Nat) :
    Sends s (s.silt' code handle queue seq data) := by
  refine ⟨?_, ?_, linkMem_of_memKept (memKept_of_store_eq (State.silt'_store ..))⟩
  · unfold State.silt'
    split <;> exact ⟨_, _, _, _, _, _, _, _, rfl⟩
  · refine .of_regs_eq ?_
    unfold State.silt'
    split <;> rfl

theorem Sends.freeVia (s : State) (f : TxFrame) : Sends s (freeVia s f) := by
  unfold Machine.freeVia
  split
  · exact .refl s
  · exact .setPort _ _ _

theorem Sends.sendOn (s : State) (p : Nat) (f : TxFrame) : Sends s (sendOn s p f) := by
  unfold Machine.sendOn
  extract_lets f₀ s₁ y vc wrap f₁ f₂ y₁ y₂ s₂
  have h₂ : Sends s s₂ := ((Sends.freeVia s f₀).trans (.setPort _ _ _)).trans (.traceFrame _ _ _ _ _ _ _ _ _)
  split
  · exact h₂.trans (.link _ _)
  · exact h₂

theorem Sends.flushN (n : Nat) (s : State) : Sends s (flushN n s) := by
  induction n generalizing s with
  | zero => exact .refl s
  | succ n ih =>
    rw [Machine.flushN]
    split
    · exact .refl s
    · exact ((Sends.link s _).trans (.sendOn _ _ _)).trans (ih _)

theorem Sends.flushLinks (s : State) : Sends s s.flushLinks := .flushN _ s

theorem Sends.sendCtl (s : State) (p type : Nat) (payload : List Byte) : Sends s (sendCtl s p type payload) :=
  (Sends.setPort s p _).trans (.traceFrame _ _ _ _ _ _ _ _ _)

theorem Sends.moveReplay (s : State) (p : Nat) : Sends s (moveReplay s p) := .link s _

end Sys2Proof.Machine
end

section
/-! SUPPORT. The count and its beacons (R41, R42, R44, R52): what a nanosecond, a marker and a capture leave alone, and
where the count stands when a beacon comes and when the copies stop. -/

namespace Sys2Proof.Machine

open Sys2Proof

/-! What the work of a beacon leaves alone. -/

/-- The parts of a state that markers and captures leave alone: the time, the queues, the pins and TIME_STAT. -/
def State.clock (s : State) : TimeSt × SMap QState × PinSt × W64 := (s.time, s.queues, s.pins, s.rg TIME_STAT)

theorem clock_eq_iff {s u : State} :
    u.clock = s.clock ↔ u.time = s.time ∧ u.queues = s.queues ∧ u.pins = s.pins ∧ u.rg TIME_STAT = s.rg TIME_STAT := by
  rw [State.clock, State.clock, Prod.mk.injEq, Prod.mk.injEq, Prod.mk.injEq]

theorem plainReg_timeStat : plainReg (TIME_STAT.off 0 0) := ⟨by decide, by decide⟩

theorem Records.clock {s u : State} (h : Records s u) : u.clock = s.clock := by
  have hr := h.regs.rg _ _ _ plainReg_timeStat
  obtain ⟨m, b, r, t, rfl⟩ := h.rest
  exact clock_eq_iff.mpr ⟨rfl, rfl, rfl, hr⟩

theorem Sends.clock {s u : State} (h : Sends s u) : u.clock = s.clock := by
  have hr := h.regs.rg _ _ _ plainReg_timeStat
  obtain ⟨m, b, r, t, g, n, l, k, rfl⟩ := h.rest
  exact clock_eq_iff.mpr ⟨rfl, rfl, rfl, hr⟩

theorem epochMarkers_clock (s : State) (old new : Nat) : (epochMarkers s old new).clock = s.clock :=
  (Sends.silt' _ _ _ _ _ _).clock.trans
    (foldl_field State.clock (fun s p => (Records.traceRec s p _ _ _ _ _ _ _).clock) _ s)

theorem setPond_clock (s : State) (p : Nat) (x : PondSt) : (s.setPond p x).clock = s.clock := rfl

theorem resyncPond_clock (s : State) (p : Nat) : (resyncPond s p).clock = s.clock := by
  unfold resyncPond
  rw [setPond_clock]
  refine foldl_field State.clock (fun s r => ?_) _ s
  split
  · rfl
  · exact (Records.traceRec ..).clock

theorem capture_clock (s : State) : (capture s).clock = s.clock := by
  unfold capture
  split
  · rfl
  · extract_lets shows pairs body a s₁
    have h₁ : s₁.clock = s.clock := by
      unfold s₁
      split
      · obtain ⟨⟨m, p, d, q, b, r, h⟩, -⟩ := wrMain_wrote s a body
        rw [h]
        rfl
      · rfl
    obtain ⟨ht, hq, hp, hr⟩ := clock_eq_iff.mp h₁
    exact clock_eq_iff.mpr ⟨ht, hq, hp, (regAt_set_ne s₁ OBS_CAPTURE_BUSY 0 0 0 _ (by decide)).trans hr⟩

/-- The time after a new count, before its marker. -/
def newCount (t : TimeSt) (new : Nat) : TimeSt :=
  { t with count := new % 2 ^ 64, base := new % 2 ^ 64, since := 0, floor := 0, exch := none }

/-- The marker apart, a new count changes the time and sets EPOCH_SET. -/
theorem setCount_clock (s : State) (new : Nat) :
    (setCount s new).clock = ({ s with time := newCount s.time new }.stick TIME_STAT_EPOCH_SET).clock :=
  epochMarkers_clock _ _ _

theorem setCount_time (s : State) (new : Nat) : (setCount s new).time = newCount s.time new := by
  obtain ⟨ht, -, -, -⟩ := clock_eq_iff.mp (setCount_clock s new)
  exact ht

theorem setCount_queues (s : State) (new : Nat) : (setCount s new).queues = s.queues := by
  obtain ⟨-, hq, -, -⟩ := clock_eq_iff.mp (setCount_clock s new)
  exact hq

theorem setCount_epochSet (s : State) (new : Nat) : (setCount s new).get TIME_STAT_EPOCH_SET = 1 := by
  obtain ⟨-, -, -, hr⟩ := clock_eq_iff.mp (setCount_clock s new)
  rw [State.get, show TIME_STAT_EPOCH_SET.reg = TIME_STAT from rfl, hr]
  exact get_set_self _ TIME_STAT_EPOCH_SET 1 0 0 (by decide)

/-- Where a beacon loads the count: every copy runs from it. -/
def loadCount (s : State) : State :=
  { s with time := { s.time with base := s.time.count, since := 0, floor := s.stamp, stopped := false,
                                 lastBeacon := some s.time.count } }

/-- An epoch that waits becomes the count. -/
def takeEpoch (s : State) : State :=
  match s.time.epoch with
  | some e => setCount { s with time := { s.time with epoch := none } } e
  | none => s

/-- A step, if there is one, changes the count. -/
def takeStep (step : Option Int) (s : State) : State :=
  match step with
  | some d => (setCount { s with time := { s.time with step := none } }
      (ofS 64 ((s.time.count : Int) - d))).stick TIME_STAT_STEPPED
  | none => s

/-- The count is settled: it is shown as the last beacon's, waiting ponds resynchronise, and a capture latches. -/
def finishBeacon (s : State) : State :=
  capture (s.time.resync.foldl resyncPond
    { s with time := { s.time with lastBeacon := some s.time.count, resync := [] } })

theorem beacon_eq (s : State) : beacon s = finishBeacon (takeStep s.time.step (takeEpoch (loadCount s))) := by
  unfold beacon
  extract_lets t shown s₁ t₁ s₂ t₂ s₃ t₃ s₄ waking t₄ s₅
  have h₁ : s₁ = loadCount s := rfl
  have h₂ : s₂ = takeEpoch s₁ := rfl
  have h₃ : s₃ = takeStep t.step s₂ := rfl
  rw [← h₁, ← h₂, show s.time.step = t.step from rfl, ← h₃]
  rfl

theorem takeEpoch_of_none {s : State} (h : s.time.epoch = none) : takeEpoch s = s := by
  simp only [takeEpoch, h]

theorem takeEpoch_of_some {s : State} {e : Nat} (h : s.time.epoch = some e) :
    takeEpoch s = setCount { s with time := { s.time with epoch := none } } e := by
  simp only [takeEpoch, h]

theorem takeEpoch_queues (s : State) : (takeEpoch s).queues = s.queues := by
  unfold takeEpoch
  split
  · exact setCount_queues _ _
  · rfl

theorem takeStep_none (s : State) : takeStep none s = s := rfl

theorem takeStep_queues (step : Option Int) (s : State) : (takeStep step s).queues = s.queues := by
  unfold takeStep
  split
  · rw [State.stick_queues, setCount_queues]
  · rfl

theorem finishBeacon_clock (s : State) :
    (finishBeacon s).clock =
      { s with time := { s.time with lastBeacon := some s.time.count, resync := [] } }.clock :=
  (capture_clock _).trans (foldl_field State.clock resyncPond_clock s.time.resync _)

theorem beacon_queues (s : State) : (beacon s).queues = s.queues := by
  obtain ⟨-, hq, -, -⟩ := clock_eq_iff.mp (finishBeacon_clock (takeStep s.time.step (takeEpoch (loadCount s))))
  rw [beacon_eq, hq, takeStep_queues, takeEpoch_queues]
  rfl

/-- Without an epoch and a step a beacon leaves the count as it is. -/
theorem beacon_time {s : State} (hepoch : s.time.epoch = none) (hstep : s.time.step = none) :
    (beacon s).time = { s.time with base := s.time.count, since := 0, floor := s.stamp, stopped := false,
                                    lastBeacon := some s.time.count, resync := [] }
      ∧ (beacon s).pins = s.pins := by
  have he : takeEpoch (loadCount s) = loadCount s := takeEpoch_of_none hepoch
  obtain ⟨ht, -, hp, -⟩ := clock_eq_iff.mp (finishBeacon_clock (loadCount s))
  rw [beacon_eq, he, hstep, takeStep_none]
  exact ⟨ht, hp⟩

/-- An epoch that waits is the count that the beacon shows. -/
theorem beacon_epoch {s : State} {e : Nat} (hepoch : s.time.epoch = some e) (hstep : s.time.step = none) :
    (beacon s).time.count = e % 2 ^ 64 ∧ (beacon s).time.epoch = none ∧ (beacon s).get TIME_STAT_EPOCH_SET = 1 := by
  have he : takeEpoch (loadCount s) = _ := takeEpoch_of_some hepoch
  obtain ⟨ht, -, -, hr⟩ := clock_eq_iff.mp (finishBeacon_clock (takeEpoch (loadCount s)))
  have hset : (takeEpoch (loadCount s)).get TIME_STAT_EPOCH_SET = 1 := by rw [he, setCount_epochSet]
  rw [beacon_eq, hstep, takeStep_none, ht, he, setCount_time]
  refine ⟨rfl, rfl, ?_⟩
  rw [← hset, ← he, State.get, State.get, show TIME_STAT_EPOCH_SET.reg = TIME_STAT from rfl, hr]
  rfl

/-! Quiet beacons. -/

/-- No epoch, no step, no pond and no capture waits for the beacon. -/
structure Quiet (s : State) : Prop where
  epoch : s.time.epoch = none
  step : s.time.step = none
  resync : s.time.resync = []
  busy : s.flag OBS_CAPTURE_BUSY = false

theorem Quiet.beacon_eq {s : State} (h : Quiet s) :
    beacon s = { s with time := { s.time with base := s.time.count, since := 0, floor := s.stamp, stopped := false,
                                              lastBeacon := some s.time.count, resync := [] } } := by
  have he : takeEpoch (loadCount s) = loadCount s := takeEpoch_of_none h.epoch
  have hr : (loadCount s).time.resync = [] := h.resync
  rw [Machine.beacon_eq, he, h.step, takeStep_none, finishBeacon, hr, List.foldl_nil, capture, if_pos]
  · rfl
  · exact congrArg not h.busy

/-! Nanoseconds. -/

/-- Time may have passed: the time base and the busy counters differ, and nothing else. -/
structure Passes (s u : State) : Prop where
  rest : ∃ r t, u = { s with regs := r, time := t }
  regs : RegsKept s u

theorem Passes.refl (s : State) : Passes s s := ⟨⟨_, _, rfl⟩, .refl s⟩

theorem Passes.trans {s t u : State} (h₁ : Passes s t) (h₂ : Passes t u) : Passes s u := by
  obtain ⟨⟨r, x, rfl⟩, hr₁⟩ := h₁
  obtain ⟨⟨r', x', rfl⟩, hr₂⟩ := h₂
  exact ⟨⟨r', x', rfl⟩, hr₁.trans hr₂⟩

theorem Passes.queues {s u : State} (h : Passes s u) : u.queues = s.queues := by
  obtain ⟨⟨r, t, rfl⟩, -⟩ := h
  rfl

theorem Passes.gcs {s u : State} (h : Passes s u) : u.gcs = s.gcs := by
  obtain ⟨⟨r, t, rfl⟩, -⟩ := h
  rfl

theorem Passes.pins {s u : State} (h : Passes s u) : u.pins = s.pins := by
  obtain ⟨⟨r, t, rfl⟩, -⟩ := h
  rfl

theorem Passes.foldl {α : Type} {f : State → α → State} (hf : ∀ s a, Passes s (f s a)) (l : List α) (s : State) :
    Passes s (l.foldl f s) := by
  induction l generalizing s with
  | nil => exact .refl s
  | cons a l ih => exact (hf s a).trans (ih _)

theorem Passes.countBusy (s : State) (n : Nat) : Passes s (countBusy s n) := by
  refine .foldl (fun s k => ?_) _ s
  split
  · exact .refl s
  · exact ⟨⟨_, _, rfl⟩, .set s OBS_BUSY_NS _ _ _ (.inl (by decide))⟩

theorem Passes.tick (s : State) : Passes s (tick s) := by
  have h : Passes s { s with time := tickTime s.time (s.get TIME_CTRL_SLEW_PPM) } :=
    ⟨⟨_, _, rfl⟩, fun _ _ _ => rfl⟩
  exact h.trans (.countBusy _ 1)

theorem Passes.toBeacon (n : Nat) (s : State) : Passes s (toBeacon n s) := by
  induction n generalizing s with
  | zero => exact .refl s
  | succ n ih =>
    rw [Machine.toBeacon]
    split
    · exact .tick s
    · exact (Passes.tick s).trans (ih _)

theorem tickTime_of_no_slew {t : TimeSt} (ppm : Nat) (h : t.slew = 0) :
    tickTime t ppm = { t with count := (t.count + 1) % 2 ^ 64, since := t.since + 1, slewAcc := 0 } := by
  simp [tickTime, h]

theorem tick_time_of_no_slew {s : State} (h : s.time.slew = 0) :
    (tick s).time = { s.time with count := (s.time.count + 1) % 2 ^ 64, since := s.time.since + 1, slewAcc := 0 } := by
  rw [tick_time, tickTime_of_no_slew _ h]

/-- Slewed or not, a nanosecond leaves what waits for a beacon. -/
theorem tickTime_waits (t : TimeSt) (ppm : Nat) :
    (tickTime t ppm).epoch = t.epoch ∧ (tickTime t ppm).step = t.step ∧ (tickTime t ppm).resync = t.resync := by
  unfold tickTime
  dsimp only
  (repeat' split) <;> exact ⟨rfl, rfl, rfl⟩

/-- Before a multiple of 64 a nanosecond leaves the next one where it was. -/
theorem nextBeacon_succ {c : Nat} (h : (c + 1) % 64 ≠ 0) :
    ((c + 1) % 2 ^ 64 / 64 + 1) * 64 % 2 ^ 64 = (c / 64 + 1) * 64 % 2 ^ 64 := by
  have hmod : (c + 1) % 2 ^ 64 / 64 = (c + 1) / 64 % 2 ^ 58 := Nat.mod_mul_right_div_self (c + 1) 64 (2 ^ 58)
  have hdiv : (c + 1) / 64 = c / 64 := by omega
  omega

/-- The beacon's condition in the loops: the count has come to a multiple of 64. -/
theorem due_iff (c : Nat) : (c + 1) % 2 ^ 64 % 64 = 0 ∧ (c + 1) % 2 ^ 64 ≠ c ↔ (c + 1) % 64 = 0 := by omega

/-- Where the count is not slewed, time passes to the next multiple of 64. -/
theorem toBeacon_time {n : Nat} {s : State} (hslew : s.time.slew = 0) (hn : 64 - s.time.count % 64 ≤ n) :
    (toBeacon n s).time = { s.time with count := (s.time.count / 64 + 1) * 64 % 2 ^ 64,
                                        since := s.time.since + (64 - s.time.count % 64), slewAcc := 0 } := by
  induction n generalizing s with
  | zero => omega
  | succ n ih =>
    have ht := tick_time_of_no_slew hslew
    rw [toBeacon, ht]
    simp only [due_iff]
    split
    · rename_i hdue
      rw [ht]
      dsimp only
      congr 1 <;> omega
    · rename_i hdue
      rw [ih (by rw [ht]; exact hslew) (by rw [ht]; dsimp only; omega), ht]
      dsimp only
      rw [nextBeacon_succ hdue]
      congr 1
      omega

end Sys2Proof.Machine
end

section
/-! SUPPORT. The copies stop 63 ns after a beacon (R42). -/

namespace Sys2Proof.Machine

open Sys2Proof

theorem plainReg_obsCapture : plainReg (OBS_CAPTURE.off 0 0) := ⟨by decide, by decide⟩

theorem Quiet.passes {s u : State} (h : Quiet s) (hp : Passes s u) (hepoch : u.time.epoch = s.time.epoch)
    (hstep : u.time.step = s.time.step) (hresync : u.time.resync = s.time.resync) : Quiet u :=
  ⟨hepoch.trans h.epoch, hstep.trans h.step, hresync.trans h.resync,
    (hp.regs.flag OBS_CAPTURE_BUSY 0 0 plainReg_obsCapture).trans h.busy⟩

theorem Quiet.tick {s : State} (h : Quiet s) : Quiet (tick s) := by
  obtain ⟨he, hs, hr⟩ := tickTime_waits s.time (s.get TIME_CTRL_SLEW_PPM)
  rw [← tick_time] at he hs hr
  exact h.passes (.tick s) he hs hr

/-- A quiet beacon changes the time only. -/
theorem Quiet.beacon {s : State} (h : Quiet s) : Quiet (beacon s) ∧ (beacon s).store = s.store := by
  rw [h.beacon_eq]
  exact ⟨⟨h.epoch, h.step, rfl, h.busy⟩, rfl⟩

theorem idle_eq (s : State) (hpor : s.pins.por = true) :
    idle s = if (tick s).time.count % 64 = 0 ∧ (tick s).time.count ≠ s.time.count then beacon (tick s) else tick s := by
  simp only [idle, hpor, Bool.not_true, Bool.false_eq_true, if_false]

/-- Idle steps between and at quiet beacons leave memory and the commands that wait. -/
theorem Quiet.idle {s : State} (h : Quiet s) : Quiet (idle s) ∧ (idle s).store = s.store := by
  by_cases hpor : s.pins.por = true
  · rw [idle_eq s hpor]
    split
    · exact ⟨h.tick.beacon.1, h.tick.beacon.2.trans (tick_store s)⟩
    · exact ⟨h.tick, tick_store s⟩
  · rw [idle_of_por_low (Bool.not_eq_true _ ▸ hpor)]
    exact ⟨h, rfl⟩

theorem Quiet.toStop_store {s : State} (n : Nat) (h : Quiet s) : (toStop n s).store = s.store := by
  induction n generalizing s with
  | zero => rfl
  | succ n ih =>
    rw [toStop]
    split
    · rfl
    · rw [ih h.idle.1, h.idle.2]

theorem idle_queues (s : State) : (idle s).queues = s.queues := by
  by_cases hpor : s.pins.por = true
  · rw [idle_eq s hpor]
    split
    · rw [beacon_queues, tick_queues]
    · exact tick_queues s
  · rw [idle_of_por_low (Bool.not_eq_true _ ▸ hpor)]

theorem toStop_queues (n : Nat) (s : State) : (toStop n s).queues = s.queues := by
  induction n generalizing s with
  | zero => rfl
  | succ n ih =>
    rw [toStop]
    split
    · rfl
    · rw [ih, idle_queues]

/-- The device is powered, its count is not slewed, and no beacon will change it. -/
structure Steady (s : State) : Prop where
  por : s.pins.por = true
  slew : s.time.slew = 0
  epoch : s.time.epoch = none
  step : s.time.step = none

/-- An idle step of a steady device: the count rises by one, and a beacon starts the copies again. -/
theorem Steady.idle {s : State} (h : Steady s) :
    Steady (idle s) ∧ (idle s).time.count = (s.time.count + 1) % 2 ^ 64
      ∧ (idle s).time.since = if (s.time.count + 1) % 64 = 0 then 0 else s.time.since + 1 := by
  have ht := tick_time_of_no_slew h.slew
  have hp := (Passes.tick s).pins
  rw [idle_eq s h.por]
  simp only [show (tick s).time.count = (s.time.count + 1) % 2 ^ 64 by rw [ht], due_iff]
  split
  · obtain ⟨hb, hbp⟩ := beacon_time (s := tick s) (by rw [ht]; exact h.epoch) (by rw [ht]; exact h.step)
    rw [ht] at hb
    refine ⟨⟨by rw [hbp, hp]; exact h.por, ?_, ?_, ?_⟩, ?_, ?_⟩ <;> rw [hb]
    · exact h.slew
    · exact h.epoch
    · exact h.step
  · refine ⟨⟨by rw [hp]; exact h.por, ?_, ?_, ?_⟩, ?_, ?_⟩ <;> rw [ht]
    · exact h.slew
    · exact h.epoch
    · exact h.step

/-- The count at which the copies of a steady device stop: 63 ns after the beacon that they last loaded, or, where the
count has passed a beacon that they have not, after the next one. -/
def stopCount (t : TimeSt) : Nat :=
  (if t.since < t.count % 64 then (t.count / 64 + 1) * 64 + 63 else t.count + (63 - t.since)) % 2 ^ 64

/-- The nanoseconds until then. -/
def stopSteps (t : TimeSt) : Nat := if t.since < t.count % 64 then 64 - t.count % 64 + 63 else 63 - t.since

theorem stopSteps_le (t : TimeSt) : stopSteps t ≤ 200 := by
  unfold stopSteps
  split <;> omega

/-- A nanosecond brings the stop nearer and leaves its place. -/
theorem stop_next {t u : TimeSt} (hlt : t.since < 63) (hc : t.count < 2 ^ 64) (hcount : u.count = (t.count + 1) % 2 ^ 64)
    (hsince : u.since = if (t.count + 1) % 64 = 0 then 0 else t.since + 1) :
    stopCount u = stopCount t ∧ stopSteps u + 1 = stopSteps t := by
  unfold stopCount stopSteps
  rw [hcount, hsince]
  by_cases hdue : (t.count + 1) % 64 = 0
  · have h63 : t.count % 64 = 63 := by omega
    have hmod : (t.count + 1) % 2 ^ 64 % 64 = 0 := by omega
    have hsome : t.since < t.count % 64 := by omega
    rw [if_pos hdue, if_pos hsome, if_pos hsome, hmod, if_neg (by omega), if_neg (by omega)]
    omega
  · have hsucc : (t.count + 1) % 2 ^ 64 = t.count + 1 := by omega
    rw [if_neg hdue, hsucc]
    split <;> split <;> omega

theorem stopCount_of_le {t : TimeSt} (h : 63 ≤ t.since) (hc : t.count < 2 ^ 64) : stopCount t = t.count := by
  unfold stopCount
  rw [if_neg (by omega)]
  omega

theorem Steady.toStop_count {n : Nat} {s : State} (h : Steady s) (hc : s.time.count < 2 ^ 64)
    (hn : stopSteps s.time ≤ n) : (toStop n s).time.count = stopCount s.time := by
  induction n generalizing s with
  | zero =>
    have hle : 63 ≤ s.time.since := by
      unfold stopSteps at hn
      split at hn <;> omega
    exact (stopCount_of_le hle hc).symm
  | succ n ih =>
    rw [toStop]
    split
    · rename_i hle
      exact (stopCount_of_le hle hc).symm
    · rename_i hlt
      obtain ⟨hsteady, hcount, hsince⟩ := h.idle
      obtain ⟨hsame, hnear⟩ := stop_next (by omega) hc hcount hsince
      rw [ih hsteady (by rw [hcount]; omega) (by omega), hsame]

end Sys2Proof.Machine
end

section
/-! SUPPORT. Ports: what a port holds after its state is set and after a VC3 frame goes out (R357). -/

namespace Sys2Proof.Machine

open Sys2Proof

theorem port_setPort (s : State) (p q : Nat) (x : PortSt) :
    (s.setPort p x).port q = if q = p then x else s.port q := lookD_ins _ _ _ _ _

@[simp] theorem port_setPort_self (s : State) (p : Nat) (x : PortSt) : (s.setPort p x).port p = x := by
  rw [port_setPort, if_pos rfl]

theorem port_setPort_ne (s : State) {p q : Nat} (x : PortSt) (h : q ≠ p) : (s.setPort p x).port q = s.port q := by
  rw [port_setPort, if_neg h]

theorem port_of_link_eq {s u : State} (h : u.link = s.link) (p : Nat) : u.port p = s.port p := by
  rw [State.port, State.port, h]

theorem Records.link {s u : State} (h : Records s u) : u.link = s.link := by
  obtain ⟨m, b, r, t, rfl⟩ := h.rest
  rfl

theorem traceFrame_port (s : State) (port type len dst src addr eseq dir q : Nat) :
    (traceFrame s port type len dst src addr eseq dir).port q = s.port q :=
  port_of_link_eq (Records.traceFrame ..).link q

theorem traceLink_port (s : State) (port event q : Nat) : (traceLink s port event).port q = s.port q :=
  port_of_link_eq (Records.traceLink ..).link q

/-- The VC3 frame that a port sends. -/
def ctlFrame (s : State) (p type : Nat) (payload : List Byte) : TxFrame :=
  ⟨type, s.extLayout, payload.length, (s.port p).txCtl, ((s.port p).rxLseq + 2 ^ 32 - 1) % 2 ^ 32, 0,
    s.get LNK_STAT_NBR_DEV p, s.num, 0, 0, (s.port p).kep, 2 ^ 48 - 1, 2 ^ 48 - 1, payload, none⟩

/-- A port that has sent a VC3 frame. -/
def PortSt.sentCtl (x : PortSt) (f : TxFrame) : PortSt :=
  { x with txCtl := (x.txCtl + 1) % 2 ^ 32, ctlOut := (f :: x.ctlOut).take 2, ackDue := false }

theorem sendCtl_eq (s : State) (p type : Nat) (payload : List Byte) :
    sendCtl s p type payload = traceFrame (s.setPort p ((s.port p).sentCtl (ctlFrame s p type payload))) p type
      payload.length (s.get LNK_STAT_NBR_DEV p) s.num 0 0 0 := rfl

theorem sendCtl_port (s : State) (p type : Nat) (payload : List Byte) (q : Nat) :
    (sendCtl s p type payload).port q =
      if q = p then (s.port p).sentCtl (ctlFrame s p type payload) else s.port q := by
  rw [sendCtl_eq, traceFrame_port, port_setPort]

theorem flushLinks_of_empty {s : State} (h : s.link.waitq = []) : s.flushLinks = s := by
  rw [State.flushLinks, h]
  rfl

end Sys2Proof.Machine
end

section
/-! SUPPORT. The rows of the time base (R44 to R50), and the statement about them. -/

namespace Sys2Proof.Machine

open Sys2Proof

theorem exec_timeBeacon {s : State} (h : s.pins.por = true) :
    exec .timeBeacon s = .next (beacon (toBeacon 200 s)) := by
  show execTimeBeacon s = _
  rw [execTimeBeacon, if_pos h]

/-- A beacon that nothing waits for: the copies show the next multiple of 64. -/
theorem timeBeacon_of_quiet {s : State} (hpor : s.pins.por = true) (hslew : s.time.slew = 0) (h : Quiet s) :
    ∃ u, exec .timeBeacon s = .next u ∧ u.time.count = (s.time.count / 64 + 1) * 64 % 2 ^ 64
      ∧ u.time.base = u.time.count ∧ u.time.since = 0 ∧ u.time.stopped = false
      ∧ u.time.lastBeacon = some u.time.count ∧ memKept s u ∧ u.queues = s.queues ∧ u.gcs = s.gcs := by
  have ht := toBeacon_time (n := 200) hslew (by omega)
  have hp := Passes.toBeacon 200 s
  have hquiet : Quiet (toBeacon 200 s) := h.passes hp (by rw [ht]) (by rw [ht]) (by rw [ht])
  have hmem := memKept_of_store_eq (hquiet.beacon.2.trans (toBeacon_store 200 s))
  refine ⟨_, exec_timeBeacon hpor, ?_⟩
  rw [hquiet.beacon_eq] at hmem ⊢
  exact ⟨by rw [ht], rfl, rfl, rfl, rfl, hmem, hp.queues, hp.gcs⟩

theorem timeBeacon_of_epoch {s : State} {e : Nat} (hpor : s.pins.por = true) (hslew : s.time.slew = 0)
    (hepoch : s.time.epoch = some e) (hstep : s.time.step = none) :
    ∃ u, exec .timeBeacon s = .next u ∧ u.time.count = e % 2 ^ 64 ∧ u.time.epoch = none
      ∧ u.get TIME_STAT_EPOCH_SET = 1 ∧ u.queues = s.queues := by
  have ht := toBeacon_time (n := 200) hslew (by omega)
  obtain ⟨hcount, hnone, hset⟩ := beacon_epoch (s := toBeacon 200 s) (by rw [ht]; exact hepoch) (by rw [ht]; exact hstep)
  exact ⟨_, exec_timeBeacon hpor, hcount, hnone, hset, by rw [beacon_queues, (Passes.toBeacon 200 s).queues]⟩

/-- While POR_N is low the rows of the time base change nothing. -/
theorem timeRows_of_por_low {s : State} (h : s.pins.por = false) :
    exec .timeBeacon s = .next s ∧ exec .interpolationStop s = .next s ∧ exec .timeExchange s = .next s
      ∧ exec .timePpsIn s = .next s ∧ exec .timePpsOut s = .next s := by
  simp [exec, execTimeBeacon, execInterpolationStop, execTimeExchange, execTimePpsIn, execTimePpsOut, h]

theorem exec_interpolationStop {s : State} (h : s.pins.por = true) :
    exec .interpolationStop s =
      .next { toStop 200 s with time := { (toStop 200 s).time with stopped := true } } := by
  show execInterpolationStop s = _
  rw [execInterpolationStop, h]
  rfl

theorem interpolationStop_row {s : State} (hpor : s.pins.por = true) :
    ∃ u, exec .interpolationStop s = .next u ∧ u.time.stopped = true ∧ u.queues = s.queues
      ∧ (s.time.slew = 0 → s.time.epoch = none → s.time.step = none → s.time.count < 2 ^ 64 → u.time.count =
          (if s.time.since < s.time.count % 64 then (s.time.count / 64 + 1) * 64 + 63
            else s.time.count + (63 - s.time.since)) % 2 ^ 64)
      ∧ (s.time.epoch = none → s.time.step = none → s.time.resync = [] → s.flag OBS_CAPTURE_BUSY = false →
          memKept s u) := by
  refine ⟨_, exec_interpolationStop hpor, rfl, toStop_queues 200 s, fun hslew he hs hc => ?_, fun he hs hr hb => ?_⟩
  · exact Steady.toStop_count ⟨hpor, hslew, he, hs⟩ hc (stopSteps_le _)
  · exact memKept_of_store_eq (Quiet.toStop_store 200 ⟨he, hs, hr, hb⟩)

theorem timeEpochWrite_row (s : State) (v : Nat) :
    (s.flag TIME_CTRL_MASTER = true → ∃ u, exec (.timeEpochWrite v) s = .next u ∧ u.time.epoch = some (v % 2 ^ 64)
      ∧ u.time.count = s.time.count ∧ { u with time := s.time } = s)
    ∧ (s.flag TIME_CTRL_MASTER = false → exec (.timeEpochWrite v) s = .next s) := by
  show (_ → ∃ u, execTimeEpochWrite v s = .next u ∧ _) ∧ (_ → execTimeEpochWrite v s = .next s)
  unfold execTimeEpochWrite timeEpochWrite
  refine ⟨fun h => ?_, fun h => ?_⟩
  · rw [if_pos h]
    exact ⟨_, rfl, rfl, rfl, rfl⟩
  · rw [h]
    rfl

/-- What a follower without its link is left with (R49). -/
theorem freeRun_facts (s : State) :
    (freeRun s).get TIME_STAT_LOCKED = 0 ∧ (freeRun s).get TIME_STAT_LOCK_LOST = 1
      ∧ (freeRun s).time = { s.time with good := 0, exch := none, waiting := false, slew := 0, slewAcc := 0 }
      ∧ regsBut [TIME_STAT.off] s (freeRun s) ∧ memKept s (freeRun s) := by
  have hlost (t : State) : (t.stick TIME_STAT_LOCK_LOST).get TIME_STAT_LOCKED = t.get TIME_STAT_LOCKED :=
    get_set_field t TIME_STAT_LOCK_LOST TIME_STAT_LOCKED 1 0 0 rfl (by decide) (by decide) (by decide)
  have hlocked (t : State) : (t.set TIME_STAT_LOCKED 0).get TIME_STAT_LOCKED = 0 :=
    get_set_self t TIME_STAT_LOCKED 0 0 0 (by decide)
  refine ⟨(hlost _).trans (hlocked _), get_set_self _ TIME_STAT_LOCK_LOST 1 0 0 (by decide), ?_, fun o ho v => ?_,
    memKept_of_store_eq (freeRun_store s)⟩
  · unfold freeRun loseLock
    split <;> rfl
  · have hset (t : State) (f : Fld) (n : Nat) (hf : f.reg = TIME_STAT) : (t.set f n).regAt o v = t.regAt o v :=
      regAt_set_ne t f n 0 0 v (by rw [hf]; simpa using ho)
    refine (hset _ TIME_STAT_LOCK_LOST 1 rfl).trans ((hset _ TIME_STAT_LOCKED 0 rfl).trans ?_)
    split
    · exact hset s TIME_STAT_LOCK_LOST 1 rfl
    · rfl

/-- A follower whose port is UP asks for a time message there. -/
theorem timeExchange_of_up {s : State} (hpor : s.pins.por = true) (hfollows : s.flag TIME_CTRL_MASTER = false)
    (hport : s.get TIME_CTRL_UP_PORT < 12) (hup : portState s (s.get TIME_CTRL_UP_PORT) = 4) :
    ∃ u g, exec .timeExchange s = .next u ∧ u.time.waiting = true
      ∧ (u.port (s.get TIME_CTRL_UP_PORT)).ctlOut.head? = some g ∧ g.type = 3 ∧ g.payload = [] ∧ linkMem s u := by
  let p := s.get TIME_CTRL_UP_PORT
  let s₁ : State := if s.time.waiting then { s with time := { s.time with exch := none } } else s
  have hexec : exec .timeExchange s = .next
      { sendCtl s₁ p 3 [] with time := { (sendCtl s₁ p 3 []).time with waiting := true } } := by
    show execTimeExchange s = _
    simp only [execTimeExchange, hfollows, hpor, hup]
    rw [if_neg (by decide), if_neg (by omega), if_neg (by decide)]
  have hmem : linkMem s s₁ := by
    unfold s₁
    split <;> exact linkMem_refl _
  have hflag : s₁.flag OBS_CFG_LNK_EN = s.flag OBS_CFG_LNK_EN := by
    unfold s₁
    split <;> rfl
  have hhead : ((sendCtl s₁ p 3 []).port p).ctlOut.head? = some (ctlFrame s₁ p 3 []) := by
    rw [sendCtl_port, if_pos rfl]
    rfl
  exact ⟨_, _, hexec, rfl, hhead, rfl, rfl, linkMem_trans hmem hflag (Sends.sendCtl s₁ p 3 []).mem⟩

theorem timeExchange_of_not_up {s : State} (hpor : s.pins.por = true) (hfollows : s.flag TIME_CTRL_MASTER = false)
    (hport : s.get TIME_CTRL_UP_PORT < 12) (hdown : portState s (s.get TIME_CTRL_UP_PORT) ≠ 4) :
    exec .timeExchange s = .next (freeRun s) := by
  show execTimeExchange s = _
  simp only [execTimeExchange, hfollows, hpor]
  rw [if_neg (by decide), if_neg (by omega), if_pos (by simpa using hdown)]

/-- How far a disciplined master's count is from the whole second nearest to a PPS edge. -/
def ppsSlew (c : Nat) : Int :=
  if c % 1000000000 < 500000000 then -((c % 1000000000 : Nat) : Int) else (1000000000 : Int) - (c % 1000000000 : Nat)

theorem timePpsIn_of_first {s : State} (hpor : s.pins.por = true) (hfirst : s.time.ppsLast = none) :
    ∃ u, exec .timePpsIn s = .next u ∧ u.rg TIME_PPS_CAP = BitVec.ofNat 64 s.time.count
      ∧ u.time.ppsLast = some s.time.count ∧ u.time.count = s.time.count ∧ regsBut [TIME_PPS_CAP.off] s u
      ∧ (s.flag TIME_CTRL_MASTER = true → s.flag TIME_CTRL_PPS_IN_EN = true → u.time.slew = ppsSlew s.time.count)
      ∧ (s.flag TIME_CTRL_MASTER = false → u.time.slew = s.time.slew) := by
  let s₁ : State := { s.setRg TIME_PPS_CAP (BitVec.ofNat 64 s.time.count) with
    time := { s.time with ppsLast := some s.time.count } }
  have hself : s₁.rg TIME_PPS_CAP = BitVec.ofNat 64 s.time.count := regAt_setRegAt_self s _ _ _
  have hrest : regsBut [TIME_PPS_CAP.off] s s₁ := fun o ho v => regAt_setRegAt_ne s _ v (by simpa using ho)
  have hflag (f : Fld) (hf : f.reg = TIME_CTRL) : s₁.flag f = s.flag f := by
    rw [State.flag, State.flag, State.get, State.get, hf, State.rg, State.rg, hrest _ (by decide)]
  have hexec : exec .timePpsIn s = .next
      (if s.flag TIME_CTRL_MASTER && s.flag TIME_CTRL_PPS_IN_EN then
        { s₁ with time := { s₁.time with slew := ppsSlew s.time.count } } else s₁) := by
    rw [← hflag TIME_CTRL_MASTER rfl, ← hflag TIME_CTRL_PPS_IN_EN rfl]
    show execTimePpsIn s = _
    unfold execTimePpsIn
    rw [hfirst, hpor]
    rfl
  refine ⟨_, hexec, ?_⟩
  split
  · rename_i hboth
    obtain ⟨hmaster, -⟩ := Bool.and_eq_true_iff.mp hboth
    exact ⟨hself, rfl, rfl, hrest, fun _ _ => rfl, fun h => by rw [h] at hmaster; cases hmaster⟩
  · rename_i hnot
    exact ⟨hself, rfl, rfl, hrest, fun hm hp => absurd (Bool.and_eq_true_iff.mpr ⟨hm, hp⟩) hnot, fun _ => rfl⟩

theorem timePpsIn_of_near {s : State} {l : Nat} (hlast : s.time.ppsLast = some l)
    (hnear : (s.time.count + 2 ^ 64 - l) % 2 ^ 64 < 500000000) : exec .timePpsIn s = .next s := by
  show execTimePpsIn s = _
  unfold execTimePpsIn
  simp only [hlast, hnear, decide_true, Bool.or_true, if_true]

theorem onlyRegs_set (s : State) (f : Fld) (n i j : Nat) : onlyRegs [f.reg.off i j] s (s.set f n i j) :=
  ⟨fun _ ho v => regAt_set_ne s f n i j v (by simpa using ho), rfl⟩

theorem ppsMissing_of_disciplined {s : State} (hin : s.flag TIME_CTRL_PPS_IN_EN = true)
    (hmaster : s.flag TIME_CTRL_MASTER = true) :
    ∃ u, exec .ppsMissing s = .next u ∧ u.get TIME_STAT_PPS_MISSING = 1 ∧ onlyRegs [TIME_STAT.off] s u := by
  have hexec : exec .ppsMissing s = .next (s.stick TIME_STAT_PPS_MISSING) := by
    show execPpsMissing s = _
    rw [execPpsMissing, hin, hmaster]
    rfl
  exact ⟨_, hexec, get_set_self s TIME_STAT_PPS_MISSING 1 0 0 (by decide),
    onlyRegs_set s TIME_STAT_PPS_MISSING 1 0 0⟩

theorem timePpsOut_row (s : State) :
    (s.pins.por = true → s.flag TIME_CTRL_PPS_OUT_EN = true → s.time.count % 1000000000 = 0 →
        ∃ u, exec .timePpsOut s = .next u ∧ u.pins.ppsOut = true ∧ { u with pins := s.pins } = s)
    ∧ (s.time.count % 1000000000 ≠ 0 → exec .timePpsOut s = .next s) := by
  show (_ → _ → _ → ∃ u, execTimePpsOut s = .next u ∧ _) ∧ (_ → execTimePpsOut s = .next s)
  unfold execTimePpsOut
  refine ⟨fun hpor hen hc => ?_, fun hc => ?_⟩
  · rw [hpor, hen, hc]
    exact ⟨_, rfl, rfl, rfl⟩
  · rw [if_neg (by simp [hc])]

/-- Settles O48: a nanosecond touches the time base and the busy counters only, so the count at a beacon and at a stop
is counted in steps, and each other row is its own update of the time base, TIME_STAT or a pin. -/
theorem timeRows : Obligations.TimeRows := by
  unfold Obligations.TimeRows
  refine ⟨fun s hpor hslew he hs hr hb => timeBeacon_of_quiet hpor hslew ⟨he, hs, hr, hb⟩,
    fun s e hpor hslew he hs => timeBeacon_of_epoch hpor hslew he hs, fun s h => timeRows_of_por_low h,
    fun s hpor => interpolationStop_row hpor, timeEpochWrite_row, fun s hpor hfollows hport => ⟨fun hup => ?_, fun hdown => ?_⟩,
    fun s hpor hfirst => timePpsIn_of_first hpor hfirst, fun s l hlast hnear => timePpsIn_of_near hlast hnear, fun s => ?_⟩
  · exact timeExchange_of_up hpor hfollows hport hup
  · obtain ⟨hlocked, hlost, ht, hregs, hmem⟩ := freeRun_facts s
    exact ⟨_, timeExchange_of_not_up hpor hfollows hport hdown, hlocked, hlost, by rw [ht], by rw [ht], by rw [ht],
      by rw [ht], hregs, hmem⟩
  · obtain ⟨hrise, hstay⟩ := timePpsOut_row s
    exact ⟨fun hin hmaster => ppsMissing_of_disciplined hin hmaster, hrise, hstay, ⟨_, rfl, rfl, rfl⟩⟩

end Sys2Proof.Machine
end

section
/-! SUPPORT. What a port's keys and its LNK_STAT keep while frames go out, and a port that falls (R357, R358, R365). -/

namespace Sys2Proof.Machine

open Sys2Proof

/-! Keys. -/

/-- Where no next transmit key waits, the port's keys are the same. -/
def SameKeys (p : Nat) (s u : State) : Prop :=
  (s.port p).nextTx = none →
    (u.port p).nextTx = none ∧ (u.port p).txKey = (s.port p).txKey ∧ (u.port p).rxKey = (s.port p).rxKey

theorem SameKeys.trans {p : Nat} {s t u : State} (h₁ : SameKeys p s t) (h₂ : SameKeys p t u) : SameKeys p s u := by
  intro hs
  obtain ⟨hn, ht, hr⟩ := h₁ hs
  obtain ⟨hn', ht', hr'⟩ := h₂ hn
  exact ⟨hn', ht'.trans ht, hr'.trans hr⟩

theorem SameKeys.of_port_eq {p : Nat} {s u : State} (h : u.port p = s.port p) : SameKeys p s u := by
  intro hs
  rw [h]
  exact ⟨hs, rfl, rfl⟩

/-- A port's state is set to one with the same keys. -/
theorem SameKeys.setPort {p q : Nat} {s : State} {x : PortSt}
    (h : (s.port q).nextTx = none →
      x.nextTx = none ∧ x.txKey = (s.port q).txKey ∧ x.rxKey = (s.port q).rxKey) : SameKeys p s (s.setPort q x) := by
  intro hs
  rw [port_setPort]
  split
  · rename_i hpq
    subst hpq
    exact h hs
  · exact ⟨hs, rfl, rfl⟩

theorem SameKeys.freeVia (p : Nat) (s : State) (f : TxFrame) : SameKeys p s (freeVia s f) := by
  unfold Machine.freeVia
  split
  · exact .of_port_eq rfl
  · exact .setPort fun h => ⟨h, rfl, rfl⟩

theorem SameKeys.sendOn (p : Nat) (s : State) (q : Nat) (f : TxFrame) : SameKeys p s (sendOn s q f) := by
  unfold Machine.sendOn
  extract_lets f₀ s₁ y vc wrap f₁ f₂ y₁ y₂ s₂
  have hset : SameKeys p s₁ (s₁.setPort q y₂) := .setPort fun h => by
    have hy₂ : y₂ = y₁ := by
      unfold y₂
      split
      · rw [show y₁.nextTx = none from h]
      · rfl
    rw [hy₂]
    exact ⟨h, rfl, rfl⟩
  have htrace : s₂.port p = (s₁.setPort q y₂).port p := traceFrame_port _ _ _ _ _ _ _ _ _ _
  have h₂ : SameKeys p s s₂ := ((SameKeys.freeVia p s f₀).trans hset).trans (.of_port_eq htrace)
  split
  · exact h₂.trans (.of_port_eq rfl)
  · exact h₂

theorem SameKeys.flushN (p n : Nat) (s : State) : SameKeys p s (flushN n s) := by
  induction n generalizing s with
  | zero => exact .of_port_eq rfl
  | succ n ih =>
    rw [Machine.flushN]
    split
    · exact .of_port_eq rfl
    · refine SameKeys.trans ?_ (ih _)
      refine SameKeys.trans ?_ (.sendOn _ _ _ _)
      exact .of_port_eq rfl

/-! LNK_STAT. -/

theorem plainReg_lnkStat {p : Nat} (h : p < 12) : plainReg (LNK_STAT.off p) := by
  simp only [plainReg, Reg.off, LNK_STAT, OBS_BUSY, OBS_STAT]
  omega

theorem RegsKept.lnkStat {s u : State} {p : Nat} (h : RegsKept s u) (hp : p < 12) :
    u.rg LNK_STAT p = s.rg LNK_STAT p := h.rg _ _ _ (plainReg_lnkStat hp)

/-- A field of a port's LNK_STAT, where the register is the same. -/
theorem get_lnkStat {s u : State} {p : Nat} (h : u.rg LNK_STAT p = s.rg LNK_STAT p) (f : Fld) (hf : f.reg = LNK_STAT) :
    u.get f p = s.get f p := by
  rw [State.get, State.get, hf, h]

/-- Another register, where LNK_STAT's offset differs from it. -/
theorem lnkStat_ne {p : Nat} {o : Nat} (h : o < LNK_STAT.base) : LNK_STAT.off p ≠ o := by
  have := base_le_off LNK_STAT p 0
  omega

theorem portLost_lnkStat (s : State) (p q : Nat) : (portLost s q).rg LNK_STAT p = s.rg LNK_STAT p := by
  unfold portLost
  split
  · obtain ⟨-, -, -, hregs, -⟩ := freeRun_facts s
    exact hregs _ (by simpa using lnkStat_ne (by decide)) _
  · rfl

theorem singleFault_lnkStat (s : State) (p : Nat) : (singleFault s none).rg LNK_STAT p = s.rg LNK_STAT p := by
  unfold singleFault
  split
  · rfl
  · exact regAt_set_ne s FLT_STAT_SECOND 1 0 0 _ (lnkStat_ne (by decide))

/-- A port that goes down is in DOWN, and its AUTH_FAIL stays. -/
theorem portDown_stat (s : State) {p : Nat} (hp : p < 12) (went : Bool) :
    portState (portDown s p went) p = 0
      ∧ (portDown s p went).get LNK_STAT_AUTH_FAIL p = s.get LNK_STAT_AUTH_FAIL p := by
  unfold portDown
  extract_lets s₁ s₂ s₃ s₄ s₅ s₆ s₇ x unheld l s₈
  obtain ⟨hstate, hfail⟩ : s₄.get LNK_STAT_STATE p = 0 ∧ s₄.get LNK_STAT_AUTH_FAIL p = s.get LNK_STAT_AUTH_FAIL p := by
    unfold s₄
    split <;>
    simp (disch := decide) only [s₃, s₂, s₁, State.stick, get_set_field, get_set_self] <;>
    decide
  have h₅ : s₅.rg LNK_STAT p = s₄.rg LNK_STAT p :=
    ((Sends.silt' s₄ _ _ _ _ _).trans (.traceLink _ _ _)).regs.lnkStat hp
  have h₆ : s₆.rg LNK_STAT p = s₅.rg LNK_STAT p := by
    unfold s₆
    split
    · exact portLost_lnkStat s₅ p p
    · rfl
  have h₈ : Sends s₆ s₈ := (Sends.moveReplay s₆ p).trans (.link s₇ { l with waitq := s₇.link.waitq.map unheld })
  have hlast (y : PortSt) : (s₈.setPort p y).flushLinks.rg LNK_STAT p = s₄.rg LNK_STAT p :=
    (((h₈.trans (.setPort s₈ p y)).trans (.flushLinks _)).regs.lnkStat hp).trans (h₆.trans h₅)
  exact ⟨(get_lnkStat (hlast _) LNK_STAT_STATE rfl).trans hstate,
    (get_lnkStat (hlast _) LNK_STAT_AUTH_FAIL rfl).trans hfail⟩

/-- A port that falls with AUTH_FAIL is in DOWN and shows it. -/
theorem authFail_stat (s : State) {p : Nat} (hp : p < 12) :
    portState (authFail s p) p = 0 ∧ (authFail s p).get LNK_STAT_AUTH_FAIL p = 1 := by
  obtain ⟨hdown, hfail⟩ := portDown_stat (singleFault (s.stick LNK_STAT_AUTH_FAIL p) none) hp
    (portState s p == 4 || portState s p == 5)
  refine ⟨hdown, hfail.trans ((get_lnkStat (singleFault_lnkStat _ p) LNK_STAT_AUTH_FAIL rfl).trans ?_)⟩
  exact get_set_self s LNK_STAT_AUTH_FAIL 1 p 0 (by decide)

end Sys2Proof.Machine
end

section
/-! SUPPORT. CTRL, IDENT and KEYX frames at a port (R355, R357, R363, R365), TIME messages (R47), and the statement about
them. -/

namespace Sys2Proof.Machine

open Sys2Proof

variable {s t : State} {f : RxFrame} {d : List Byte}

/-- Only the device's 12 ports pass frames on. -/
theorem port_lt_of_takeCtl {type : Nat} (h : takeCtl s f type = (some d, t)) : f.port < 12 := by
  by_contra hge
  have hnone : takeCtl s f type = (none, s) := by
    unfold takeCtl
    dsimp only
    rw [if_pos (by simp [Nat.le_of_not_lt hge])]
  rw [hnone] at h
  cases h

/-! Frames that the port's checks refuse. -/

theorem exec_ctrlFrame_of_refused (h : takeCtl s f 0 = (none, t)) : exec (.ctrlFrame f) s = .next t := by
  show execCtrlFrame f s = _
  rw [execCtrlFrame, h]

theorem exec_ident_of_refused (h : takeCtl s f 1 = (none, t)) : exec (.ident f) s = .next t := by
  show execIdent f s = _
  rw [execIdent, h]

theorem exec_keyx_of_refused (h : takeCtl s f 2 = (none, t)) : exec (.keyx f) s = .next t := by
  show execKeyx f s = _
  rw [execKeyx, h]

theorem exec_timeFrame_of_refused (rxAgo txIn : Nat) (h : takeCtl s f 3 = (none, t)) :
    exec (.timeFrame f rxAgo txIn) s = .next t := by
  show execTimeFrame f rxAgo txIn s = _
  rw [execTimeFrame, h]

/-! CTRL. -/

/-- The credit of a virtual channel with what a CTRL frame returns. -/
def addCredit (d : List Byte) (c : SMap Nat) (v : Nat) : SMap Nat :=
  ins c v (min 1024 (lookD c v 0 + byteN d (4 + 2 * v) 2))

/-- A port with the credit that a CTRL frame returns. -/
def credited (x : PortSt) (d : List Byte) : PortSt := { x with credits := (upto 3).foldl (addCredit d) x.credits }

theorem credited_credits (x : PortSt) (d : List Byte) {v : Nat} (h : v < 3) :
    lookD (credited x d).credits v 0 = min 1024 (lookD x.credits v 0 + byteN d (4 + 2 * v) 2) := by
  have h3 : upto 3 = [0, 1, 2] := rfl
  rw [credited, h3]
  simp only [List.foldl_cons, List.foldl_nil, addCredit, lookD_ins]
  interval_cases v <;> simp

theorem exec_ctrlFrame_of_taken (h : takeCtl s f 0 = (some d, t)) (hnak : byteN d 2 1 % 2 = 0) :
    exec (.ctrlFrame f) s = .next
      (takeAck (t.setPort f.port (credited (t.port f.port) d)) f.port
        (extend16 (t.port f.port).txLseq (byteN d 0 2))).flushLinks := by
  show execCtrlFrame f s = _
  rw [execCtrlFrame, h]
  dsimp only
  rw [if_neg (by omega)]
  rfl

/-- With no frame waiting an acknowledgement changes its own port only. -/
theorem takeAck_facts (hwait : s.link.waitq = []) (p next : Nat) :
    ((takeAck s p next).port p).replay
        = (s.port p).replay.filter (fun g => (g.lseq + 2 ^ 32 - next) % 2 ^ 32 < 2 ^ 31)
      ∧ ((takeAck s p next).port p).credits = (s.port p).credits
      ∧ (∀ q, q ≠ p → (takeAck s p next).port q = s.port q)
      ∧ (takeAck s p next).regs = s.regs ∧ (takeAck s p next).store = s.store
      ∧ (takeAck s p next).link.waitq = [] := by
  unfold takeAck
  extract_lets x left old
  split
  · rw [flushLinks_of_empty (show (s.setPort p _).link.waitq = [] from hwait), port_setPort_self]
    exact ⟨rfl, rfl, fun q hq => port_setPort_ne s _ hq, rfl, rfl, hwait⟩
  · rename_i hnone
    have hall : left = x.replay :=
      (List.filter_sublist (l := x.replay)).eq_of_length_le (Nat.le_of_not_lt hnone)
    exact ⟨hall.symm, rfl, fun _ _ => rfl, rfl, rfl, hwait⟩

theorem ctrlFrame_row (h : takeCtl s f 0 = (some d, t)) (hwait : t.link.waitq = []) (hnak : byteN d 2 1 % 2 = 0) :
    ∃ u, exec (.ctrlFrame f) s = .next u
      ∧ (u.port f.port).replay = (t.port f.port).replay.filter
          (fun g => (g.lseq + 2 ^ 32 - extend16 (t.port f.port).txLseq (byteN d 0 2)) % 2 ^ 32 < 2 ^ 31)
      ∧ (∀ v, v < 3 → lookD (u.port f.port).credits v 0
          = min 1024 (lookD (t.port f.port).credits v 0 + byteN d (4 + 2 * v) 2))
      ∧ (∀ p, p ≠ f.port → u.port p = t.port p) ∧ u.regs = t.regs ∧ memKept t u := by
  obtain ⟨hreplay, hcredits, hothers, hregs, hstore, hempty⟩ :=
    takeAck_facts (s := t.setPort f.port (credited (t.port f.port) d)) hwait f.port
      (extend16 (t.port f.port).txLseq (byteN d 0 2))
  have hexec := exec_ctrlFrame_of_taken h hnak
  rw [flushLinks_of_empty hempty] at hexec
  rw [port_setPort_self] at hreplay hcredits
  refine ⟨_, hexec, hreplay, fun v hv => ?_, fun p hp => ?_, hregs, memKept_of_store_eq hstore⟩
  · rw [hcredits]
    exact credited_credits _ d hv
  · rw [hothers p hp, port_setPort_ne t _ hp]

end Sys2Proof.Machine
end

section
/-! SUPPORT. IDENT and KEYX frames at a port (R365, R363). -/

namespace Sys2Proof.Machine

open Sys2Proof

variable {s t : State} {f : RxFrame} {d : List Byte}

/-! Writing a register's places one by one. -/

theorem regAt_foldl_setRg_ne (r : Reg) (g : Nat → W64) (i : Nat) (l : List Nat) (s : State) (o : Nat) (v : W64)
    (h : ∀ n ∈ l, o ≠ r.off i n) : (l.foldl (fun s n => s.setRg r (g n) i n) s).regAt o v = s.regAt o v := by
  induction l generalizing s with
  | nil => rfl
  | cons n l ih =>
    rw [List.foldl_cons, ih _ fun k hk => h k (List.mem_cons_of_mem _ hk)]
    exact regAt_setRegAt_ne s _ v (h n List.mem_cons_self)

theorem rg_foldl_setRg (r : Reg) (g : Nat → W64) (i : Nat) (l : List Nat) (s : State) {j : Nat} (hj : j ∈ l)
    (hinj : ∀ n ∈ l, r.off i j = r.off i n → j = n) : (l.foldl (fun s n => s.setRg r (g n) i n) s).rg r i j = g j := by
  induction l generalizing s with
  | nil => cases hj
  | cons n l ih =>
    rw [List.foldl_cons]
    by_cases hl : j ∈ l
    · exact ih _ hl fun k hk => hinj k (List.mem_cons_of_mem _ hk)
    · obtain rfl : j = n := (List.mem_cons.mp hj).resolve_right hl
      refine (regAt_foldl_setRg_ne r g i l _ _ _ fun k hk he => hl ?_).trans (regAt_setRegAt_self s _ _ _)
      rwa [hinj k (List.mem_cons_of_mem _ hk) he]

theorem foldl_setRg_store (r : Reg) (g : Nat → W64) (i : Nat) (l : List Nat) (s : State) :
    (l.foldl (fun s n => s.setRg r (g n) i n) s).store = s.store :=
  foldl_store _ l s fun s n => State.setRg_store s r (g n) i n

/-! IDENT: the neighbour's claim. -/

/-- The digest of the neighbour's identity key, in four words. -/
def nbrWords (d : List Byte) : List Nat := (upto 4).map fun n => byteN (sha256 (identKey d)) (8 * n) 8

theorem nbrWords_get (d : List Byte) {n : Nat} (h : n < 4) :
    listGet (nbrWords d) n 0 = byteN (sha256 (identKey d)) (8 * n) 8 := by
  simp [listGet, nbrWords, upto, h]

/-- The neighbour's device, port and key digest as the port's registers show them. -/
def showNbr (s : State) (p : Nat) (d : List Byte) : State :=
  (upto 4).foldl (fun s n => s.setRg LNK_NBRKEY (BitVec.ofNat 64 (listGet (nbrWords d) n 0)) p n)
    ((s.set LNK_STAT_NBR_DEV (byteN d 0 2) p).set LNK_STAT_NBR_PORT (byteN d 2 2) p)

/-- The neighbour's claim, shown and kept. -/
def recordIdent (s : State) (p : Nat) (d : List Byte) : State :=
  (showNbr s p d).setPort p { (showNbr s p d).port p with peerIdent := d, nbrKey := nbrWords d }

theorem takeIdent_eq (s : State) (p : Nat) (d : List Byte) :
    takeIdent s p d =
      if (recordIdent s p d).flag RNG_STAT_HALTED then
        (if portState (recordIdent s p d) p == 2 then authFail (recordIdent s p d) p else recordIdent s p d)
      else if ((sendKeyx (recordIdent s p d) p).port p).peerKeyx.isEmpty then sendKeyx (recordIdent s p d) p
      else takeKeyx (sendKeyx (recordIdent s p d) p) p ((sendKeyx (recordIdent s p d) p).port p).peerKeyx := rfl

/-- The digest's registers apart, the claim is in LNK_STAT. -/
theorem recordIdent_regAt (s : State) (p : Nat) (d : List Byte) {o : Nat} (v : W64)
    (h : ∀ n, n < 4 → o ≠ LNK_NBRKEY.off p n) :
    (recordIdent s p d).regAt o v =
      ((s.set LNK_STAT_NBR_DEV (byteN d 0 2) p).set LNK_STAT_NBR_PORT (byteN d 2 2) p).regAt o v := by
  rw [show (recordIdent s p d).regAt o v = (showNbr s p d).regAt o v from rfl, showNbr]
  exact regAt_foldl_setRg_ne LNK_NBRKEY (fun n => BitVec.ofNat 64 (listGet (nbrWords d) n 0)) p (upto 4) _ o v
    fun n hn => h n (List.mem_range.mp hn)

/-- Registers below those of the ports stay. -/
theorem recordIdent_regAt_of_lt (s : State) (p : Nat) (d : List Byte) {o : Nat} (h : o < LNK_STAT.base) (v : W64) :
    (recordIdent s p d).regAt o v = s.regAt o v := by
  have hstat : o ≠ LNK_STAT.off p := (lnkStat_ne h).symm
  rw [recordIdent_regAt s p d v fun n _ => ?_]
  · exact (regAt_set_ne _ LNK_STAT_NBR_PORT _ p 0 v hstat).trans (regAt_set_ne s LNK_STAT_NBR_DEV _ p 0 v hstat)
  · have hle := base_le_off LNK_NBRKEY p n
    have hlt : LNK_STAT.base < LNK_NBRKEY.base := by decide
    omega

theorem recordIdent_flag_of_lt (s : State) (p : Nat) (d : List Byte) (g : Fld) (h : g.reg.off 0 0 < LNK_STAT.base) :
    (recordIdent s p d).flag g = s.flag g := by
  rw [State.flag, State.flag, State.get, State.get, State.rg, State.rg, recordIdent_regAt_of_lt s p d h]

theorem recordIdent_linkMem (s : State) (p : Nat) (d : List Byte) : linkMem s (recordIdent s p d) := by
  refine linkMem_of_memKept (memKept_of_store_eq ?_)
  rw [recordIdent, State.setPort_store, showNbr, foldl_setRg_store, State.set_store, State.set_store]

theorem recordIdent_nbrKey (s : State) (p : Nat) (d : List Byte) {n : Nat} (h : n < 4) :
    (recordIdent s p d).rg LNK_NBRKEY p n = BitVec.ofNat 64 (byteN (sha256 (identKey d)) (8 * n) 8) := by
  rw [← nbrWords_get d h, show (recordIdent s p d).rg LNK_NBRKEY p n = (showNbr s p d).rg LNK_NBRKEY p n from rfl,
    showNbr]
  refine rg_foldl_setRg LNK_NBRKEY (fun n => BitVec.ofNat 64 (listGet (nbrWords d) n 0)) p (upto 4) _
    (List.mem_range.mpr h) fun k _ he => ?_
  simp only [Reg.off, LNK_NBRKEY] at he
  omega

/-- LNK_STAT shows the neighbour's device and port, and the port's state stays. -/
theorem recordIdent_stat (s : State) (p : Nat) (d : List Byte) :
    (recordIdent s p d).get LNK_STAT_NBR_DEV p = byteN d 0 2 % 2 ^ 13
      ∧ (recordIdent s p d).get LNK_STAT_NBR_PORT p = byteN d 2 2 % 2 ^ 4
      ∧ portState (recordIdent s p d) p = portState s p := by
  let s₁ := s.set LNK_STAT_NBR_DEV (byteN d 0 2) p
  let s₂ := s₁.set LNK_STAT_NBR_PORT (byteN d 2 2) p
  have hrg : (recordIdent s p d).rg LNK_STAT p = s₂.rg LNK_STAT p :=
    recordIdent_regAt s p d _ fun n _ => by
      simp only [Reg.off, LNK_STAT, LNK_NBRKEY]
      omega
  have hdev : s₂.get LNK_STAT_NBR_DEV p = s₁.get LNK_STAT_NBR_DEV p :=
    get_set_field s₁ LNK_STAT_NBR_PORT LNK_STAT_NBR_DEV _ p 0 rfl (by decide) (by decide) (by decide)
  have hstate : s₂.get LNK_STAT_STATE p = s₁.get LNK_STAT_STATE p :=
    get_set_field s₁ LNK_STAT_NBR_PORT LNK_STAT_STATE _ p 0 rfl (by decide) (by decide) (by decide)
  refine ⟨?_, ?_, ?_⟩
  · rw [get_lnkStat hrg _ rfl, hdev]
    exact get_set_self s LNK_STAT_NBR_DEV _ p 0 (by decide)
  · rw [get_lnkStat hrg _ rfl]
    exact get_set_self s₁ LNK_STAT_NBR_PORT _ p 0 (by decide)
  · refine (get_lnkStat hrg LNK_STAT_STATE rfl).trans (hstate.trans ?_)
    exact get_set_field s LNK_STAT_NBR_DEV LNK_STAT_STATE _ p 0 rfl (by decide) (by decide) (by decide)

theorem recordIdent_port (s : State) (p : Nat) (d : List Byte) :
    ((recordIdent s p d).port p).peerIdent = d ∧ ((recordIdent s p d).port p).peerKeyx = (s.port p).peerKeyx := by
  have hlink : (showNbr s p d).link = s.link :=
    foldl_field State.link (fun s n => State.setRg_link s _ _ _ _) (upto 4) _
  rw [recordIdent, port_setPort_self, port_of_link_eq hlink]
  exact ⟨rfl, rfl⟩

/-- This end's KEYX goes out: the port keeps its ephemeral key and nonce, and what it has from the neighbour. -/
theorem sendKeyx_facts (s : State) (p : Nat) :
    Sends s (sendKeyx s p) ∧ ((sendKeyx s p).port p).eph.isSome = true
      ∧ ((sendKeyx s p).port p).peerIdent = (s.port p).peerIdent
      ∧ ((sendKeyx s p).port p).peerKeyx = (s.port p).peerKeyx := by
  have hform : ∃ k e payload, sendKeyx s p =
      sendCtl ({ s with free := k }.setPort p { s.port p with eph := some e }) p 2 payload := by
    unfold sendKeyx
    dsimp only [State.fresh]
    split
    · exact ⟨_, _, _, rfl⟩
    · exact ⟨_, _, _, rfl⟩
  obtain ⟨k, e, payload, hform⟩ := hform
  rw [hform]
  refine ⟨((Sends.free s k).trans (.setPort _ _ _)).trans (.sendCtl _ _ _ _), ?_⟩
  rw [sendCtl_port, if_pos rfl, port_setPort_self]
  exact ⟨rfl, rfl, rfl⟩

theorem exec_ident_of_keyx (h : takeCtl s f 1 = (some d, t)) (hstate : portState t f.port = 2) :
    exec (.ident f) s = .next (takeIdent t f.port d) := by
  show execIdent f s = _
  rw [execIdent, h]
  dsimp only
  rw [hstate]
  rfl

theorem plainReg_lnkNbrKey {p n : Nat} (hp : p < 12) (hn : n < 4) : plainReg (LNK_NBRKEY.off p n) := by
  simp only [plainReg, Reg.off, LNK_NBRKEY, OBS_BUSY, OBS_STAT]
  omega

/-- With a random source the neighbour's claim is shown and kept, and this end's KEYX goes out. -/
theorem ident_row (h : takeCtl s f 1 = (some d, t)) (hstate : portState t f.port = 2)
    (hkeyx : (t.port f.port).peerKeyx = []) (hrng : t.flag RNG_STAT_HALTED = false) :
    ∃ u, exec (.ident f) s = .next u ∧ u.get LNK_STAT_NBR_DEV f.port = byteN d 0 2 % 2 ^ 13
      ∧ u.get LNK_STAT_NBR_PORT f.port = byteN d 2 2 % 2 ^ 4
      ∧ (∀ n, n < 4 → u.rg LNK_NBRKEY f.port n = BitVec.ofNat 64 (byteN (sha256 (identKey d)) (8 * n) 8))
      ∧ (u.port f.port).peerIdent = d ∧ (u.port f.port).eph.isSome = true ∧ portState u f.port = 2 ∧ linkMem t u := by
  have hp := port_lt_of_takeCtl h
  obtain ⟨hdev, hport, hsame⟩ := recordIdent_stat t f.port d
  obtain ⟨hident, hnokeyx⟩ := recordIdent_port t f.port d
  obtain ⟨hsends, heph, hpi, hpk⟩ := sendKeyx_facts (recordIdent t f.port d) f.port
  have hflag : (recordIdent t f.port d).flag RNG_STAT_HALTED = false :=
    (recordIdent_flag_of_lt t f.port d RNG_STAT_HALTED (by decide)).trans hrng
  have hstat := hsends.regs.lnkStat hp
  refine ⟨sendKeyx (recordIdent t f.port d) f.port, ?_, (get_lnkStat hstat _ rfl).trans hdev,
    (get_lnkStat hstat _ rfl).trans hport, fun n hn => ?_, hpi.trans hident, heph,
    ((get_lnkStat hstat LNK_STAT_STATE rfl).trans hsame).trans hstate,
    linkMem_trans (recordIdent_linkMem t f.port d) (recordIdent_flag_of_lt t f.port d _ (by decide)) hsends.mem⟩
  · rw [exec_ident_of_keyx h hstate, takeIdent_eq, hflag, hpk, hnokeyx, hkeyx, if_neg Bool.false_ne_true,
      if_pos (show ([] : List Byte).isEmpty = true from rfl)]
  · rw [hsends.regs.rg _ _ _ (plainReg_lnkNbrKey hp hn)]
    exact recordIdent_nbrKey t f.port d hn

/-- Without a random source the port falls. -/
theorem ident_row_of_halted (h : takeCtl s f 1 = (some d, t)) (hstate : portState t f.port = 2)
    (hrng : t.flag RNG_STAT_HALTED = true) :
    ∃ u, exec (.ident f) s = .next u ∧ portState u f.port = 0 ∧ u.get LNK_STAT_AUTH_FAIL f.port = 1 := by
  obtain ⟨-, -, hsame⟩ := recordIdent_stat t f.port d
  have hflag : (recordIdent t f.port d).flag RNG_STAT_HALTED = true :=
    (recordIdent_flag_of_lt t f.port d RNG_STAT_HALTED (by decide)).trans hrng
  refine ⟨authFail (recordIdent t f.port d) f.port, ?_, authFail_stat _ (port_lt_of_takeCtl h)⟩
  rw [exec_ident_of_keyx h hstate, takeIdent_eq, hflag, hsame, hstate, if_pos rfl, if_pos (show (2 == 2) = true from rfl)]

/-! KEYX: the neighbour's half of the exchange. -/

theorem exec_keyx_of_taken (h : takeCtl s f 2 = (some d, t)) : exec (.keyx f) s = .next (takeKeyx t f.port d) := by
  show execKeyx f s = _
  rw [execKeyx, h]

/-- The digest under a KEYX payload that has come, at a port whose own ephemeral key is `e` and nonce `n`. -/
def keyxDigestAt (s : State) (p e n : Nat) (d : List Byte) : List Byte :=
  keyxDigest (identPayload s p) (s.port p).peerIdent (pubKey e) (d.take 64) (beBytes 32 n) ((d.drop 64).take 32)

theorem takeKeyx_of_no_eph {p : Nat} (h : (s.port p).eph = none) :
    takeKeyx s p d = s.setPort p { s.port p with peerKeyx := d } := by
  unfold takeKeyx
  dsimp only
  rw [h]

theorem takeKeyx_of_bad_signature {p e n : Nat} (h : (s.port p).eph = some (e, n))
    (hbad : ecdsaVerify (identKey (s.port p).peerIdent) (keyxDigestAt s p e n d) ((d.drop 96).take 64) = false) :
    takeKeyx s p d = authFail s p := by
  unfold keyxDigestAt at hbad
  unfold takeKeyx
  dsimp only
  rw [h]
  dsimp only
  rw [hbad]

/-- The port with the keys that a KEYX has given it. -/
def keyed (x : PortSt) (d : List Byte) (keys : Nat × Nat) : PortSt :=
  { x with txKey := keys.1, rxKey := keys.2, eph := none, peerKeyx := d, txLseq := 0, rxLseq := 0, kep := 0,
           rxKep := 0, nextTx := none, nextRx := none, oldRxKey := none }

/-- The keys that both ends of a port derive from their secret. -/
def portKeys (s : State) (p : Nat) (secret : List Byte) : Nat × Nat :=
  linkKeys (beNat (sha256 (identKey (identPayload s p))) < beNat (sha256 (identKey (s.port p).peerIdent))) secret

theorem takeKeyx_of_good_signature {p e n : Nat} {k : List Byte} (h : (s.port p).eph = some (e, n))
    (hgood : ecdsaVerify (identKey (s.port p).peerIdent) (keyxDigestAt s p e n d) ((d.drop 96).take 64) = true)
    (hsecret : ecdh e (d.take 64) = some k) (hstate : portState s p = 2) :
    takeKeyx s p d = admitPeer (s.setPort p (keyed (s.port p) d (portKeys s p k))) p := by
  unfold keyxDigestAt at hgood
  unfold takeKeyx
  dsimp only
  rw [h]
  dsimp only
  rw [hgood, hsecret]
  dsimp only
  rw [hstate, if_pos (show (2 == 2) = true from rfl)]
  rfl

/-- The expected neighbour is admitted: the port is UP. -/
theorem admitPeer_facts {p : Nat} (hp : p < 12) (hv : s.flag LNK_CFG_PEER_V p = true) (hpeer : peerMatches s p = true) :
    portState (admitPeer s p) p = 4 ∧ linkMem s (admitPeer s p) ∧ SameKeys p s (admitPeer s p) := by
  unfold admitPeer
  rw [hv, hpeer]
  simp only [Bool.not_true, Bool.false_eq_true, if_false, if_true]
  generalize b2n ((upto 4).all fun n => s.rg LNK_PEERKEY p n == 0) = open_
  let s₁ := s.set LNK_STAT_STATE 4 p
  let s₂ := s₁.set LNK_STAT_UNVERIFIED open_ p
  have hsends : Sends s₂ (traceLink s₂ p 3).flushLinks := (Sends.traceLink s₂ p 3).trans (.flushLinks _)
  have hup : portState s₂ p = 4 :=
    (get_set_field s₁ LNK_STAT_UNVERIFIED LNK_STAT_STATE _ p 0 rfl (by decide) (by decide) (by decide)).trans
      (get_set_self s LNK_STAT_STATE 4 p 0 (by decide))
  have hflag : s₂.flag OBS_CFG_LNK_EN = s.flag OBS_CFG_LNK_EN := by
    have hne : OBS_CFG_LNK_EN.reg.off 0 0 ≠ LNK_STAT.off p := (lnkStat_ne (by decide)).symm
    rw [State.flag, State.flag, get_set_off s₁ LNK_STAT_UNVERIFIED OBS_CFG_LNK_EN _ p 0 0 0 hne,
      get_set_off s LNK_STAT_STATE OBS_CFG_LNK_EN _ p 0 0 0 hne]
  have htrace : SameKeys p s₂ (traceLink s₂ p 3) := .of_port_eq (traceLink_port s₂ p 3 p)
  exact ⟨(get_lnkStat (hsends.regs.lnkStat hp) LNK_STAT_STATE rfl).trans hup,
    linkMem_trans (t := s₂) (linkMem_of_memKept fun _ => rfl) hflag hsends.mem, htrace.trans (.flushN p _ _)⟩

theorem keyx_row_of_good_signature {e n : Nat} {k : List Byte} (h : takeCtl s f 2 = (some d, t))
    (heph : (t.port f.port).eph = some (e, n))
    (hgood : ecdsaVerify (identKey (t.port f.port).peerIdent) (keyxDigestAt t f.port e n d) ((d.drop 96).take 64) = true)
    (hsecret : ecdh e (d.take 64) = some k) (hstate : portState t f.port = 2)
    (hv : t.flag LNK_CFG_PEER_V f.port = true) (hpeer : peerMatches t f.port = true) :
    ∃ u, exec (.keyx f) s = .next u ∧ portState u f.port = 4
      ∧ ((u.port f.port).txKey, (u.port f.port).rxKey) = portKeys t f.port k ∧ linkMem t u := by
  let r := t.setPort f.port (keyed (t.port f.port) d (portKeys t f.port k))
  have hr : r.port f.port = keyed (t.port f.port) d (portKeys t f.port k) := port_setPort_self _ _ _
  have hpeer' : peerMatches r f.port = true := by
    rw [← hpeer]
    unfold peerMatches
    rw [hr]
    rfl
  obtain ⟨hup, hmem, hkeys⟩ := admitPeer_facts (s := r) (port_lt_of_takeCtl h) hv hpeer'
  obtain ⟨-, htx, hrx⟩ := hkeys (by rw [hr]; rfl)
  refine ⟨admitPeer r f.port, ?_, hup, ?_, hmem⟩
  · rw [exec_keyx_of_taken h, takeKeyx_of_good_signature heph hgood hsecret hstate]
  · rw [htx, hrx, hr]
    rfl

end Sys2Proof.Machine
end

section
/-! SUPPORT. TIME messages at a port (R47), and the statement about VC3 frames. -/

namespace Sys2Proof.Machine

open Sys2Proof

variable {s t : State} {f : RxFrame} {d : List Byte}

/-- A reply's arrival is kept. -/
theorem timeFrame_row_of_reply (rxAgo txIn : Nat) (h : takeCtl s f 3 = (some d, t)) (hlen : d.length = 1) :
    ∃ u, exec (.timeFrame f rxAgo txIn) s = .next u
      ∧ look u.time.t4s f.port = some (pcsStamp t (-(rxAgo : Int))) ∧ { u with time := t.time } = t := by
  refine ⟨{ t with time := { t.time with t4s := ins t.time.t4s f.port (pcsStamp t (-(rxAgo : Int))) } }, ?_,
    look_ins_self _ _ _, rfl⟩
  show execTimeFrame f rxAgo txIn s = _
  rw [execTimeFrame, h]
  dsimp only
  rw [if_neg (by omega), if_pos hlen]

/-- A request is answered with the time at which the answer goes and the arrival of the last reply. -/
theorem exec_timeFrame_of_request (rxAgo txIn : Nat) (h : takeCtl s f 3 = (some d, t)) (hlen : d.length = 0) :
    exec (.timeFrame f rxAgo txIn) s = .next (sendCtl t f.port 3 (leBytes 8 (pcsStamp t txIn)
      ++ (match look t.time.t4s f.port with | some v => leBytes 8 v | none => []))) := by
  show execTimeFrame f rxAgo txIn s = _
  rw [execTimeFrame, h]
  exact congrArg Host.Outcome.next (if_pos hlen)

theorem loseLock_facts (s : State) :
    (loseLock s).get TIME_STAT_OFFSET = s.get TIME_STAT_OFFSET ∧ (loseLock s).time.waiting = s.time.waiting := by
  have hlocked (r : State) : (r.set TIME_STAT_LOCKED 0).get TIME_STAT_OFFSET = r.get TIME_STAT_OFFSET :=
    get_set_field r TIME_STAT_LOCKED TIME_STAT_OFFSET 0 0 0 rfl (by decide) (by decide) (by decide)
  unfold loseLock
  split
  · exact ⟨(hlocked _).trans
      (get_set_field s TIME_STAT_LOCK_LOST TIME_STAT_OFFSET 1 0 0 rfl (by decide) (by decide) (by decide)), rfl⟩
  · exact ⟨hlocked s, rfl⟩

/-- An offset that has been measured is shown. -/
theorem takeOffset_facts (s : State) (off : Int) :
    (takeOffset s off).get TIME_STAT_OFFSET = ofS 16 (clampI (-32767) 32767 off)
      ∧ (takeOffset s off).time.waiting = s.time.waiting := by
  unfold takeOffset
  extract_lets s₁ good time sGood s₂
  have h₁ : s₁.get TIME_STAT_OFFSET = ofS 16 (clampI (-32767) 32767 off) := by
    refine (get_set_self s TIME_STAT_OFFSET _ 0 0 (by decide)).trans (Nat.mod_eq_of_lt ?_)
    unfold ofS
    show _ < 65536
    omega
  obtain ⟨hkept, hwaiting⟩ : s₂.get TIME_STAT_OFFSET = s₁.get TIME_STAT_OFFSET ∧ s₂.time.waiting = s₁.time.waiting := by
    unfold s₂
    split
    · split
      · exact ⟨get_set_field sGood TIME_STAT_LOCKED TIME_STAT_OFFSET 1 0 0 rfl (by decide) (by decide) (by decide), rfl⟩
      · exact ⟨rfl, rfl⟩
    · exact loseLock_facts s₁
  split <;> exact ⟨hkept.trans h₁, hwaiting⟩

/-- An upstream message gives the offset of the exchange before it, and is replied to. -/
theorem timeFrame_row_of_message (rxAgo txIn : Nat) {a b c : Nat} (h : takeCtl s f 3 = (some d, t))
    (hlen : 16 ≤ d.length) (hwait : t.time.waiting = true) (hport : f.port = t.get TIME_CTRL_UP_PORT)
    (hfollows : t.flag TIME_CTRL_MASTER = false) (hexch : t.time.exch = some (a, b, c)) :
    ∃ u, exec (.timeFrame f rxAgo txIn) s = .next u
      ∧ u.time.exch = some (byteN d 0 8, pcsStamp t (-(rxAgo : Int)), pcsStamp t txIn) ∧ u.time.waiting = false
      ∧ u.get TIME_STAT_OFFSET = ofS 16 (clampI (-32767) 32767 (exchangeOffset a b c (byteN d 8 8))) := by
  let s₁ : State := { t with time := { t.time with waiting := false } }
  let s₂ := takeOffset s₁ (exchangeOffset a b c (byteN d 8 8))
  let s₃ := sendCtl s₂ f.port 3 [0]
  obtain ⟨hshown, hwaiting⟩ := takeOffset_facts s₁ (exchangeOffset a b c (byteN d 8 8))
  have hsends : Sends s₂ s₃ := .sendCtl _ _ _ _
  refine ⟨{ s₃ with time := { s₃.time with
      exch := some (byteN d 0 8, pcsStamp t (-(rxAgo : Int)), pcsStamp t txIn) } }, ?_, rfl, ?_, ?_⟩
  · show execTimeFrame f rxAgo txIn s = _
    rw [execTimeFrame, h]
    dsimp only
    rw [if_neg (by omega), if_neg (by omega), hwait, ← hport, hfollows, if_neg (by simp), hexch]
    dsimp only
    rw [if_pos hlen, ← hexch]
  · exact (congrArg TimeSt.waiting hsends.time).trans hwaiting
  · exact (hsends.regs.get TIME_STAT_OFFSET 0 0 plainReg_timeStat).trans hshown

/-- Settles O44: each row is what the port's checks leave, then its own update of the port and its registers; frames
that go out after it touch no register of the port and no key in force. -/
theorem controlFrames : Obligations.ControlFrames := by
  unfold Obligations.ControlFrames
  refine ⟨fun s t f => ⟨exec_ctrlFrame_of_refused, exec_ident_of_refused, exec_keyx_of_refused,
      fun h a b => exec_timeFrame_of_refused a b h⟩,
    fun s t f d h hwait hnak => ctrlFrame_row h hwait hnak,
    fun s t f d h hstate hkeyx => ⟨ident_row h hstate hkeyx, ident_row_of_halted h hstate⟩,
    fun s t f d h => ⟨fun heph => ?_, fun e n heph => ⟨fun hbad => ?_, fun k hgood hsecret hstate hv hpeer => ?_⟩⟩,
    fun s t f d x y h => ⟨timeFrame_row_of_reply x y h, fun hlen => ?_,
      fun a b c hlen hwait hport hfollows hexch => timeFrame_row_of_message x y h hlen hwait hport hfollows hexch⟩⟩
  · rw [exec_keyx_of_taken h, takeKeyx_of_no_eph heph]
  · exact ⟨_, (exec_keyx_of_taken h).trans (congrArg _ (takeKeyx_of_bad_signature heph hbad)),
      authFail_stat t (port_lt_of_takeCtl h)⟩
  · exact keyx_row_of_good_signature h heph hgood hsecret hstate hv hpeer
  · refine ⟨_, exec_timeFrame_of_request x y h hlen, rfl, ?_⟩
    rw [sendCtl_port, if_pos rfl]
    rfl

end Sys2Proof.Machine
end

section
/-! SUPPORT. O49 fails: the map of semaphore waiters may hold waiters under an offset that is no semaphore's. A hold that
lasts fences the pond, and its queues are rebound: their waiters leave, and the waiters behind them are served (R307,
R417), which takes the wait from the register at that offset. Where it is FLT_STAT, the wait takes FENCED away. -/

namespace Sys2Proof.Machine

open Sys2Proof

/-- Behind a waiter of queue 0 one of queue 1 waits for 2. -/
def strayWaiters : List Waiter := [⟨.header, 0, 0, 3⟩, ⟨.header, 1, 0, 2⟩]

/-- Pond 0 is held, queue 0 is bound to its core 0, and waiters stand under the offset of FLT_STAT. -/
def heldState : State :=
  { oneEntry.set POND_PACE_UV_HELD 1 0 with waiters := [(FLT_STAT.off, strayWaiters)] }

/-- The device is powered and runs, no unit recovers, and the hub of the held pond is in service. -/
theorem heldState_holds :
    heldState.flag POND_PACE_UV_HELD 0 = true ∧ heldState.pins.por = true ∧ heldState.fatal = false
      ∧ hubFenced heldState 0 = false ∧ heldState.fault.recovering = [] := by
  decide +kernel

theorem exec_uvHoldTimeout_of_held {s : State} {p : Nat} (hp : p < 96) (h : s.flag POND_PACE_UV_HELD p = true) :
    exec (.uvHoldTimeout p) s = .next ((fence s (hUnit p 0) 3).set POND_PACE_UV_HELD 0 p) := by
  show execUvHoldTimeout p s = _
  rw [execUvHoldTimeout, if_pos (by simp [hp, h])]

/-- The pond's fence sets FENCED and binds queue 0 anew, which takes its waiter out: FLT_STAT then reads as a semaphore
with the value 2, and the wait of the other takes the 2 away. -/
theorem heldState_not_fenced :
    ((fence heldState (hUnit 0 0) 3).set POND_PACE_UV_HELD 0 0).get FLT_STAT_FENCED = 0 := by decide +kernel

/-- Refutes O49: after UV_HOLD_TIMEOUT in `heldState`, FENCED reads 0. -/
theorem not_trimsHoldsObservation : ¬ Obligations.TrimsHoldsObservation := by
  unfold Obligations.TrimsHoldsObservation
  intro h
  obtain ⟨-, huv, -⟩ := h
  obtain ⟨-, -, -, htimeout, -⟩ := huv heldState 0 (by decide)
  obtain ⟨hheld, hpor, hfatal, hhub, hrecovering⟩ := heldState_holds
  obtain ⟨u, hexec, -, -, hfenced⟩ := htimeout hheld hpor hfatal hhub hrecovering
  obtain rfl := Host.Outcome.next.inj (hexec.symm.trans (exec_uvHoldTimeout_of_held (by decide) hheld))
  rw [heldState_not_fenced] at hfenced
  cases hfenced

end Sys2Proof.Machine
end

section
/-! SUPPORT. O32 fails: one SAMPLE may have several sampling requests outstanding (R78), and a timeout withdraws the one
that it names. The others of the same command stay, while the command is done. -/

namespace Sys2Proof.Machine

open Sys2Proof

theorem Sends.samps {s u : State} (h : Sends s u) : u.samps = s.samps := by
  obtain ⟨⟨m, b, r, t, g, n, l, k, rfl⟩, -⟩ := h
  rfl

theorem Sends.request (s : State) (who : Requester) (type dst addr len : Nat) (payload : List Byte) :
    Sends s (s.request who type dst addr len payload) :=
  (((Sends.link s _).trans (.link _ _)).trans (.link _ _)).trans (.flushLinks _)

/-! Asking withdraws no sampling request. -/

theorem samps_subset_sendAsk (s : State) (q seq : Nat) (a : Ask) : s.samps ⊆ (sendAsk s q seq a).samps := by
  cases a with
  | remote key dev addr n =>
    rw [sendAsk, (Sends.request _ _ _ _ _ _ _).samps]
    exact List.Subset.refl _
  | sample key dev req =>
    rw [sendAsk, (Sends.request _ _ _ _ _ _ _).samps]
    exact List.subset_append_left _ _
  | host key addr n => exact List.Subset.refl _

theorem samps_subset_sendAsks (n : Nat) (s : State) (q seq : Nat) : s.samps ⊆ (sendAsks n s q seq).samps := by
  induction n generalizing s with
  | zero => exact List.Subset.refl _
  | succ n ih =>
    rw [sendAsks]
    split
    · exact List.Subset.refl _
    · split
      · exact List.Subset.refl _
      · split
        · exact List.Subset.trans (samps_subset_sendAsk (s.updCmd q seq _) q seq _) (ih _)
        · exact List.Subset.refl _

theorem samps_subset_foldl {α : Type} {f : State → α → State} (hf : ∀ s a, s.samps ⊆ (f s a).samps) (l : List α)
    (s : State) : s.samps ⊆ (l.foldl f s).samps := by
  induction l generalizing s with
  | nil => exact List.Subset.refl _
  | cons a l ih => exact List.Subset.trans (hf s a) (ih _)

theorem samps_subset_moreAsks (s : State) : s.samps ⊆ (moreAsks s).samps :=
  samps_subset_foldl (fun s _ => samps_subset_foldl (fun s _ => samps_subset_sendAsks _ s _ _) _ s) _ s

theorem samps_subset_answerCmd (s : State) (q seq key status : Nat) (data : List Byte) :
    s.samps ⊆ (answerCmd s q seq key status data).samps :=
  samps_subset_moreAsks (s.updCmd q seq _)

/-- A timeout leaves every request but the one that it names. -/
theorem samps_of_exec_samplingTimeout {s u : State} {id : Nat} (hexec : exec (.samplingTimeout id) s = .next u)
    {x : SampReq} (hx : x ∈ s.samps) (hid : x.id ≠ id) : x ∈ u.samps := by
  replace hexec : execSamplingTimeout id s = .next u := hexec
  unfold execSamplingTimeout at hexec
  cases Host.Outcome.next.inj hexec
  split
  · exact hx
  · refine samps_subset_answerCmd _ _ _ _ _ _ ?_
    rw [State.sat_samps]
    exact List.mem_filter.mpr ⟨hx, by simpa using hid⟩

/-! A SAMPLE with two destinations owned by another device. -/

/-- One hop over two seeds, waiting for the answers to its two requests. -/
def askingSample : Cmd :=
  ⟨0, BitVec.ofNat 512 (0x60 + 1 * 2 ^ (8 * 17) + 2 * 2 ^ (8 * 32)), .running, false, false, [], 0, [], 2, none, [], [], [],
    [], 0, [], none, [], [], none⟩

/-- Request `id` of the command, for node `id`, at device 1. -/
def sampleRequest (id : Nat) : SampReq := ⟨id, 0, 0, sampKey 1 id, 1, 0, []⟩

/-- Queue 0 is bound to the sampler of pond 0, which has both requests outstanding. -/
def twoRequests : State :=
  { oneEntry.qset QTAB_CFG_CONSUMER (hUnit 0 0) 0 with
      queues := [(0, { QState.init with started := [askingSample] })]
      samps := [sampleRequest 0, sampleRequest 1], sampNext := 2 }

theorem twoRequests_find :
    twoRequests.samps.find? (fun r => r.id == 0) = some (sampleRequest 0) := rfl

theorem mem_twoRequests : sampleRequest 1 ∈ twoRequests.samps := .tail _ (.head _)

/-- Refutes O32: after the timeout of request 0 in `twoRequests`, request 1 of the same SAMPLE is still there. -/
theorem not_graphCommands : ¬ Obligations.GraphCommands := by
  unfold Obligations.GraphCommands
  intro h
  obtain ⟨htimeout, -⟩ := h
  obtain ⟨u, hexec, -, hgone, -⟩ := htimeout twoRequests 0 (sampleRequest 0) twoRequests_find
  have hstays : sampleRequest 1 ∈ u.samps := samps_of_exec_samplingTimeout hexec mem_twoRequests (by decide)
  exact hgone _ hstays ⟨rfl, rfl⟩

end Sys2Proof.Machine
end

section
/-! SUPPORT. What a trough may change when it is stored: its own bytes and registers, and no other trough. -/

namespace Sys2Proof.Machine

open Sys2Proof

/-! Sparse maps. -/

theorem mem_of_look {α : Type} {m : SMap α} {k : Nat} {v : α} (h : look m k = some v) : (k, v) ∈ m := by
  induction m with
  | nil => cases h
  | cons x m ih =>
    obtain ⟨j, w⟩ := x
    rw [look] at h
    split at h
    · next hj =>
      rw [hj, Option.some.inj h]
      exact .head _
    · exact .tail _ (ih h)

theorem look_map {α β : Type} (g : α → β) (m : SMap α) (k : Nat) :
    look (m.map fun x => (x.1, g x.2)) k = (look m k).map g := by
  induction m with
  | nil => rfl
  | cons x m ih =>
    obtain ⟨j, w⟩ := x
    simp only [List.map_cons, look, ih]
    split <;> rfl

/-- An update of what is there. -/
theorem look_upd_self {α : Type} {m : SMap α} {k : Nat} {v : α} (h : look m k = some v) (d : α) (f : α → α) :
    look (upd m k d f) k = some (f v) := by
  rw [upd, look_ins_self, lookD, h, Option.getD_some]

theorem look_upd_ne {α : Type} (m : SMap α) {j k : Nat} (h : j ≠ k) (d : α) (f : α → α) :
    look (upd m k d f) j = look m j := look_ins_ne m _ h

/-! Where a trough's entries lie. -/

theorem TEntry.bytes_length (t : TEntry) : t.bytes.length = 416 := by
  have hw : ((upto 32).flatMap fun i => leBytes 12 (listGet t.w i 0)).length = 384 := by
    simp [List.length_flatMap, leBytes_length, upto]
  simp only [TEntry.bytes, List.length_append, leBytes_length, hw]

/-- Byte `b` lies in no slot and no record of trough `x` at pond `p`. -/
def clearOf (s : State) (p : Nat) (x : TroughSt) (b : Nat) : Prop :=
  (∀ ie ∈ x.slots, b < slotPa s p ie.1 ∨ slotPa s p ie.1 + 512 ≤ b)
    ∧ (∀ ie ∈ x.recs, b < recPa s p ie.1 ∨ recPa s p ie.1 + 512 ≤ b)

/-- Byte `b` lies in no entry of the trough at pond `p`, and in none of `x`. -/
abbrev clearOfBoth (s : State) (p : Nat) (x : TroughSt) (b : Nat) : Prop :=
  clearOf s p (s.trough p) b ∧ clearOf s p x b

/-- Neither slots nor records of pond `p` move while SLAB_STAT and TRG_SPILL stay. -/
theorem slotPa_of_regs {s u : State} {p : Nat} (h : u.rg SLAB_STAT p = s.rg SLAB_STAT p) : slotPa u p = slotPa s p := by
  have hfld (f : Fld) (hf : f.reg = SLAB_STAT) : u.get f p = s.get f p := by rw [State.get, State.get, hf, h]
  funext i
  rw [slotPa, slotPa, trgBase, trgBase, scratchNow, scratchNow, cacheNow, cacheNow, trgNow, trgNow,
    hfld SLAB_STAT_CACHE_NOW rfl, hfld SLAB_STAT_TRG_NOW rfl]

theorem recPa_of_regs {s u : State} {p : Nat} (h : u.rg TRG_SPILL p = s.rg TRG_SPILL p) : recPa u p = recPa s p := by
  funext i
  rw [recPa, recPa, State.get, State.get, show TRG_SPILL_BASE.reg = TRG_SPILL from rfl, h]

/-- From `s` to `u` queues and messages stay, every trough but `p`, every register but those at the offsets in `l`, and
every byte at which `K` holds. -/
structure TroughFrame (p : Nat) (l : List Nat) (K : Nat → Prop) (s u : State) : Prop where
  queues : u.queues = s.queues
  tmsgs : u.tmsgs = s.tmsgs
  troughs : ∀ k, k ≠ p → u.trough k = s.trough k
  regs : regsBut l s u
  mem : ∀ b, K b → u.rd8 b = s.rd8 b

section
variable {p : Nat} {l l' : List Nat} {K : Nat → Prop} {s t u : State}

theorem TroughFrame.refl (p : Nat) (l : List Nat) (K : Nat → Prop) (s : State) : TroughFrame p l K s s :=
  ⟨rfl, rfl, fun _ _ => rfl, fun _ _ _ => rfl, fun _ _ => rfl⟩

theorem TroughFrame.trans (h₁ : TroughFrame p l K s t) (h₂ : TroughFrame p l K t u) : TroughFrame p l K s u :=
  ⟨h₂.queues.trans h₁.queues, h₂.tmsgs.trans h₁.tmsgs, fun k hk => (h₂.troughs k hk).trans (h₁.troughs k hk),
    fun o ho v => (h₂.regs o ho v).trans (h₁.regs o ho v), fun b hb => (h₂.mem b hb).trans (h₁.mem b hb)⟩

/-- More registers may differ. -/
theorem TroughFrame.mono (h : TroughFrame p l K s u) (hl : l ⊆ l') : TroughFrame p l' K s u :=
  ⟨h.queues, h.tmsgs, h.troughs, fun o ho v => h.regs o (fun hm => ho (hl hm)) v, h.mem⟩

theorem TroughFrame.set (p : Nat) (K : Nat → Prop) (s : State) (f : Fld) (n i : Nat) (h : f.reg.off i 0 ∈ l) :
    TroughFrame p l K s (s.set f n i) :=
  ⟨rfl, rfl, fun _ _ => rfl, fun _ ho v => regAt_set_ne s f n i 0 v fun he => ho (he ▸ h), fun _ _ => rfl⟩

theorem TroughFrame.of_wrote {a n : Nat} (h : Wrote a n s u) (hK : ∀ b, K b → b < a ∨ a + n ≤ b) :
    TroughFrame p l K s u := by
  obtain ⟨⟨m, po, d, q, b, r, rfl⟩, hrd, -⟩ := h
  exact ⟨rfl, rfl, fun _ _ => rfl, fun _ _ _ => rfl, fun b hb => hrd b (hK b hb)⟩

theorem TroughFrame.foldl {α : Type} {f : State → α → State} {xs : List α}
    (hf : ∀ x ∈ xs, ∀ s, TroughFrame p l K s (f s x)) (s : State) : TroughFrame p l K s (xs.foldl f s) := by
  induction xs generalizing s with
  | nil => exact .refl p l K s
  | cons x xs ih => exact (hf x (.head _) s).trans (ih (fun y hy => hf y (.tail _ hy)) _)

/-- A write of at most 512 bytes at an entry's place. -/
theorem TroughFrame.wrEntry {a : Nat} {d : List Byte} (hd : d.length ≤ 512) (hK : ∀ b, K b → b < a ∨ a + 512 ≤ b)
    (c : Prop) [Decidable c] (s : State) : TroughFrame p l K s (if c then s else (s.wrLocal a d).1) := by
  split
  · exact .refl p l K s
  · exact .of_wrote (wrLocal_wrote s a d) fun b hb => by have := hK b hb; omega

theorem TroughFrame.rg (h : TroughFrame p l K s u) (r : Reg) (i : Nat) (hr : r.off i 0 ∉ l) : u.rg r i = s.rg r i :=
  h.regs _ hr _

end

theorem trough_setTrough (s : State) (p : Nat) (x : TroughSt) : (s.setTrough p x).trough p = x :=
  lookD_ins_self _ p x _

/-- A trough is stored: its count of stages and slots in TRG_STAT, and bytes of its entries before and after. -/
theorem TroughFrame.setTrough {p : Nat} {l : List Nat} {K : Nat → Prop} (s : State) (x : TroughSt)
    (hl : TRG_STAT.off p ∈ l) (hspill : TRG_SPILL.off p ∉ l) (hK : ∀ b, K b → clearOfBoth s p x b) :
    TroughFrame p l K s (s.setTrough p x) := by
  have hput (pa : Nat → Nat) (a b : SMap TEntry) (ha : ∀ y, K y → ∀ ie ∈ a, y < pa ie.1 ∨ pa ie.1 + 512 ≤ y)
      (hb : ∀ y, K y → ∀ ie ∈ b, y < pa ie.1 ∨ pa ie.1 + 512 ≤ y) (t : State) :
      TroughFrame p l K t
        (a.foldl (fun s ke => if (look b ke.1).isSome then s else (s.wrLocal (pa ke.1) (leBytes 16 0)).1)
          (b.foldl (fun s ke => if look a ke.1 == some ke.2 then s else (s.wrLocal (pa ke.1) ke.2.bytes).1) t)) :=
    (TroughFrame.foldl (fun ke hke =>
        .wrEntry (by rw [ke.2.bytes_length]; omega) (fun y hy => hb y hy ke hke) _) t).trans
      (.foldl (fun ke hke => .wrEntry (by rw [leBytes_length]; omega) (fun y hy => ha y hy ke hke) _) _)
  unfold State.setTrough
  extract_lets old put s₁ s₂ tags s₃
  have h₁ : TroughFrame p l K s s₁ :=
    hput _ _ _ (fun y hy => (hK y hy).1.1) (fun y hy => (hK y hy).2.1) s
  have h₂ : TroughFrame p l K s₁ s₂ := by
    refine hput (recPa s₁ p) _ _ ?_ ?_ s₁ <;> rw [recPa_of_regs (h₁.rg _ _ hspill)]
    · exact fun y hy => (hK y hy).1.2
    · exact fun y hy => (hK y hy).2.2
  have h₃ : TroughFrame p l K s₂ s₃ := (TroughFrame.set p K s₂ _ _ p hl).trans (.set p K _ _ _ p hl)
  have h := (h₁.trans h₂).trans h₃
  exact ⟨h.queues, h.tmsgs, fun k hk => (lookD_ins_ne _ x _ hk).trans (h.troughs k hk), h.regs, h.mem⟩

end Sys2Proof.Machine
end

section
/-! SUPPORT. What a contribution, an EMAX and an ESEND do at the home trough of their key (R197 to R201). -/

namespace Sys2Proof.Machine

open Sys2Proof

/-! Placement. -/

theorem place8_of_found {s : State} {p : Nat} {x : TroughSt} {k : Nat} {tag : Option Nat} {i : Nat} {t : TEntry}
    (h : findEnt x.slots k tag = some (i, t)) (hue : ueRange s (slotPa s p i) 512 = false) :
    place8 s p x k tag = .ok ⟨x, i, false⟩ := by
  simp only [place8, h, hue]
  rfl

/-- The first of a key's 8 positions that is free. -/
def firstFree (s : State) (p : Nat) (x : TroughSt) (k : Nat) : Option Nat :=
  ((upto 8).map fun j => (Config.slotStart k + j) % (trgNow s p * 2048)).find? fun i => (look x.slots i).isNone

theorem firstFree_exists {s : State} {p : Nat} {x : TroughSt} {k : Nat}
    (h : ∃ j, j < 8 ∧ look x.slots ((Config.slotStart k + j) % (trgNow s p * 2048)) = none) :
    ∃ i, firstFree s p x k = some i := by
  obtain ⟨j, hj, hfree⟩ := h
  refine Option.isSome_iff_exists.mp (List.find?_isSome.mpr ⟨_, List.mem_map.mpr ⟨j, List.mem_range.mpr hj, rfl⟩, ?_⟩)
  rw [hfree]
  rfl

theorem firstFree_spec {s : State} {p : Nat} {x : TroughSt} {k i : Nat} (h : firstFree s p x k = some i) :
    (∃ j, j < 8 ∧ i = (Config.slotStart k + j) % (trgNow s p * 2048)) ∧ look x.slots i = none := by
  obtain ⟨j, hj, hpos⟩ := List.mem_map.mp (List.mem_of_find?_eq_some h)
  exact ⟨⟨j, List.mem_range.mp hj, hpos.symm⟩, by simpa using List.find?_some h⟩

theorem place8_of_free {s : State} {p : Nat} {x : TroughSt} {k : Nat} {tag : Option Nat} {i : Nat}
    (h : findEnt x.slots k tag = none) (hcap : trgNow s p ≠ 0) (hi : firstFree s p x k = some i) :
    place8 s p x k tag
      = .ok ⟨{ x with slots := ins x.slots i ⟨k, tag, zeroW, committedE x k, false, 0⟩ }, i, false⟩ := by
  have hne : trgNow s p * 2048 ≠ 0 := by omega
  unfold firstFree at hi
  simp only [place8, h, hne, hi]
  rfl

/-- The trough in which a placed entry has been changed. -/
def Placed.stored (r : Placed) (f : TEntry → TEntry) : TroughSt :=
  { r.x with slots := upd r.x.slots r.pos ⟨0, none, zeroW, winZero, false, 0⟩ f
             placed := r.x.placed + 1, crowded := r.x.crowded + b2n r.crowded }

theorem look_stored_self {x : TroughSt} {i : Nat} {t : TEntry} (h : look x.slots i = some t) (c : Bool)
    (f : TEntry → TEntry) : look (Placed.stored ⟨x, i, c⟩ f).slots i = some (f t) := look_upd_self h _ f

theorem look_stored_ne (x : TroughSt) {i j : Nat} (h : j ≠ i) (c : Bool) (f : TEntry → TEntry) :
    look (Placed.stored ⟨x, i, c⟩ f).slots j = look x.slots j := look_upd_ne x.slots h _ f

/-- Without an eviction the trough is stored and SEGS counts the placement. -/
theorem storePlaced_of_room (s : State) (p : Nat) (x : TroughSt) (i : Nat) (f : TEntry → TEntry) :
    storePlaced s p ⟨x, i, false⟩ f
      = (s.setTrough p (Placed.stored ⟨x, i, false⟩ f)).bump TRG_CNT_SEGS 1 p := rfl

theorem trough_storePlaced_of_room (s : State) (p : Nat) (x : TroughSt) (i : Nat) (f : TEntry → TEntry) :
    (storePlaced s p ⟨x, i, false⟩ f).trough p = Placed.stored ⟨x, i, false⟩ f := trough_setTrough s p _

/-- The registers of trough `p` that its contributions touch. -/
abbrev troughRegs (p : Nat) : List Nat := [TRG_CNT.off p, TRG_STAT.off p]

/-- Registers of two kinds with one step between ponds lie apart at each pond where they lie apart at pond 0. -/
theorem off_ne_of_base (r r' : Reg) (hs : r.s1 = r'.s1) (hb : r.base ≠ r'.base) (p : Nat) : r.off p ≠ r'.off p := by
  rw [Reg.off, Reg.off, hs]
  omega

/-- The registers that place a trough's entries are none of these. -/
theorem slabStat_notMem_troughRegs (p : Nat) : SLAB_STAT.off p ∉ troughRegs p :=
  List.not_mem_cons_of_ne_of_not_mem (off_ne_of_base SLAB_STAT TRG_CNT rfl (by decide) p)
    (List.not_mem_cons_of_ne_of_not_mem (off_ne_of_base SLAB_STAT TRG_STAT rfl (by decide) p) List.not_mem_nil)

theorem trgSpill_notMem_troughRegs (p : Nat) : TRG_SPILL.off p ∉ troughRegs p :=
  List.not_mem_cons_of_ne_of_not_mem (off_ne_of_base TRG_SPILL TRG_CNT rfl (by decide) p)
    (List.not_mem_cons_of_ne_of_not_mem (off_ne_of_base TRG_SPILL TRG_STAT rfl (by decide) p) List.not_mem_nil)

theorem TroughFrame.storePlaced {p : Nat} {K : Nat → Prop} (s : State) (x : TroughSt) (i : Nat) (f : TEntry → TEntry)
    (hK : ∀ b, K b → clearOfBoth s p (Placed.stored ⟨x, i, false⟩ f) b) :
    TroughFrame p (troughRegs p) K s (storePlaced s p ⟨x, i, false⟩ f) := by
  rw [storePlaced_of_room]
  exact (TroughFrame.setTrough s _ (.tail _ (.head _)) (trgSpill_notMem_troughRegs p) hK).trans
    (.set p K _ TRG_CNT_SEGS _ p (.head _))

/-- What lies outside a trough's entries stays there while the registers that place them stay. -/
theorem TroughFrame.clearOf_after {p : Nat} {K : Nat → Prop} {s t : State} (h : TroughFrame p (troughRegs p) K s t)
    {x : TroughSt} {b : Nat} (hb : clearOf s p x b) : clearOf t p x b := by
  rw [clearOf, slotPa_of_regs (h.rg _ p (slabStat_notMem_troughRegs p)),
    recPa_of_regs (h.rg _ p (trgSpill_notMem_troughRegs p))]
  exact hb

/-! EMAX and ESEND. -/

theorem look_setE (x : TroughSt) (k e j : Nat) :
    look (setE x k e).slots j = (look x.slots j).map fun t => if t.key == k then { t with e := e } else t := by
  rw [← look_map]
  refine congrArg (look · j) (List.map_congr_left fun ie _ => ?_)
  split <;> rfl

/-- Where a key's entries have the exponent already, nothing changes. -/
theorem map_setE_of_same {l : SMap TEntry} {k e : Nat} (h : ∀ ie ∈ l, ie.2.key = k → ie.2.e = e) :
    l.map (fun ie => if ie.2.key == k then (ie.1, { ie.2 with e := e }) else ie) = l := by
  conv_rhs => rw [← List.map_id l]
  refine List.map_congr_left fun ie hie => ?_
  split
  · next hk => rw [← h ie hie (beq_iff_eq.mp hk)]; rfl
  · rfl

theorem setE_recs_of_same {x : TroughSt} {k e : Nat} (h : ∀ ie ∈ x.recs, ie.2.key = k → ie.2.e = e) :
    (setE x k e).recs = x.recs := map_setE_of_same h

theorem setE_of_same {x : TroughSt} {k e : Nat} (h : ∀ ie ∈ x.slots ++ x.recs, ie.2.key = k → ie.2.e = e) :
    setE x k e = x := by
  rw [setE, map_setE_of_same fun ie hie => h ie (List.mem_append_left _ hie),
    map_setE_of_same fun ie hie => h ie (List.mem_append_right _ hie)]

theorem findEnt_none_of_key {m : SMap TEntry} {k : Nat} (h : ∀ ie ∈ m, ie.2.key ≠ k) (tag : Option Nat) :
    findEnt m k tag = none :=
  List.find?_eq_none.mpr fun ie hie => by simp [h ie hie]

/-- A key that a trough holds nothing of has no exponent, and no value. -/
theorem committedE_of_no_key {x : TroughSt} {k : Nat} (h : ∀ ie ∈ x.slots ++ x.recs, ie.2.key ≠ k) :
    committedE x k = winZero := by
  rw [committedE, findEnt_none_of_key fun ie hie => h ie (List.mem_append_left _ hie),
    findEnt_none_of_key fun ie hie => h ie (List.mem_append_right _ hie)]

theorem keyNonzero_of_no_key {x : TroughSt} {k : Nat} (h : ∀ ie ∈ x.slots ++ x.recs, ie.2.key ≠ k) :
    keyNonzero x k = false := by
  rw [keyNonzero, List.any_eq_false]
  exact fun ie hie => by simp [h ie hie]

/-- An entry of a key is committed in a slot: its exponent is the key's. -/
theorem committedE_of_slot {x : TroughSt} {k i : Nat} {t : TEntry} (h : findEnt x.slots k none = some (i, t)) :
    committedE x k = t.e := by
  rw [committedE, h]

/-- One that would raise the exponent of a key with a value is refused (R201). -/
theorem applyEmax_of_raises {s : State} {p k e : Nat} (nf : Bool)
    (hraise : expMax (committedE (s.trough p) k) e ≠ committedE (s.trough p) k)
    (hnz : keyNonzero (s.trough p) k = true) :
    applyEmax s p k e nf = (s, ⟨0x10, false, 0⟩) := by
  simp [applyEmax, hraise, hnz]

/-- An entry with NF OR-ed in. -/
def TEntry.flagged (t : TEntry) (nf : Bool) : TEntry := { t with nf := t.nf || nf }

/-- One that need not be refused is applied where its key is placed. -/
theorem applyEmax_facts {s : State} {p k e : Nat} (nf : Bool) {y : TroughSt} {i : Nat}
    (hok : expMax (committedE (s.trough p) k) e = committedE (s.trough p) k ∨ keyNonzero (s.trough p) k = false)
    (hplace : place8 s p (s.trough p) k none = .ok ⟨y, i, false⟩) :
    let z := Placed.stored ⟨setE y k (expMax (committedE (s.trough p) k) e), i, false⟩ (·.flagged nf)
    ∃ u, applyEmax s p k e nf = (u, ⟨0, false, 0⟩) ∧ u.trough p = z
      ∧ TroughFrame p (troughRegs p) (clearOfBoth s p z) s u := by
  intro z
  have hno : (expMax (committedE (s.trough p) k) e != committedE (s.trough p) k
      && keyNonzero (s.trough p) k) = false := by
    rcases hok with h | h <;> simp [h]
  refine ⟨storePlaced s p ⟨setE y k (expMax (committedE (s.trough p) k) e), i, false⟩ (·.flagged nf), ?_,
    trough_storePlaced_of_room s p _ i _, .storePlaced s _ i _ fun _ hb => hb⟩
  simp only [applyEmax, hno, hplace]
  rfl

/-- For a key that the trough holds nothing of, a committed slot appears at the first free position. -/
theorem applyEmax_facts_of_new {s : State} {p k : Nat} (e : Nat) (nf : Bool) (hcap : trgNow s p ≠ 0)
    (hkey : ∀ ie ∈ (s.trough p).slots ++ (s.trough p).recs, ie.2.key ≠ k)
    (hroom : ∃ j, j < 8 ∧ look (s.trough p).slots ((Config.slotStart k + j) % (trgNow s p * 2048)) = none) :
    ∃ u i z, applyEmax s p k e nf = (u, ⟨0, false, 0⟩)
      ∧ (∃ j, j < 8 ∧ i = (Config.slotStart k + j) % (trgNow s p * 2048)) ∧ look (s.trough p).slots i = none
      ∧ u.trough p = z ∧ look z.slots i = some ⟨k, none, zeroW, expMax winZero e, nf, 0⟩
      ∧ (∀ j, j ≠ i → look z.slots j = look (s.trough p).slots j) ∧ z.recs = (s.trough p).recs
      ∧ TroughFrame p (troughRegs p) (clearOfBoth s p z) s u := by
  obtain ⟨i, hi⟩ := firstFree_exists hroom
  obtain ⟨hpos, hfree⟩ := firstFree_spec hi
  have hnone := findEnt_none_of_key (fun ie hie => hkey ie (List.mem_append_left _ hie)) none
  have hslot (j : Nat) (e' : Nat) (v : TEntry) (h : look (s.trough p).slots j = some v) :
      (if v.key == k then { v with e := e' } else v) = v :=
    if_neg fun hk => hkey _ (List.mem_append_left _ (mem_of_look h)) (beq_iff_eq.mp hk)
  obtain ⟨u, happly, hu, hframe⟩ := applyEmax_facts (e := e) nf (.inr (keyNonzero_of_no_key hkey))
    (place8_of_free hnone hcap hi)
  rw [committedE_of_no_key hkey] at hu hframe
  refine ⟨u, i, _, happly, hpos, hfree, hu, ?_, ?_, ?_, hframe⟩
  · refine (look_stored_self (t := ⟨k, none, zeroW, expMax winZero e, false, 0⟩) ?_ _ _).trans ?_
    · rw [look_setE, look_ins_self, Option.map_some, if_pos (beq_self_eq_true k)]
    · rw [TEntry.flagged, Bool.false_or]
  · intro j hj
    rw [look_stored_ne _ hj, look_setE, look_ins_ne _ _ hj]
    cases h : look (s.trough p).slots j with
    | none => rfl
    | some v => rw [Option.map_some, hslot j _ v h]
  · exact setE_recs_of_same fun ie hie hk => absurd hk (hkey ie (List.mem_append_right _ hie))

/-! ADD. -/

/-- How the 32 elements of a contribution enter the windows under exponent `e` (R119). -/
def windowIns (e : Nat) (els : List Nat) : List WinIn := (upto 32).map fun i => winContrib e (f32 (listGet els i 0))

/-- An element that exceeds the window or is not finite. -/
def WinIn.outside (c : WinIn) : Bool := c == .exceeds || c == .nonfinite

/-- A window with what enters it. -/
def WinIn.enter (wc : Nat × WinIn) : Nat := match wc.2 with | .add c => winAdd wc.1 c | _ => wc.1

/-- An entry to which a contribution has been added under exponent `e`. -/
def TEntry.added (t : TEntry) (e : Nat) (els : List Nat) : TEntry :=
  { t with
    w := (t.w.zip (windowIns e els)).map WinIn.enter
    nf := t.nf || countOf WinIn.outside (windowIns e els) != 0
    count := min (2 ^ 32 - 1) (t.count + 1) }

theorem countOf_bne_zero {α : Type} (c : α → Bool) (l : List α) : (countOf c l != 0) = l.any c := by
  rw [Bool.eq_iff_iff, bne_iff_ne, List.any_eq_true, countOf, Ne, List.length_eq_zero_iff, List.filter_eq_nil_iff]
  simp

theorem added_nf (t : TEntry) (e : Nat) (els : List Nat) :
    (t.added e els).nf = (t.nf || (upto 32).any fun k => (winContrib e (f32 (listGet els k 0))).outside) := by
  rw [TEntry.added, countOf_bne_zero, windowIns, List.any_map]
  rfl

theorem added_w {t : TEntry} (h : t.w.length = 32) (e : Nat) (els : List Nat) {k : Nat} (hk : k < 32) :
    listGet (t.added e els).w k 0 = WinIn.enter (listGet t.w k 0, winContrib e (f32 (listGet els k 0))) := by
  have hw : k < t.w.length := by omega
  simp [TEntry.added, windowIns, listGet, upto, hk, hw]

/-- A contribution to a staged slot: it is added there, and noted for its stage. -/
theorem applyAdd_of_found {s : State} {p k tag i : Nat} {t : TEntry} (els : List Nat)
    (h : findEnt (s.trough p).slots k (some tag) = some (i, t)) (hlook : look (s.trough p).slots i = some t)
    (hue : ueRange s (slotPa s p i) 512 = false) :
    ∃ n a, applyAdd s p k tag els
      = (winExceeded (noteApplied (storePlaced s p ⟨s.trough p, i, false⟩ fun v => v.added t.e els) p tag) n, a) := by
  simp only [applyAdd, place8_of_found h hue, lookD, hlook, Option.getD_some]
  exact ⟨_, _, rfl⟩

end Sys2Proof.Machine
end

section
/-! SUPPORT. Messages at home troughs: what is left of a message that its home has taken, and what the home answers
(R197, R201, R212). -/

namespace Sys2Proof.Machine

open Sys2Proof

/-! The progress of a source command. -/

/-- Registers, troughs and memory are the same. -/
structure SourceFrame (s u : State) : Prop where
  regs : u.regs = s.regs
  troughs : u.troughs = s.troughs
  mem : u.mem = s.mem
  stale : u.stale = s.stale

theorem SourceFrame.refl (s : State) : SourceFrame s s := ⟨rfl, rfl, rfl, rfl⟩

theorem SourceFrame.trans {s t u : State} (h₁ : SourceFrame s t) (h₂ : SourceFrame t u) : SourceFrame s u :=
  ⟨h₂.regs.trans h₁.regs, h₂.troughs.trans h₁.troughs, h₂.mem.trans h₁.mem, h₂.stale.trans h₁.stale⟩

theorem SourceFrame.updCmd (s : State) (q seq : Nat) (f : Cmd → Cmd) : SourceFrame s (s.updCmd q seq f) :=
  ⟨rfl, rfl, rfl, rfl⟩

theorem SourceFrame.sendStage (s : State) (q : Nat) (c : Cmd) (kind : TroughKind) :
    SourceFrame s (sendStage s q c kind) := ⟨rfl, rfl, rfl, rfl⟩

theorem SourceFrame.abortStage (s : State) (q : Nat) (c : Cmd) : SourceFrame s (abortStage s q c).1 := by
  unfold Machine.abortStage
  extract_lets mine owners gone l
  split <;> exact ⟨rfl, rfl, rfl, rfl⟩

theorem SourceFrame.stageNext (s : State) (q : Nat) (c : Cmd) : SourceFrame s (stageNext s q c) := by
  unfold Machine.stageNext
  extract_lets put acc fin give
  have hput (t : State) (d : Cmd) : SourceFrame t (put t d) := .updCmd t q _ _
  have hgive : SourceFrame s (give s) := by
    simp only [give]
    split <;> exact (SourceFrame.abortStage s q c).trans (hput _ _)
  split
  · split
    · exact hput _ _
    · split
      · exact hgive
      · split
        · exact hput _ _
        · exact (SourceFrame.sendStage s q c .prepare).trans (hput _ _)
  · split
    · exact hgive
    · exact hput _ _
  · exact hput _ _
  · exact hput _ _
  · exact .refl s

theorem SourceFrame.stageAnswer (s : State) (q seq st : Nat) (f : Cmd → Cmd) :
    SourceFrame s (stageAnswer s q seq st f) := by
  unfold Machine.stageAnswer
  split
  · exact .refl s
  · next c _ =>
    by_cases hidle : (c.phase != .running || c.waits = 0) = true
    · rw [if_pos hidle]
      exact .refl s
    · rw [if_neg hidle]
      extract_lets d t
      have ht : SourceFrame s t := .updCmd s q seq _
      split
      · exact ht.trans (.stageNext t q d)
      · exact ht

/-- An answer that is not the last sends nothing. -/
theorem stageAnswer_tmsgs {s : State} {q seq : Nat} {c : Cmd} (hc : s.findCmd q seq = some c) (hw : c.waits ≠ 1)
    (st : Nat) {f : Cmd → Cmd} (hf : ∀ d, (f d).waits = d.waits) : (stageAnswer s q seq st f).tmsgs = s.tmsgs := by
  unfold stageAnswer
  rw [hc]
  dsimp -zeta only
  by_cases hidle : (c.phase != .running || c.waits = 0) = true
  · rw [if_pos hidle]
  · rw [if_neg hidle]
    extract_lets d t
    have hmore : d.waits ≠ 0 := by
      simp only [Bool.or_eq_true, decide_eq_true_eq, not_or] at hidle
      have hd : d.waits = c.waits - 1 := hf _
      omega
    rw [if_neg hmore]
    rfl

/-- A message of this device has been taken by its home, and its command has been answered. -/
theorem TroughFrame.answered {p : Nat} {l : List Nat} {K : Nat → Prop} {s t : State} {m : TroughMsg}
    (h : TroughFrame p l K (dropMsg s m) t) (st : Nat) {f : Cmd → Cmd} (hf : ∀ d, (f d).waits = d.waits) :
    (∀ c, s.findCmd m.queue m.seq = some c → c.waits ≠ 1 →
        (stageAnswer t m.queue m.seq st f).tmsgs = s.tmsgs.erase m)
      ∧ (∀ k, (stageAnswer t m.queue m.seq st f).trough k = t.trough k)
      ∧ (∀ k, k ≠ p → (stageAnswer t m.queue m.seq st f).trough k = s.trough k)
      ∧ (∀ b, K b → (stageAnswer t m.queue m.seq st f).rd8 b = s.rd8 b)
      ∧ regsBut l s (stageAnswer t m.queue m.seq st f) := by
  have hmsgs (c : Cmd) (hc : s.findCmd m.queue m.seq = some c) (hw : c.waits ≠ 1) :
      (stageAnswer t m.queue m.seq st f).tmsgs = s.tmsgs.erase m := by
    have hc' : t.findCmd m.queue m.seq = some c := by
      rw [State.findCmd, State.q, h.queues]
      exact hc
    rw [stageAnswer_tmsgs hc' hw st hf, h.tmsgs]
    rfl
  obtain ⟨hregs, htroughs, hmem, hstale⟩ := SourceFrame.stageAnswer t m.queue m.seq st f
  have htrough (k : Nat) : (stageAnswer t m.queue m.seq st f).trough k = t.trough k := by
    rw [State.trough, htroughs, State.trough]
  refine ⟨hmsgs, htrough, fun k hk => (htrough k).trans (h.troughs k hk), fun b hb => ?_, fun o ho v => ?_⟩
  · rw [State.rd8, hmem, hstale]
    exact h.mem b hb
  · rw [State.regAt, hregs]
    exact h.regs o ho v

theorem troughMem_of_clear {p : Nat} {s u : State} {y : TroughSt} (hy : u.trough p = y)
    (h : ∀ b, clearOfBoth s p y b → u.rd8 b = s.rd8 b) : troughMem p s u := by
  subst hy
  intro b hslots hrecs
  refine h b ⟨⟨?_, ?_⟩, ?_, ?_⟩
  · exact fun ie hie => hslots ie (List.mem_append_left _ hie)
  · exact fun ie hie => hrecs ie (List.mem_append_left _ hie)
  · exact fun ie hie => hslots ie (List.mem_append_right _ hie)
  · exact fun ie hie => hrecs ie (List.mem_append_right _ hie)

/-! Contributions of this device. -/

section
variable {s : State} {m : TroughMsg}

theorem exec_contribution_of_lulled (hwait : isWaiting s m = true) (hdev : m.dstDev = s.me) (hack : m.ack = false)
    (hkind : m.kind = .add) (hready : homeReady s m.dst = false) :
    exec (.troughContribution m) s = .next (wakeHome s m.dst) := by
  show Host.Outcome.next (contribution s m) = _
  simp [contribution, hwait, hdev, hack, hkind, hready]

theorem exec_contribution_of_add (hwait : isWaiting s m = true) (hdev : m.dstDev = s.me) (hack : m.ack = false)
    (hkind : m.kind = .add) (hready : homeReady s m.dst = true) {t : State} {a : Applied}
    (happly : applyAdd (dropMsg s m) m.dst m.key (tagOf m) m.w = (t, a)) :
    exec (.troughContribution m) s = .next (stageAnswer t m.queue m.seq a.status
      fun c => (c.count 1 (b2n a.evicted)).count 3 a.refused) := by
  show Host.Outcome.next (contribution s m) = _
  simp [contribution, hwait, hdev, hack, hkind, hready, happly]

theorem exec_contribution_of_emax (hwait : isWaiting s m = true) (hdev : m.dstDev = s.me) (hack : m.ack = false)
    (hkind : m.kind = .emax) (hready : homeReady s m.dst = true) {t : State} {a : Applied}
    (happly : applyEmax (dropMsg s m) m.dst m.key m.e m.nf = (t, a)) :
    exec (.troughContribution m) s = .next (stageAnswer t m.queue m.seq a.status
      fun c => (c.count 1 (b2n a.evicted)).count 3 a.refused) := by
  show Host.Outcome.next (contribution s m) = _
  simp [contribution, hwait, hdev, hack, hkind, hready, happly]

end

/-- A lulled pond wakes, and nothing else changes. -/
theorem wakeHome_rest (s : State) (p : Nat) : ∃ x, wakeHome s p = { s with ponds := x } := by
  unfold wakeHome
  split
  · unfold wakePond
    extract_lets x
    split <;> exact ⟨_, rfl⟩
  · exact ⟨_, rfl⟩

theorem TroughFrame.noteApplied {p : Nat} {K : Nat → Prop} (s : State) (tag : Nat)
    (hK : ∀ b, K b → clearOf s p (s.trough p) b) : TroughFrame p (troughRegs p) K s (noteApplied s p tag) :=
  .setTrough s _ (.tail _ (.head _)) (trgSpill_notMem_troughRegs p) fun b hb => ⟨hK b hb, hK b hb⟩

theorem trough_noteApplied (s : State) (p tag : Nat) :
    (noteApplied s p tag).trough p = { s.trough p with applied := upd (s.trough p).applied tag 0 (· + 1) } :=
  trough_setTrough s p _

theorem trough_winExceeded (s : State) (n p : Nat) : (winExceeded s n).trough p = s.trough p := by
  unfold winExceeded
  split <;> rfl

theorem TroughFrame.winExceeded {p : Nat} {l : List Nat} {K : Nat → Prop} (s : State) (n : Nat)
    (hl : NUM_STAT.off ∈ l) : TroughFrame p l K s (winExceeded s n) := by
  unfold Machine.winExceeded
  split
  · exact .refl p l K s
  · have h₁ : TroughFrame p l K s (s.stick NUM_STAT_WIN_EXCEED) := .set p K s _ _ 0 hl
    exact h₁.trans (.set p K _ _ _ 0 hl)

/-- What an ADD does at trough `p`, whose slot `i` is staged: the slot takes it, and the stage counts it. -/
theorem applyAdd_facts {s : State} {p k tag i : Nat} {t : TEntry} (els : List Nat)
    (hfind : findEnt (s.trough p).slots k (some tag) = some (i, t)) (hlook : look (s.trough p).slots i = some t)
    (hue : ueRange s (slotPa s p i) 512 = false) :
    ∃ u a, applyAdd s p k tag els = (u, a)
      ∧ u.trough p = { Placed.stored ⟨s.trough p, i, false⟩ (·.added t.e els) with
          applied := upd (s.trough p).applied tag 0 (· + 1) }
      ∧ TroughFrame p (troughRegs p ++ [NUM_STAT.off])
          (clearOfBoth s p (Placed.stored ⟨s.trough p, i, false⟩ (·.added t.e els))) s u := by
  obtain ⟨n, a, happly⟩ := applyAdd_of_found els hfind hlook hue
  have hx := trough_storePlaced_of_room s p (s.trough p) i (·.added t.e els)
  have hstored := TroughFrame.storePlaced (p := p) s (s.trough p) i (·.added t.e els) fun _ hb => hb
  generalize storePlaced s p ⟨s.trough p, i, false⟩ (·.added t.e els) = w at happly hx hstored
  have hclear {b : Nat} (hb : clearOf s p (Placed.stored ⟨s.trough p, i, false⟩ (·.added t.e els)) b) :
      clearOf w p (w.trough p) b := by
    rw [hx]
    exact hstored.clearOf_after hb
  refine ⟨_, a, happly, ?_, ?_⟩
  · rw [trough_winExceeded, trough_noteApplied, hx]
    rfl
  · exact ((hstored.trans (.noteApplied w tag fun b hb => hclear hb.2)).mono (List.subset_append_left _ _)).trans
      (.winExceeded _ n (List.mem_append_right _ (.head _)))

/-! The message that is taken leaves troughs, places and errors. -/

theorem trough_dropMsg (s : State) (m : TroughMsg) (p : Nat) : (dropMsg s m).trough p = s.trough p := rfl

theorem slotPa_dropMsg (s : State) (m : TroughMsg) (p i : Nat) : slotPa (dropMsg s m) p i = slotPa s p i := rfl

theorem ueAt_dropMsg (s : State) (m : TroughMsg) (a : Nat) : ueAt (dropMsg s m) a = ueAt s a := rfl

theorem ueRange_dropMsg (s : State) (m : TroughMsg) (a n : Nat) : ueRange (dropMsg s m) a n = ueRange s a n := by
  simp only [ueRange, ueAt_dropMsg]

/-- What an ADD leaves at its home (R119, R201). -/
theorem add_row {s : State} {m : TroughMsg} {i : Nat} {t : TEntry} (hwait : isWaiting s m = true)
    (hdev : m.dstDev = s.me) (hack : m.ack = false) (hkind : m.kind = .add) (hready : homeReady s m.dst = true)
    (hfind : findEnt (s.trough m.dst).slots m.key (some (tagOf m)) = some (i, t))
    (hlook : look (s.trough m.dst).slots i = some t) (hue : ueRange s (slotPa s m.dst i) 512 = false) :
    ∃ u, exec (.troughContribution m) s = .next u
      ∧ (∀ c, s.findCmd m.queue m.seq = some c → c.waits ≠ 1 → u.tmsgs = s.tmsgs.erase m)
      ∧ look (u.trough m.dst).slots i = some (t.added t.e m.w)
      ∧ (∀ j, j ≠ i → look (u.trough m.dst).slots j = look (s.trough m.dst).slots j)
      ∧ (u.trough m.dst).recs = (s.trough m.dst).recs
      ∧ lookD (u.trough m.dst).applied (tagOf m) 0 = lookD (s.trough m.dst).applied (tagOf m) 0 + 1
      ∧ (∀ p, p ≠ m.dst → u.trough p = s.trough p) ∧ troughMem m.dst s u
      ∧ regsBut (troughRegs m.dst ++ [NUM_STAT.off]) s u := by
  have hue' : ueRange (dropMsg s m) (slotPa (dropMsg s m) m.dst i) 512 = false := by
    rw [ueRange_dropMsg, slotPa_dropMsg, hue]
  obtain ⟨w, a, happly, hw, hframe⟩ :=
    applyAdd_facts (s := dropMsg s m) (p := m.dst) m.w hfind hlook hue'
  rw [trough_dropMsg] at hw
  have hexec := exec_contribution_of_add hwait hdev hack hkind hready happly
  obtain ⟨hmsgs, htrough, hothers, hmem, hregs⟩ := hframe.answered a.status
    (f := fun c => (c.count 1 (b2n a.evicted)).count 3 a.refused) fun _ => rfl
  have hu := (htrough m.dst).trans hw
  generalize stageAnswer w m.queue m.seq a.status _ = u at hexec hmsgs hothers hmem hregs hu
  refine ⟨u, hexec, hmsgs, ?_, ?_, ?_, ?_, hothers, troughMem_of_clear hu hmem, hregs⟩ <;> rw [hu]
  · exact look_stored_self hlook false (·.added t.e m.w)
  · exact fun j hj => look_stored_ne _ hj false (·.added t.e m.w)
  · rfl
  · exact lookD_ins_self _ _ _ _

/-- What an EMAX leaves at a home that holds nothing of its key and has a position free (R197, R199). -/
theorem emax_row {s : State} {m : TroughMsg} (hwait : isWaiting s m = true) (hdev : m.dstDev = s.me)
    (hack : m.ack = false) (hkind : m.kind = .emax) (hready : homeReady s m.dst = true) (hcap : trgNow s m.dst ≠ 0)
    (hkey : ∀ ie ∈ (s.trough m.dst).slots ++ (s.trough m.dst).recs, ie.2.key ≠ m.key)
    (hroom : ∃ j, j < 8 ∧ look (s.trough m.dst).slots ((Config.slotStart m.key + j) % (trgNow s m.dst * 2048)) = none) :
    ∃ u i, exec (.troughContribution m) s = .next u
      ∧ (∀ c, s.findCmd m.queue m.seq = some c → c.waits ≠ 1 → u.tmsgs = s.tmsgs.erase m)
      ∧ (∃ j, j < 8 ∧ i = (Config.slotStart m.key + j) % (trgNow s m.dst * 2048)) ∧ look (s.trough m.dst).slots i = none
      ∧ look (u.trough m.dst).slots i = some ⟨m.key, none, zeroW, expMax winZero m.e, m.nf, 0⟩
      ∧ (∀ j, j ≠ i → look (u.trough m.dst).slots j = look (s.trough m.dst).slots j)
      ∧ (u.trough m.dst).recs = (s.trough m.dst).recs
      ∧ (∀ p, p ≠ m.dst → u.trough p = s.trough p) ∧ troughMem m.dst s u ∧ regsBut (troughRegs m.dst) s u := by
  obtain ⟨w, i, z, happly, hpos, hfree, hw, hnew, hold, hrecs, hframe⟩ :=
    applyEmax_facts_of_new (s := dropMsg s m) (p := m.dst) m.e m.nf hcap hkey hroom
  have hexec := exec_contribution_of_emax hwait hdev hack hkind hready happly
  obtain ⟨hmsgs, htrough, hothers, hmem, hregs⟩ := hframe.answered 0
    (f := fun c => (c.count 1 (b2n false)).count 3 0) fun _ => rfl
  have hu := (htrough m.dst).trans hw
  refine ⟨_, i, hexec, hmsgs, hpos, hfree, ?_, ?_, ?_, hothers, troughMem_of_clear hu hmem, hregs⟩
  · rw [hu, hnew]
  · rw [hu]
    exact hold
  · rw [hu]
    exact hrecs

/-! Messages of other devices. -/

section
variable {s : State} {m : TroughMsg}

theorem fromAfar_iff : fromAfar s m = true ↔ m.ack = false ∧ m.srcDev ≠ s.me ∧ m.dstDev = s.me ∧ m.dev ≠ s.me := by
  simp [fromAfar, and_assoc]

/-- What home pond `p` answers to a message of another device. -/
def afarReply (s : State) (m : TroughMsg) (p e : Nat) (nf ok : Bool) : TroughMsg :=
  { m with ack := true, srcDev := s.me, src := p, dstDev := m.srcDev, dst := m.src,
           e := e, nf := nf, ok := ok, w := [] }

theorem replyTo_of_afar (h : m.srcDev ≠ s.me) (p e : Nat) (nf ok : Bool) :
    replyTo s m p e nf ok = { s with treply := some (afarReply s m p e nf ok) } := by
  rw [replyTo, if_neg (by simpa using h)]
  rfl

/-- An ASEND under another exponent than the key's is refused (R119). -/
theorem exec_contribution_of_other_exponent (hfar : fromAfar s m = true) (hkind : m.kind = .asend)
    (hready : homeReady s (homeOf s m.key) = true) (hexp : m.e ≠ committedE (s.trough (homeOf s m.key)) m.key) :
    exec (.troughContribution m) s
      = .next { s with treply := some (afarReply s m (homeOf s m.key) m.e m.nf false) } := by
  obtain ⟨-, hsrc, -, -⟩ := fromAfar_iff.mp hfar
  rw [← replyTo_of_afar hsrc]
  show Host.Outcome.next (contribution s m) = _
  simp [contribution, hfar, hkind, hready, applyWindow, hexp]

theorem exec_exponentMessage_of_efetch (hfar : fromAfar s m = true) (hkind : m.kind = .efetch)
    (hready : homeReady s (homeOf s m.key) = true) :
    let x := s.trough (homeOf s m.key)
    exec (.troughExponentMessage m) s
      = .next { s with treply := some (afarReply s m (homeOf s m.key) (committedE x m.key)
          ((x.slots ++ x.recs).any fun ie => ie.2.key == m.key && ie.2.tag.isNone && ie.2.nf) true) } := by
  obtain ⟨-, hsrc, -, -⟩ := fromAfar_iff.mp hfar
  intro x
  rw [← replyTo_of_afar hsrc]
  show Host.Outcome.next (exponentMessage s m) = _
  simp [exponentMessage, hfar, hkind, hready, x]

theorem exec_exponentMessage_of_esend (hfar : fromAfar s m = true) (hkind : m.kind = .esend)
    (hready : homeReady s (homeOf s m.key) = true) {u : State} {a : Applied}
    (happly : applyEmax s (homeOf s m.key) m.key m.e m.nf = (u, a)) (hme : u.me = s.me) :
    exec (.troughExponentMessage m) s
      = .next { u with treply := some (afarReply u m (homeOf s m.key) m.e m.nf (a.status == 0)) } := by
  obtain ⟨-, hsrc, -, -⟩ := fromAfar_iff.mp hfar
  rw [← replyTo_of_afar (hme ▸ hsrc)]
  show Host.Outcome.next (exponentMessage s m) = _
  simp [exponentMessage, hfar, hkind, hready, happly]

end

/-- The device's number is in registers below the troughs'. -/
theorem TroughFrame.me {p : Nat} {K : Nat → Prop} {s u : State} (h : TroughFrame p (troughRegs p) K s u) :
    u.me = s.me := by
  have hlow (r : Reg) (hr : r.off < TRG_CFG.base) : u.rg r = s.rg r := by
    refine h.rg r 0 fun hm => ?_
    have hcnt := base_le_off TRG_CNT p 0
    have hstat := base_le_off TRG_STAT p 0
    simp only [List.mem_cons, List.not_mem_nil, or_false] at hm
    simp only [TRG_CFG, TRG_CNT, TRG_STAT] at hr hm hcnt hstat
    omega
  have hstat : u.rg WD_STAT = s.rg WD_STAT := hlow _ (by decide)
  have hself : u.rg WD_SELF = s.rg WD_SELF := hlow _ (by decide)
  rw [State.me, State.me, State.flag, State.flag, State.get, State.get, State.get, State.get,
    show WD_STAT_DONE.reg = WD_STAT from rfl, show WD_SELF_DEVICE.reg = WD_SELF from rfl, hstat, hself]

/-- An ESEND that leaves the exponent of its key, which has one exponent and a sound committed slot: NF is OR-ed. -/
theorem esend_row {s : State} {m : TroughMsg} {p i : Nat} {t : TEntry} (hfar : fromAfar s m = true)
    (hkind : m.kind = .esend) (hhome : homeOf s m.key = p) (hready : homeReady s p = true)
    (hexp : expMax (committedE (s.trough p) m.key) m.e = committedE (s.trough p) m.key)
    (hfind : findEnt (s.trough p).slots m.key none = some (i, t)) (hlook : look (s.trough p).slots i = some t)
    (hone : ∀ ie ∈ (s.trough p).slots ++ (s.trough p).recs, ie.2.key = m.key → ie.2.e = t.e)
    (hue : ueRange s (slotPa s p i) 512 = false) :
    ∃ u r, exec (.troughExponentMessage m) s = .next u ∧ u.treply = some r ∧ r.ok = true
      ∧ look (u.trough p).slots i = some (t.flagged m.nf)
      ∧ (∀ j, j ≠ i → look (u.trough p).slots j = look (s.trough p).slots j)
      ∧ (u.trough p).recs = (s.trough p).recs := by
  obtain ⟨u, happly, hu, hframe⟩ := applyEmax_facts m.nf (.inl hexp) (place8_of_found hfind hue)
  rw [hexp, committedE_of_slot hfind, setE_of_same hone] at hu
  subst hhome
  refine ⟨_, _, exec_exponentMessage_of_esend hfar hkind hready happly hframe.me, rfl, rfl, ?_⟩
  show look (u.trough _).slots i = _ ∧ (∀ j, j ≠ i → look (u.trough _).slots j = _) ∧ (u.trough _).recs = _
  rw [hu]
  exact ⟨look_stored_self hlook _ _, fun j hj => look_stored_ne _ hj _ _, rfl⟩

/-- Settles O37: the home's trough is stored once with the placed entry changed, and once more for the stage's count. -/
theorem troughContributions : Obligations.TroughContributions := by
  unfold Obligations.TroughContributions
  refine ⟨?_, ?_, ?_, ?_, ?_⟩
  · intro s m hwait hdev hack hkind x
    refine ⟨fun hready => ?_, fun i t hready hfind hlook hue hlen => ?_⟩
    · obtain ⟨y, hy⟩ := wakeHome_rest s m.dst
      exact ⟨_, exec_contribution_of_lulled hwait hdev hack hkind hready, by rw [hy], by rw [hy], by rw [hy]⟩
    · obtain ⟨u, hexec, hmsgs, hslot, hold, hrecs, hcount, hothers, hmem, hregs⟩ :=
        add_row hwait hdev hack hkind hready hfind hlook hue
      exact ⟨u, t.added t.e m.w, hexec, hmsgs, hslot, rfl, rfl, rfl, rfl, added_nf t t.e m.w,
        fun k hk => added_w hlen t.e m.w hk, hold, hrecs, hcount, hothers, hmem, hregs⟩
  · intro s m hwait hdev hack hkind hready hcap x cap hkey hroom
    exact emax_row hwait hdev hack hkind hready hcap hkey hroom
  · intro s m hfar hkind hready hexp
    exact ⟨_, _, exec_contribution_of_other_exponent hfar hkind hready hexp, rfl, rfl, rfl, rfl, rfl, rfl⟩
  · intro s m hfar hready p x
    refine ⟨fun hkind => ?_, fun hkind hraise hnz => ?_⟩
    · refine ⟨_, _, exec_exponentMessage_of_efetch hfar hkind hready, rfl, rfl, rfl, rfl, rfl, rfl, rfl, rfl, ?_, rfl⟩
      simp only [afarReply, List.any_eq_true, Bool.and_eq_true, beq_iff_eq, Option.isNone_iff_eq_none, and_assoc]
      rfl
    · have hexec := exec_exponentMessage_of_esend hfar hkind hready (applyEmax_of_raises m.nf hraise hnz) rfl
      exact ⟨_, _, hexec, rfl, rfl, rfl⟩
  · intro s m i t hfar hkind hready p x hexp hfind hlook hone hue
    exact esend_row hfar hkind rfl hready hexp hfind hlook hone hue

end Sys2Proof.Machine
end

section
/-! SUPPORT. Reads of memory (R318 to R333): what the demand reads of a unit leave alone. They advance the counts of
ponds and memory controllers and move lines, walks, streams and probes; no byte, error, queue or unit changes. -/

namespace Sys2Proof.Machine

open Sys2Proof

/-- A register that no read writes: it lies above those of the memory controllers, and counts no reads of a pond. -/
def uncountedReg (o : Nat) : Prop := 0x2C0000 ≤ o ∧ ∀ p, o ≠ PC_CNT.off p ∧ o ≠ PF_CNT.off p

/-- What reads leave alone: everything but registers that count, the ponds' and controllers' own state, the directories,
the remaining-use counts and the free values; of the controllers, their retired ranges stay. -/
def State.unread (s : State) : State × (∀ o, uncountedReg o → W64 → W64) × (Nat → List Nat) :=
  ({ s with regs := [], ponds := [], chans := [], dirs := [], rem := [], free := 0 }, fun o _ v => s.regAt o v,
    fun k => (s.chan k).retired)

@[simp] theorem unread_ite (c : Prop) [Decidable c] (s t : State) :
    (if c then s else t).unread = if c then s.unread else t.unread := apply_ite State.unread c s t

theorem snd_unread {α : Type} {p : α × State} {a : α} {t : State} (h : p = (a, t)) : t.unread = p.2.unread := by rw [h]

@[simp] theorem snd_unread_ite {α : Type} (c : Prop) [Decidable c] (p q : α × State) :
    (if c then p else q).2.unread = if c then p.2.unread else q.2.unread :=
  apply_ite (fun p : α × State => p.2.unread) c p q

theorem unread_setRegAt {s : State} {o : Nat} {v : W64} (h : ¬uncountedReg o) : (s.setRegAt o v).unread = s.unread := by
  have hregs : (fun o' (_ : uncountedReg o') v' => (s.setRegAt o v).regAt o' v') = fun o' _ v' => s.regAt o' v' := by
    funext o' ho' v'
    exact regAt_setRegAt_ne s v v' fun he => h (he ▸ ho')
  exact congrArg (fun regs => (s.unread.1, regs, s.unread.2.2)) hregs

/-- Registers of the controllers and below, and the counts of ponds. -/
def countingFld (f : Fld) (i : Nat) : Prop :=
  f.reg = PC_CNT ∨ f.reg = PF_CNT ∨ f.reg.off i < 0x2C0000

theorem unread_set {s : State} {f : Fld} {n i : Nat} (h : countingFld f i) : (s.set f n i).unread = s.unread := by
  refine unread_setRegAt fun ⟨hlow, hne⟩ => ?_
  rcases h with h | h | h
  · exact (hne i).1 (by rw [h])
  · exact (hne i).2 (by rw [h])
  · omega

@[simp] theorem countingFld_hits (p : Nat) : countingFld PC_CNT_HITS p := .inl rfl
@[simp] theorem countingFld_misses (p : Nat) : countingFld PC_CNT_MISSES p := .inl rfl
@[simp] theorem countingFld_issued (p : Nat) : countingFld PF_CNT_ISSUED p := .inr (.inl rfl)
@[simp] theorem countingFld_dropped (p : Nat) : countingFld PF_CNT_DROPPED p := .inr (.inl rfl)

@[simp] theorem unread_bump {s : State} {f : Fld} {n i : Nat} (h : countingFld f i) : (s.bump f n i).unread = s.unread :=
  unread_set h

@[simp] theorem unread_sat {s : State} {f : Fld} {n i : Nat} (h : countingFld f i) : (s.sat f n i).unread = s.unread :=
  unread_set h

@[simp] theorem unread_setPond (s : State) (p : Nat) (x : PondSt) : (s.setPond p x).unread = s.unread := rfl

@[simp] theorem unread_rem (s : State) (m : SMap Nat) : { s with rem := m }.unread = s.unread := rfl

theorem unread_setChan {s : State} {c : Nat} {x : ChanSt} (h : x.retired = (s.chan c).retired) :
    (s.setChan c x).unread = s.unread := by
  have hchans : (fun k => ((s.setChan c x).chan k).retired) = fun k => (s.chan k).retired := by
    funext k
    rcases eq_or_ne k c with rfl | hk
    · simp only [State.chan, State.setChan, lookD_ins_self] at h ⊢
      exact h
    · simp only [State.chan, State.setChan, lookD_ins_ne _ _ _ hk]
  exact congrArg (fun r => (s.unread.1, s.unread.2.1, r)) hchans

/-! Controllers. -/

theorem chanFold_lt (q n : Nat) : chanFold q n < 2 ^ 5 := by
  induction n with
  | zero => exact Nat.two_pow_pos 5
  | succ n ih => exact Nat.xor_lt_two_pow ih (Nat.mod_lt _ (by decide))

theorem chanOf_lt (pa : Nat) : chanOf pa < 96 := by
  have hlane : ((pa / 2048 % 96 % 32) ^^^ chanFold (pa / 2048 / 96) 8) < 2 ^ 5 :=
    Nat.xor_lt_two_pow (Nat.mod_lt _ (by decide)) (chanFold_lt _ _)
  simp only [chanOf]
  omega

@[simp] theorem countingFld_aborts (pa : Nat) : countingFld MCTL_CAL_ABORTS (chanOf pa / 8) := by
  have := chanOf_lt pa
  refine .inr (.inr ?_)
  simp only [Reg.off, MCTL_CAL_ABORTS, MCTL_CAL]
  omega

@[simp] theorem countingFld_reread (pa : Nat) : countingFld MCTL_CNT_REREAD (chanOf pa / 8) := by
  have := chanOf_lt pa
  refine .inr (.inr ?_)
  simp only [Reg.off, MCTL_CNT_REREAD, MCTL_CNT]
  omega

@[simp] theorem chanRead_unread (s : State) (pa : Nat) : (s.chanRead pa).unread = s.unread := by
  unfold State.chanRead
  dsimp only
  split
  · rfl
  · split
    · rfl
    · split <;> simp [unread_setChan]

@[simp] theorem dirMark_unread (s : State) (p line : Nat) : (s.dirMark p line).unread = s.unread := by
  unfold State.dirMark
  dsimp only
  split
  · rfl
  · split
    · rfl
    · split <;> rfl

/-! The pond cache and translation. -/

@[simp] theorem installLine_unread (s : State) (rem : SMap Nat) (p : Nat) (l : CacheLine) :
    (installLine s rem p l).unread = s.unread := by
  simp [installLine]

@[simp] theorem walkRead_unread (s : State) (p a : Nat) : (walkRead s p a).unread = s.unread := by
  unfold walkRead
  dsimp only
  split
  · simp
  · split <;> simp

@[simp] theorem walkEntry_unread (s : State) (p a : Nat) : (walkEntry s p a).2.unread = s.unread := by
  unfold walkEntry
  split <;> simp

@[simp] theorem walkLeaf_unread (s : State) (p space va e1 : Nat) : (walkLeaf s p space va e1).2.unread = s.unread := by
  unfold walkLeaf
  split
  · rfl
  · split <;> rename_i h <;> simp [snd_unread h]

@[simp] theorem walkTable_unread (s : State) (p space va : Nat) : (walkTable s p space va).2.unread = s.unread := by
  unfold walkTable
  dsimp only
  split
  · rfl
  · cases (s.pond p).walk.find? (fun w => w.1 == space * 8192 + va / 2 ^ 30) with
    | some w =>
      dsimp only
      (repeat' split) <;> simp
    | none =>
      dsimp only
      split
      · rename_i h
        simp [snd_unread h]
      · rename_i h
        (repeat' split) <;> simp [snd_unread h]

@[simp] theorem translate_unread (s : State) (p space va : Nat) (wr : Bool) :
    (translate s p space va wr).2.unread = s.unread := by
  unfold translate
  dsimp only
  split
  · rfl
  · cases (s.pond p).tlb.find? (fun e => e.covers space va) with
    | some e => simp
    | none =>
      rcases h : walkTable s p space va with ⟨_ | ⟨e, e1⟩, t⟩ <;> simp [snd_unread h]

@[simp] theorem resolve1_unread (s : State) (c : Ctx) (a : Nat) (wr : Bool) :
    (resolve1 s c a wr).2.unread = s.unread := by
  simp [resolve1]

@[simp] theorem resolveParts_unread (s : State) (c : Ctx) (wr : Bool) (l : List (Nat × Nat)) :
    (resolveParts s c wr l).2.unread = s.unread := by
  induction l generalizing s with
  | nil => rfl
  | cons an l ih =>
    rw [resolveParts]
    split
    · rename_i h
      simp [snd_unread h]
    · rename_i h
      split
      · simp [snd_unread h]
      · simp [snd_unread h]
      · split <;> rename_i h2 <;> simp [snd_unread h2, ih, snd_unread h]

@[simp] theorem resolve_unread (s : State) (c : Ctx) (a n : Nat) (wr : Bool) :
    (resolve s c a n wr).2.unread = s.unread := by
  simp [resolve]

@[simp] theorem tensorOf_unread (s : State) (p space a : Nat) : (tensorOf s p space a).2.unread = s.unread := by
  unfold tensorOf
  dsimp only
  split <;> simp

@[simp] theorem issuePrefetch_unread (s : State) (c : Ctx) (tag a : Nat) (st : Stream) :
    (issuePrefetch s c tag a st).2.unread = s.unread := by
  unfold issuePrefetch
  dsimp only
  (repeat' split) <;> simp

@[simp] theorem runAhead_unread (s : State) (c : Ctx) (tag last : Nat) (t : Tensor) (n : Nat) (st : Stream) :
    (runAhead s c tag last t n st).2.unread = s.unread := by
  induction n generalizing s st with
  | zero => rfl
  | succ n ih =>
    rw [runAhead]
    dsimp only
    split
    · rfl
    · split
      · rfl
      · split <;> simp [ih]

@[simp] theorem advanceStream_unread (s : State) (c : Ctx) (tag a : Nat) :
    (advanceStream s c tag a).unread = s.unread := by
  simp [advanceStream]

@[simp] theorem demandLine_unread (s : State) (c : Ctx) (a pa : Nat) : (demandLine s c a pa).2.unread = s.unread := by
  unfold demandLine
  dsimp only
  rw [advanceStream_unread]
  cases c.t && decide (a ≤ 0x5FFFFFFFFFF) with
  | true =>
    simp only [if_true]
    (repeat' split) <;> simp
  | false =>
    simp only [Bool.false_eq_true, if_false]
    (repeat' split) <;> simp

theorem foldl_snd_unread {α β : Type} (f : β × State → α → β × State) (l : List α) (b : β) (s : State)
    (hf : ∀ b s a, (f (b, s) a).2.unread = s.unread) : (l.foldl f (b, s)).2.unread = s.unread := by
  induction l generalizing b s with
  | nil => rfl
  | cons a l ih => rw [List.foldl_cons, ← Prod.mk.eta (p := f (b, s) a), ih, hf]

@[simp] theorem demandParts_unread (s : State) (c : Ctx) (a : Nat) (l : List (Nat × Nat)) :
    (demandParts s c a l).2.unread = s.unread := by
  induction l generalizing s a with
  | nil => rfl
  | cons pn l ih =>
    rw [demandParts]
    simp only [ih]
    rw [foldl_snd_unread]
    simp

@[simp] theorem directParts_unread (s : State) (parts : List (Nat × Nat)) :
    (directParts s parts).unread = s.unread := by
  refine foldl_field State.unread (fun s r => ?_) parts s
  split
  · exact foldl_field State.unread (fun s k => chanRead_unread s _) _ s
  · rfl

@[simp] theorem touch_unread (s : State) (pa : Nat) : (touch s pa).unread = s.unread := by
  unfold touch wakePond
  split
  · dsimp only
    split <;> rfl
  · rfl

end Sys2Proof.Machine
end

section
/-! SUPPORT. Runs of units' programs: a run that ends, step by step; and what loads leave alone in an engine. -/

namespace Sys2Proof.Machine

open Sys2Proof

variable {α β : Type}

/-! Facts that equal unread parts give. -/

section
variable {s u : State} (h : u.unread = s.unread)
include h

theorem rd8_of_unread (a : Nat) : u.rd8 a = s.rd8 a := congrArg (fun x => x.1.rd8 a) h

theorem mc_of_unread (m : Nat) : u.mc m = s.mc m := congrArg (fun x => x.1.mc m) h

theorem q_of_unread (q : Nat) : u.q q = s.q q := congrArg (fun x => x.1.q q) h

theorem rg_of_unread (r : Reg) (i j : Nat) (ho : uncountedReg (r.off i j)) : u.rg r i j = s.rg r i j :=
  congrArg (fun x => x.2.1 (r.off i j) ho r.rstW) h

theorem ueAt_of_unread (a : Nat) : ueAt u a = ueAt s a := by
  have hpoison : u.poison = s.poison := congrArg (fun x => x.1.poison) h
  have hlines : u.badLines = s.badLines := congrArg (fun x => x.1.badLines) h
  have hretired : (u.chan (chanOf a)).retired = (s.chan (chanOf a)).retired := congrArg (fun x => x.2.2 (chanOf a)) h
  simp only [ueAt, poisonedAt, retiredAt, hpoison, hlines, hretired]

theorem rdBytes_of_unread (a n : Nat) : u.rdBytes a n = s.rdBytes a n := by
  induction n generalizing a with
  | zero => rfl
  | succ n ih => rw [State.rdBytes, State.rdBytes, rd8_of_unread h, ih]

theorem mcHome_of_unread (q : Nat) : mcHome u q = mcHome s q := by
  have hcfg : u.rg QTAB_CFG (qtI q) (qtJ q) = s.rg QTAB_CFG (qtI q) (qtJ q) := by
    refine rg_of_unread h _ _ _ ⟨?_, fun p => ?_⟩ <;> simp only [Reg.off, QTAB_CFG, PC_CNT, PF_CNT] <;> omega
  have hcons : u.qget QTAB_CFG_CONSUMER q = s.qget QTAB_CFG_CONSUMER q := congrArg (fget QTAB_CFG_CONSUMER) hcfg
  simp only [mcHome, homeOfQ, q_of_unread h, hcons]

end

/-! Runs that end. -/

/-- The program ends, without stopping, in a result and an engine with a property. -/
def Ends (m : EM α) (e : Eng) (Q : α → Eng → Prop) : Prop := ∃ a e', m.run e = (.ok a, e') ∧ Q a e'

theorem run_bind_of_ok {m : EM α} {f : α → EM β} {e e' : Eng} {a : α} (h : m.run e = (.ok a, e')) :
    (m >>= f).run e = (f a).run e' := by
  show (ExceptT.bindCont f (m.run e).1 : StateM Eng _) (m.run e).2 = _
  rw [h]
  rfl

/-- A run of a sequence ends only where its first part ended. -/
theorem run_bind_eq_ok {m : EM α} {f : α → EM β} {e e' : Eng} {b : β} (h : (m >>= f).run e = (.ok b, e')) :
    ∃ a e₁, m.run e = (.ok a, e₁) ∧ (f a).run e₁ = (.ok b, e') := by
  rcases hm : m.run e with ⟨r, e₁⟩
  cases r with
  | ok a => exact ⟨a, e₁, rfl, by rw [← run_bind_of_ok hm, h]⟩
  | error stop =>
    have hrun : (m >>= f).run e = (.error stop, e₁) := by
      show (ExceptT.bindCont f (m.run e).1 : StateM Eng _) (m.run e).2 = _
      rw [hm]
      rfl
    rw [hrun] at h
    cases h

variable {Q : α → Eng → Prop} {e : Eng}

theorem Ends.pure {a : α} (h : Q a e) : Ends (pure a) e Q := ⟨a, e, rfl, h⟩

theorem Ends.bind {R : β → Eng → Prop} {m : EM β} {f : β → EM α} (hm : Ends m e R)
    (hf : ∀ b e', R b e' → Ends (f b) e' Q) : Ends (m >>= f) e Q := by
  obtain ⟨b, e', hrun, hR⟩ := hm
  obtain ⟨a, e₂, hrun₂, hQ⟩ := hf b e' hR
  exact ⟨a, e₂, (run_bind_of_ok hrun).trans hrun₂, hQ⟩

theorem Ends.mono {R : α → Eng → Prop} {m : EM α} (hm : Ends m e R) (h : ∀ a e', R a e' → Q a e') : Ends m e Q := by
  obtain ⟨a, e', hrun, hR⟩ := hm
  exact ⟨a, e', hrun, h a e' hR⟩

theorem Ends.catching {m : EM α} {f : Stop → EM α} (hm : Ends m e Q) : Ends (tryCatch m f) e Q := by
  obtain ⟨a, e', hrun, hQ⟩ := hm
  refine ⟨a, e', ?_, hQ⟩
  have hm : m e = (.ok a, e') := hrun
  simp only [tryCatch, tryCatchThe, MonadExceptOf.tryCatch, ExceptT.tryCatch, ExceptT.run_mk, Bind.bind, StateT.bind, hm]
  rfl

-- `(rfl)` and not `rfl`: simp then writes these steps down, and the kernel need not unfold the programs to find them
theorem run_getBind (f : Eng → EM α) (e : Eng) : (get >>= f).run e = (f e).run e := (rfl)

theorem run_setBind (e₁ : Eng) (f : PUnit → EM α) (e : Eng) : (set e₁ >>= f).run e = (f ⟨⟩).run e₁ := (rfl)

theorem run_getsBind {γ : Type} (g : State → γ) (f : γ → EM α) (e : Eng) : (gets g >>= f).run e = (f (g e.s)).run e := (rfl)

theorem run_fldBind (byte lo w : Nat) (f : Nat → EM α) (e : Eng) :
    (fld byte lo w >>= f).run e = (f (cf e.cmd.raw.toNat byte lo w)).run e := (rfl)

theorem run_onSBind (g : State → State) (f : PUnit → EM α) (e : Eng) :
    (onS g >>= f).run e = (f ⟨⟩).run { e with s := g e.s } := (rfl)

theorem run_countCBind (i n : Nat) (f : PUnit → EM α) (e : Eng) :
    (countC i n >>= f).run e = (f ⟨⟩).run { e with cmd := e.cmd.count i n } := (rfl)

theorem run_onC (g : Cmd → Cmd) (e : Eng) : (onC g).run e = (.ok ⟨⟩, { e with cmd := g e.cmd }) := (rfl)

theorem need_run {b : Bool} {n : Nat} (h : b = true) : (need b n).run e = (.ok (), e) := by
  rw [need, if_pos h]
  rfl

theorem Ends.needBind {b : Bool} {n : Nat} {f : Unit → EM α} (h : b = true) (hf : Ends (f ()) e Q) :
    Ends (need b n >>= f) e Q := by
  rw [Ends, run_bind_of_ok (need_run h)]
  exact hf

end Sys2Proof.Machine
end

section
/-! SUPPORT. What the programs of loads leave alone. -/

namespace Sys2Proof.Machine

open Sys2Proof

variable {α β : Type}

/-- The same command, but for what it notes on its way. -/
structure SameCmd (c d : Cmd) : Prop where
  seq : d.seq = c.seq
  raw : d.raw = c.raw
  waits : d.waits = c.waits

theorem SameCmd.refl (c : Cmd) : SameCmd c c := ⟨rfl, rfl, rfl⟩

theorem SameCmd.trans {c d e : Cmd} (h : SameCmd c d) (h' : SameCmd d e) : SameCmd c e :=
  ⟨h'.seq.trans h.seq, h'.raw.trans h.raw, h'.waits.trans h.waits⟩

/-- From one engine to the other only reads have been made. -/
structure ReadsOnly (e e' : Eng) : Prop where
  state : e'.s.unread = e.s.unread
  cmd : SameCmd e.cmd e'.cmd
  ctx : e'.ctx = e.ctx
  bad : e'.bad = e.bad

theorem ReadsOnly.refl (e : Eng) : ReadsOnly e e := ⟨rfl, .refl _, rfl, rfl⟩

theorem ReadsOnly.trans {e₁ e₂ e₃ : Eng} (h : ReadsOnly e₁ e₂) (h' : ReadsOnly e₂ e₃) : ReadsOnly e₁ e₃ :=
  ⟨h'.state.trans h.state, h.cmd.trans h'.cmd, h'.ctx.trans h.ctx, h'.bad.trans h.bad⟩

theorem ReadsOnly.withState {e e' : Eng} {t : State} (h : ReadsOnly e e') (ht : t.unread = e'.s.unread) :
    ReadsOnly e { e' with s := t } := h.trans ⟨ht, .refl _, rfl, rfl⟩

theorem Stop.holds_true (stop : Stop) : stop.Holds fun _ => True := by
  cases stop <;> trivial

/-- The program reads, whether it ends or stops. -/
abbrev OnlyReads (e : Eng) (m : EM α) : Prop := Preserves (ReadsOnly e) (fun _ => True) m

variable {e : Eng}

theorem throw_onlyReads (stop : Stop) : OnlyReads e (throw stop : EM α) :=
  Preserves.throw stop.holds_true

theorem emStop_onlyReads (n : Nat) : OnlyReads e (emStop n : EM α) := throw_onlyReads _

theorem onS_onlyReads {f : State → State} (hf : ∀ s, (f s).unread = s.unread) : OnlyReads e (onS f) :=
  .modify fun _ h => h.withState (hf _)

theorem devErr_onlyReads (f : Fld) (a : Nat) (wr : Bool) (h : f.reg = DEV_ERR) :
    OnlyReads e (onS (·.devErr f a wr)) := by
  refine onS_onlyReads fun s => ?_
  have herr : countingFld f 0 := .inr (.inr (by rw [h]; decide))
  have haddr : countingFld DEV_ERRADDR_ADDR 0 := .inr (.inr (by decide))
  have hwrite : countingFld DEV_ERRADDR_WRITE 0 := .inr (.inr (by decide))
  rw [State.devErr, unread_set hwrite, unread_set haddr, State.stick, unread_set herr]

theorem accStop_onlyReads (wr : Bool) (err : AccErr) : OnlyReads e (accStop wr err : EM α) := by
  cases err with
  | refused => exact emStop_onlyReads _
  | unassigned a => exact .bind (devErr_onlyReads _ a wr rfl) fun _ => emStop_onlyReads _
  | config a => exact .bind (devErr_onlyReads _ a wr rfl) fun _ => emStop_onlyReads _
  | hostWin a => exact .bind (devErr_onlyReads _ a wr rfl) fun _ => emStop_onlyReads _
  | ue a => exact emStop_onlyReads _

theorem place_onlyReads (a n : Nat) (wr : Bool) : OnlyReads e (place a n wr) := by
  unfold place
  refine .getBind fun e' he => ?_
  have hr := resolve_unread e'.s e'.ctx a n wr
  generalize resolve e'.s e'.ctx a n wr = r at hr
  refine .bind (.set (he.withState hr)) fun _ => ?_
  split
  · exact .pure _
  · split
    · exact .pure _
    · split
      · exact emStop_onlyReads _
      · exact accStop_onlyReads _ _
  · exact accStop_onlyReads _ _

theorem notHost_onlyReads (a : Nat) : OnlyReads e (notHost a) := by
  unfold notHost
  refine .getBind fun e' he => ?_
  have hr := resolve_unread e'.s e'.ctx a 1 false
  generalize resolve e'.s e'.ctx a 1 false = r at hr
  refine .bind (.set (he.withState hr)) fun _ => ?_
  split
  · exact emStop_onlyReads _
  · exact .pure _

theorem noteTensors_onlyReads (l : List Nat) : OnlyReads e (noteTensors l) :=
  .modify fun _ h => h.trans ⟨rfl, ⟨rfl, rfl, rfl⟩, rfl, rfl⟩

theorem touchAll_unread (s : State) (parts : List (Nat × Nat)) :
    (parts.foldl (fun s p => touch s p.1) s).unread = s.unread :=
  foldl_field State.unread (fun s p => touch_unread s p.1) parts s

theorem ld_onlyReads (a n : Nat) : OnlyReads e (ld a n) := by
  unfold ld
  refine .ite (fun _ => .pure _) fun _ => .bind (place_onlyReads a n false) fun p => ?_
  split
  · refine .bind .get fun _ => ?_
    split
    · exact .pure _
    · exact throw_onlyReads _
  · next parts =>
    refine .getBind fun e' he => ?_
    have ht := touchAll_unread e'.s parts
    refine .ite (fun _ => .bind (emStop_onlyReads _) fun _ => ?_) fun _ => ?_
    all_goals
      dsimp only
      split
      · exact .bind (.set (he.withState ((demandParts_unread _ _ _ _).trans ht))) fun _ =>
          .bind (noteTensors_onlyReads _) fun _ => .pure _
      · exact .bind (.set (he.withState ((directParts_unread _ _).trans ht))) fun _ =>
          .bind (noteTensors_onlyReads _) fun _ => .pure _

theorem ldN_onlyReads (a n : Nat) : OnlyReads e (ldN a n) := .bind (ld_onlyReads a n) fun _ => .pure _

theorem ldDesc_onlyReads (a : Nat) : OnlyReads e (ldDesc a) := .bind (ldN_onlyReads a 16) fun _ => .pure _

theorem ldEntries_onlyReads (d : Desc) (a : Nat) : OnlyReads e (ldEntries d a) := by
  unfold ldEntries
  exact .ite (fun _ => .pure _) fun _ => .bind (ld_onlyReads _ _) fun _ => .pure _

theorem ldTile_onlyReads (d : Desc) (a : Nat) : OnlyReads e (ldTile d a) := by
  unfold ldTile
  refine .bind (ldEntries_onlyReads d a) fun _ => .ite (fun _ => ?_) fun _ => ?_
  · exact .bind (ld_onlyReads _ _) fun _ => .pure _
  · exact .bind (ld_onlyReads _ _) fun _ => .bind (ldN_onlyReads _ _) fun _ => .pure _

theorem ldSparse_onlyReads (d : Desc) (a k n : Nat) : OnlyReads e (ldSparse d a k n) :=
  .bind (ld_onlyReads _ _) fun _ => .bind (ld_onlyReads _ _) fun _ => .bind (ld_onlyReads _ _) fun _ => .pure _

theorem badCode_onlyReads : OnlyReads e (onS (·.stick NUM_STAT_BAD_CODE)) :=
  onS_onlyReads fun _ => unread_set (.inr (.inr (by decide)))

theorem mloadOne_onlyReads (mode x3 : Nat) (arrs : List Nat) (t : Nat) (d : Desc) (a k n : Nat) :
    OnlyReads e (mloadOne mode x3 arrs t d a k n) := by
  unfold mloadOne
  refine .ite (fun _ => ?_) fun _ => ?_
  · exact .bind (ldSparse_onlyReads _ _ _ _) fun b => .ite (fun _ => .bind badCode_onlyReads fun _ => .pure _) fun _ => .pure _
  · refine .bind (ldTile_onlyReads _ _) fun r => ?_
    refine .ite (fun _ => .bind badCode_onlyReads fun _ => ?_) fun _ => ?_
    all_goals exact .ite (fun _ => .pure _) fun _ => .ite (fun _ => .pure _) fun _ => .pure _

theorem need_onlyReads (b : Bool) (n : Nat) : OnlyReads e (need b n) := need_keeps

theorem ldATiles_onlyReads (a stride akt rows : Nat) (fs : List Feed) : OnlyReads e (ldATiles a stride akt rows fs) := by
  unfold ldATiles
  refine .bind (.forLoop fun w ds => ?_) fun ds => .bind (.forLoop fun w ts => ?_) fun ts => .pure _
  · dsimp only
    split
    · exact .bind (.pure _) fun _ => .bind (need_onlyReads _ _) fun _ => .pure _
    · exact .bind (ldDesc_onlyReads _) fun _ => .bind (need_onlyReads _ _) fun _ => .pure _
  · dsimp only
    split
    · exact .bind (ldTile_onlyReads _ _) fun _ => .ite (fun _ => .bind badCode_onlyReads fun _ => .pure _) fun _ => .pure _
    · exact .pure _

/-- Where a program that only reads ends, only reads have been made. -/
theorem readsOnly_of_run {m : EM α} (hm : OnlyReads e m) {a : α} {e' : Eng} (h : m.run e = (.ok a, e')) :
    ReadsOnly e e' := by
  have := (hm.run e (.refl e)).1
  rwa [h] at this

theorem Ends.reads {m : EM α} {Q : α → Eng → Prop} (h : Ends m e Q) (hm : OnlyReads e m) :
    Ends m e fun a e' => Q a e' ∧ ReadsOnly e e' := by
  obtain ⟨a, e', hrun, hQ⟩ := h
  exact ⟨a, e', hrun, hQ, readsOnly_of_run hm hrun⟩

end Sys2Proof.Machine
end

section
/-! SUPPORT. Loads and stores of untranslated main memory without an error: what they answer. -/

namespace Sys2Proof.Machine

open Sys2Proof

variable {α β : Type}

/-! Blocks of a range. -/

/-- A range that lies in the blocks `fuel` counts is cut into parts that are not empty. -/
theorem blockParts_pos {sz a fuel n : Nat} (hsz : 0 < sz) {x l : Nat} (h : (x, l) ∈ blockParts sz a fuel n) : 0 < l := by
  induction fuel generalizing a n with
  | zero => cases h
  | succ f ih =>
    rw [blockParts] at h
    split at h
    · cases h
    · have := Nat.mod_lt a hsz
      rcases List.mem_cons.mp h with h | h
      · simp only [Prod.mk.injEq] at h
        omega
      · exact ih h

/-- What is left of a range behind its first block lies in one block less. -/
theorem blocks_behind {sz a fuel n : Nat} (hsz : 0 < sz) (h : a % sz + n ≤ (fuel + 1) * sz) :
    n - min n (sz - a % sz) = 0 ∨ (a + min n (sz - a % sz)) % sz + (n - min n (sz - a % sz)) ≤ fuel * sz := by
  have hmod := Nat.mod_lt a hsz
  rcases Nat.le_total n (sz - a % sz) with hn | hn
  · exact .inl (by omega)
  · right
    have hdvd : (a + (sz - a % sz)) % sz = 0 := by
      have hsum : a + (sz - a % sz) = sz * (a / sz + 1) := by
        have := Nat.div_add_mod a sz
        rw [Nat.mul_add, Nat.mul_one]
        omega
      rw [hsum, Nat.mul_mod_right]
    rw [Nat.min_eq_right hn, hdvd]
    rw [Nat.add_mul, Nat.one_mul] at h
    omega

theorem blockParts_zero (sz a fuel : Nat) : blockParts sz a fuel 0 = [] := by
  cases fuel <;> simp [blockParts]

theorem rdBytes_append (s : State) (a m n : Nat) : s.rdBytes a (m + n) = s.rdBytes a m ++ s.rdBytes (a + m) n := by
  induction m generalizing a with
  | zero => simp [State.rdBytes]
  | succ m ih =>
    rw [Nat.succ_add, State.rdBytes, State.rdBytes, ih, List.cons_append, Nat.add_right_comm, Nat.add_assoc]

theorem flatMap_rdBytes_blockParts (s : State) {sz : Nat} (hsz : 0 < sz) {a fuel n : Nat}
    (h : a % sz + n ≤ fuel * sz) : ((blockParts sz a fuel n).flatMap fun p => s.rdBytes p.1 p.2) = s.rdBytes a n := by
  induction fuel generalizing a n with
  | zero =>
    obtain rfl : n = 0 := by omega
    rfl
  | succ f ih =>
    rcases Nat.eq_zero_or_pos n with rfl | hn
    · rw [blockParts_zero]
      rfl
    · rw [blockParts, if_neg (by omega)]
      dsimp only
      have hlen : min n (sz - a % sz) + (n - min n (sz - a % sz)) = n := by omega
      rw [List.flatMap_cons]
      conv_rhs => rw [← hlen, rdBytes_append]
      congr 1
      rcases blocks_behind hsz h with h0 | hle
      · rw [h0, blockParts_zero]
        rfl
      · exact ih hle

theorem pageParts_fuel (a n : Nat) {sz : Nat} (hsz : 0 < sz) : a % sz + n ≤ (n / sz + 2) * sz := by
  have h1 := Nat.mod_lt a hsz
  have h2 := Nat.mod_lt n hsz
  have h3 := Nat.div_add_mod n sz
  rw [Nat.add_mul, Nat.mul_comm]
  omega

/-! Accesses of main memory. -/

theorem areaOf_of_main {a : Nat} (h : a < 0x10E00000000) : areaOf a = .main := if_pos h

theorem resolveParts_of_main {s : State} {c : Ctx} (ht : c.t = false) (wr : Bool) {l : List (Nat × Nat)}
    (h : ∀ p ∈ l, 0 < p.2 ∧ inMain p.1 p.2) : resolveParts s c wr l = (.ok l, s) := by
  induction l with
  | nil => rfl
  | cons p l ih =>
    obtain ⟨hpos, hmain⟩ := h p (by simp)
    have hallowed (x : Nat) (hx : x < 0x10E00000000) : allowed s c x = .ok () := by
      simp only [allowed, areaOf_of_main hx]
    simp only [resolveParts, resolve1, ht, Bool.false_and, Bool.false_eq_true, if_false, hallowed p.1 (by omega),
      hallowed (p.1 + p.2 - 1) (by omega), ih fun x hx => h x (by simp [hx])]

/-- The parts of an access of main memory. -/
def pageParts (a n : Nat) : List (Nat × Nat) := blockParts (2 ^ 21) a (n / 2 ^ 21 + 2) n

theorem pageParts_main {a n : Nat} (h : inMain a n) : ∀ p ∈ pageParts a n, 0 < p.2 ∧ inMain p.1 p.2 := fun p hp => by
  have hin := blockParts_mem (x := p.1) (l := p.2) hp
  exact ⟨blockParts_pos (x := p.1) (by decide) hp, by omega⟩

theorem resolve_of_main {s : State} {c : Ctx} (ht : c.t = false) {a n : Nat} (wr : Bool) (h : inMain a n) :
    resolve s c a n wr = (.ok (pageParts a n), s) :=
  resolveParts_of_main ht wr (pageParts_main h)

variable {e : Eng}

theorem place_run_of_main (ht : e.ctx.t = false) {a n : Nat} (wr : Bool) (h : inMain a n) :
    (place a n wr).run e = (.ok (.inl (pageParts a n)), e) := by
  unfold place
  simp only [run_getBind, resolve_of_main ht wr h, run_setBind]
  rfl

theorem ueRange_of_free {s : State} {a n : Nat} (h : ∀ b, a ≤ b → b < a + n → ueAt s b = false) :
    ueRange s a n = false := by
  rcases Nat.eq_zero_or_pos n with rfl | hn
  · rfl
  · have hlater : (upto (n / 64 + 1)).any (fun k => decide ((a / 64 + k + 1) * 64 < a + n)
        && ueAt s ((a / 64 + k + 1) * 64)) = false := by
      rw [List.any_eq_false]
      intro k _ hk
      simp only [Bool.and_eq_true, decide_eq_true_eq] at hk
      rw [h _ (by omega) hk.1] at hk
      exact Bool.false_ne_true hk.2
    simp only [ueRange, h a (Nat.le_refl a) (by omega), Bool.false_or, hlater, Bool.and_false]

/-- The engine uses local addresses, and no byte of main memory has an error. -/
structure FreeMain (e : Eng) : Prop where
  untranslated : e.ctx.t = false
  sound : ∀ a, a < 0x10E00000000 → ueAt e.s a = false

theorem FreeMain.of_reads {e' : Eng} (h : FreeMain e) (hr : ReadsOnly e e') : FreeMain e' :=
  ⟨hr.ctx ▸ h.untranslated, fun a ha => (ueAt_of_unread hr.state a).trans (h.sound a ha)⟩

theorem freeMain_of_freeMem {s : State} {q : Nat} (c : Cmd) (h : freeMem s q) : FreeMain ⟨s, c, ctxOfQ s q, false⟩ := by
  obtain ⟨ht, -, hpoison, -, hretired⟩ := h
  refine ⟨ht, fun a ha => ?_⟩
  simp [ueAt, areaOf_of_main ha, poisonedAt, hpoison, hretired]

/-- A load of main memory without an error answers its bytes, and only reads. -/
theorem ld_ends (hfree : FreeMain e) {a n : Nat} (h : inMain a n) :
    Ends (ld a n) e fun d e' => d = e.s.rdBytes a n ∧ ReadsOnly e e' := by
  refine Ends.reads ?_ (ld_onlyReads a n)
  unfold ld
  rcases Nat.eq_zero_or_pos n with rfl | hn
  · exact .pure rfl
  · rw [if_neg (by omega)]
    refine .bind (R := fun r e' => r = .inl (pageParts a n) ∧ e' = e)
      ⟨_, _, place_run_of_main hfree.untranslated false h, rfl, rfl⟩ fun r e' ⟨hr, he⟩ => ?_
    subst hr he
    have hue : ((pageParts a n).any fun p => ueRange e'.s p.1 p.2) = false := by
      rw [List.any_eq_false]
      intro p hp
      obtain ⟨-, hmain⟩ := pageParts_main h p hp
      simpa using ueRange_of_free fun b _ hb => hfree.sound b (by omega)
    have hdata {t : State} (ht : t.unread = e'.s.unread) :
        ((pageParts a n).flatMap fun p => t.rdBytes p.1 p.2) = e'.s.rdBytes a n := by
      simp only [rdBytes_of_unread ht]
      exact flatMap_rdBytes_blockParts _ (by decide) (pageParts_fuel _ _ (by decide))
    have ht := touchAll_unread e'.s (pageParts a n)
    refine .bind (R := fun e₁ e₂ => e₁ = e' ∧ e₂ = e') ⟨e', e', rfl, rfl, rfl⟩ fun e₁ e₂ ⟨h₁, h₂⟩ => ?_
    subst h₁ h₂
    simp only [hue, Bool.false_eq_true, if_false]
    split
    · exact ⟨_, _, rfl, hdata ((demandParts_unread _ _ _ _).trans ht)⟩
    · exact ⟨_, _, rfl, hdata ((directParts_unread _ _).trans ht)⟩

theorem ldN_ends (hfree : FreeMain e) {a n : Nat} (h : inMain a n) :
    Ends (ldN a n) e fun v e' => v = e.s.rdN a n ∧ ReadsOnly e e' :=
  .bind (ld_ends hfree h) fun _ _ ⟨hd, hr⟩ => .pure ⟨hd ▸ rfl, hr⟩

end Sys2Proof.Machine
end

section
/-! SUPPORT. Operand tiles (R142, R143, R221): a tile that lies in main memory without an error is read. -/

namespace Sys2Proof.Machine

open Sys2Proof

variable {α β : Type} {e : Eng}

/-! Sizes. -/

theorem Desc.nv_dvd (d : Desc) : 16 ∣ d.nv := by
  unfold Desc.nv
  split <;> decide

theorem Desc.vec_le_nv {v : Nat} (h : (descOf v).ok = true) : (descOf v).vec ≤ (descOf v).nv := by
  simp only [descOf, Bool.and_eq_true, decide_eq_true_eq] at h
  obtain ⟨⟨⟨-, hle⟩, -⟩, -⟩ := h
  exact hle

/-- The bases of block-scaled formats have at most 8 bits an element. -/
theorem baseOf_w_le {b : Nat} {x : Base} (h : baseOf b = some x) : x.w ≤ 8 := by
  unfold baseOf at h
  split at h <;> cases h <;> decide

theorem elemW_mul_nv_le (d : Desc) (be : BlockEntry) : elemW d.fmt be * d.nv ≤ 8 * d.slot := by
  have hw : elemW d.fmt be * 32 ≤ 8 * (if fmtScaled d.fmt then slotBytes d.fmt else 32 * fmtBytes d.fmt) := by
    unfold elemW
    split
    · cases hmixed : fmtMixed d.fmt with
      | true =>
        have hslot : slotBytes d.fmt = 32 := if_pos hmixed
        simp only [if_true, hslot]
        split
        · split
          · next hb => have := baseOf_w_le hb; omega
          · omega
        · omega
      | false =>
        have hslot : slotBytes d.fmt = match baseOf (fmtBase d.fmt) with | some b => 4 * b.w | none => 0 := by
          rw [slotBytes, hmixed]
          rfl
        rw [hslot]
        simp only [Bool.false_eq_true, if_false]
        cases baseOf (fmtBase d.fmt) <;> simp only <;> omega
    · omega
  unfold Desc.nv Desc.slot
  split <;> dsimp only <;> omega

theorem countOf_le {p : α → Bool} (l : List α) : countOf p l ≤ l.length := List.length_filter_le p l

/-- The present codes of a tile fill at most its dense slots. -/
theorem presentBits_le (d : Desc) (l : List (BlockEntry × Nat)) (n : Nat) :
    l.foldl (fun n eb => n + elemW d.fmt eb.1 * countOf (fun i => eb.2.testBit i) (upto d.nv)) n
      ≤ n + l.length * (8 * d.slot) := by
  induction l generalizing n with
  | nil => simp
  | cons eb l ih =>
    have hcount := countOf_le (p := fun i => eb.2.testBit i) (upto d.nv)
    rw [upto_length] at hcount
    have hle := (Nat.mul_le_mul_left (elemW d.fmt eb.1) hcount).trans (elemW_mul_nv_le d eb.1)
    rw [List.foldl_cons, List.length_cons, Nat.add_mul, Nat.one_mul]
    have := ih (n + elemW d.fmt eb.1 * countOf (fun i => eb.2.testBit i) (upto d.nv))
    omega

theorem Desc.entries_le (d : Desc) : 16 + d.entries + d.nv * d.slot = d.size := rfl

theorem Desc.vec_mul_slot_le {d : Desc} (h : d.vec ≤ d.nv) : d.vec * d.slot ≤ d.nv * d.slot := Nat.mul_le_mul_right _ h

/-! Reads. -/

theorem ldDesc_ends (hfree : FreeMain e) {a : Nat} (h : inMain a 16) :
    Ends (ldDesc a) e fun d e' => d = descOf (e.s.rdN a 16) ∧ ReadsOnly e e' :=
  .bind (ldN_ends hfree h) fun _ _ ⟨hv, hr⟩ => .pure ⟨hv ▸ rfl, hr⟩

theorem ldEntries_ends (hfree : FreeMain e) {d : Desc} {a : Nat} (hvec : d.vec ≤ d.nv) (h : inMain a (16 + d.entries)) :
    Ends (ldEntries d a) e fun l e' => l.length = d.nv ∧ ReadsOnly e e' := by
  unfold ldEntries
  cases hs : fmtScaled d.fmt with
  | false => exact .pure ⟨List.length_replicate, .refl e⟩
  | true =>
    have hent : d.entries = 4 * d.nv := if_pos hs
    refine .bind (ld_ends hfree (by omega)) fun b e' ⟨_, hr⟩ => .pure ⟨?_, hr⟩
    rw [List.length_map, upto_length]

/-- A tile that has room for its dense form, and if it is compressed for its bitmaps too, is read. -/
theorem ldTile_ends (hfree : FreeMain e) {d : Desc} {a : Nat} (hvec : d.vec ≤ d.nv)
    (h : inMain a (d.size + if d.dense then 0 else 128)) :
    Ends (ldTile d a) e fun r e' => r.d = d ∧ ReadsOnly e e' := by
  have hsize := d.entries_le
  unfold ldTile
  refine .bind (ldEntries_ends hfree hvec (by omega)) fun ents e₁ ⟨hlen, hr₁⟩ => ?_
  have hfree₁ := hfree.of_reads hr₁
  cases hd : d.dense with
  | true =>
    have := Desc.vec_mul_slot_le hvec
    exact .bind (ld_ends hfree₁ (by omega)) fun b e₂ ⟨_, hr₂⟩ => .pure ⟨rfl, hr₁.trans hr₂⟩
  | false =>
    have hmaps : d.nv * (d.nv / 8) ≤ 128 := by
      unfold Desc.nv
      split <;> decide
    simp only [hd, Bool.false_eq_true, if_false] at h ⊢
    refine .bind (ld_ends hfree₁ (by omega)) fun bm e₂ ⟨_, hr₂⟩ => ?_
    have hstream (maps : List Nat) : roundUp 16 (((ents.zip maps).foldl
        (fun n eb => n + elemW d.fmt eb.1 * countOf (fun i => eb.2.testBit i) (upto d.nv)) 0 + 7) / 8)
        ≤ d.nv * d.slot := by
      have hbits := presentBits_le d (ents.zip maps) 0
      have hzip : (ents.zip maps).length ≤ d.nv := by
        rw [List.length_zip]
        omega
      have hmul : (ents.zip maps).length * (8 * d.slot) ≤ 8 * (d.nv * d.slot) := by
        rw [Nat.mul_left_comm]
        exact Nat.mul_le_mul_left 8 (Nat.mul_le_mul_right _ hzip)
      obtain ⟨m, hm⟩ := d.nv_dvd.mul_right d.slot
      rw [roundUp, if_neg (by decide)]
      omega
    have := hstream ((upto d.nv).map fun v => if v < d.vec then leNat ((bm.drop (d.nv / 8 * v)).take (d.nv / 8)) else 0)
    exact .bind (ldN_ends (hfree₁.of_reads hr₂) (by omega)) fun _ e₃ ⟨_, hr₃⟩ =>
      .pure ⟨rfl, (hr₁.trans hr₂).trans hr₃⟩

end Sys2Proof.Machine
end

section
/-! SUPPORT. MLOAD (R148): its run of reads, and the planes it fills. -/

namespace Sys2Proof.Machine

open Sys2Proof

variable {α β : Type} {e : Eng}

theorem Ends.mapList {I : Eng → Prop} {R : α → β → Prop} {l : List α} {f : α → EM β}
    (hf : ∀ a ∈ l, ∀ e, I e → Ends (f a) e fun b e' => R a b ∧ I e') {e : Eng} (he : I e) :
    Ends (l.mapM f) e fun bs e' => List.Forall₂ R l bs ∧ I e' := by
  induction l generalizing e with
  | nil => exact .pure ⟨.nil, he⟩
  | cons a l ih =>
    rw [List.mapM_cons]
    refine .bind (hf a (by simp) e he) fun b e₁ ⟨hb, he₁⟩ => ?_
    exact .bind (ih (fun x hx => hf x (by simp [hx])) he₁) fun bs e₂ ⟨hbs, he₂⟩ => .pure ⟨.cons hb hbs, he₂⟩

theorem eq_map_of_forall₂ {f : α → β} {l : List α} {l' : List β} (h : List.Forall₂ (fun a b => b = f a) l l') :
    l' = l.map f := by
  induction h with
  | nil => rfl
  | cons h _ ih => rw [h, ih, List.map_cons]

/-! The tiles of an MLOAD. -/

/-- Where tile `t` of an MLOAD goes: the place of its array in the mask, its quad, and its BF16x3 part (R148). -/
def tileSlots (mode x3 t : Nat) : List (Nat × Nat × Nat) :=
  if mode = 2 then [(t, 0, 0)]
  else if mode = 1 then [(t / 4, t % 4, 0)]
  else if x3 = 1 then (upto 3).map fun p => (3 * t + p, 0, p + 1)
  else [(t, 0, 0)]

theorem mem_tileSlots_of_x3 {mode x3 t : Nat} (h2 : mode ≠ 2) (h1 : mode ≠ 1) (hx : x3 = 1) {sl : Nat × Nat × Nat} :
    sl ∈ tileSlots mode x3 t ↔ ∃ p, p < 3 ∧ (3 * t + p, 0, p + 1) = sl := by
  simp [tileSlots, h2, h1, hx, upto]

/-- The place and the quad tell the tile and the part. -/
theorem tileSlots_inj {mode x3 t t' i quad part part' : Nat} (h : (i, quad, part) ∈ tileSlots mode x3 t)
    (h' : (i, quad, part') ∈ tileSlots mode x3 t') : t = t' ∧ part = part' := by
  unfold tileSlots at h h'
  split_ifs at h h'
  · simp only [List.mem_singleton, Prod.mk.injEq] at h h'
    omega
  · simp only [List.mem_singleton, Prod.mk.injEq] at h h'
    omega
  · simp only [List.mem_map, upto, List.mem_range, Prod.mk.injEq] at h h'
    omega
  · simp only [List.mem_singleton, Prod.mk.injEq] at h h'
    omega

theorem tileSlots_lt {mode x3 t : Nat} {arrs : List Nat} (ht : t < mloadTiles mode x3 arrs) {sl : Nat × Nat × Nat}
    (h : sl ∈ tileSlots mode x3 t) : sl.1 < arrs.length ∧ sl.2.1 < if mode = 1 then 4 else 1 := by
  obtain ⟨i, quad, part⟩ := sl
  unfold tileSlots at h
  unfold mloadTiles at ht
  split_ifs at h ht ⊢
  all_goals
    simp only [List.mem_singleton, List.mem_map, upto, List.mem_range, Prod.mk.injEq] at h
    dsimp only
    omega

/-- The entry `x` puts into the slot `sl` a tile with the given indices; `t` is its descriptor's scale. -/
structure TileAt (arrs : List Nat) (k n t : Nat) (sl : Nat × Nat × Nat) (x : Nat × Nat × BTile) : Prop where
  arr : x.1 = listGet arrs sl.1 0
  quad : x.2.1 = sl.2.1
  k : x.2.2.k = k
  n : x.2.2.n = n
  part : x.2.2.part = sl.2.2
  scale : x.2.2.t = if sl.2.2 = 0 then t else f32one

theorem ldSparse_ends (hfree : FreeMain e) {d : Desc} {a : Nat} (k n : Nat) (hvec : d.vec ≤ 32)
    (h : inMain a (16 + 256 + 32 * d.slot + 256)) :
    Ends (ldSparse d a k n) e fun r e' => (r.1.k = k ∧ r.1.n = n ∧ r.1.part = 0 ∧ r.1.t = d.t) ∧ ReadsOnly e e' := by
  have hslots : d.vec * d.slot ≤ 32 * d.slot := Nat.mul_le_mul_right _ hvec
  refine .bind (ld_ends hfree (by omega)) fun _ e₁ ⟨_, hr₁⟩ => ?_
  have hfree₁ := hfree.of_reads hr₁
  refine .bind (ld_ends hfree₁ (by omega)) fun _ e₂ ⟨_, hr₂⟩ => ?_
  refine .bind (ld_ends (hfree₁.of_reads hr₂) (by omega)) fun _ e₃ ⟨_, hr₃⟩ => ?_
  exact .pure ⟨⟨rfl, rfl, rfl, rfl⟩, (hr₁.trans hr₂).trans hr₃⟩

/-- To note a bad code is no more than a read. -/
theorem Ends.afterBadCode {m : EM α} {Q : α → Eng → Prop} (b : Bool) (hm : ∀ e', ReadsOnly e e' → Ends m e' Q) :
    Ends (if b = true then onS (·.stick NUM_STAT_BAD_CODE) >>= fun _ => m else m) e Q := by
  cases b with
  | true => exact .bind ⟨(), _, rfl, readsOnly_of_run badCode_onlyReads rfl⟩ fun _ e' hr => hm e' hr
  | false => exact hm e (.refl e)

theorem mloadOne_ends (hfree : FreeMain e) {mode x3 t a k n : Nat} {arrs : List Nat} {d : Desc}
    (hvec : d.vec ≤ d.nv) (hok : mloadDescOk mode x3 d = true)
    (h : inMain a (if mode = 2 then 16 + 256 + 32 * d.slot + 256 else d.size)) :
    Ends (mloadOne mode x3 arrs t d a k n) e fun l e' =>
      List.Forall₂ (TileAt arrs k n d.t) (tileSlots mode x3 t) l ∧ ReadsOnly e e' := by
  simp only [mloadDescOk, Bool.and_eq_true, beq_iff_eq] at hok
  obtain ⟨⟨⟨⟨⟨-, hdense⟩, -⟩, hqh⟩, -⟩, -⟩ := hok
  unfold mloadOne tileSlots
  rcases eq_or_ne mode 2 with rfl | h2
  · have hnv : d.nv = 32 := by rw [Desc.nv, hqh]; rfl
    simp only [if_true] at h ⊢
    refine .bind (ldSparse_ends hfree k n (by omega) h) fun r e₁ ⟨⟨hk, hn, hpart, ht⟩, hr₁⟩ => ?_
    exact .afterBadCode _ fun e₂ hr₂ => .pure ⟨.cons ⟨rfl, rfl, hk, hn, hpart, ht⟩ .nil, hr₁.trans hr₂⟩
  · simp only [if_neg h2] at h ⊢
    refine .bind (ldTile_ends hfree hvec (by simpa [hdense] using h)) fun r e₁ ⟨hd, hr₁⟩ => ?_
    refine .afterBadCode _ fun e₂ hr₂ => ?_
    have ht : (tileOf r k n).t = d.t := congrArg Desc.t hd
    split_ifs
    · exact .pure ⟨.cons ⟨rfl, rfl, rfl, rfl, rfl, ht⟩ .nil, hr₁.trans hr₂⟩
    · refine .pure ⟨?_, hr₁.trans hr₂⟩
      rw [List.forall₂_map_left_iff, List.forall₂_map_right_iff, List.forall₂_same]
      exact fun p _ => ⟨rfl, rfl, rfl, rfl, rfl, rfl⟩
    · exact .pure ⟨.cons ⟨rfl, rfl, rfl, rfl, rfl, ht⟩ .nil, hr₁.trans hr₂⟩

end Sys2Proof.Machine
end

section
/-! SUPPORT. Commands of units that have finished (R300). -/

namespace Sys2Proof.Machine

open Sys2Proof

variable {s : State} {q : Nat} {c : Cmd} {e : Eng} {body : EM Unit}

theorem runBody_eq_finish (h : bodyEnds s q c body e) : runBody s q c body = finish q e 0 := by
  simp only [runBody, show body.run _ = _ from h]

@[simp] theorem finish_mc (q : Nat) (e : Eng) (n m : Nat) : (finish q e n).mc m = e.s.mc m := rfl

theorem started_of_unitCmd {opc : Nat} (h : unitCmd s q opc = some c) : c ∈ (s.q q).started := by
  simp only [unitCmd] at h
  split at h
  · cases h
  · split at h
    · cases h
    · next d hd =>
      have hmem := List.mem_of_find?_eq_some hd
      split_ifs at h
      rw [← Option.some.inj h]
      exact hmem

/-- A started command that its unit stores back is found in its new form. -/
theorem findCmd_putCmd {d : Cmd} (hc : c ∈ (s.q q).started) (hd : d.seq = c.seq) :
    (putCmd s q d).findCmd q c.seq = some d := by
  have hq : (putCmd s q d).q q = { s.q q with started := (s.q q).started.map fun x => if x.seq == d.seq then d else x } := by
    simp [putCmd, State.updCmd, State.q, State.setQ]
  rw [State.findCmd, hq]
  dsimp only
  generalize (s.q q).started = l at hc
  induction l with
  | nil => cases hc
  | cons x l ih =>
    rw [List.map_cons, List.find?_cons]
    by_cases hx : x.seq = d.seq
    · simp [hx, hd]
    · have hxc : x.seq ≠ c.seq := hd ▸ hx
      have hl : c ∈ l := (List.mem_cons.mp hc).resolve_left fun h => hxc (h ▸ rfl)
      rw [if_neg (by simpa using hx), beq_eq_false_iff_ne.mpr hxc]
      exact ih hl

/-- The command of a body that comes to its end and awaits no answer finishes with 0x00 (R300). -/
theorem commandDone_of_bodyEnds {opc : Nat} (hcmd : unitCmd s q opc = some c) (hend : bodyEnds s q c body e)
    (hq : e.s.q q = s.q q) (hsame : SameCmd c e.cmd) (hwaits : c.waits = 0) (hbad : e.bad = false) :
    commandDone (runBody s q c body) q c 0 := by
  rw [runBody_of_bodyEnds hend (hsame.waits.trans hwaits), hbad]
  exact ⟨_, findCmd_putCmd (hq ▸ started_of_unitCmd hcmd) hsame.seq, hsame.raw, rfl⟩

end Sys2Proof.Machine
end

section
/-! SUPPORT. MLOAD (R148): the run of its body and the planes it fills. -/

namespace Sys2Proof.Machine

open Sys2Proof

variable {s : State} {q : Nat} {c : Cmd} {e : Eng}

theorem exec_mload_of_taken (hcmd : unitCmd s q 0x20 = some c) (hfree : shadowBusy s q c.raw.toNat = false) :
    exec (.mload q) s = .next (runBody s q c (mloadBody q)) := by
  show execMload q s = _
  simp [execMload, hcmd, hfree]

/-- The plane that command `seq` of queue `q` loads into array `a` from the tiles `all` that it has read. -/
def loadedPlane (q seq mode : Nat) (all : List (Nat × Nat × BTile)) (a : Nat) : Plane :=
  ⟨q, seq, mode, (upto (if mode = 1 then 4 else 1)).map fun i => (all.find? fun x => x.1 == a && x.2.1 == i).map (·.2.2)⟩

/-- Planes put into the shadow planes of some arrays. -/
def McSt.fillShadows (x : McSt) (arrs : List Nat) (plane : Nat → Plane) : McSt :=
  let planes := arrs.map fun a => (a, plane a)
  { x with arrays := planes.foldl (fun m ap => upd m ap.1 ⟨none, none⟩ fun st => { st with shadow := some ap.2 }) x.arrays }

theorem arr_fillShadows (x : McSt) (arrs : List Nat) (plane : Nat → Plane) (a : Nat) :
    (x.fillShadows arrs plane).arr a = if a ∈ arrs then { x.arr a with shadow := some (plane a) } else x.arr a := by
  unfold McSt.fillShadows McSt.arr
  dsimp only
  generalize x.arrays = m
  induction arrs generalizing m with
  | nil => simp
  | cons b l ih =>
    rw [List.map_cons, List.foldl_cons, ih]
    by_cases hb : a = b
    · subst hb
      by_cases hl : a ∈ l <;> simp [hl, upd]
    · simp [hb, upd, lookD_ins_ne]

/-- What MLOAD does once its tiles are read: the planes of its arrays, and nothing else of the state. -/
structure Fills (q : Nat) (all : List (Nat × Nat × BTile)) (e e' : Eng) : Prop where
  state : e'.s = e.s.setMc (mcHome e.s q) ((e.s.mc (mcHome e.s q)).fillShadows (maskBits (cf e.cmd.raw.toNat 16 0 16))
    (loadedPlane q e.cmd.seq (cf e.cmd.raw.toNat 18 0 2) all))
  cmd : SameCmd e.cmd e'.cmd
  bad : e'.bad = e.bad

/-- MLOAD reads, and then fills planes. -/
theorem mloadBody_fills {e' : Eng} (h : (mloadBody q).run e = (.ok (), e')) :
    ∃ all e₁, ReadsOnly e e₁ ∧ Fills q all e₁ e' := by
  unfold mloadBody at h
  simp only [run_fldBind] at h
  obtain ⟨descs, e₁, hdescs, h⟩ := run_bind_eq_ok h
  obtain ⟨parts, e₂, hparts, h⟩ := run_bind_eq_ok h
  have hr₁ : ReadsOnly e e₁ := readsOnly_of_run (.mapList fun t => .bind (notHost_onlyReads _) fun _ =>
    .bind (ldDesc_onlyReads _) fun _ => .bind (need_onlyReads _ _) fun _ => .pure _) hdescs
  have hr₂ : ReadsOnly e₁ e₂ := readsOnly_of_run (.mapList fun dt => mloadOne_onlyReads _ _ _ _ _ _ _ _) hparts
  refine ⟨parts.flatten, e₂, hr₁.trans hr₂, ?_⟩
  rw [← (hr₁.trans hr₂).cmd.raw] at h
  simp only [run_getBind, run_getsBind, run_onSBind, run_countCBind, run_onC] at h
  obtain rfl := (Prod.mk.inj h).2
  exact ⟨rfl, ⟨rfl, rfl, rfl⟩, rfl⟩

end Sys2Proof.Machine
end

section
/-! SUPPORT. MLOAD (R148): its frame, and the tiles that it reads. -/

namespace Sys2Proof.Machine

open Sys2Proof

variable {s : State} {q : Nat} {c : Cmd} {e : Eng}

@[simp] theorem mc_setMc_self (s : State) (m : Nat) (x : McSt) : (s.setMc m x).mc m = x := lookD_ins_self _ _ _ _

theorem mc_setMc_ne (s : State) {m k : Nat} (x : McSt) (h : k ≠ m) : (s.setMc m x).mc k = s.mc k := lookD_ins_ne _ _ _ h

/-- The planes, accumulators and memory of a state in which an MLOAD has filled its planes. -/
theorem mload_frame {e₁ e' : Eng} {all : List (Nat × Nat × BTile)} (hr : ReadsOnly ⟨s, c, ctxOfQ s q, false⟩ e₁)
    (hf : Fills q all e₁ e') :
    (∀ a, (e'.s.mc (mcHome s q)).arr a =
        if a ∈ maskBits (cf c.raw.toNat 16 0 16) then
          { (s.mc (mcHome s q)).arr a with shadow := some (loadedPlane q c.seq (cf c.raw.toNat 18 0 2) all a) }
        else (s.mc (mcHome s q)).arr a)
      ∧ (e'.s.mc (mcHome s q)).acc = (s.mc (mcHome s q)).acc ∧ (∀ m, m ≠ mcHome s q → e'.s.mc m = s.mc m)
      ∧ memKept s e'.s := by
  have hstate := hf.state
  rw [mcHome_of_unread hr.state, mc_of_unread hr.state, hr.cmd.raw, hr.cmd.seq] at hstate
  rw [hstate]
  refine ⟨fun a => ?_, ?_, fun m hm => ?_, fun a => rd8_of_unread hr.state a⟩
  · rw [mc_setMc_self, arr_fillShadows]
  · rw [mc_setMc_self]
    rfl
  · rw [mc_setMc_ne _ _ hm, mc_of_unread hr.state]

/-- MLOAD that comes to its end. -/
theorem mload_row (hcmd : unitCmd s q 0x20 = some c) (hfree : shadowBusy s q c.raw.toNat = false)
    (hend : bodyEnds s q c (mloadBody q) e) : ∃ u, exec (.mload q) s = .next u
      ∧ (∀ a ∈ maskBits (cf c.raw.toNat 16 0 16), ∃ p, ((u.mc (mcHome s q)).arr a).shadow = some p
          ∧ p.queue = q ∧ p.seq = c.seq ∧ p.mode = cf c.raw.toNat 18 0 2)
      ∧ (∀ a, ((u.mc (mcHome s q)).arr a).active = ((s.mc (mcHome s q)).arr a).active)
      ∧ (u.mc (mcHome s q)).acc = (s.mc (mcHome s q)).acc ∧ (∀ m, m ≠ mcHome s q → u.mc m = s.mc m) ∧ memKept s u := by
  obtain ⟨all, e₁, hr, hf⟩ := mloadBody_fills hend
  obtain ⟨harr, hacc, hothers, hmem⟩ := mload_frame hr hf
  refine ⟨finish q e 0, (exec_mload_of_taken hcmd hfree).trans (by rw [runBody_eq_finish hend]), fun a ha => ?_, fun a => ?_, hacc,
    hothers, hmem⟩
  · rw [finish_mc, harr, if_pos ha]
    exact ⟨_, rfl, rfl, rfl, rfl⟩
  · rw [finish_mc, harr]
    split <;> rfl

/-! The tiles that MLOAD reads. -/

/-- The descriptor of tile `t` of an MLOAD, its address, and the room that it takes. -/
def tileAddr (raw t : Nat) : Nat := cf raw 24 0 43 + t * cf raw 20 0 32

def tileDesc (s : State) (raw t : Nat) : Desc := descOf (s.rdN (tileAddr raw t) 16)

/-- Tile `t` of an MLOAD can be read. -/
def tileFits (s : State) (raw t : Nat) : Prop :=
  inMain (tileAddr raw t) 16 ∧ mloadDescOk (cf raw 18 0 2) (cf raw 18 2 1) (tileDesc s raw t) = true
    ∧ inMain (tileAddr raw t)
        (if cf raw 18 0 2 = 2 then 16 + 256 + 32 * (tileDesc s raw t).slot + 256 else (tileDesc s raw t).size)

theorem notHost_ends (hfree : FreeMain e) {a : Nat} (h : inMain a 1) :
    Ends (notHost a) e fun _ e' => ReadsOnly e e' := by
  unfold notHost
  refine ⟨(), e, ?_, .refl e⟩
  simp only [run_getBind, resolve_of_main hfree.untranslated false h, run_setBind]
  rfl

/-- What tile `t` of an MLOAD is in the slot `sl`. -/
abbrev TileOfMload (s : State) (raw t : Nat) (sl : Nat × Nat × Nat) (x : Nat × Nat × BTile) : Prop :=
  TileAt (maskBits (cf raw 16 0 16)) (cf raw 34 0 16 + t % cf raw 32 0 16) (cf raw 36 0 16 + t / cf raw 32 0 16)
    (tileDesc s raw t).t sl x

/-- The tiles of an MLOAD, each with what it puts into its slots. -/
def TilesOfMload (s : State) (raw n : Nat) (parts : List (List (Nat × Nat × BTile))) : Prop :=
  List.Forall₂ (fun t l => List.Forall₂ (TileOfMload s raw t) (tileSlots (cf raw 18 0 2) (cf raw 18 2 1) t) l)
    (upto n) parts

theorem zipIdx_map_upto {α : Type} (f : Nat → α) (n : Nat) : ((upto n).map f).zipIdx = (upto n).map fun t => (f t, t) :=
  List.ext_getElem (by simp) fun i _ _ => by simp [upto]

theorem readDesc_ends (hfree : FreeMain e) {raw t : Nat} (hread : e.s.unread = s.unread) (hfit : tileFits s raw t) :
    Ends (do
      notHost (tileAddr raw t)
      let d ← ldDesc (tileAddr raw t)
      need (mloadDescOk (cf raw 18 0 2) (cf raw 18 2 1) d) 0x10
      return d) e fun d e' => d = tileDesc s raw t ∧ ReadsOnly e e' := by
  obtain ⟨hdesc, hok, -⟩ := hfit
  refine .bind (notHost_ends hfree (by omega)) fun _ e₁ hr₁ => ?_
  refine .bind (ldDesc_ends (hfree.of_reads hr₁) hdesc) fun d e₂ ⟨hd, hr₂⟩ => ?_
  have hd' : d = tileDesc s raw t := by
    rw [hd, tileDesc, State.rdN, State.rdN, rdBytes_of_unread (hr₁.state.trans hread)]
  exact .needBind (hd' ▸ hok) (.pure ⟨hd', hr₁.trans hr₂⟩)

/-- MLOAD whose tiles can be read comes to its end, and fills its planes with them. -/
theorem mloadBody_ends (hfree : FreeMain e) {raw n : Nat} (hraw : e.cmd.raw.toNat = raw)
    (hn : n = mloadTiles (cf raw 18 0 2) (cf raw 18 2 1) (maskBits (cf raw 16 0 16)))
    (hfit : ∀ t, t < n → tileFits e.s raw t) :
    Ends (mloadBody q) e fun _ e' =>
      ∃ parts e₁, ReadsOnly e e₁ ∧ TilesOfMload e.s raw n parts ∧ Fills q parts.flatten e₁ e' := by
  subst hraw hn
  unfold mloadBody
  simp only [Ends, run_fldBind]
  have hfit' (t : Nat) (ht : t ∈ upto (mloadTiles (cf e.cmd.raw.toNat 18 0 2) (cf e.cmd.raw.toNat 18 2 1)
      (maskBits (cf e.cmd.raw.toNat 16 0 16)))) : tileFits e.s e.cmd.raw.toNat t := hfit t (by simpa [upto] using ht)
  refine Ends.bind (.mapList (I := ReadsOnly e) (R := fun t d => d = tileDesc e.s e.cmd.raw.toNat t)
    (fun t ht e₁ hr₁ => ?_) (.refl e)) fun descs e₁ ⟨hdescs, hr₁⟩ => ?_
  · exact (readDesc_ends (hfree.of_reads hr₁) hr₁.state (hfit' t ht)).mono fun d e₂ ⟨hd, hr₂⟩ => ⟨hd, hr₁.trans hr₂⟩
  · rw [eq_map_of_forall₂ hdescs, zipIdx_map_upto]
    refine Ends.bind (.mapList (I := ReadsOnly e) (R := fun dt l => List.Forall₂ (TileOfMload e.s e.cmd.raw.toNat dt.2)
      (tileSlots (cf e.cmd.raw.toNat 18 0 2) (cf e.cmd.raw.toNat 18 2 1) dt.2) l)
      (fun dt hdt e₁ hr₁ => ?_) hr₁) fun parts e₂ ⟨hparts, hr₂⟩ => ?_
    · obtain ⟨t, ht, rfl⟩ := List.mem_map.mp hdt
      obtain ⟨-, hok, hroom⟩ := hfit' t ht
      have hvec : (tileDesc e.s e.cmd.raw.toNat t).vec ≤ (tileDesc e.s e.cmd.raw.toNat t).nv := by
        simp only [mloadDescOk, Bool.and_eq_true] at hok
        exact Desc.vec_le_nv hok.1.1.1.1.1
      exact (mloadOne_ends (hfree.of_reads hr₁) hvec hok hroom).mono fun l e₂ ⟨hl, hr₂⟩ => ⟨hl, hr₁.trans hr₂⟩
    · simp only [Ends, run_getBind, run_getsBind, run_onSBind, run_countCBind, run_onC]
      refine ⟨_, _, rfl, parts, e₂, hr₂, List.forall₂_map_left_iff.mp hparts, ?_⟩
      rw [← hr₂.cmd.raw]
      exact ⟨rfl, ⟨rfl, rfl, rfl⟩, rfl⟩

end Sys2Proof.Machine
end

section
/-! SUPPORT. MLOAD (R148): where each tile is afterwards. -/

namespace Sys2Proof.Machine

open Sys2Proof

variable {α β : Type} {s : State} {q : Nat} {c : Cmd} {e : Eng}

theorem exists_of_forall₂ {R : α → β → Prop} {l : List α} {l' : List β} (h : List.Forall₂ R l l') {a : α} (ha : a ∈ l) :
    ∃ b ∈ l', R a b := by
  induction h with
  | nil => cases ha
  | cons hab _ ih =>
    rcases List.mem_cons.mp ha with rfl | ha
    · exact ⟨_, List.mem_cons_self, hab⟩
    · obtain ⟨b, hb, hR⟩ := ih ha
      exact ⟨b, List.mem_cons_of_mem _ hb, hR⟩

theorem nodup_maskBits (v : Nat) : (maskBits v).Nodup := List.nodup_range.filter _

theorem listGet_inj {l : List Nat} (hl : l.Nodup) {i j : Nat} (hi : i < l.length) (hj : j < l.length)
    (h : listGet l i 0 = listGet l j 0) : i = j := by
  simp only [listGet, List.getElem?_eq_getElem hi, List.getElem?_eq_getElem hj, Option.getD_some] at h
  exact (List.Nodup.getElem_inj_iff hl).mp h

variable {raw n : Nat} {parts : List (List (Nat × Nat × BTile))}

/-- Each tile's slots are filled. -/
theorem TilesOfMload.filled (h : TilesOfMload s raw n parts) {t : Nat} (ht : t < n) {sl : Nat × Nat × Nat}
    (hsl : sl ∈ tileSlots (cf raw 18 0 2) (cf raw 18 2 1) t) : ∃ x ∈ parts.flatten, TileOfMload s raw t sl x := by
  obtain ⟨l, hl, hslots⟩ := exists_of_forall₂ h (by simpa [upto] using ht : t ∈ upto n)
  obtain ⟨x, hx, hat⟩ := exists_of_forall₂ hslots hsl
  exact ⟨x, List.mem_flatten_of_mem hl hx, hat⟩

/-- Whatever fills a slot is a tile's. -/
theorem TilesOfMload.origin (h : TilesOfMload s raw n parts) {x : Nat × Nat × BTile} (hx : x ∈ parts.flatten) :
    ∃ t < n, ∃ sl ∈ tileSlots (cf raw 18 0 2) (cf raw 18 2 1) t, TileOfMload s raw t sl x := by
  obtain ⟨l, hl, hxl⟩ := List.mem_flatten.mp hx
  obtain ⟨t, ht, hslots⟩ := exists_of_forall₂ h.flip hl
  obtain ⟨sl, hsl, hat⟩ := exists_of_forall₂ hslots.flip hxl
  exact ⟨t, by simpa [upto] using ht, sl, hsl, hat⟩

/-- The slots of a tile in the planes that an MLOAD leaves. -/
theorem tiles_loadedPlane (h : TilesOfMload s raw n parts)
    (hn : n = mloadTiles (cf raw 18 0 2) (cf raw 18 2 1) (maskBits (cf raw 16 0 16))) {t i quad part : Nat} (ht : t < n)
    (hsl : (i, quad, part) ∈ tileSlots (cf raw 18 0 2) (cf raw 18 2 1) t) (seq : Nat) :
    listGet (maskBits (cf raw 16 0 16)) i 0 ∈ maskBits (cf raw 16 0 16)
      ∧ ∃ b, (loadedPlane q seq (cf raw 18 0 2) parts.flatten
          (listGet (maskBits (cf raw 16 0 16)) i 0)).tiles[quad]? = some (some b)
        ∧ b.k = cf raw 34 0 16 + t % cf raw 32 0 16 ∧ b.n = cf raw 36 0 16 + t / cf raw 32 0 16 ∧ b.part = part
        ∧ b.t = if part = 0 then (tileDesc s raw t).t else f32one := by
  obtain ⟨hi, hquad⟩ := tileSlots_lt (hn ▸ ht) hsl
  refine ⟨listGet_mem _ _ _ hi, ?_⟩
  obtain ⟨x, hx, hat⟩ := h.filled ht hsl
  have hfound : (parts.flatten.find? fun x => x.1 == listGet (maskBits (cf raw 16 0 16)) i 0 && x.2.1 == quad).isSome := by
    rw [List.find?_isSome]
    exact ⟨x, hx, by simp [hat.arr, hat.quad]⟩
  obtain ⟨y, hy⟩ := Option.isSome_iff_exists.mp hfound
  have hslot := List.find?_some hy
  simp only [Bool.and_eq_true, beq_iff_eq] at hslot
  obtain ⟨t', ht', ⟨i', quad', part'⟩, hsl', hat'⟩ := h.origin (List.mem_of_find?_eq_some hy)
  obtain ⟨hi', -⟩ := tileSlots_lt (hn ▸ ht') hsl'
  obtain rfl : i' = i := listGet_inj (nodup_maskBits _) hi' hi (hat'.arr.symm.trans hslot.1)
  obtain rfl : quad' = quad := hat'.quad.symm.trans hslot.2
  obtain ⟨rfl, rfl⟩ := tileSlots_inj hsl hsl'
  refine ⟨y.2.2, ?_, hat'.k, hat'.n, hat'.part, hat'.scale⟩
  have hupto : (upto (if cf raw 18 0 2 = 1 then 4 else 1))[quad']? = some quad' := List.getElem?_range hquad
  simp only [loadedPlane, List.getElem?_map, hupto, Option.map_some, hy]

/-- MLOAD whose tiles can be read: it finishes with 0x00, and each slot holds its tile. -/
theorem mload_row_of_fits (hcmd : unitCmd s q 0x20 = some c) (hbusy : shadowBusy s q c.raw.toNat = false)
    (hwaits : c.waits = 0) (hmem : freeMem s q) (hraw : c.raw.toNat = raw)
    (hn : n = mloadTiles (cf raw 18 0 2) (cf raw 18 2 1) (maskBits (cf raw 16 0 16)))
    (hfit : ∀ t, t < n → tileFits s raw t) :
    ∃ u, exec (.mload q) s = .next u ∧ commandDone u q c 0
      ∧ (∀ t, t < n → ∀ i quad part, (i, quad, part) ∈ tileSlots (cf raw 18 0 2) (cf raw 18 2 1) t →
          ∃ p b, ((u.mc (mcHome s q)).arr (listGet (maskBits (cf raw 16 0 16)) i 0)).shadow = some p
            ∧ p.tiles[quad]? = some (some b) ∧ b.k = cf raw 34 0 16 + t % cf raw 32 0 16
            ∧ b.n = cf raw 36 0 16 + t / cf raw 32 0 16 ∧ b.part = part
            ∧ b.t = if part = 0 then (tileDesc s raw t).t else f32one)
      ∧ (∀ a, ((u.mc (mcHome s q)).arr a).active = ((s.mc (mcHome s q)).arr a).active)
      ∧ (u.mc (mcHome s q)).acc = (s.mc (mcHome s q)).acc ∧ memKept s u := by
  obtain ⟨⟨⟩, e', hend, parts, e₁, hr, htiles, hf⟩ :=
    mloadBody_ends (q := q) (freeMain_of_freeMem c hmem) hraw hn hfit
  obtain ⟨harr, hacc, -, hkept⟩ := mload_frame hr hf
  have hq : e'.s.q q = s.q q := by
    rw [hf.state]
    exact q_of_unread hr.state q
  have hdone := commandDone_of_bodyEnds hcmd hend hq (hr.cmd.trans hf.cmd) hwaits (hf.bad.trans hr.bad)
  rw [runBody_eq_finish hend] at hdone
  refine ⟨finish q e' 0, (exec_mload_of_taken hcmd hbusy).trans (by rw [runBody_eq_finish hend]), hdone,
    fun t ht i quad part hsl => ?_, fun a => ?_, hacc, hkept⟩
  · obtain ⟨ha, b, hb⟩ := tiles_loadedPlane (q := q) htiles hn ht hsl c.seq
    subst hraw
    rw [finish_mc, harr, if_pos ha]
    exact ⟨_, b, rfl, hb⟩
  · rw [finish_mc, harr]
    split <;> rfl

end Sys2Proof.Machine
end

section
/-! SUPPORT. PLANE_SWAP (R126, R151), and what MC_STEPS shows of the plane (R153). -/

namespace Sys2Proof.Machine

open Sys2Proof

variable {s : State} {m a : Nat} {p : Plane}

theorem exec_planeSwap_of_empty (h : ((s.mc m).arr a).shadow = none) : exec (.planeSwap m a) s = .next s := by
  show execPlaneSwap m a s = _
  simp only [execPlaneSwap, h]

/-- The state after a swap. -/
def swapped (s : State) (m a : Nat) (p : Plane) : State :=
  s.setMc m { s.mc m with arrays := ins (s.mc m).arrays a ⟨some p, none⟩ }

theorem exec_planeSwap_of_loaded (h : ((s.mc m).arr a).shadow = some p) (hneed : planeNeeded s a p = false) :
    exec (.planeSwap m a) s = .next (swapped s m a p) := by
  show execPlaneSwap m a s = _
  simp [execPlaneSwap, h, hneed, swapped]

theorem arr_swapped_self (s : State) (m a : Nat) (p : Plane) : ((swapped s m a p).mc m).arr a = ⟨some p, none⟩ := by
  simp [swapped, McSt.arr]

theorem arr_swapped_ne (s : State) (m : Nat) (p : Plane) {a b : Nat} (h : b ≠ a) :
    ((swapped s m a p).mc m).arr b = (s.mc m).arr b := by
  simp [swapped, McSt.arr, lookD_ins_ne _ _ _ h]

/-! MC_STEPS. -/

/-- Four-bit digits, packed. -/
theorem sum_digits_lt (f : Nat → Nat) (hf : ∀ k, f k < 16) (n : Nat) :
    (upto n).foldl (fun v k => v + f k * 2 ^ (4 * k)) 0 < 2 ^ (4 * n) := by
  induction n with
  | zero => exact Nat.one_pos
  | succ n ih =>
    have hdigit := Nat.mul_le_mul_right (2 ^ (4 * n)) (Nat.le_of_lt_succ (hf n))
    have hpow : 2 ^ (4 * (n + 1)) = 16 * 2 ^ (4 * n) := by rw [Nat.mul_add, Nat.pow_add, Nat.mul_comm]
    rw [upto, List.range_succ, List.foldl_append, List.foldl_cons, List.foldl_nil, hpow, ← upto]
    omega

theorem bits_sum_digits (f : Nat → Nat) (hf : ∀ k, f k < 16) {n k : Nat} (hk : k < n) :
    bits ((upto n).foldl (fun v k => v + f k * 2 ^ (4 * k)) 0) (4 * k) 4 = f k := by
  induction n with
  | zero => omega
  | succ n ih =>
    have hlow := sum_digits_lt f hf n
    rw [upto, List.range_succ, List.foldl_append, List.foldl_cons, List.foldl_nil, ← upto]
    rcases Nat.lt_succ_iff_lt_or_eq.mp hk with hk | rfl
    · have hpow : 2 ^ (4 * n) = 2 ^ (4 * k) * (2 ^ (4 * (n - k - 1)) * 2 ^ 4) := by
        rw [← Nat.pow_add, ← Nat.pow_add]
        congr 1
        omega
      rw [← ih hk, bits, bits, Nat.shiftRight_eq_div_pow, Nat.shiftRight_eq_div_pow, hpow, Nat.mul_left_comm,
        Nat.add_mul_div_left _ _ (Nat.two_pow_pos _), ← Nat.mul_assoc, Nat.add_mul_mod_self_right]
    · rw [bits, Nat.shiftRight_eq_div_pow, Nat.add_mul_div_right _ _ (Nat.two_pow_pos _), Nat.div_eq_of_lt hlow,
        Nat.zero_add]
      exact Nat.mod_eq_of_lt (hf k)

theorem hGlobal_hMc (h : m < 192) : hGlobal (hMc m) = m := by
  have hkind : hKind (hMc m) = 1 := by
    simp only [hKind, bits, hMc, Nat.shiftRight_eq_div_pow]
    omega
  have hpond : hPond (hMc m) = m / 2 := by
    simp only [hPond, bits, hMc, Nat.shiftRight_eq_div_pow]
    omega
  have hindex : hIndex (hMc m) = m % 2 := by
    simp only [hIndex, bits, hMc, Nat.shiftRight_eq_div_pow]
    omega
  rw [hGlobal, hkind, hpond, hindex, beq_self_eq_true, if_pos rfl]
  exact Nat.div_add_mod m 2

/-- The digit of MC_STEPS that an array shows: the steps of its active plane. -/
def stepDigit (x : McSt) (a : Nat) : Nat := match (x.arr a).active with | some p => p.steps % 16 | none => 0

theorem stepDigit_lt (x : McSt) (a : Nat) : stepDigit x a < 16 := by
  unfold stepDigit
  split
  · exact Nat.mod_lt _ (by decide)
  · decide

theorem regShows_mcSteps (u : State) (m : Nat) : regShows u MC_STEPS m 0 = mcSteps u m := rfl

/-- MC_STEPS of a core that holds its own context shows the steps of an array's active plane. -/
theorem mcSteps_of_active {u : State} (hm : m < 192) (ha : a < 16) (hctx : look u.ctxs (hMc m) = none)
    (hactive : ((u.mc m).arr a).active = some p) : bits (regShows u MC_STEPS m 0) (4 * a) 4 = p.steps % 16 := by
  have hsteps : mcSteps u m = (upto 16).foldl (fun v k => v + stepDigit (u.mc m) k * 2 ^ (4 * k)) 0 := by
    simp only [mcSteps, hctx, Option.getD_none, hGlobal_hMc hm]
    rfl
  rw [regShows_mcSteps, hsteps, bits_sum_digits _ (stepDigit_lt _) ha, stepDigit, hactive]

theorem planeSwap_row (h : ((s.mc m).arr a).shadow = some p) (hneed : planeNeeded s a p = false) :
    ∃ u, exec (.planeSwap m a) s = .next u
      ∧ (u.mc m).arr a = ⟨some p, none⟩ ∧ (∀ b, b ≠ a → (u.mc m).arr b = (s.mc m).arr b)
      ∧ (u.mc m).acc = (s.mc m).acc ∧ (∀ k, k ≠ m → u.mc k = s.mc k) ∧ { u with mcs := s.mcs } = s
      ∧ (m < 192 → a < 16 → look s.ctxs (hMc m) = none → bits (regShows u MC_STEPS m 0) (4 * a) 4 = p.steps % 16) :=
  ⟨swapped s m a p, exec_planeSwap_of_loaded h hneed, arr_swapped_self s m a p, fun _ hb => arr_swapped_ne s m p hb,
    by rw [swapped, mc_setMc_self], fun _ hk => mc_setMc_ne s _ hk, rfl,
    fun hm ha hctx => mcSteps_of_active hm ha hctx (by rw [arr_swapped_self])⟩

end Sys2Proof.Machine
end

section
/-! SUPPORT. MMUL (R149): its A tiles, and the accumulators of its region. -/

namespace Sys2Proof.Machine

open Sys2Proof

variable {α β : Type} {s : State} {q : Nat} {c : Cmd} {e : Eng}

theorem Ends.forLoop {J : β → Eng → Prop} {l : List α} {f : α → β → EM (ForInStep β)}
    (hf : ∀ a ∈ l, ∀ b e, J b e → Ends (f a b) e fun r e' => ∃ b', r = .yield b' ∧ J b' e') {b : β} {e : Eng}
    (h : J b e) : Ends (forIn l b f) e J := by
  induction l generalizing b e with
  | nil => exact .pure h
  | cons a l ih =>
    rw [List.forIn_cons]
    refine .bind (hf a (by simp) b e h) fun r e₁ ⟨b', hr, hb'⟩ => ?_
    subst hr
    exact ih (fun x hx => hf x (by simp [hx])) hb'

/-! The A tiles. -/

/-- The A tiles that the streams of an MMUL read, with their streams. -/
def wantedTiles (rows : Nat) (fs : List Feed) : List (Feed × Nat × Nat) :=
  fs.flatMap fun f => (feedTiles rows f).map fun ik => (f, ik)

/-- The address of an A tile. -/
def aTileAddr (a stride akt : Nat) (ik : Nat × Nat) : Nat := a + (ik.1 * akt + ik.2) * stride

/-- An A tile lies in main memory with room for its compressed form, and suits its stream. -/
def aTileFits (s : State) (a stride akt : Nat) (w : Feed × Nat × Nat) : Prop :=
  let at_ := aTileAddr a stride akt w.2
  w.2.2 < 65536 ∧ inMain at_ 16 ∧ aTileOk w.1 (descOf (s.rdN at_ 16)) = true
    ∧ inMain at_ ((descOf (s.rdN at_ 16)).size + 128)

/-- The key of a tile tells its place. -/
theorem aKey_inj {quad quad' : Bool} {i i' k k' : Nat} (hk : k < 65536) (hk' : k' < 65536)
    (h : aKey quad i k = aKey quad' i' k') : (i, k) = (i', k') := by
  unfold aKey at h
  have hq : b2n quad < 2 := by cases quad <;> decide
  have hq' : b2n quad' < 2 := by cases quad' <;> decide
  rw [Prod.mk.injEq]
  omega

/-- The descriptors found so far are those of their places. -/
def descsRight (s : State) (a stride akt : Nat) (wants : List (Feed × Nat × Nat)) (ds : SMap Desc) : Prop :=
  ∀ w ∈ wants, ∀ d, look ds (aKey w.1.quad w.2.1 w.2.2) = some d → d = descOf (s.rdN (aTileAddr a stride akt w.2) 16)

theorem descsRight.ins {a stride akt : Nat} {wants : List (Feed × Nat × Nat)} {ds : SMap Desc} {w : Feed × Nat × Nat}
    {d : Desc} (h : descsRight s a stride akt wants ds) (hk : ∀ w ∈ wants, w.2.2 < 65536) (hw : w ∈ wants)
    (hd : d = descOf (s.rdN (aTileAddr a stride akt w.2) 16)) :
    descsRight s a stride akt wants (ins ds (aKey w.1.quad w.2.1 w.2.2) d) := by
  intro w' hw' d' hd'
  rw [look_ins] at hd'
  split at hd'
  · next hkey =>
    have hplace : w'.2 = w.2 := aKey_inj (hk w' hw') (hk w hw) hkey
    rw [← Option.some.inj hd', hd, hplace]
  · exact h w' hw' d' hd'

theorem ldATiles_ends (hfree : FreeMain e) {a stride akt rows : Nat} {fs : List Feed}
    (hfit : ∀ w ∈ wantedTiles rows fs, aTileFits e.s a stride akt w) :
    Ends (ldATiles a stride akt rows fs) e fun _ e' => ReadsOnly e e' := by
  have hk (w) (hw : w ∈ wantedTiles rows fs) : w.2.2 < 65536 := (hfit w hw).1
  unfold ldATiles
  refine .bind (.forLoop (J := fun ds e' => descsRight e.s a stride akt (wantedTiles rows fs) ds ∧ ReadsOnly e e')
    (fun w hw ds e₁ ⟨hds, hr₁⟩ => ?_) ⟨fun _ _ _ h => (nomatch h), .refl e⟩) fun ds e₁ ⟨hds, hr₁⟩ => ?_
  · obtain ⟨-, hmain, hok, -⟩ := hfit w hw
    dsimp only
    split
    · next d hd =>
      obtain rfl := hds w hw d hd
      exact .bind (R := fun d e₂ => d = descOf (e.s.rdN (aTileAddr a stride akt w.2) 16) ∧ e₂ = e₁) (.pure ⟨rfl, rfl⟩)
        fun d e₂ ⟨hd, he⟩ => .needBind (hd ▸ hok) (.pure ⟨_, rfl, hds.ins hk hw hd, he ▸ hr₁⟩)
    · refine .bind (ldDesc_ends (hfree.of_reads hr₁) hmain) fun d e₂ ⟨hd, hr₂⟩ => ?_
      rw [State.rdN, rdBytes_of_unread hr₁.state] at hd
      exact .needBind (hd ▸ hok) (.pure ⟨_, rfl, hds.ins hk hw hd, hr₁.trans hr₂⟩)
  · refine .bind (.forLoop (J := fun _ e' => ReadsOnly e e') (fun w hw ts e₂ hr₂ => ?_) hr₁)
      fun ts e₂ hr₂ => .pure hr₂
    obtain ⟨-, -, hok, hroom⟩ := hfit w hw
    dsimp only
    split
    · next d _ hd =>
      obtain rfl := hds w hw d hd
      simp only [aTileOk, Bool.and_eq_true] at hok
      obtain ⟨⟨⟨⟨hok, -⟩, -⟩, -⟩, -⟩ := hok
      refine .bind (ldTile_ends (hfree.of_reads hr₂) (Desc.vec_le_nv hok) ?_) fun r e₃ ⟨_, hr₃⟩ =>
        .afterBadCode _ fun e₄ hr₄ => .pure ⟨_, rfl, (hr₂.trans hr₃).trans hr₄⟩
      exact Nat.le_trans (Nat.add_le_add_left (Nat.add_le_add_left (by split <;> decide) _) _) hroom
    · exact .pure ⟨_, rfl, hr₂⟩

/-! Accumulators. -/

theorem foldl_field_mem {γ δ : Type} (φ : δ → γ) {f : δ → α → δ} {l : List α} (hf : ∀ x ∈ l, ∀ s, φ (f s x) = φ s)
    (s : δ) : φ (l.foldl f s) = φ s := by
  induction l generalizing s with
  | nil => rfl
  | cons x l ih => rw [List.foldl_cons, ih fun y hy => hf y (by simp [hy]), hf x (by simp)]

theorem mmRow_acc_ne {f : Feed} {i base : Nat} (h : ∀ k < f.cols.length, i ≠ base + f.col0 + k) (keep : Bool)
    (wave tA : Nat) (a : BUnit) (x : MmAcc) : lookD (mmRow f keep base wave tA a x).acc i 0 = lookD x.acc i 0 := by
  unfold mmRow
  extract_lets r
  have hr : lookD r.1.acc i 0 = lookD x.acc i 0 := by
    refine foldl_field_mem (fun st : MmAcc × Bool => lookD st.1.acc i 0) (fun bc hbc st => ?_) (x, false)
    exact lookD_ins_ne _ _ _ (h bc.2 (by have := List.mem_zipIdx' hbc; omega))
  split
  · exact hr
  · exact hr

theorem mem_sortBy {key : α → Nat} {l : List α} {x : α} : x ∈ sortBy key l ↔ x ∈ l := by
  have hins (y : α) (l : List α) : x ∈ insBy key y l ↔ x ∈ y :: l := by
    induction l with
    | nil => rfl
    | cons z l ih =>
      rw [insBy]
      split
      · rfl
      · rw [List.mem_cons, ih, List.mem_cons, List.mem_cons, List.mem_cons]
        exact or_left_comm
  induction l with
  | nil => rfl
  | cons y l ih =>
    show x ∈ insBy key y (sortBy key l) ↔ x ∈ y :: l
    rw [hins, List.mem_cons, List.mem_cons]
    exact or_congr_right ih

theorem mem_mmRegion {fs : List Feed} {rows base ld i : Nat} :
    i ∈ mmRegion fs rows base ld ↔ ∃ f ∈ fs, ∃ m < rows, ∃ k < f.cols.length, base + m * ld + f.col0 + k = i := by
  simp [mmRegion, upto]

/-- What the streams of an MMUL leave in an accumulator outside their region: what it held. -/
theorem streams_acc_ne {fs : List Feed} {rows base ld i : Nat} (h : i ∉ mmRegion fs rows base ld) (keep : Bool)
    (unit : Feed → Nat → BUnit × Nat) (x : MmAcc) :
    lookD (fs.foldl (fun r f => (upto rows).foldl
      (fun r m => let (au, tA) := unit f m; mmRow f keep (base + m * ld) (f.waveOf m) tA au r) r) x).acc i 0
      = lookD x.acc i 0 := by
  refine foldl_field_mem (fun r : MmAcc => lookD r.acc i 0) (fun f hf r => ?_) x
  refine foldl_field_mem (fun r : MmAcc => lookD r.acc i 0) (fun m hm r => ?_) r
  refine mmRow_acc_ne (fun k hk he => h ?_) _ _ _ _ _
  exact mem_mmRegion.mpr ⟨f, hf, m, by simpa [upto] using hm, k, hk, he.symm⟩

/-! The run. -/

/-- The streams of the arrays' active planes. -/
def activeFeeds (x : McSt) (arrs : List Nat) : List Feed :=
  arrs.flatMap fun a => match (x.arr a).active with | some p => feedsOf a p | none => []

/-- What MMUL may do to a state: accumulators of its region, predictor bits, counts, and what reads change. -/
structure MmulFrame (q : Nat) (region : List Nat) (s t : State) : Prop where
  arrays : (t.mc (mcHome s q)).arrays = (s.mc (mcHome s q)).arrays
  acc : ∀ i, i ∉ region → lookD (t.mc (mcHome s q)).acc i 0 = lookD (s.mc (mcHome s q)).acc i 0
  others : ∀ m, m ≠ mcHome s q → t.mc m = s.mc m
  bytes : memKept s t
  queues : t.queues = s.queues
  home : mcHome t q = mcHome s q

section
variable {region : List Nat} {t u : State}

theorem MmulFrame.trans (h : MmulFrame q region s t) (h' : MmulFrame q region t u) : MmulFrame q region s u := by
  obtain ⟨harr, hacc, hothers, hbytes, hqueues, hhome⟩ := h'
  rw [h.home] at harr hacc hothers hhome
  exact ⟨harr.trans h.arrays, fun i hi => (hacc i hi).trans (h.acc i hi), fun m hm => (hothers m hm).trans (h.others m hm),
    fun a => (hbytes a).trans (h.bytes a), hqueues.trans h.queues, hhome⟩

theorem MmulFrame.of_unread (h : t.unread = s.unread) : MmulFrame q region s t :=
  ⟨by rw [mc_of_unread h], fun _ _ => by rw [mc_of_unread h], fun m _ => mc_of_unread h m, fun a => rd8_of_unread h a,
    congrArg (fun x => x.1.queues) h, mcHome_of_unread h q⟩

theorem MmulFrame.setMc {x : McSt} (h : MmulFrame q region s t) (harr : x.arrays = (s.mc (mcHome s q)).arrays)
    (hacc : ∀ i, i ∉ region → lookD x.acc i 0 = lookD (s.mc (mcHome s q)).acc i 0) :
    MmulFrame q region s (t.setMc (mcHome s q) x) :=
  ⟨by rw [mc_setMc_self, harr], fun i hi => by rw [mc_setMc_self, hacc i hi],
    fun m hm => (mc_setMc_ne t x hm).trans (h.others m hm), h.bytes, h.queues, h.home⟩

theorem MmulFrame.set {f : Fld} {n i : Nat} (h : f.reg.off i % 64 ≠ 0) : MmulFrame q region s (s.set f n i) := by
  have hcons : (s.set f n i).qget QTAB_CFG_CONSUMER q = s.qget QTAB_CFG_CONSUMER q := by
    refine get_set_off s f _ n i 0 _ _ fun he => h ?_
    rw [← he]
    simp only [Reg.off, QTAB_CFG_CONSUMER, QTAB_CFG]
    omega
  refine ⟨rfl, fun _ _ => rfl, fun _ _ => rfl, fun _ => rfl, rfl, ?_⟩
  show hGlobal (match (s.q q).home with | some h => h | none => _) = hGlobal _
  rw [hcons]
  rfl

theorem MmulFrame.ite {b : Prop} [Decidable b] (h : MmulFrame q region s t) (h' : MmulFrame q region s u) :
    MmulFrame q region s (if b then t else u) := by
  split
  · exact h
  · exact h'

end

end Sys2Proof.Machine
end

section
/-! SUPPORT. MMUL (R149, R153): what its body may change. -/

namespace Sys2Proof.Machine

open Sys2Proof

variable {α β : Type} {s : State} {q : Nat} {c : Cmd} {e : Eng} {P : Eng → Prop} {H : State → Prop}

/-- What MMUL may do to its engine. -/
structure Multiplies (q : Nat) (region : List Nat) (e e' : Eng) : Prop where
  state : MmulFrame q region e.s e'.s
  cmd : SameCmd e.cmd e'.cmd
  bad : e'.bad = e.bad

theorem Multiplies.of_reads {region : List Nat} {e' : Eng} (h : ReadsOnly e e') : Multiplies q region e e' :=
  ⟨.of_unread h.state, h.cmd, h.bad⟩

theorem Multiplies.trans {region : List Nat} {e₁ e₂ : Eng} (h : Multiplies q region e e₁)
    (h' : Multiplies q region e₁ e₂) : Multiplies q region e e₂ :=
  ⟨h.state.trans h'.state, h.cmd.trans h'.cmd, h'.bad.trans h.bad⟩

/-- A field of the command, where the property says what the command is. -/
theorem Preserves.fldBind {byte lo w raw : Nat} {f : Nat → EM α} (hraw : ∀ e, P e → e.cmd.raw.toNat = raw)
    (hf : Preserves P H (f (cf raw byte lo w))) : Preserves P H (fld byte lo w >>= f) := by
  refine ⟨fun e he => ?_⟩
  rw [run_fldBind, hraw e he]
  exact hf.run e he

/-- A value of the state, where the property says what it is. -/
theorem Preserves.getsEqBind {γ : Type} {g : State → γ} {v : γ} {f : γ → EM α} (hg : ∀ e, P e → g e.s = v)
    (hf : Preserves P H (f v)) : Preserves P H (gets g >>= f) :=
  .getsBind fun e he => (hg e he).symm ▸ hf

theorem Preserves.of_onlyReads {region : List Nat} {m : EM α} (hm : ∀ e, OnlyReads e m) :
    Preserves (Multiplies q region e) (fun _ => True) m := by
  refine ⟨fun e' he => ?_⟩
  have h := (hm e').run e' (.refl e')
  exact ⟨he.trans (.of_reads h.1), h.2⟩

theorem countC_multiplies {region : List Nat} (i n : Nat) : Preserves (Multiplies q region e) H (countC i n) :=
  .modify fun _ h => ⟨h.state, h.cmd.trans ⟨rfl, rfl, rfl⟩, h.bad⟩

theorem onS_multiplies {region : List Nat} {f : State → State}
    (hf : ∀ s', MmulFrame q region e.s s' → MmulFrame q region e.s (f s')) : Preserves (Multiplies q region e) H (onS f) :=
  .modify fun e' he => ⟨hf e'.s he.state, he.cmd, he.bad⟩

/-- The fields of a matrix core that an MMUL counts in. -/
def mcCounts : List Fld :=
  [MC_WAVES_RUN, MC_SKIPS_SKIPPED, MC_SKIPS_MISSES, MC_STAT_NF, MC_STAT_ACC_INF, MC_STAT_WIN_TRUNC, MC_STAT_TRUNC_CNT]

theorem mcCounts_place (u : Nat) : ∀ f ∈ mcCounts, f.reg.off u % 64 ≠ 0 := by
  simp only [mcCounts, List.forall_mem_cons, Reg.off, MC_WAVES_RUN, MC_SKIPS_SKIPPED, MC_SKIPS_MISSES, MC_STAT_NF,
    MC_STAT_ACC_INF, MC_STAT_WIN_TRUNC, MC_STAT_TRUNC_CNT, MC_WAVES, MC_SKIPS, MC_STAT, List.not_mem_nil, false_implies,
    implies_true]
  refine ⟨?_, ?_, ?_, ?_, ?_, ?_, ?_, trivial⟩ <;> omega

/-- The counts and sticky bits that an MMUL leaves (R153). -/
theorem MmulFrame.counted {region : List Nat} {t : State} (h : MmulFrame q region s t) (u run skipped misses nan drops : Nat)
    (snan inf : Bool) :
    let s₁ := ((t.bump MC_WAVES_RUN run u).bump MC_SKIPS_SKIPPED skipped u).bump MC_SKIPS_MISSES misses u
    let s₂ := if nan > 0 then s₁.stick MC_STAT_NF u else s₁
    let s₃ := if snan then s₂.stick NUM_STAT_SCALE_NAN else s₂
    let s₄ := if inf then s₃.stick MC_STAT_ACC_INF u else s₃
    MmulFrame q region s (if drops > 0 then (s₄.stick MC_STAT_WIN_TRUNC u).sat MC_STAT_TRUNC_CNT drops u else s₄) := by
  have hmc {v : State} (hv : MmulFrame q region s v) {f : Fld} {n : Nat} (hf : f ∈ mcCounts) :
      MmulFrame q region s (v.set f n u) := hv.trans (.set (mcCounts_place u f hf))
  intro s₁ s₂ s₃ s₄
  have h₁ : MmulFrame q region s s₁ := hmc (hmc (hmc h (by decide)) (by decide)) (by decide)
  have h₂ : MmulFrame q region s s₂ := .ite (hmc h₁ (by decide)) h₁
  have h₃ : MmulFrame q region s s₃ := .ite (h₂.trans (.set (by decide))) h₂
  have h₄ : MmulFrame q region s s₄ := .ite (hmc h₃ (by decide)) h₃
  exact .ite (hmc (hmc h₄ (by decide)) (by decide)) h₄

theorem mem_of_mem_nubN {i : Nat} {l : List Nat} (h : i ∈ nubN l) : i ∈ l := by
  induction l with
  | nil => exact h
  | cons x l ih =>
    rw [nubN] at h
    rcases List.mem_cons.mp h with rfl | h
    · exact List.mem_cons_self
    · exact List.mem_cons_of_mem x (ih (List.mem_of_mem_filter h))

theorem MmulFrame.scramble {region region' : List Nat} (h : ∀ i, i ∉ region → i ∉ region') :
    MmulFrame q region s (scramble s (mcHome s q) region') := by
  unfold Machine.scramble
  extract_lets x acc
  have hacc (i : Nat) (hi : i ∉ region) : lookD acc.1 i 0 = lookD x.acc i 0 :=
    foldl_field_mem (fun st : SMap Nat × Nat => lookD st.1 i 0)
      (fun j hj st => lookD_ins_ne _ _ _ fun he => h i hi (mem_of_mem_nubN (by rw [he]; exact hj))) (x.acc, s.free)
  exact (MmulFrame.setMc (x := { x with acc := acc.1 }) (.of_unread rfl) rfl hacc).trans (.of_unread rfl)

theorem mem_mmRegion_sorted {x y : McSt} {arrs : List Nat} (h : x.arrays = y.arrays) {rows base ld i : Nat}
    (hi : i ∉ mmRegion (activeFeeds y arrs) rows base ld) :
    i ∉ mmRegion (sortBy feedKey ((arrs.map fun a => (a, (x.arr a).active)).flatMap fun ip =>
      match ip.2 with | some p => feedsOf ip.1 p | none => [])) rows base ld := by
  have harr : x.arr = y.arr := by
    funext a
    rw [McSt.arr, McSt.arr, h]
  rw [List.flatMap_map, harr]
  intro hmem
  obtain ⟨f, hf, hrow⟩ := mem_mmRegion.mp hmem
  exact hi (mem_mmRegion.mpr ⟨f, mem_sortBy.mp hf, hrow⟩)

theorem mmulBody_multiplies (q : Nat) (e : Eng) :
    Preserves (Multiplies q (mmRegion (activeFeeds (e.s.mc (mcHome e.s q)) (maskBits (cf e.cmd.raw.toNat 16 0 16)))
      (cf e.cmd.raw.toNat 20 0 32) (cf e.cmd.raw.toNat 40 0 32) (cf e.cmd.raw.toNat 44 0 32)) e) (fun _ => True)
      (mmulBody q) := by
  generalize hregion : mmRegion _ _ _ _ = region
  have hraw (e' : Eng) (h : Multiplies q region e e') : e'.cmd.raw.toNat = e.cmd.raw.toNat := by rw [h.cmd.raw]
  unfold mmulBody
  refine .fldBind hraw <| .fldBind hraw <| .fldBind hraw <| .fldBind hraw <| .fldBind hraw <| .fldBind hraw <|
    .fldBind hraw <| .fldBind hraw <| .fldBind hraw <| .getsEqBind (fun _ h => h.state.home) <| .bind gets_keeps fun u => ?_
  refine .getsBind fun e₁ ⟨⟨harr₁, hacc₁, _, _, _, _⟩, _, _⟩ => ?_
  generalize e₁.s.mc (mcHome e.s q) = x at harr₁ hacc₁
  extract_lets planes fs region' x0 waves segs rset whole
  have hout (i : Nat) (hi : i ∉ region) : i ∉ region' := mem_mmRegion_sorted harr₁ (hregion ▸ hi)
  refine .bind need_keeps fun _ => .bind need_keeps fun _ => .bind need_keeps fun _ => ?_
  refine .bind (.catching (.of_onlyReads fun _ => ldATiles_onlyReads _ _ _ _ _) fun stop _ => ?_) fun ts => ?_
  · dsimp only
    split
    · exact .bind (onS_multiplies fun s' hs' => hs'.trans (hs'.home ▸ .scramble hout)) fun _ => .throw (Stop.holds_true _)
    · exact .throw (Stop.holds_true _)
  · extract_lets r zeroAt perFeed
    refine .bind gets_keeps fun skipEn => .bind gets_keeps fun predEn => ?_
    extract_lets skipped run steps usePred
    refine .bind fld_keeps fun layer => .bind fld_keeps fun op => ?_
    have hacc (i : Nat) (hi : i ∉ region) : lookD r.acc i 0 = lookD (e.s.mc (mcHome e.s q)).acc i 0 :=
      (streams_acc_ne (hout i hi) _ _ x0).trans (hacc₁ i hi)
    generalize hp : (ite (usePred = true) (predict _ _ _ _) _) = p
    have hx' : p.1.arrays = x.arrays ∧ p.1.acc = r.acc := by
      rw [← hp]
      split <;> exact ⟨rfl, rfl⟩
    obtain ⟨harr', hacc'⟩ := hx'
    refine .bind (onS_multiplies fun s' hs' => ?_) fun _ => .bind (countC_multiplies _ _) fun _ =>
      .bind (countC_multiplies _ _) fun _ => .bind (countC_multiplies _ _) fun _ => .bind (countC_multiplies _ _) fun _ =>
      .bind (countC_multiplies _ _) fun _ => .bind (countC_multiplies _ _) fun _ => .bind .get fun _ => ?_
    · have hput := hs'.setMc (harr'.trans harr₁) fun i hi => (congrArg (lookD · i 0) hacc').trans (hacc i hi)
      exact hput.counted u run skipped p.2 r.nan r.drops.length r.snan r.inf
    · exact .modify fun _ h => ⟨h.state, h.cmd.trans ⟨rfl, rfl, rfl⟩, h.bad⟩

end Sys2Proof.Machine
end

section
/-! SUPPORT. MMUL (R149): its rows. -/

namespace Sys2Proof.Machine

open Sys2Proof

variable {α : Type} {s : State} {q : Nat} {c : Cmd} {e : Eng} {Q : α → Eng → Prop}

theorem Ends.fldBind {byte lo w : Nat} {f : Nat → EM α} (hf : Ends (f (cf e.cmd.raw.toNat byte lo w)) e Q) :
    Ends (fld byte lo w >>= f) e Q := by
  rw [Ends, run_fldBind]
  exact hf

theorem Ends.getsBind {γ : Type} {g : State → γ} {f : γ → EM α} (hf : Ends (f (g e.s)) e Q) :
    Ends (gets g >>= f) e Q := by
  rw [Ends, run_getsBind]
  exact hf

theorem Ends.onSBind {g : State → State} {f : PUnit → EM α} (hf : Ends (f ⟨⟩) { e with s := g e.s } Q) :
    Ends (onS g >>= f) e Q := by
  rw [Ends, run_onSBind]
  exact hf

theorem Ends.countCBind {i n : Nat} {f : PUnit → EM α} (hf : Ends (f ⟨⟩) { e with cmd := e.cmd.count i n } Q) :
    Ends (countC i n >>= f) e Q := by
  rw [Ends, run_countCBind]
  exact hf

theorem exec_mmul_of_taken (hcmd : unitCmd s q 0x21 = some c) (hwait : mmWaits s q c = false) :
    exec (.mmul q) s = .next (runBody s q c (mmulBody q)) := by
  show execMmul q s = _
  simp [execMmul, hcmd, hwait]

/-- What an MMUL that comes to its end has done. -/
theorem multiplies_of_bodyEnds (hend : bodyEnds s q c (mmulBody q) e) :
    Multiplies q (mmRegion (activeFeeds (s.mc (mcHome s q)) (maskBits (cf c.raw.toNat 16 0 16))) (cf c.raw.toNat 20 0 32)
      (cf c.raw.toNat 40 0 32) (cf c.raw.toNat 44 0 32)) ⟨s, c, ctxOfQ s q, false⟩ e := by
  have h := ((mmulBody_multiplies q ⟨s, c, ctxOfQ s q, false⟩).run _ (.of_reads (.refl _))).1
  rwa [show (mmulBody q).run _ = _ from hend] at h

/-- MMUL that comes to its end. -/
theorem mmul_row (hcmd : unitCmd s q 0x21 = some c) (hwait : mmWaits s q c = false)
    (hend : bodyEnds s q c (mmulBody q) e) : ∃ u, exec (.mmul q) s = .next u
      ∧ (u.mc (mcHome s q)).arrays = (s.mc (mcHome s q)).arrays ∧ (∀ m, m ≠ mcHome s q → u.mc m = s.mc m) ∧ memKept s u
      ∧ (∀ i, i ∉ mmRegion (activeFeeds (s.mc (mcHome s q)) (maskBits (cf c.raw.toNat 16 0 16)))
            (cf c.raw.toNat 20 0 32) (cf c.raw.toNat 40 0 32) (cf c.raw.toNat 44 0 32) →
          lookD (u.mc (mcHome s q)).acc i 0 = lookD (s.mc (mcHome s q)).acc i 0) := by
  obtain ⟨harr, hacc, hothers, hbytes, -, -⟩ := (multiplies_of_bodyEnds hend).state
  exact ⟨finish q e 0, (exec_mmul_of_taken hcmd hwait).trans (by rw [runBody_eq_finish hend]), harr, hothers, hbytes, hacc⟩

/-- A stream of an MMUL can run: its K tile, its accumulators and its A tiles are in bounds (R149). -/
def feedFits (s : State) (raw : Nat) (f : Feed) : Prop :=
  f.k < cf raw 36 0 16 ∧ feedMax (cf raw 20 0 32) (cf raw 40 0 32) (cf raw 44 0 32) f < 196608
    ∧ ∀ ik ∈ feedTiles (cf raw 20 0 32) f,
        let at_ := aTileAddr (cf raw 24 0 43) (cf raw 32 0 32) (cf raw 36 0 16) ik
        inMain at_ 16 ∧ aTileOk f (descOf (s.rdN at_ 16)) = true ∧ inMain at_ ((descOf (s.rdN at_ 16)).size + 128)

theorem aTileFits_of_feedFits {raw : Nat} {fs : List Feed} (h : ∀ f ∈ fs, feedFits s raw f)
    (w : Feed × Nat × Nat) (hw : w ∈ wantedTiles (cf raw 20 0 32) fs) :
    aTileFits s (cf raw 24 0 43) (cf raw 32 0 32) (cf raw 36 0 16) w := by
  obtain ⟨f, hf, hw⟩ := List.mem_flatMap.mp hw
  obtain ⟨ik, hik, rfl⟩ := List.mem_map.mp hw
  obtain ⟨hk, -, hroom⟩ := h f hf
  have hplace : ik.2 = f.k := by
    obtain ⟨i, -, rfl⟩ := List.mem_map.mp hik
    rfl
  have hcf : cf raw 36 0 16 < 65536 := Nat.mod_lt _ (by decide)
  exact ⟨by dsimp only; omega, hroom ik hik⟩

/-- The streams that `mmulBody` runs are those of the active planes. -/
theorem mem_sortedFeeds {x : McSt} {arrs : List Nat} {f : Feed} :
    f ∈ sortBy feedKey ((arrs.map fun a => (a, (x.arr a).active)).flatMap fun ip =>
      match ip.2 with | some p => feedsOf ip.1 p | none => []) ↔ f ∈ activeFeeds x arrs := by
  rw [mem_sortBy, List.flatMap_map]
  exact Iff.rfl

/-- MMUL that finds its operands comes to its end. -/
theorem mmulBody_ends (hfree : FreeMain e)
    (hplanes : ∀ a ∈ maskBits (cf e.cmd.raw.toNat 16 0 16), ((e.s.mc (mcHome e.s q)).arr a).active.isSome = true)
    (hfit : ∀ f ∈ activeFeeds (e.s.mc (mcHome e.s q)) (maskBits (cf e.cmd.raw.toNat 16 0 16)),
      feedFits e.s e.cmd.raw.toNat f) :
    Ends (mmulBody q) e fun _ _ => True := by
  unfold mmulBody
  refine .fldBind <| .fldBind <| .fldBind <| .fldBind <| .fldBind <| .fldBind <| .fldBind <| .fldBind <| .fldBind <|
    .getsBind <| .getsBind <| .getsBind ?_
  extract_lets planes fs region x0 waves segs rset whole
  have hfs (f : Feed) (hf : f ∈ fs) : feedFits e.s e.cmd.raw.toNat f := hfit f (mem_sortedFeeds.mp hf)
  refine .needBind ?_ <| .needBind ?_ <| .needBind ?_ <| .bind (.catching (ldATiles_ends hfree (aTileFits_of_feedFits hfs)))
    fun ts e₁ _ => ?_
  · simpa [planes] using hplanes
  · simpa using fun f hf => (hfs f hf).1
  · simpa using fun f hf => (hfs f hf).2.1
  extract_lets r zeroAt perFeed
  refine .getsBind <| .getsBind ?_
  extract_lets skipped run steps usePred
  refine .fldBind <| .fldBind ?_
  generalize ite (usePred = true) (predict _ _ _ _) _ = p
  refine .onSBind <| .countCBind <| .countCBind <| .countCBind <| .countCBind <| .countCBind <| .countCBind ?_
  simp only [Ends, run_getBind, run_onC]
  exact ⟨_, _, rfl, trivial⟩

/-- MMUL that finds its operands: it finishes with 0x00. -/
theorem mmul_row_of_fits (hcmd : unitCmd s q 0x21 = some c) (hwait : mmWaits s q c = false) (hwaits : c.waits = 0)
    (hmem : freeMem s q)
    (hplanes : ∀ a ∈ maskBits (cf c.raw.toNat 16 0 16), ((s.mc (mcHome s q)).arr a).active.isSome = true)
    (hfit : ∀ f ∈ activeFeeds (s.mc (mcHome s q)) (maskBits (cf c.raw.toNat 16 0 16)), feedFits s c.raw.toNat f) :
    ∃ u, exec (.mmul q) s = .next u ∧ commandDone u q c 0
      ∧ (u.mc (mcHome s q)).arrays = (s.mc (mcHome s q)).arrays ∧ memKept s u := by
  obtain ⟨⟨⟩, e, hend, -⟩ := mmulBody_ends (q := q) (freeMain_of_freeMem c hmem) hplanes hfit
  obtain ⟨⟨harr, -, -, hbytes, hqueues, -⟩, hsame, hbad⟩ := multiplies_of_bodyEnds hend
  have hq : e.s.q q = s.q q := by rw [State.q, hqueues, State.q]
  exact ⟨_, exec_mmul_of_taken hcmd hwait, commandDone_of_bodyEnds hcmd hend hq hsame hwaits hbad,
    by rw [runBody_eq_finish hend]; exact harr, by rw [runBody_eq_finish hend]; exact hbytes⟩

end Sys2Proof.Machine
end

section
/-! SUPPORT. Stores to untranslated main memory without an error: the bytes that they leave. -/

namespace Sys2Proof.Machine

open Sys2Proof

variable {α : Type} {s t u : State} {q a : Nat} {c : Cmd} {e : Eng} {d : List Byte}

/-- The second state is the first but for memory and what writes of memory change beside it. -/
def OnlyMemory (s t : State) : Prop :=
  ∃ m p d q b r, t = { s with mem := m, ponds := p, dirs := d, poison := q, badLines := b, rem := r }

theorem OnlyMemory.refl (s : State) : OnlyMemory s s := ⟨_, _, _, _, _, _, rfl⟩

theorem OnlyMemory.trans (h : OnlyMemory s t) (h' : OnlyMemory t u) : OnlyMemory s u := by
  obtain ⟨_, _, _, _, _, _, rfl⟩ := h
  obtain ⟨m, p, d, q, b, r, rfl⟩ := h'
  exact ⟨m, p, d, q, b, r, rfl⟩

/-- The `n` bytes at `a` have no error. -/
def SoundRange (s : State) (a n : Nat) : Prop :=
  ∀ b, a ≤ b → b < a + n → poisonedAt s b = false ∧ retiredAt s b = false

/-- The second state is the first after the bytes `d` have been put at `a`. -/
structure Puts (a : Nat) (d : List Byte) (s t : State) : Prop where
  bytes : ∀ c, t.rd8 c = if a ≤ c ∧ c < a + d.length then (d[c - a]?).getD 0 else s.rd8 c
  rest : OnlyMemory s t
  sound : ∀ x n, SoundRange s x n → SoundRange t x n

theorem Puts.nil : Puts a [] s s :=
  ⟨fun c => (if_neg (by rw [List.length_nil]; omega)).symm, .refl s, fun _ _ h => h⟩

theorem Puts.append {d' : List Byte} (h : Puts a d s t) (h' : Puts (a + d.length) d' t u) : Puts a (d ++ d') s u := by
  refine ⟨fun c => ?_, h.rest.trans h'.rest, fun x n hx => h'.sound x n (h.sound x n hx)⟩
  rw [h'.bytes, h.bytes, List.length_append]
  rcases Nat.lt_or_ge c (a + d.length) with hc | hc
  · rw [if_neg (by omega)]
    rcases Nat.lt_or_ge c a with ha | ha
    · rw [if_neg (by omega), if_neg (by omega)]
    · rw [if_pos ⟨ha, hc⟩, if_pos (by omega), List.getElem?_append_left (by omega)]
  · rw [if_neg (c := a ≤ c ∧ c < a + d.length) (by omega), List.getElem?_append_right (by omega), Nat.sub_add_eq]
    exact if_congr (by omega) rfl rfl

theorem OnlyMemory.retired (h : OnlyMemory s t) (x : Nat) : retiredAt t x = retiredAt s x := by
  obtain ⟨_, _, _, _, _, _, rfl⟩ := h
  rfl

/-! Writes at the controllers. -/

/-- What a write of `bs` at `pa` does to one of its 256-byte blocks. -/
def writeBlock (pa : Nat) (bs : List Byte) (acc : State × Bool) (part : Nat × Nat) : State × Bool :=
  let (s, bad) := acc
  let d := (bs.drop (part.1 - pa)).take part.2
  if retiredAt s part.1 then (s, true)
  else if poisonedAt s part.1 && part.2 < 256 then (s, true)
  else
    let s := s.invalidateAll (part.1 / 128)
    let s := if 128 < part.1 % 128 + part.2 then s.invalidateAll (part.1 / 128 + 1) else s
    let s := { s with poison := s.poison.filter (· != part.1 / 256) }
    (s.wrBytes part.1 d, bad)

theorem wrMain_eq (s : State) (pa : Nat) (bs : List Byte) :
    s.wrMain pa bs =
      let r := (blockParts 256 pa (bs.length / 256 + 2) bs.length).foldl (writeBlock pa bs) (s, false)
      (r.1.dropRem pa bs.length, r.2) := rfl

theorem Puts.of_wrBytes (h : OnlyMemory s t) (hbytes : ∀ c, t.rd8 c = s.rd8 c)
    (hpoison : ∀ x, poisonedAt s x = false → poisonedAt t x = false) : Puts a d s (t.wrBytes a d) := by
  obtain ⟨m, hm⟩ := wrBytes_eq t a d
  have hrest : OnlyMemory s (t.wrBytes a d) := h.trans ⟨m, _, _, _, _, _, hm⟩
  refine ⟨fun c => by rw [rd8_wrBytes, hbytes], hrest, fun x n hx b hb hb' => ?_⟩
  obtain ⟨hp, hr⟩ := hx b hb hb'
  refine ⟨?_, (hrest.retired b).trans hr⟩
  rw [hm]
  exact hpoison b hp

theorem writeBlock_puts {pa x n : Nat} {bs : List Byte} (hn : 0 < n) (hsound : SoundRange s x n) (bad : Bool) :
    ∃ t, writeBlock pa bs (s, bad) (x, n) = (t, bad) ∧ Puts x ((bs.drop (x - pa)).take n) s t := by
  obtain ⟨hp, hr⟩ := hsound x (Nat.le_refl x) (by omega)
  simp only [writeBlock, hp, hr, Bool.false_and, Bool.false_eq_true, if_false]
  refine ⟨_, rfl, .of_wrBytes ?_ (fun c => ?_) fun y hy => ?_⟩
  · split <;> exact ⟨_, _, _, _, _, _, rfl⟩
  · split <;> rfl
  · have hfilter (l : List Nat) (h : l.contains (y / 256) = false) :
        (l.filter (· != x / 256)).contains (y / 256) = false := by
      simp only [List.contains_eq_mem, decide_eq_false_iff_not, List.mem_filter] at h ⊢
      exact fun h' => h h'.1
    split <;> exact hfilter _ hy

theorem writeBlocks_puts {pa : Nat} {bs : List Byte} {fuel x n : Nat} (hx : pa ≤ x) (hn : x + n = pa + bs.length)
    (hfuel : x % 256 + n ≤ fuel * 256) (hsound : SoundRange s x n) (bad : Bool) :
    ∃ t, (blockParts 256 x fuel n).foldl (writeBlock pa bs) (s, bad) = (t, bad) ∧ Puts x (bs.drop (x - pa)) s t := by
  have hend {x n : Nat} (hn : x + n = pa + bs.length) (h : n = 0) : bs.drop (x - pa) = [] :=
    List.drop_eq_nil_iff.mpr (by omega)
  induction fuel generalizing x n s with
  | zero =>
    obtain rfl : n = 0 := by omega
    exact ⟨s, rfl, hend hn rfl ▸ .nil⟩
  | succ f ih =>
    rcases Nat.eq_zero_or_pos n with rfl | hpos
    · rw [blockParts_zero]
      exact ⟨s, rfl, hend hn rfl ▸ .nil⟩
    · rw [blockParts, if_neg (by omega)]
      have hmod := Nat.mod_lt x (show 256 > 0 by decide)
      have hbehind := blocks_behind (show 0 < 256 by decide) hfuel
      generalize hlen : min n (256 - x % 256) = len at hbehind
      obtain ⟨t, ht, hput⟩ := writeBlock_puts (s := s) (pa := pa) (bs := bs) (n := len) (by omega)
        (fun b hb hb' => hsound b hb (by omega)) bad
      have hlength : ((bs.drop (x - pa)).take len).length = len := by simp; omega
      have hdrop : (bs.drop (x - pa)).drop len = bs.drop (x + len - pa) := by rw [List.drop_drop]; congr 1; omega
      have hrest : SoundRange t (x + len) (n - len) := hput.sound _ _ fun b hb hb' => hsound b (by omega) (by omega)
      have hnext : ∃ u, (blockParts 256 (x + len) f (n - len)).foldl (writeBlock pa bs) (t, bad) = (u, bad)
          ∧ Puts (x + len) (bs.drop (x + len - pa)) t u := by
        rcases hbehind with h0 | hle
        · rw [h0, blockParts_zero, hend (n := n - len) (by omega) h0]
          exact ⟨t, rfl, .nil⟩
        · exact ih (by omega) (by omega) hle hrest
      obtain ⟨u, hu, hput'⟩ := hnext
      refine ⟨u, ?_, ?_⟩
      · rw [List.foldl_cons, ht, hu]
      · rw [← List.take_append_drop len (bs.drop (x - pa)), hdrop]
        exact hput.append (by rwa [hlength])

/-- A write of sound main memory puts its bytes. -/
theorem wrMain_puts (hsound : SoundRange s a d.length) : (s.wrMain a d).2 = false ∧ Puts a d s (s.wrMain a d).1 := by
  obtain ⟨t, ht, hput⟩ := writeBlocks_puts (pa := a) (bs := d) (Nat.le_refl a) rfl (pageParts_fuel a d.length (by decide)) hsound
    false
  rw [wrMain_eq, ht]
  rw [Nat.sub_self, List.drop_zero] at hput
  obtain ⟨hbytes, hrest, hsound'⟩ := hput
  exact ⟨rfl, hbytes, hrest.trans ⟨_, _, _, _, _, _, rfl⟩, hsound'⟩

end Sys2Proof.Machine
end

section
/-! SUPPORT. Stores of units' programs to main memory, and rows of stores. -/

namespace Sys2Proof.Machine

open Sys2Proof

variable {α : Type} {s t u : State} {q a : Nat} {c : Cmd} {e : Eng} {d : List Byte}

theorem run_modifyBind (g : Eng → Eng) (f : PUnit → EM α) (e : Eng) : (modify g >>= f).run e = (f ⟨⟩).run (g e) := (rfl)

/-- What a store of `d` at `a` does to its engine. -/
structure Stores (a : Nat) (d : List Byte) (e e' : Eng) : Prop where
  state : Puts a d e.s e'.s
  cmd : SameCmd e.cmd e'.cmd
  ctx : e'.ctx = e.ctx
  bad : e'.bad = e.bad

theorem Stores.nil : Stores a [] e e := ⟨.nil, .refl _, rfl, rfl⟩

theorem Stores.append {d' : List Byte} {e₁ e₂ : Eng} (h : Stores a d e e₁) (h' : Stores (a + d.length) d' e₁ e₂) :
    Stores a (d ++ d') e e₂ :=
  ⟨h.state.append h'.state, h.cmd.trans h'.cmd, h'.ctx.trans h.ctx, h'.bad.trans h.bad⟩

/-- Noting what a write touches changes the command's notes alone. -/
theorem noteWrite_ends (a : Nat) (l : List (Nat × Nat)) (d : List Byte) :
    Ends (noteWrite a l d) e fun _ e' => ∃ c', e' = { e with cmd := c' } ∧ SameCmd e.cmd c' := by
  induction l generalizing a d e with
  | nil => exact .pure ⟨e.cmd, rfl, .refl _⟩
  | cons p l ih =>
    rw [noteWrite, Ends, run_modifyBind]
    refine (ih _ _).mono fun _ e' ⟨c', he', hsame⟩ => ⟨c', ?_, ?_⟩
    · rw [he']
      split <;> rfl
    · split at hsame
      · exact hsame
      · exact ⟨hsame.seq, hsame.raw, hsame.waits⟩

theorem touch_of_main (s : State) (h : a < 0x10E00000000) : touch s a = s := by
  rw [touch, areaOf_of_main h]

/-- One part of a store of sound main memory. -/
theorem wrLocal_puts (hmain : a < 0x10E00000000) (hsound : SoundRange s a d.length) :
    (s.wrLocal a d).2 = false ∧ Puts a d s (s.wrLocal a d).1 := by
  rw [State.wrLocal, areaOf_of_main hmain]
  exact wrMain_puts hsound

/-- Bytes put at the parts of a range of sound main memory. -/
theorem putParts_ends {sz fuel : Nat} (hsz : 0 < sz) (hfuel : a % sz + d.length ≤ fuel * sz) (hmain : inMain a d.length)
    (hsound : SoundRange e.s a d.length) :
    Ends (putParts (blockParts sz a fuel d.length) d) e fun _ e' => Stores a d e e' := by
  have hnil {d : List Byte} (e : Eng) {a : Nat} (h : d.length = 0) :
      Ends (putParts [] d) e fun _ e' => Stores a d e e' := by
    obtain rfl := List.length_eq_zero_iff.mp h
    exact .pure .nil
  induction fuel generalizing a d e with
  | zero => exact hnil e (by omega)
  | succ f ih =>
    rcases Nat.eq_zero_or_pos d.length with h0 | hpos
    · rw [h0, blockParts_zero]
      exact hnil e h0
    · rw [blockParts, if_neg (by omega)]
      have hmod := Nat.mod_lt a hsz
      have hbehind := blocks_behind hsz hfuel
      dsimp only
      generalize hlen : min d.length (sz - a % sz) = len at hbehind
      have htake : (d.take len).length = len := by rw [List.length_take]; omega
      have hdrop : (d.drop len).length = d.length - len := List.length_drop
      obtain ⟨hok, hput⟩ := wrLocal_puts (s := e.s) (a := a) (d := d.take len) (by omega)
        (fun b hb hb' => hsound b hb (by omega))
      rw [putParts, Ends, run_modifyBind, touch_of_main e.s (by omega)]
      dsimp only
      rw [hok, Bool.or_false]
      have hfirst : Stores a (d.take len) e { e with s := (e.s.wrLocal a (d.take len)).1 } := ⟨hput, .refl _, rfl, rfl⟩
      generalize Eng.mk (e.s.wrLocal a (d.take len)).1 e.cmd e.ctx e.bad = e₁ at hfirst ⊢
      refine Ends.mono (e := e₁) (R := fun _ e' => Stores (a + len) (d.drop len) e₁ e') ?_ fun _ e' h => ?_
      · rw [← hdrop] at hbehind ⊢
        rcases hbehind with h0 | hle
        · rw [h0, blockParts_zero]
          exact hnil _ h0
        · exact ih hle (by omega) (hfirst.state.sound _ _ fun b hb hb' => hsound b (by omega) (by omega))
      · rw [← List.take_append_drop len d]
        exact hfirst.append (htake.symm ▸ h)

theorem sideOk_run (h : e.s.replay = none) (a n : Nat) : (sideOk a n).run e = (.ok (), e) := by
  unfold sideOk
  rw [run_getBind, h]
  rfl

/-- A store to sound main memory puts its bytes. -/
theorem st_ends (ht : e.ctx.t = false) (hreplay : e.s.replay = none) (hmain : inMain a d.length)
    (hsound : SoundRange e.s a d.length) : Ends (st a d) e fun _ e' => Stores a d e e' := by
  unfold st
  split
  · next hempty =>
    obtain rfl := List.isEmpty_iff.mp hempty
    exact .pure .nil
  · rw [Ends, run_bind_of_ok (sideOk_run hreplay _ _), run_bind_of_ok (place_run_of_main ht true hmain)]
    show Ends (noteWrite a (pageParts a d.length) d >>= fun _ => putParts (pageParts a d.length) d) e _
    refine .bind (noteWrite_ends _ _ _) fun _ e₁ ⟨c', he, hsame⟩ => ?_
    subst he
    have hput := putParts_ends (e := { e with cmd := c' }) (show 0 < 2 ^ 21 by decide)
      (pageParts_fuel a d.length (by decide)) hmain hsound
    exact hput.mono fun _ e' ⟨hstate, hcmd, hctx, hbad⟩ => ⟨hstate, hsame.trans hcmd, hctx, hbad⟩

/-! Rows of bytes. -/

/-- What stores of the rows `data r` at `addr r` do to their engine. -/
structure StoresRows (addr : Nat → Nat) (data : Nat → List Byte) (l : List Nat) (e e' : Eng) : Prop where
  rows : ∀ r ∈ l, memHolds (addr r) (data r) e'.s
  outside : ∀ b, (∀ r ∈ l, b < addr r ∨ addr r + (data r).length ≤ b) → e'.s.rd8 b = e.s.rd8 b
  rest : OnlyMemory e.s e'.s
  cmd : SameCmd e.cmd e'.cmd
  bad : e'.bad = e.bad

theorem Puts.memHolds (h : Puts a d s t) : memHolds a d t := fun k hk => by
  rw [h.bytes, if_pos (by omega), Nat.add_sub_cancel_left]

/-- Rows of main memory that rise are stored one after the other. -/
theorem stRows_ends {addr : Nat → Nat} {data : Nat → List Byte} {l : List Nat}
    (hrise : l.Pairwise fun r r' => addr r + (data r).length ≤ addr r') (ht : e.ctx.t = false) (hreplay : e.s.replay = none)
    (hroom : ∀ r ∈ l, inMain (addr r) (data r).length ∧ SoundRange e.s (addr r) (data r).length) :
    Ends (l.forM fun r => st (addr r) (data r)) e fun _ e' => StoresRows addr data l e e' := by
  induction l generalizing e with
  | nil => exact .pure ⟨by simp, fun _ _ => rfl, .refl _, .refl _, rfl⟩
  | cons r l ih =>
    obtain ⟨hr, hl⟩ := List.pairwise_cons.mp hrise
    obtain ⟨hmain, hsound⟩ := hroom r (by simp)
    show Ends (st (addr r) (data r) >>= fun _ => l.forM fun r => st (addr r) (data r)) e _
    refine .bind (st_ends ht hreplay hmain hsound) fun _ e₁ ⟨hput, hcmd, hctx, hbad⟩ => ?_
    have hreplay₁ : e₁.s.replay = none := by
      obtain ⟨_, _, _, _, _, _, hs⟩ := hput.rest
      rw [hs]
      exact hreplay
    refine (ih hl (hctx ▸ ht) hreplay₁ fun r' hr' => ?_).mono fun _ e' ⟨hrows, hout, hrest, hcmd', hbad'⟩ => ?_
    · obtain ⟨hmain', hsound'⟩ := hroom r' (by simp [hr'])
      exact ⟨hmain', hput.sound _ _ hsound'⟩
    refine ⟨fun r' hr' => ?_, fun b hb => ?_, hput.rest.trans hrest, hcmd.trans hcmd', hbad'.trans hbad⟩
    · rcases List.mem_cons.mp hr' with rfl | hr'
      · intro k hk
        rw [hout _ fun x hx => .inl (by have := hr x hx; omega)]
        exact hput.memHolds k hk
      · exact hrows r' hr'
    · obtain ⟨hb₁, hb₂⟩ := List.forall_mem_cons.mp hb
      rw [hout b hb₂, hput.bytes, if_neg (by omega)]

end Sys2Proof.Machine
end

section
/-! SUPPORT. MSTORE (R151): the rows of FP32 accumulators that it stores. -/

namespace Sys2Proof.Machine

open Sys2Proof

variable {α β : Type} {s : State} {q : Nat} {c : Cmd} {e : Eng}

theorem length_flatMap_of_const {l : List α} {f : α → List β} {w : Nat} (h : ∀ x ∈ l, (f x).length = w) :
    (l.flatMap f).length = w * l.length := by
  rw [List.length_flatMap, List.map_congr_left h, List.map_const', List.sum_replicate, smul_eq_mul, Nat.mul_comm]

/-- Element `j` of piece `k` of pieces of one length. -/
theorem getElem?_flatMap_of_const {l : List α} {f : α → List β} {w : Nat} (h : ∀ x ∈ l, (f x).length = w) {k j : Nat}
    (hk : k < l.length) (hj : j < w) : (l.flatMap f)[w * k + j]? = (f l[k])[j]? := by
  induction l generalizing k with
  | nil => cases hk
  | cons x l ih =>
    obtain ⟨hx, hl⟩ := List.forall_mem_cons.mp h
    rw [List.flatMap_cons]
    cases k with
    | zero => rw [Nat.mul_zero, Nat.zero_add, List.getElem?_append_left (hx ▸ hj), List.getElem_cons_zero]
    | succ k =>
      have hskip : w * (k + 1) + j - (f x).length = w * k + j := by rw [hx, Nat.mul_succ]; omega
      rw [List.getElem?_append_right (by rw [hx, Nat.mul_succ]; omega), hskip, ih hl (Nat.lt_of_succ_lt_succ hk),
        List.getElem_cons_succ]

/-- The bytes of row `r` of a store of `cols` accumulators from `base`, `ldi` apart. -/
def accRow (x : McSt) (cols base ldi r : Nat) : List Byte :=
  (upto cols).flatMap fun k => leBytes 4 (lookD x.acc (base + r * ldi + k) 0)

@[simp] theorem accRow_length (x : McSt) (cols base ldi r : Nat) : (accRow x cols base ldi r).length = 4 * cols := by
  rw [accRow, length_flatMap_of_const fun _ _ => leBytes_length 4 _, upto, List.length_range]

/-- The bytes of one accumulator in its row. -/
theorem memHolds_of_accRow {x : McSt} {cols base ldi r a k : Nat} {u : State}
    (h : memHolds a (accRow x cols base ldi r) u) (hk : k < cols) :
    memHolds (a + 4 * k) (leBytes 4 (lookD x.acc (base + r * ldi + k) 0)) u := by
  intro j hj
  rw [leBytes_length] at hj
  have hjk := h (4 * k + j) (by rw [accRow_length]; omega)
  rw [accRow, getElem?_flatMap_of_const (fun _ _ => leBytes_length 4 _) (by simpa [upto] using hk) hj] at hjk
  simpa only [Nat.add_assoc, upto, List.getElem_range] using hjk

/-- Rows of `n` bytes, `pitch` apart in a range without an error, are stored. -/
theorem stPitch_ends {dest pitch rows n : Nat} {data : Nat → List Byte} (hlen : ∀ r, (data r).length = n) (hroom : n ≤ pitch)
    (hmem : plainMem s q dest ((rows - 1) * pitch + n)) :
    Ends ((upto rows).forM fun r => st (dest + r * pitch) (data r)) ⟨s, c, ctxOfQ s q, false⟩ fun _ e' =>
      StoresRows (fun r => dest + r * pitch) data (upto rows) ⟨s, c, ctxOfQ s q, false⟩ e' := by
  obtain ⟨ht, hreplay, hmain, hsound⟩ := hmem
  refine stRows_ends (addr := fun r => dest + r * pitch) ?_ ht hreplay fun r hr => ?_
  · refine List.pairwise_lt_range.imp fun {r r'} hr => ?_
    have hnext : (r + 1) * pitch ≤ r' * pitch := Nat.mul_le_mul_right _ hr
    rw [Nat.add_mul, Nat.one_mul] at hnext
    rw [hlen]
    omega
  · have hr : r < rows := List.mem_range.mp hr
    have hlast : r * pitch ≤ (rows - 1) * pitch := Nat.mul_le_mul_right _ (by omega)
    rw [hlen]
    exact ⟨by omega, fun b hb hb' => hsound b (by omega) (by omega)⟩

/-- MSTORE of FP32 accumulators stores its rows. -/
theorem mstoreBody_run {raw cols pitch : Nat} (hraw : e.cmd.raw.toNat = raw) (hcols : cf raw 24 0 16 = cols)
    (hpitch : (if cf raw 36 0 32 = 0 then 4 * cols else cf raw 36 0 32) = pitch) (hbf : cf raw 16 0 1 = 0)
    (hacc : cf raw 28 0 32 + (cf raw 20 0 32 - 1) * cf raw 32 0 32 + (cols - 1) < 196608) :
    (mstoreBody q).run e = ((upto (cf raw 20 0 32)).forM fun r => st (cf raw 40 0 43 + r * pitch)
      (accRow (e.s.mc (mcHome e.s q)) cols (cf raw 28 0 32) (cf raw 32 0 32) r)).run e := by
  subst hraw hcols hpitch
  unfold mstoreBody
  simp only [run_fldBind, run_bind_of_ok (need_run (decide_eq_true hacc)), run_getsBind, hbf]
  rfl

/-- MSTORE of FP32 accumulators to sound main memory. -/
theorem mstore_row (hcmd : unitCmd s q 0x22 = some c) {raw cols pitch : Nat} (hraw : c.raw.toNat = raw)
    (hcols : cf raw 24 0 16 = cols) (hpitch : (if cf raw 36 0 32 = 0 then 4 * cols else cf raw 36 0 32) = pitch)
    (hbf : cf raw 16 0 1 = 0) (hroom : 4 * cols ≤ pitch)
    (hacc : cf raw 28 0 32 + (cf raw 20 0 32 - 1) * cf raw 32 0 32 + (cols - 1) < 196608) (hwaits : c.waits = 0)
    (hmem : plainMem s q (cf raw 40 0 43) ((cf raw 20 0 32 - 1) * pitch + 4 * cols)) :
    ∃ u, exec (.mstore q) s = .next u ∧ commandDone u q c 0
      ∧ (∀ r k, r < cf raw 20 0 32 → k < cols → memHolds (cf raw 40 0 43 + r * pitch + 4 * k)
          (leBytes 4 (lookD (s.mc (mcHome s q)).acc (cf raw 28 0 32 + r * cf raw 32 0 32 + k) 0)) u)
      ∧ (∀ b, (∀ r, r < cf raw 20 0 32 → b < cf raw 40 0 43 + r * pitch ∨ cf raw 40 0 43 + r * pitch + 4 * cols ≤ b) →
          u.rd8 b = s.rd8 b)
      ∧ u.mcs = s.mcs ∧ u.regs = s.regs := by
  obtain ⟨⟨⟩, e, hrun, hrows, hout, hrest, hsame, hbad⟩ :=
    stPitch_ends (c := c) (accRow_length (s.mc (mcHome s q)) cols (cf raw 28 0 32) (cf raw 32 0 32)) hroom hmem
  have hend : bodyEnds s q c (mstoreBody q) e := (mstoreBody_run hraw hcols hpitch hbf hacc).trans hrun
  have hexec : exec (.mstore q) s = .next (runBody s q c (mstoreBody q)) := by
    show execMstore q s = _
    rw [execMstore, runUnit, hcmd]
  obtain ⟨_, _, _, _, _, _, hs⟩ := hrest
  have hdone := commandDone_of_bodyEnds hcmd hend (by rw [hs]; rfl) hsame hwaits hbad
  rw [runBody_eq_finish hend] at hexec hdone
  refine ⟨finish q e 0, hexec, hdone, fun r k hr hk => ?_, fun b hb => ?_, ?_, ?_⟩
  · exact memHolds_of_accRow (hrows r (List.mem_range.mpr hr)) hk
  · exact hout b fun r hr => by simpa using hb r (List.mem_range.mp hr)
  · show e.s.mcs = s.mcs
    rw [hs]
  · show e.s.regs = s.regs
    rw [hs]

end Sys2Proof.Machine
end

section
/-! The statement about the matrix cores' commands. -/

namespace Sys2Proof.Machine

open Sys2Proof

/-- Settles O30: MLOAD only reads and then fills its shadow planes, PLANE_SWAP moves one plane, MMUL changes accumulators
of its region and counts, and MSTORE puts its rows one after the other; each body that finds its operands comes to its
end. -/
theorem matrixCommands : Obligations.MatrixCommands := by
  unfold Obligations.MatrixCommands
  refine ⟨fun s q c e => mload_row, ?_, fun s m a p => planeSwap_row, fun s m a => exec_planeSwap_of_empty,
    fun s q c e => mmul_row, fun s q c => mmul_row_of_fits, ?_⟩
  · intro s q c hcmd hbusy hwaits hmem raw mode x3 arrs kt at_ desc hfit
    obtain ⟨u, hexec, hdone, hslots, hkept⟩ := mload_row_of_fits hcmd hbusy hwaits hmem rfl rfl hfit
    refine ⟨u, hexec, hdone, fun t ht => ?_, hkept⟩
    extract_lets holds
    have hholds {i k part : Nat} (hsl : (i, k, part) ∈ tileSlots mode x3 t) (hscale : x3 = 1 ∧ mode = 0 ↔ part ≠ 0) :
        holds i k part := by
      obtain ⟨p, b, hp, hb, hk, hn, hpart, ht⟩ := hslots t ht i k part hsl
      refine ⟨p, b, hp, hb, hk, hn, hpart, ht.trans ?_⟩
      simp only [hscale, ite_not]
      rfl
    refine ⟨fun h1 => hholds ?_ (by omega), fun h => hholds ?_ (by omega), fun ⟨h0, hx⟩ p hp => hholds ?_ (by omega)⟩
    · simp [tileSlots, h1]
    · rcases h with h2 | ⟨h0, hx⟩
      · simp [tileSlots, h2]
      · simp [tileSlots, h0, hx]
    · exact (mem_tileSlots_of_x3 (by omega) (by omega) hx).mpr ⟨p, hp, rfl⟩
  · intro s q c hcmd raw rows cols base ldi pitch dest hbf _ _ hroom hacc hwaits hmem
    exact mstore_row hcmd rfl rfl rfl hbf hroom hacc hwaits hmem

end Sys2Proof.Machine
end

section
/-! SUPPORT. O31 fails: the statement takes any bytes that a program slot holds, and not only an image that VPLOAD has
checked (R167, R186). CLASS has three bits and there are six lane classes (R155): the model takes the streams of a
program of class 6 as FP32, 4 bytes an entry, and lays out its row results as those of the 8-bit classes, in whole blocks
of 32 with their entries. A row sum in the last 4 bytes of main memory then reaches past their end (R173). -/

namespace Sys2Proof.Machine

open Sys2Proof

/-- A program of class 6 with one output and no micro-operation. -/
def classlessImage : List Byte := leBytes 192 (2 ^ 12 + 6 * 2 ^ 16)

/-- A stream descriptor: MODE 1 in FP32, the tensor scale 1, in the last 4 bytes of main memory. -/
def lastWordDesc : Nat := 0x10DFFFFFFFC + 2 ^ 72 + 0x3F800000 * 2 ^ 128

/-- VEXEC of the program in slot 0 over one element, its descriptor at address 0. -/
def classlessVexec : Cmd :=
  ⟨0, BitVec.ofNat 512 (0x41 + 2 ^ (8 * 18)), .ready, false, false, [], 0, [], 0, none, [], [], [], [], 0, [], none, [], [],
    none⟩

/-- Core 0 holds the program, and queue 0, bound to it, the command. -/
def classlessState : State :=
  { (oneEntry.wrN 0 32 lastWordDesc).setVe 0 ⟨[], [], [(0, classlessImage)]⟩ with
      queues := [(0, { QState.init with started := [classlessVexec] })] }

theorem exec_vexec_of_taken {s : State} {q : Nat} {c : Cmd} (hcmd : unitCmd s q 0x41 = some c)
    (hmask : maskPending s q c = false) : exec (.vexec q) s = .next (runBody s q c (vexecBody q)) := by
  show execVexec q s = _
  simp [execVexec, runVector, hcmd, hmask]

theorem classlessState_taken :
    unitCmd classlessState 0 0x41 = some classlessVexec ∧ maskPending classlessState 0 classlessVexec = false := by
  decide +kernel

theorem classlessState_freeMem : freeMem classlessState 0 := by
  have hretired (a : Nat) : retiredAt classlessState a = false := rfl
  exact ⟨by decide +kernel, rfl, rfl, rfl, hretired⟩

/-- The slot holds the program, whose SUMSEL enables nothing. -/
theorem classlessState_program :
    look (classlessState.ve (veHome classlessState 0)).progs (cf classlessVexec.raw.toNat 16 0 4) = some classlessImage
      ∧ selsOf (Prog.ofBytes classlessImage) (cf classlessVexec.raw.toNat 32 0 64) = some [] := by
  decide +kernel

/-- The 36 bytes of the row results do not fit: their destination is refused before any of them is written. -/
theorem classlessVexec_refused :
    ((runBody classlessState 0 classlessVexec (vexecBody 0)).findCmd 0 classlessVexec.seq).map (·.phase)
      = some (.done 0x11) := by
  decide +kernel

/-- Refutes O31: VEXEC in `classlessState` has a valid descriptor, its stream of 4 bytes lies in main memory, and it
finishes with 0x11. -/
theorem not_vectorCommands : ¬ Obligations.VectorCommands := by
  unfold Obligations.VectorCommands
  intro h
  obtain ⟨-, -, -, -, hvexec⟩ := h
  obtain ⟨hcmd, hmask⟩ := classlessState_taken
  obtain ⟨hprog, hsels⟩ := classlessState_program
  -- evaluated: the descriptor lies in main memory and is valid, and the ranges are in order and lie in main memory
  obtain ⟨u, hexec, hdone, -⟩ := hvexec classlessState 0 classlessVexec classlessImage [] hcmd hmask rfl
    classlessState_freeMem hprog hsels (by decide +kernel) (by decide +kernel) (by decide +kernel) (by decide +kernel)
  obtain rfl := Host.Outcome.next.inj ((exec_vexec_of_taken hcmd hmask).symm.trans hexec)
  obtain ⟨c, hfound, -, hphase⟩ := hdone
  have hstatus := classlessVexec_refused
  rw [hfound, Option.map_some, hphase] at hstatus
  exact absurd hstatus (by decide)

end Sys2Proof.Machine
end

section
/-! SUPPORT. Upkeep of a trough (R198, R449, R450): the slot that a background eviction moves and the record that takes
it, and the spill threshold. -/

namespace Sys2Proof.Machine

open Sys2Proof

/-! Sorted maps. -/

theorem look_of_mem {α : Type} {m : SMap α} (hm : (m.map Prod.fst).Pairwise (· < ·)) {k : Nat} {v : α}
    (h : (k, v) ∈ m) : look m k = some v := by
  induction m with
  | nil => cases h
  | cons x m ih =>
    obtain ⟨hx, hm⟩ := List.pairwise_cons.mp hm
    rw [look]
    rcases List.mem_cons.mp h with rfl | h
    · rw [if_pos rfl]
    · rw [if_neg (Nat.ne_of_lt (hx k (List.mem_map_of_mem h))), ih hm h]

/-! A free record. -/

/-- Probing ends at a free record, or has passed `fuel` occupied ones. -/
theorem probeFree_free_or (recs : SMap TEntry) (n fuel i : Nat) (hi : i < n) :
    look recs (probeFree recs n fuel i) = none ∨ ∀ k, k < fuel → (look recs ((i + k) % n)).isSome = true := by
  induction fuel generalizing i with
  | zero => exact .inr fun k hk => absurd hk (Nat.not_lt_zero k)
  | succ f ih =>
    rw [probeFree]
    split
    · next hocc =>
      refine (ih _ (Nat.mod_lt _ (by omega))).imp_right fun h k hk => ?_
      cases k with
      | zero => rwa [Nat.add_zero, Nat.mod_eq_of_lt hi]
      | succ k =>
        have := h k (by omega)
        rwa [Nat.mod_add_mod, Nat.add_right_comm, Nat.add_assoc] at this
    · next hfree => exact .inl (by simpa using hfree)

theorem probeFree_lt (recs : SMap TEntry) {n : Nat} (fuel : Nat) {i : Nat} (hi : i < n) : probeFree recs n fuel i < n := by
  induction fuel generalizing i with
  | zero => exact hi
  | succ f ih =>
    rw [probeFree]
    split
    · exact ih (Nat.mod_lt _ (by omega))
    · exact hi

/-- Where there are more records than occupied ones, probing past the occupied ones finds one that is free. -/
theorem look_probeFree (recs : SMap TEntry) {n i : Nat} (hi : i < n) (hroom : recs.length < n) :
    look recs (probeFree recs n (recs.length + 1) i) = none := by
  refine (probeFree_free_or recs n _ i hi).resolve_right fun hocc => ?_
  have hsub : (Finset.range (recs.length + 1)).image (fun k => (i + k) % n) ⊆ (recs.map Prod.fst).toFinset := by
    intro j hj
    obtain ⟨k, hk, rfl⟩ := Finset.mem_image.mp hj
    obtain ⟨v, hv⟩ := Option.isSome_iff_exists.mp (hocc k (Finset.mem_range.mp hk))
    exact List.mem_toFinset.mpr (List.mem_map_of_mem (mem_of_look hv))
  have hinj : Set.InjOn (fun k => (i + k) % n) (Finset.range (recs.length + 1)) := by
    intro a ha b hb hab
    simp only [Finset.coe_range, Set.mem_Iio] at ha hb
    exact Nat.ModEq.eq_of_lt_of_lt (m := n) (Nat.ModEq.add_left_cancel' i hab) (by omega) (by omega)
  have hcard := (Finset.card_le_card hsub).trans (List.toFinset_card_le _)
  rw [Finset.card_image_of_injOn hinj, Finset.card_range, List.length_map] at hcard
  omega

theorem recs_length_lt_of_spillFree {s : State} {p : Nat} {x : TroughSt} (h : 0 < spillFree s p x) :
    x.recs.length < spillN s p := by
  unfold spillFree at h
  omega

/-! Background eviction. -/

section
variable {s : State} {p : Nat}

/-- An entry that its trough has no record for goes to a free record as it is. -/
theorem evict_of_new {x : TroughSt} {i : Nat} {v : TEntry} (hlook : look x.slots i = some v)
    (hnew : findEnt x.recs v.key v.tag = none) (hroom : 0 < spillFree s p x) :
    ∃ r, evict s p x i = .ok { x with slots := del x.slots i, recs := ins x.recs r v }
      ∧ r < spillN s p ∧ look x.recs r = none := by
  have hlen := recs_length_lt_of_spillFree hroom
  have hstart : Config.spillStart v.key % spillN s p < spillN s p := Nat.mod_lt _ (by omega)
  refine ⟨_, ?_, probeFree_lt _ (x.recs.length + 1) hstart, look_probeFree _ hstart hlen⟩
  simp only [evict, hlook, hnew, if_neg (Nat.ne_of_gt hroom)]

theorem exec_backgroundEvict_of_below (hp : p < 96)
    (h : (s.trough p).slots.length ≤ thetaOf s (s.trough p) * trgNow s p * 128) :
    exec (.troughBackgroundEvict p) s = .next s := by
  show Host.Outcome.next (if p < 96 then backgroundEvict s p else s) = _
  simp [hp, backgroundEvict, h]

/-- Above the threshold some committed slot is evicted. -/
theorem exec_backgroundEvict_of_above (hp : p < 96) (hready : homeReady s p = true)
    (habove : thetaOf s (s.trough p) * trgNow s p * 128 < (s.trough p).slots.length)
    (hsome : ∃ ie ∈ (s.trough p).slots, ie.2.tag = none) :
    ∃ ie ∈ (s.trough p).slots, ie.2.tag = none ∧ ∀ y, evict s p (s.trough p) ie.1 = .ok y →
      exec (.troughBackgroundEvict p) s
        = .next (({ s with free := s.free + 1 }.setTrough p y).bump TRG_CNT_SPILLS 1 p) := by
  obtain ⟨je, hje, htag⟩ := hsome
  have hcs : 0 < ((s.trough p).slots.filter fun ie => ie.2.tag.isNone).length :=
    List.length_pos_of_mem (List.mem_filter.mpr ⟨hje, by simp [htag]⟩)
  obtain ⟨ie, hget⟩ : ∃ ie, ((s.trough p).slots.filter fun ie => ie.2.tag.isNone)[Config.freeNat s.free
      % ((s.trough p).slots.filter fun ie => ie.2.tag.isNone).length]? = some ie :=
    ⟨_, List.getElem?_eq_getElem (Nat.mod_lt _ hcs)⟩
  obtain ⟨hmem, htag'⟩ := List.mem_filter.mp (List.mem_of_getElem? hget)
  refine ⟨ie, hmem, by simpa using htag', fun y hy => ?_⟩
  show Host.Outcome.next (if p < 96 then backgroundEvict s p else s) = _
  simp only [hp, if_true, backgroundEvict, hready, Nat.not_le.mpr habove, hget, hy, Bool.not_true, decide_false, Bool.or_false,
    Bool.false_eq_true, if_false]

/-- What storing a trough leaves: the trough, and its frame. -/
theorem setTrough_facts (s : State) (p : Nat) (y : TroughSt) :
    (s.setTrough p y).trough p = y ∧ (∀ k, k ≠ p → (s.setTrough p y).trough k = s.trough k)
      ∧ regsBut [TRG_STAT.off p] s (s.setTrough p y) ∧ troughMem p s (s.setTrough p y)
      ∧ (s.setTrough p y).queues = s.queues ∧ (s.setTrough p y).tmsgs = s.tmsgs := by
  obtain ⟨hqueues, htmsgs, htroughs, hregs, hmem⟩ := TroughFrame.setTrough (p := p) (l := [TRG_STAT.off p])
    (K := clearOfBoth s p y) s y (.head _)
    (fun h => trgSpill_notMem_troughRegs p (.tail _ h)) fun _ hb => hb
  exact ⟨trough_setTrough s p y, htroughs, hregs, troughMem_of_clear (trough_setTrough s p y) hmem, hqueues, htmsgs⟩

/-- A background eviction: one committed slot moves unchanged to a free record (R198, R449). -/
theorem backgroundEvict_row (hp : p < 96) (hready : homeReady s p = true)
    (habove : thetaOf s (s.trough p) * trgNow s p * 128 < (s.trough p).slots.length)
    (hsome : ∃ ie ∈ (s.trough p).slots, ie.2.tag = none)
    (hsorted : ((s.trough p).slots.map Prod.fst).Pairwise (· < ·))
    (hnew : ∀ ie ∈ (s.trough p).slots, findEnt (s.trough p).recs ie.2.key none = none)
    (hroom : 0 < spillFree s p (s.trough p)) :
    ∃ u i v r, exec (.troughBackgroundEvict p) s = .next u ∧ look (s.trough p).slots i = some v ∧ v.tag = none
      ∧ look (u.trough p).slots i = none ∧ (∀ j, j ≠ i → look (u.trough p).slots j = look (s.trough p).slots j)
      ∧ r < spillN s p ∧ look (s.trough p).recs r = none ∧ look (u.trough p).recs r = some v
      ∧ (∀ j, j ≠ r → look (u.trough p).recs j = look (s.trough p).recs j)
      ∧ u.get TRG_CNT_SPILLS p = (s.get TRG_CNT_SPILLS p + 1) % 2 ^ 32 ∧ regsBut (troughRegs p) s u ∧ troughMem p s u := by
  obtain ⟨⟨i, v⟩, hmem, htag, hexec⟩ := exec_backgroundEvict_of_above hp hready habove hsome
  have hlook := look_of_mem hsorted hmem
  obtain ⟨r, hevict, hr, hfree⟩ := evict_of_new hlook (htag ▸ hnew _ hmem) hroom
  obtain ⟨htrough, -, hregs, hkept, -, -⟩ := setTrough_facts { s with free := s.free + 1 } p
    { s.trough p with slots := del (s.trough p).slots i, recs := ins (s.trough p).recs r v }
  have hexec := hexec _ hevict
  generalize { s with free := s.free + 1 }.setTrough p _ = t at htrough hregs hkept hexec
  have hne : TRG_CNT.off p ∉ [TRG_STAT.off p] := by
    rw [List.mem_singleton]
    exact off_ne_of_base TRG_CNT TRG_STAT rfl (by decide) p
  have hcnt : t.get TRG_CNT_SPILLS p = s.get TRG_CNT_SPILLS p := congrArg (fget TRG_CNT_SPILLS) (hregs _ hne _)
  have htrough' : (t.bump TRG_CNT_SPILLS 1 p).trough p = t.trough p := rfl
  refine ⟨_, i, v, r, hexec, hlook, htag, ?_, ?_, hr, hfree, ?_, ?_, ?_, ?_, ?_⟩
  · rw [htrough', htrough, look_del, if_pos rfl]
  · intro j hj
    rw [htrough', htrough, look_del, if_neg hj]
  · rw [htrough', htrough, look_ins_self]
  · intro j hj
    rw [htrough', htrough, look_ins_ne _ _ hj]
  · rw [State.bump, get_set_self _ _ _ _ _ (by decide), hcnt]
    exact Nat.mod_mod _ _
  · intro o ho w
    have hcntOff : o ≠ TRG_CNT.off p := fun h => ho (h ▸ .head _)
    rw [State.bump, regAt_set_ne _ _ _ _ _ _ hcntOff]
    exact hregs o (fun h => ho (.tail _ h)) w
  · exact hkept

end

/-- Settles O39: the evicted slot is deleted and inserted at the record that probing finds, and the adjustment stores
the trough once. -/
theorem troughUpkeep : Obligations.TroughUpkeep := by
  unfold Obligations.TroughUpkeep
  intro s p hp x lo hi
  refine ⟨exec_backgroundEvict_of_below hp, fun hready habove hsome hsorted _ _ hnew hroom =>
    backgroundEvict_row hp hready habove hsome hsorted hnew hroom, fun hfew => ?_, fun hmany => ?_⟩
  · show Host.Outcome.next (if p < 96 then thresholdAdjust s p else s) = _
    rw [if_pos hp, thresholdAdjust, if_pos hfew]
  · have hexec : exec (.spillThresholdAdjust p) s = .next (thresholdAdjust s p) := by
      show Host.Outcome.next (if p < 96 then thresholdAdjust s p else s) = _
      rw [if_pos hp]
    rw [thresholdAdjust, if_neg (Nat.not_lt.mpr hmany)] at hexec
    obtain ⟨htrough, hothers, hregs, hmem, hqueues, htmsgs⟩ := setTrough_facts s p _
    refine ⟨_, hexec, ?_, ?_, ?_, ?_, ?_, hothers, hregs, hmem, hqueues, htmsgs⟩ <;> rw [htrough]

end Sys2Proof.Machine
end

section
/-! SUPPORT. The end of a stage at its home (R205 to R207): what COMMIT leaves of the staged entries, and what a home
answers to a message of this device that ends a stage. -/

namespace Sys2Proof.Machine

open Sys2Proof

/-! Rising maps. -/

theorem risingFrom_of_pairwise {α : Type} {m : SMap α} (h : (m.map Prod.fst).Pairwise (· < ·)) {lo : Nat}
    (hlo : ∀ k ∈ m.map Prod.fst, lo ≤ k) : risingFrom lo m = true := by
  induction m generalizing lo with
  | nil => rfl
  | cons x m ih =>
    obtain ⟨hx, hm⟩ := List.pairwise_cons.mp h
    simp only [risingFrom, Bool.and_eq_true, decide_eq_true_eq]
    exact ⟨hlo _ (.head _), ih hm fun k hk => hx k hk⟩

theorem le_of_mem_risingFrom {α : Type} {m : SMap α} {lo : Nat} (h : risingFrom lo m = true) {ie : Nat × α}
    (hie : ie ∈ m) : lo ≤ ie.1 := by
  induction m generalizing lo with
  | nil => cases hie
  | cons x m ih =>
    simp only [risingFrom, Bool.and_eq_true, decide_eq_true_eq] at h
    rcases List.mem_cons.mp hie with rfl | hie
    · exact h.1
    · have := ih h.2 hie
      omega

theorem look_of_mem_risingFrom {α : Type} {m : SMap α} {lo : Nat} (h : risingFrom lo m = true) {k : Nat} {v : α}
    (hmem : (k, v) ∈ m) : look m k = some v := by
  induction m generalizing lo with
  | nil => cases hmem
  | cons x m ih =>
    simp only [risingFrom, Bool.and_eq_true, decide_eq_true_eq] at h
    rw [look]
    rcases List.mem_cons.mp hmem with rfl | hmem
    · rw [if_pos rfl]
    · have := le_of_mem_risingFrom h.2 hmem
      rw [if_neg (by omega), ih h.2 hmem]

/-! Staged entries. -/

/-- A trough's slots, or its records. -/
def TroughSt.part (x : TroughSt) (inSlot : Bool) : SMap TEntry := if inSlot then x.slots else x.recs

section
variable {m : SMap TEntry}

/-- To merge into a committed entry leaves every staged one. -/
theorem look_ins_merge (hm : risingFrom 0 m = true) {k j₀ : Nat} {e : TEntry} (hfind : findEnt m k none = some (j₀, e))
    (v : TEntry) (j : Nat) {w : TEntry} (hw : w.tag.isSome = true) :
    look (ins m j₀ (e.merge v)) j = some w ↔ look m j = some w := by
  have htag : e.tag = none := by
    have := List.find?_some hfind
    simp only [Bool.and_eq_true, beq_iff_eq] at this
    exact this.2
  have hlook := look_of_mem_risingFrom hm (List.mem_of_find?_eq_some hfind)
  rw [look_ins]
  split
  · next hj =>
    rw [hj, hlook]
    constructor <;> rintro ⟨⟩ <;> simp [TEntry.merge, htag] at hw
  · rfl

/-- To commit an entry in its place leaves every other staged one. -/
theorem look_ins_committed (i j : Nat) (v : TEntry) {w : TEntry} (hw : w.tag.isSome = true) :
    look (ins m i { v with tag := none }) j = some w ↔ look m j = some w ∧ j ≠ i := by
  rw [look_ins]
  split
  · next hj =>
    refine ⟨?_, fun h => absurd hj h.2⟩
    rintro ⟨⟩
    cases hw
  · next hj => exact (and_iff_left hj).symm

theorem look_del_iff (i j : Nat) (w : TEntry) : look (del m i) j = some w ↔ look m j = some w ∧ j ≠ i := by
  rw [look_del]
  split
  · next hj => simp [hj]
  · next hj => exact (and_iff_left hj).symm

end

/-- From `x` to `y` staged entries stay but for those at the places `gone`, and no entry becomes staged. -/
structure StagedBut (gone : Bool → Nat → Prop) (x y : TroughSt) : Prop where
  rising : ∀ c, risingFrom 0 (y.part c) = true
  staged : ∀ c j (w : TEntry), w.tag.isSome = true →
    (look (y.part c) j = some w ↔ look (x.part c) j = some w ∧ ¬gone c j)

/-- To commit one entry takes it from the staged ones. -/
theorem commitOne_stagedBut {x : TroughSt} (hx : ∀ c, risingFrom 0 (x.part c) = true) (b : Bool) (i : Nat) (v : TEntry) :
    StagedBut (fun c j => c = b ∧ j = i) x (commitOne x b i v) := by
  have hslots : risingFrom 0 x.slots = true := hx true
  have hrecs : risingFrom 0 x.recs = true := hx false
  have hslots' := risingFrom_del 0 _ i hslots
  have hrecs' := risingFrom_del 0 _ i hrecs
  unfold commitOne
  cases b with
  | true =>
    simp only [if_true]
    split
    · next j₀ e hfind =>
      refine ⟨Bool.rec hrecs (risingFrom_ins 0 _ _ _ hslots' (Nat.zero_le _)), Bool.rec ?_ ?_⟩
      · simp [TroughSt.part]
      · intro j w hw
        simpa [TroughSt.part, look_del_iff] using look_ins_merge hslots' hfind v j hw
    · refine ⟨Bool.rec hrecs (risingFrom_ins 0 _ _ _ hslots (Nat.zero_le _)), Bool.rec ?_ ?_⟩
      · simp [TroughSt.part]
      · intro j w hw
        simpa [TroughSt.part] using look_ins_committed i j v hw
  | false =>
    simp only [Bool.false_eq_true, if_false]
    split
    · next j₀ e hfind =>
      refine ⟨Bool.rec hrecs' (risingFrom_ins 0 _ _ _ hslots (Nat.zero_le _)), Bool.rec ?_ ?_⟩
      · simp [TroughSt.part, look_del_iff]
      · intro j w hw
        simpa [TroughSt.part] using look_ins_merge hslots hfind v j hw
    · split
      · next j₀ e hfind =>
        refine ⟨Bool.rec (risingFrom_ins 0 _ _ _ hrecs' (Nat.zero_le _)) hslots, Bool.rec ?_ ?_⟩
        · intro j w hw
          simpa [TroughSt.part, look_del_iff] using look_ins_merge hrecs' hfind v j hw
        · simp [TroughSt.part]
      · refine ⟨Bool.rec (risingFrom_ins 0 _ _ _ hrecs (Nat.zero_le _)) hslots, Bool.rec ?_ ?_⟩
        · intro j w hw
          simpa [TroughSt.part] using look_ins_committed i j v hw
        · simp [TroughSt.part]

/-- To commit the entries of a list takes them, and no others, from the staged ones. -/
theorem commitAll_stagedBut (b : Bool) (l : SMap TEntry) {x : TroughSt} (hx : ∀ c, risingFrom 0 (x.part c) = true) :
    StagedBut (fun c j => c = b ∧ ∃ ie ∈ l, ie.1 = j) x (l.foldl (fun y ie => commitOne y b ie.1 ie.2) x) := by
  induction l generalizing x with
  | nil => exact ⟨hx, by simp⟩
  | cons ie l ih =>
    have h₁ := commitOne_stagedBut hx b ie.1 ie.2
    have h₂ := ih h₁.rising
    refine ⟨h₂.rising, fun c j w hw => ?_⟩
    rw [List.foldl_cons, h₂.staged c j w hw, h₁.staged c j w hw, and_assoc, ← not_or, ← and_or_left]
    simp [eq_comm]

/-- The entries of stage `tag`. -/
def stagedIn (m : SMap TEntry) (tag : Nat) : SMap TEntry := m.filter fun ie => ie.2.tag == some tag

/-- What COMMIT makes of a trough before the stage's reservation and count end. -/
def committedTrough (x : TroughSt) (tag : Nat) : TroughSt :=
  let a := (stagedIn x.slots tag).foldl (fun y ie => commitOne y true ie.1 ie.2) x
  (stagedIn a.recs tag).foldl (fun y ie => commitOne y false ie.1 ie.2) a

theorem commitAt_of_live {s : State} {p tag : Nat} (h : stageLive (s.trough p) tag = true) :
    commitAt s p tag = s.setTrough p { committedTrough (s.trough p) tag with
      resv := del (committedTrough (s.trough p) tag).resv tag
      applied := del (committedTrough (s.trough p) tag).applied tag } := by
  simp only [commitAt, h, Bool.not_true, Bool.false_eq_true, if_false, committedTrough, stagedIn, List.foldl_filter]

/-- COMMIT takes exactly the entries of its stage from the staged ones. -/
theorem committedTrough_staged {x : TroughSt} (hx : ∀ c, risingFrom 0 (x.part c) = true) (tag : Nat) (c : Bool) (j : Nat)
    {w : TEntry} (hw : w.tag.isSome = true) :
    (j, w) ∈ (committedTrough x tag).part c ↔ (j, w) ∈ x.part c ∧ w.tag ≠ some tag := by
  have h₁ := commitAll_stagedBut true (stagedIn x.slots tag) hx
  have h₂ := commitAll_stagedBut false (stagedIn ((stagedIn x.slots tag).foldl (fun y ie => commitOne y true ie.1 ie.2) x).recs
    tag) h₁.rising
  -- the place of an entry tells whether it is of the stage
  have hplace {m : SMap TEntry} (hm : risingFrom 0 m = true) (hlook : look m j = some w) :
      (∃ ie ∈ stagedIn m tag, ie.1 = j) ↔ w.tag = some tag := by
    refine ⟨fun ⟨ie, hie, hj⟩ => ?_, fun htag => ⟨(j, w), ?_, rfl⟩⟩
    · obtain ⟨hmem, htag⟩ := List.mem_filter.mp hie
      have hlook' := look_of_mem_risingFrom hm hmem
      rw [hj, hlook] at hlook'
      rw [Option.some.inj hlook']
      exact beq_iff_eq.mp htag
    · exact List.mem_filter.mpr ⟨mem_of_look hlook, beq_iff_eq.mpr htag⟩
  have hlook {m : SMap TEntry} (hm : risingFrom 0 m = true) : (j, w) ∈ m ↔ look m j = some w :=
    ⟨look_of_mem_risingFrom hm, mem_of_look⟩
  unfold committedTrough
  dsimp only
  rw [hlook (h₂.rising c), hlook (hx c)]
  rw [h₂.staged c j w hw, and_congr_left' (h₁.staged c j w hw)]
  cases c with
  | true =>
    simp only [Bool.true_eq_false, false_and, not_false_eq_true, and_true, true_and]
    exact and_congr_right fun h => not_congr (hplace (hx true) h)
  | false =>
    have h₁' := h₁.staged false j w hw
    simp only [Bool.false_eq_true, false_and, not_false_eq_true, and_true, true_and] at h₁' ⊢
    exact and_congr_right fun h => not_congr (hplace (h₁.rising false) (h₁'.mpr h))

/-! The home's answer to a message of this device. -/

section
variable {s t : State} {m : TroughMsg}

/-- The home's answer, sent from state `t`. -/
def stageAnswered (t : State) (m : TroughMsg) (ok : Bool) : State :=
  { t with tmsgs := t.tmsgs ++ [afarReply t m m.dst m.e m.nf ok] }

/-- A home that can work does what a waiting message of this device asks for, and answers. -/
theorem stageEnd_of_act {kind : TroughKind} {act : State → Nat → State × Bool} {ok : Bool} (hwait : isWaiting s m = true)
    (hdev : m.dstDev = s.me) (hsrc : m.srcDev = s.me) (hack : m.ack = false) (hdst : m.dst < 96)
    (hready : homeReady s m.dst = true) (hkind : m.kind = kind) (hact : act (dropMsg s m) m.dst = (t, ok))
    (hme : t.me = s.me) : stageEnd s m kind act = stageAnswered t m ok := by
  simp [stageEnd, homesAt, replyTo, hkind, hack, hwait, hdev, hsrc, hdst, hready, hact, hme, stageAnswered, afarReply]

theorem stageAnswered_answer (ok : Bool) (ht : t.tmsgs = s.tmsgs.erase m) :
    ∃ r, (stageAnswered t m ok).tmsgs = s.tmsgs.erase m ++ [r] ∧ r.ack = true ∧ r.ok = ok ∧ r.kind = m.kind ∧ r.dst = m.src
      ∧ r.src = m.dst ∧ r.dev = m.dev ∧ r.queue = m.queue ∧ r.seq = m.seq := by
  refine ⟨afarReply t m m.dst m.e m.nf ok, ?_, rfl, rfl, rfl, rfl, rfl, rfl, rfl, rfl⟩
  rw [← ht]
  rfl

theorem trough_stageAnswered_setTrough (s : State) (m : TroughMsg) (y : TroughSt) (ok : Bool) :
    (stageAnswered (s.setTrough m.dst y) m ok).trough m.dst = y := trough_setTrough s m.dst y

/-- A trough is stored after the message has been taken. -/
theorem TroughFrame.setTrough_dropMsg (s : State) (m : TroughMsg) (y : TroughSt) :
    TroughFrame m.dst [TRG_STAT.off m.dst] (clearOfBoth s m.dst y) (dropMsg s m) ((dropMsg s m).setTrough m.dst y) :=
  .setTrough _ y (.head _) (fun h => trgSpill_notMem_troughRegs m.dst (.tail _ h)) fun _ hb => hb

theorem TroughFrame.me_of_dropMsg {K : Nat → Prop} (h : TroughFrame m.dst [TRG_STAT.off m.dst] K (dropMsg s m) t) :
    t.me = s.me :=
  (h.mono (List.subset_cons_self _ _)).me

/-! PREPARE. -/

/-- How many entries of stage `tag` a trough holds. -/
def stagedCount (x : TroughSt) (tag : Nat) : Nat :=
  countOf (fun ie : Nat × TEntry => ie.2.tag == some tag) (x.slots ++ x.recs)

/-- A trough with a record reserved for each entry of stage `tag`. -/
def reservedTrough (x : TroughSt) (tag : Nat) : TroughSt := { x with resv := ins x.resv tag (stagedCount x tag) }

theorem prepareAt_of_room {p tag count : Nat} (hcount : lookD (s.trough p).applied tag 0 = count)
    (hfits : stageFits (s.trough p) tag = true)
    (hroom : stagedCount (s.trough p) tag ≤ spillFree s p { s.trough p with resv := del (s.trough p).resv tag }) :
    prepareAt s p tag count = (s.setTrough p (reservedTrough (s.trough p) tag), true) := by
  unfold stagedCount at hroom
  simp only [prepareAt, hcount, hfits, if_neg (Nat.not_lt.mpr hroom), bne_self_eq_false, Bool.not_true, Bool.or_self,
    Bool.false_eq_true, if_false, reservedTrough, stagedCount]

theorem prepareAt_of_full {p tag count : Nat} (hcount : lookD (s.trough p).applied tag 0 = count)
    (hfits : stageFits (s.trough p) tag = true)
    (hfull : spillFree s p { s.trough p with resv := del (s.trough p).resv tag } < stagedCount (s.trough p) tag) :
    prepareAt s p tag count = (s.stick TRG_STAT_SPILL_FULL p, false) := by
  unfold stagedCount at hfull
  simp only [prepareAt, hcount, hfits, if_pos hfull, bne_self_eq_false, Bool.not_true, Bool.or_self, Bool.false_eq_true,
    if_false]

theorem prepareAt_of_refused {p tag count : Nat}
    (h : lookD (s.trough p).applied tag 0 ≠ count ∨ stageFits (s.trough p) tag = false) :
    prepareAt s p tag count = (s, false) := by
  rw [prepareAt, if_pos (by rcases h with h | h <;> simp [h])]

/-! ABORT and COMMIT. -/

/-- A trough without stage `tag`. -/
def abortedTrough (x : TroughSt) (tag : Nat) : TroughSt :=
  { x with slots := x.slots.filter fun ie => ie.2.tag != some tag
           recs := x.recs.filter fun ie => ie.2.tag != some tag
           resv := del x.resv tag, applied := del x.applied tag }

theorem abortAt_of_live {p tag : Nat} (h : stageLive (s.trough p) tag = true) :
    abortAt s p tag = (s.setTrough p (abortedTrough (s.trough p) tag)).stick TRG_STAT_ABORTED p := by
  simp only [abortAt, h, Bool.not_true, Bool.false_eq_true, if_false, abortedTrough]

theorem commitAt_of_not_live {p tag : Nat} (h : stageLive (s.trough p) tag = false) : commitAt s p tag = s := by
  simp [commitAt, h]

/-- A trough whose entries of stage `tag` are none and whose count of it is gone has no such stage. -/
theorem stageLive_eq_false {x : TroughSt} {tag : Nat} (hpart : ∀ c, ∀ ie ∈ x.part c, ie.2.tag ≠ some tag)
    (happlied : look x.applied tag = none) : stageLive x tag = false := by
  simp only [stageLive, happlied, Option.isSome_none, Bool.or_false, List.any_eq_false, List.mem_append, beq_iff_eq]
  exact fun ie hie => hie.elim (hpart true ie) (hpart false ie)

/-- What COMMIT makes of a trough. -/
def committedAndEnded (x : TroughSt) (tag : Nat) : TroughSt :=
  { committedTrough x tag with
    resv := del (committedTrough x tag).resv tag, applied := del (committedTrough x tag).applied tag }

theorem stageLive_committedAndEnded {x : TroughSt} (hx : ∀ c, risingFrom 0 (x.part c) = true) (tag : Nat) :
    stageLive (committedAndEnded x tag) tag = false := by
  refine stageLive_eq_false (fun c ie hie htag => ?_) ?_
  · exact ((committedTrough_staged hx tag c ie.1 (by rw [htag]; rfl)).mp hie).2 htag
  · rw [committedAndEnded, look_del, if_pos rfl]

/-! The rows. -/

section
variable (hwait : isWaiting s m = true) (hdev : m.dstDev = s.me) (hsrc : m.srcDev = s.me) (hack : m.ack = false)
  (hdst : m.dst < 96) (hready : homeReady s m.dst = true)
include hwait hdev hsrc hack hdst hready

theorem exec_prepare_of_act {ok : Bool} (hkind : m.kind = .prepare)
    (hact : prepareAt (dropMsg s m) m.dst (tagOf m) m.count = (t, ok)) (hme : t.me = s.me) :
    exec (.prepare m) s = .next (stageAnswered t m ok) :=
  congrArg Host.Outcome.next (stageEnd_of_act hwait hdev hsrc hack hdst hready hkind hact hme)

theorem exec_commit_of_act (hkind : m.kind = .commit) (hact : commitAt (dropMsg s m) m.dst (tagOf m) = t)
    (hme : t.me = s.me) : exec (.commit m) s = .next (stageAnswered t m true) :=
  congrArg Host.Outcome.next (stageEnd_of_act hwait hdev hsrc hack hdst hready hkind (Prod.ext hact rfl) hme)

theorem exec_abort_of_act (hkind : m.kind = .abort) (hact : abortAt (dropMsg s m) m.dst (tagOf m) = t)
    (hme : t.me = s.me) : exec (.abort m) s = .next (stageAnswered t m true) :=
  congrArg Host.Outcome.next (stageEnd_of_act hwait hdev hsrc hack hdst hready hkind (Prod.ext hact rfl) hme)

end

end

/-! HOME_ACKNOWLEDGEMENT. -/

section
variable {s : State} {q seq : Nat} {c : Cmd}

theorem seq_of_findCmd (h : s.findCmd q seq = some c) : c.seq = seq := beq_iff_eq.mp (List.find?_some h :)

theorem mem_started_of_findCmd (h : s.findCmd q seq = some c) : c ∈ (s.q q).started := List.mem_of_find?_eq_some h

/-- The command with one answer fewer to wait for. -/
def Cmd.answeredOnce (c : Cmd) : Cmd := { c with waits := c.waits - 1 }

/-- A good answer to a command that waits for it is counted off; the last one ends its step. -/
theorem stageAnswer_of_good (hc : s.findCmd q seq = some c) (hphase : c.phase = .running) (hwaits : c.waits ≠ 0) :
    stageAnswer s q seq 0 id = if c.answeredOnce.waits = 0 then stageNext (putCmd s q c.answeredOnce) q c.answeredOnce
      else putCmd s q c.answeredOnce := by
  have hput : s.updCmd q seq (fun _ => c.answeredOnce) = putCmd s q c.answeredOnce := by
    rw [putCmd, show c.answeredOnce.seq = c.seq from rfl, seq_of_findCmd hc]
  have hidle : ¬(c.phase != .running || c.waits = 0) = true := by simp [hphase, hwaits]
  rw [stageAnswer, hc]
  dsimp only
  rw [if_neg hidle, ← hput]
  rfl

theorem findCmd_answeredOnce (hc : s.findCmd q seq = some c) :
    (putCmd s q c.answeredOnce).findCmd q seq = some c.answeredOnce :=
  seq_of_findCmd hc ▸ findCmd_putCmd (mem_started_of_findCmd hc) rfl

/-- The step's end stores the command again. -/
theorem findCmd_putCmd_answeredOnce (hc : s.findCmd q seq = some c) {d : Cmd} (hd : d.seq = c.seq) :
    (putCmd (putCmd s q c.answeredOnce) q d).findCmd q seq = some d := by
  have hmem := mem_started_of_findCmd (findCmd_answeredOnce hc)
  have := findCmd_putCmd hmem (hd.trans (rfl : c.seq = c.answeredOnce.seq))
  rwa [seq_of_findCmd (findCmd_answeredOnce hc)] at this

end

theorem stageNext_of_prepared (s : State) (q : Nat) {c : Cmd} (hstage : c.stage = 2) (hfin : c.fin.getD 0 = 0) :
    stageNext s q c = putCmd s q { c with stage := 3, phase := .done 0 } := by
  simp only [stageNext, hstage, hfin, bne_self_eq_false, Bool.false_eq_true, if_false]
  rfl

theorem stageNext_of_committed (s : State) (q : Nat) {c : Cmd} (hstage : c.stage = 4) :
    stageNext s q c = putCmd s q { c with stage := 6, phase := .done 0 } := by
  simp only [stageNext, hstage]
  rfl

/-- A home's answer that says yes is an answer to its command. -/
theorem exec_homeAck_of_good {s : State} {m : TroughMsg} (hwait : isWaiting s m = true) (hack : m.ack = true)
    (hdst : m.dstDev = s.me) (hsrc : m.srcDev = s.me) (hdev : m.dev = s.me) (hrun : running s = true) (hok : m.ok = true)
    (hfetch : m.kind ≠ .efetch) (hsend : m.kind ≠ .asend) :
    exec (.homeAcknowledgement m) s = .next (stageAnswer (dropMsg s m) m.queue m.seq 0 id) := by
  show Host.Outcome.next (homeAck s m) = _
  simp only [homeAck, hwait, hack, hdst, hsrc, hdev, hrun, hok, bne_self_eq_false, beq_self_eq_true, Bool.not_true,
    Bool.or_self, Bool.false_eq_true, if_false, if_true]

/-- Settles O38: what each action at the home makes of its trough, stored once, and the command counted down by the
answers. -/
theorem stageEnds : Obligations.StageEnds := by
  unfold Obligations.StageEnds
  constructor
  case right =>
    intro s m c hwait hack hdst hsrc hdev hrun hc hphase hok hfetch hsend
    have hexec := exec_homeAck_of_good hwait hack hdst hsrc hdev hrun hok hfetch hsend
    have hc' : (dropMsg s m).findCmd m.queue m.seq = some c := hc
    refine ⟨fun n hn => ?_, fun hone hstage => ?_, fun hone hstage hfin => ?_⟩ <;>
      rw [stageAnswer_of_good hc' hphase (by omega)] at hexec
    · rw [if_neg (by rw [Cmd.answeredOnce, hn]; exact Nat.succ_ne_zero n)] at hexec
      exact ⟨_, _, hexec, rfl, findCmd_answeredOnce hc', by rw [Cmd.answeredOnce, hn]; rfl, hphase, rfl, rfl, rfl⟩
    · rw [if_pos (by rw [Cmd.answeredOnce, hone]), stageNext_of_committed (c := c.answeredOnce) _ _ hstage] at hexec
      exact ⟨_, _, hexec, rfl, findCmd_putCmd_answeredOnce hc' rfl, rfl, rfl, rfl, rfl⟩
    · rw [if_pos (by rw [Cmd.answeredOnce, hone]), stageNext_of_prepared (c := c.answeredOnce) _ _ hstage hfin] at hexec
      exact ⟨_, _, hexec, rfl, findCmd_putCmd_answeredOnce hc' rfl, rfl, rfl, rfl, rfl⟩
  intro s m hwait hdev hsrc hack hdst hready x tag n answer
  refine ⟨?prepared, ?full, ?refused, ?commit, ?noStage, ?abort⟩
  case prepared =>
    intro hkind hcount hfits hroom
    have hact : prepareAt (dropMsg s m) m.dst tag m.count
        = ((dropMsg s m).setTrough m.dst (reservedTrough x tag), true) := prepareAt_of_room hcount hfits hroom
    have hframe := TroughFrame.setTrough_dropMsg s m (reservedTrough x tag)
    have htrough := trough_stageAnswered_setTrough (dropMsg s m) m (reservedTrough x tag) true
    refine ⟨_, exec_prepare_of_act hwait hdev hsrc hack hdst hready hkind hact hframe.me_of_dropMsg,
      stageAnswered_answer true hframe.tmsgs, ?_, ?_, ?_, hframe.regs, troughMem_of_clear htrough hframe.mem⟩ <;>
      rw [htrough]
    · exact look_ins_self _ _ _
    · rfl
    · rfl
  case full =>
    intro hkind hcount hfits hfull
    have hframe : TroughFrame m.dst [TRG_STAT.off m.dst] (fun _ => True) (dropMsg s m)
        ((dropMsg s m).stick TRG_STAT_SPILL_FULL m.dst) := .set _ _ _ _ _ _ (.head _)
    exact ⟨_, exec_prepare_of_act hwait hdev hsrc hack hdst hready hkind (prepareAt_of_full hcount hfits hfull)
      hframe.me_of_dropMsg, stageAnswered_answer false rfl, get_set_self _ _ _ _ _ (by decide), rfl, hframe.regs, fun _ => rfl⟩
  case refused =>
    intro hkind hbad
    exact ⟨_, exec_prepare_of_act hwait hdev hsrc hack hdst hready hkind (prepareAt_of_refused hbad) rfl,
      stageAnswered_answer false rfl, rfl⟩
  case commit =>
    intro hkind hlive hslots hrecs
    have hx : ∀ c, risingFrom 0 (x.part c) = true :=
      Bool.rec (risingFrom_of_pairwise hrecs fun _ _ => Nat.zero_le _)
        (risingFrom_of_pairwise hslots fun _ _ => Nat.zero_le _)
    have hact : commitAt (dropMsg s m) m.dst tag = (dropMsg s m).setTrough m.dst (committedAndEnded x tag) :=
      commitAt_of_live hlive
    have hframe := TroughFrame.setTrough_dropMsg s m (committedAndEnded x tag)
    have htrough := trough_stageAnswered_setTrough (dropMsg s m) m (committedAndEnded x tag) true
    refine ⟨_, exec_commit_of_act hwait hdev hsrc hack hdst hready hkind hact hframe.me_of_dropMsg,
      stageAnswered_answer true hframe.tmsgs, ?_, ?_, fun ie hie hst htag => ?_, fun ie hie hst htag => ?_, hframe.troughs,
      hframe.regs, troughMem_of_clear htrough hframe.mem⟩ <;> rw [htrough]
    · exact stageLive_committedAndEnded hx tag
    · rw [committedAndEnded, look_del, if_pos rfl]
    · exact (committedTrough_staged hx tag true ie.1 hst).mpr ⟨hie, htag⟩
    · exact (committedTrough_staged hx tag false ie.1 hst).mpr ⟨hie, htag⟩
  case noStage =>
    intro hkind hlive
    exact ⟨_, exec_commit_of_act hwait hdev hsrc hack hdst hready hkind (commitAt_of_not_live hlive) rfl,
      stageAnswered_answer true rfl, rfl⟩
  case abort =>
    intro hkind hlive
    have hact : abortAt (dropMsg s m) m.dst tag
        = ((dropMsg s m).setTrough m.dst (abortedTrough x tag)).stick TRG_STAT_ABORTED m.dst := abortAt_of_live hlive
    have hframe := (TroughFrame.setTrough_dropMsg s m (abortedTrough x tag)).trans
      (.set m.dst _ _ TRG_STAT_ABORTED 1 m.dst (.head _))
    have htrough : (stageAnswered (((dropMsg s m).setTrough m.dst (abortedTrough x tag)).stick TRG_STAT_ABORTED m.dst) m
        true).trough m.dst = abortedTrough x tag := trough_setTrough (dropMsg s m) m.dst _
    refine ⟨_, exec_abort_of_act hwait hdev hsrc hack hdst hready hkind hact hframe.me_of_dropMsg,
      stageAnswered_answer true hframe.tmsgs, ?_, ?_, ?_, get_set_self _ _ _ _ _ (by decide), hframe.regs,
      troughMem_of_clear htrough hframe.mem⟩ <;> rw [htrough]
    · simp [abortedTrough]
    · simp [abortedTrough]
    · rw [abortedTrough, look_del, if_pos rfl]

end Sys2Proof.Machine
end

section
/-! SUPPORT. O35 fails for PRUNE_PACK (R220): its sources may lie in the host window, where the command reads what the
host answered, and the statement takes their descriptors from this device's own memory. Where the two differ the answered
tiles can need more room in a position than the statement allows for. -/

namespace Sys2Proof.Machine

open Sys2Proof

/-- An untranslated load from the host window finds the host's answer. -/
theorem ld_of_answered {e : Eng} {a n : Nat} {d : List Byte} (ht : e.ctx.t = false) (hn : n ≠ 0) (hhost : areaOf a = .host)
    (hopen : hostOpen e.s = true) (hlook : look e.cmd.buf (hostKey a n) = some d) : (ld a n).run e = (.ok d, e) := by
  have hallowed : allowed e.s e.ctx a = .error (.hostWin a) := by simp [allowed, hhost]
  have hresolve : resolve e.s e.ctx a n false = (.error (.hostWin a), e.s) := by
    simp only [resolve, blockParts, hn, if_false, resolveParts, resolve1, ht, Bool.false_and, Bool.false_eq_true, hallowed]
  have hplace : (place a n false).run e = (.ok (.inr a), e) := by
    unfold place
    simp only [run_getBind, hresolve, run_setBind, hopen, if_true]
    rfl
  unfold ld
  rw [if_neg hn, run_bind_of_ok hplace]
  simp only [run_getBind, hlook]
  rfl

/-- Where the sources lie, in the host window. -/
def hostTileAt : Nat := 0x40000000000

/-- PRUNE_PACK of one pair, both sources one tile in the host window, with the host's answers: a tile of one vector of one-bit elements,
and the vector's mask. -/
def hostPrunePack : Cmd :=
  ⟨0, BitVec.ofNat 512 (0xB1 + 2 ^ (8 * 20) + 2 ^ (8 * 24) * hostTileAt + 2 ^ (8 * 36) * 544 + 2 ^ (8 * 40) * 0x8000
      + 2 ^ (8 * 48) * (hostTileAt + 0x1000) + 2 ^ (8 * 56)),
    .ready, false, false, [], 0,
    [(hostKey hostTileAt 16, leBytes 16 (0x14 + 2 ^ 8 + 2 ^ 16 + 0x3F800000 * 2 ^ 32)),
      (hostKey (hostTileAt + 16) 4, leBytes 4 0), (hostKey (hostTileAt + 16 + 128) 4, leBytes 4 0),
      (hostKey (hostTileAt + 0x1000) 8, leBytes 8 0)],
    0, none, [], [], [], [], 0, [], none, [], [], none⟩

/-- Queue 0 of the bellwether holds the command; the host window is open. A byte past the output position is 1. -/
def hostPruneState : State :=
  { ((((oneEntry.set WD_STAT_DONE 1).set WD_SELF_IS_BELL 1).set HB_HOSTWIN_V 1).wr8 hostTileAt 4).wr8 (0x8000 + 600) 1 with
      queues := [(0, { QState.init with started := [hostPrunePack] })]
      host := { oneEntry.host with busMaster := true } }

theorem hostPrunePack_taken : unitCmd hostPruneState 0 0xB1 = some hostPrunePack := by decide +kernel

def hostPruneEng : Eng := ⟨hostPruneState, hostPrunePack, ctxOfQ hostPruneState 0, false⟩

theorem hostPruneState_open : ctxOfQ hostPruneState 0 = ⟨0, 0, false, false, 0⟩ ∧ hostOpen hostPruneState = true := by
  decide +kernel

theorem ld_hostPrune {a n : Nat} {d : List Byte} (hn : n ≠ 0) (hhost : areaOf a = .host)
    (hlook : look hostPrunePack.buf (hostKey a n) = some d) : (ld a n).run hostPruneEng = (.ok d, hostPruneEng) :=
  ld_of_answered (congrArg Ctx.t hostPruneState_open.1) hn hhost hostPruneState_open.2 hlook

/-- The descriptor that the host answers. -/
def hostDesc : Desc := ⟨0x14, true, false, false, 0, 1, 0x3F800000, true⟩

/-- The tile that the host answers. -/
def hostTile : RawTile :=
  ⟨hostDesc, List.replicate 32 BlockEntry.zero, List.replicate 32 (List.replicate 32 0)⟩

theorem ldDesc_hostPrune : (ldDesc hostTileAt).run hostPruneEng = (.ok hostDesc, hostPruneEng) := by
  have hnum : (ldN hostTileAt 16).run hostPruneEng
      = (.ok (leNat (leBytes 16 (0x14 + 2 ^ 8 + 2 ^ 16 + 0x3F800000 * 2 ^ 32))), hostPruneEng) := by
    unfold ldN
    rw [run_bind_of_ok (ld_hostPrune (d := leBytes 16 (0x14 + 2 ^ 8 + 2 ^ 16 + 0x3F800000 * 2 ^ 32)) (by decide)
      (by decide +kernel) (by decide +kernel))]
    rfl
  have hdesc : descOf (leNat (leBytes 16 (0x14 + 2 ^ 8 + 2 ^ 16 + 0x3F800000 * 2 ^ 32))) = hostDesc := by decide +kernel
  unfold ldDesc
  rw [run_bind_of_ok hnum, hdesc]
  rfl

theorem ldTile_hostPrune : (ldTile hostDesc hostTileAt).run hostPruneEng = (.ok hostTile, hostPruneEng) := by
  have hentries : (ldEntries hostDesc hostTileAt).run hostPruneEng = (.ok (List.replicate 32 BlockEntry.zero), hostPruneEng) := by
    unfold ldEntries
    rw [if_neg (by decide +kernel), run_bind_of_ok (ld_hostPrune (d := leBytes 4 0) (by decide) (by decide +kernel)
      (by decide +kernel))]
    have : ((upto hostDesc.nv).map fun v => if v < hostDesc.vec then
        BlockEntry.ofNat (leNat (((leBytes 4 0).drop (4 * v)).take 4)) else BlockEntry.zero)
          = List.replicate 32 BlockEntry.zero := by decide +kernel
    rw [this]
    rfl
  unfold ldTile
  rw [run_bind_of_ok hentries, if_pos (by decide), run_bind_of_ok (ld_hostPrune (d := leBytes 4 0) (by decide +kernel)
    (by decide +kernel) (by decide +kernel))]
  have : (((List.replicate 32 BlockEntry.zero).zipIdx).map fun ev =>
      if ev.2 < hostDesc.vec then splitCodes hostDesc.nv (elemW hostDesc.fmt ev.1)
        (leNat (((leBytes 4 0).drop (hostDesc.slot * ev.2)).take hostDesc.slot))
      else List.replicate hostDesc.nv 0) = List.replicate 32 (List.replicate 32 0) := by decide +kernel
  rw [this]
  rfl

/-- No element of the vector is kept. -/
def hostKept : List (List Bool) := List.replicate 32 (List.replicate 64 false)

theorem ldKept_hostPrune {n k : Nat} :
    Ends ((upto 32).mapM fun v => if v < hostDesc.vec then
        keptBits <$> ld (hostTileAt + 0x1000 + 0 * (n * k / 8) + (32 * (0 / (k / 64)) + v) * k / 8 + 64 * (0 % (k / 64)) / 8) 8
      else pure (List.replicate 64 false)) hostPruneEng fun kept e' => kept = hostKept ∧ e' = hostPruneEng := by
  have hmask := ld_hostPrune (a := hostTileAt + 0x1000) (n := 8) (d := leBytes 8 0) (by decide) (by decide +kernel)
    (by decide +kernel)
  refine (Ends.mapList (I := (· = hostPruneEng)) (R := fun _ b => b = List.replicate 64 false) ?_ rfl).mono
    fun kept e' ⟨hkept, he⟩ => ⟨(eq_map_of_forall₂ hkept).trans (by decide +kernel), he⟩
  rintro v - e rfl
  split
  · next hv =>
    obtain rfl : v = 0 := Nat.lt_one_iff.mp hv
    simp only [Nat.zero_mul, Nat.zero_div, Nat.mul_zero, Nat.zero_mod, Nat.add_zero]
    refine ⟨_, _, ?_, (by decide +kernel : keptBits (leBytes 8 0) = List.replicate 64 false), rfl⟩
    rw [map_eq_pure_bind, run_bind_of_ok hmask]
    rfl
  · exact .pure ⟨rfl, rfl⟩

theorem Ends.forSingle {α β : Type} {Q : β → Eng → Prop} {a : α} {f : α → β → EM (ForInStep β)} {b : β} {e : Eng}
    (hf : Ends (f a b) e fun r e' => ∃ b', r = .yield b' ∧ Q b' e') : Ends (forIn [a] b f) e Q := by
  rw [List.forIn_cons]
  refine hf.bind fun r e₁ ⟨b', hr, hb'⟩ => ?_
  subst hr
  exact .pure hb'

/-- The fields of the command. -/
theorem hostPrunePack_fields :
    cf hostPrunePack.raw.toNat 20 0 32 = 1 ∧ cf hostPrunePack.raw.toNat 24 0 43 = hostTileAt
      ∧ cf hostPrunePack.raw.toNat 32 0 32 = 0 ∧ cf hostPrunePack.raw.toNat 36 0 32 = 544
      ∧ cf hostPrunePack.raw.toNat 40 0 43 = 0x8000 ∧ cf hostPrunePack.raw.toNat 48 0 43 = hostTileAt + 0x1000
      ∧ cf hostPrunePack.raw.toNat 56 0 64 = 1 := by
  decide +kernel

/-- The command writes the 2:4 tile of what the host answered. -/
theorem prunePackBody_hostPrune : Ends prunePackBody hostPruneEng fun _ e' =>
    Puts 0x8000 (tile24 hostTile hostTile hostKept) hostPruneState e'.s ∧ e'.bad = false ∧ e'.cmd.waits = 0 := by
  obtain ⟨hpairs, hsrc, hss, hos, hdst, hmask, ht⟩ := hostPrunePack_fields
  have hhalf : maskHalf hostPruneState 1 = 0 := by simp [maskHalf]
  unfold prunePackBody
  simp only [run_fldBind, Ends, show hostPruneEng.cmd = hostPrunePack from rfl, hpairs, hsrc, hss, hos, hdst, hmask, ht,
    Nat.zero_mul, Nat.add_zero]
  rw [← Ends, show upto 1 = [0] from rfl]
  refine .bind (R := fun _ e' => e' = hostPruneEng) (.forSingle ?checks) fun _ e₁ he₁ => ?_
  case checks =>
    simp only [Ends, run_bind_of_ok ldDesc_hostPrune]
    exact Ends.needBind (by decide +kernel) (.pure ⟨_, rfl, rfl⟩)
  subst he₁
  refine .getsBind (.bind (.forSingle ?packs) fun _ _ h => .pure h)
  rw [show maskHalf hostPruneEng.s 1 = 0 from hhalf]
  simp only [Ends, run_bind_of_ok ldDesc_hostPrune, run_bind_of_ok ldTile_hostPrune]
  refine Ends.bind ldKept_hostPrune fun kept e₁ ⟨hkept, he₁⟩ => ?_
  subst hkept he₁
  rw [if_pos (by decide +kernel)]
  obtain ⟨ht, -⟩ := hostPruneState_open
  refine .bind (st_ends (congrArg Ctx.t ht) rfl (by decide +kernel) ?sound) fun _ e₂ hstores => ?_
  case sound => exact fun b _ _ => ⟨rfl, rfl⟩
  exact .countCBind (.pure ⟨_, rfl, hstores.state, hstores.bad, hstores.cmd.waits⟩)

/-- The tile is longer than the position, and its byte 600 is 0. -/
theorem tile24_hostTile : (tile24 hostTile hostTile hostKept)[600]? = some 0 := by decide +kernel

/-- The byte past the position, and the descriptor that stands where the sources' would. -/
theorem hostPruneState_bytes :
    hostPruneState.rd8 (0x8000 + 600) = 1 ∧ (descOf (hostPruneState.rdN hostTileAt 16)).slot = 0 := by
  decide +kernel

theorem exec_prunePack_of_taken {s : State} {q : Nat} {c : Cmd} (hcmd : unitCmd s q 0xB1 = some c) :
    exec (.prunePack q) s = .next (runBody s q c prunePackBody) := by
  show execPrunePack q s = _
  rw [execPrunePack, runUnit, hcmd]

/-- Refutes O35: PRUNE_PACK in `hostPruneState` writes 656 bytes at the only output position, which has 544. -/
theorem not_replayAndPrune : ¬ Obligations.ReplayAndPrune := by
  unfold Obligations.ReplayAndPrune
  intro h
  obtain ⟨-, -, -, hpack, -⟩ := h
  obtain ⟨⟨⟩, e, hrun, hputs, hbad, hwaits⟩ := prunePackBody_hostPrune
  have hend : bodyEnds hostPruneState 0 hostPrunePack prunePackBody e := hrun
  obtain ⟨u, hexec, -, -, hframe⟩ := hpack hostPruneState 0 hostPrunePack e hostPrunePack_taken hend hbad hwaits
  obtain ⟨hpairs, hsrc, hss, hos, hdst, -, -⟩ := hostPrunePack_fields
  rw [hpairs, hsrc, hss, hos, hdst] at hframe
  obtain ⟨hbyte, hslot⟩ := hostPruneState_bytes
  have hkept : memBut 0x8000 (544 * 1) hostPruneState u := by
    refine hframe (congrArg Ctx.t hostPruneState_open.1) (fun k _ => ?_) fun i _ => ?_
    · rw [Nat.zero_mul]
      exact .inr (by decide)
    · dsimp only
      rw [Nat.zero_mul, Nat.add_zero, hslot]
      decide
  rw [exec_prunePack_of_taken hostPrunePack_taken, runBody_eq_finish hend] at hexec
  obtain rfl := Host.Outcome.next.inj hexec
  have hsame := hkept (0x8000 + 600) (.inr (by decide))
  have hnew : e.s.rd8 (0x8000 + 600) = 0 := by
    rw [hputs.bytes, if_pos ⟨by decide, by decide +kernel⟩, Nat.add_sub_cancel_left, tile24_hostTile]
    rfl
  rw [hbyte, show (finish 0 e 0).rd8 (0x8000 + 600) = 0 from hnew] at hsame
  exact absurd hsame (by decide)

end Sys2Proof.Machine
end

section
/-! SUPPORT. The registers that reads write: where no block read has an error, a demand read, a walk and a prefetch write
the counts of their own pond alone (R318, R328, R486). -/

namespace Sys2Proof.Machine

open Sys2Proof

/-- The registers at offsets outside `l`. -/
def State.regsOut (s : State) (l : List Nat) : ∀ o, o ∉ l → W64 → W64 := fun o _ v => s.regAt o v

theorem regsBut_iff {l : List Nat} {s u : State} : regsBut l s u ↔ u.regsOut l = s.regsOut l :=
  ⟨fun h => funext fun o => funext fun ho => funext fun v => h o ho v,
    fun h o ho v => congrFun (congrFun (congrFun h o) ho) v⟩

section
variable {p : Nat} {s : State}

theorem regsOut_set {l : List Nat} {f : Fld} {n i : Nat} (h : f.reg.off i ∈ l) :
    (s.set f n i).regsOut l = s.regsOut l :=
  regsBut_iff.mp fun _ ho v => regAt_set_ne s f n i 0 v fun he => ho (he ▸ h)

theorem snd_regsOut {α : Type} {x : α × State} {a : α} {t : State} {l : List Nat} (h : x = (a, t)) :
    t.regsOut l = x.2.regsOut l := by rw [h]

@[simp] theorem regsOut_ite (l : List Nat) (c : Prop) [Decidable c] (s t : State) :
    (if c then s else t).regsOut l = if c then s.regsOut l else t.regsOut l := apply_ite (State.regsOut · l) c s t

@[simp] theorem snd_regsOut_ite {α : Type} (l : List Nat) (c : Prop) [Decidable c] (x y : α × State) :
    (if c then x else y).2.regsOut l = if c then x.2.regsOut l else y.2.regsOut l :=
  apply_ite (fun x : α × State => x.2.regsOut l) c x y

/-- A field of the pond's read counts. -/
def readCountFld (f : Fld) : Prop := f.reg = PC_CNT ∨ f.reg = PF_CNT

theorem off_mem_readCounts {f : Fld} (h : readCountFld f) (p : Nat) : f.reg.off p ∈ readCounts p := by
  rcases h with h | h <;> simp [readCounts, h]

@[simp] theorem readCountFld_hits : readCountFld PC_CNT_HITS := .inl rfl
@[simp] theorem readCountFld_misses : readCountFld PC_CNT_MISSES := .inl rfl
@[simp] theorem readCountFld_issued : readCountFld PF_CNT_ISSUED := .inr rfl
@[simp] theorem readCountFld_dropped : readCountFld PF_CNT_DROPPED := .inr rfl

@[simp] theorem bump_regsOut {f : Fld} (h : readCountFld f) (s : State) (n p : Nat) :
    (s.bump f n p).regsOut (readCounts p) = s.regsOut (readCounts p) := regsOut_set (off_mem_readCounts h p)

@[simp] theorem sat_regsOut {f : Fld} (h : readCountFld f) (s : State) (n p : Nat) :
    (s.sat f n p).regsOut (readCounts p) = s.regsOut (readCounts p) := regsOut_set (off_mem_readCounts h p)

@[simp] theorem setPond_regsOut (s : State) (p : Nat) (x : PondSt) (l : List Nat) :
    (s.setPond p x).regsOut l = s.regsOut l := rfl

@[simp] theorem rem_regsOut (s : State) (m : SMap Nat) (l : List Nat) : { s with rem := m }.regsOut l = s.regsOut l := rfl

theorem poisonedAt_of_unread {s u : State} (h : u.unread = s.unread) (a : Nat) : poisonedAt u a = poisonedAt s a := by
  have hpoison : u.poison = s.poison := congrArg (fun x => x.1.poison) h
  simp only [poisonedAt, hpoison]

theorem chanRead_regsOut {a : Nat} (h : poisonedAt s a = false) (l : List Nat) :
    (s.chanRead a).regsOut l = s.regsOut l := by
  unfold State.chanRead
  dsimp only
  split
  · rfl
  · split
    · rfl
    · rw [if_neg (by rw [h]; exact Bool.false_ne_true)]
      rfl

@[simp] theorem dirMark_regsOut (s : State) (p line : Nat) (l : List Nat) :
    (s.dirMark p line).regsOut l = s.regsOut l := by
  unfold State.dirMark
  dsimp only
  split
  · rfl
  · split
    · rfl
    · split <;> rfl

@[simp] theorem installLine_regsOut (s : State) (rem : SMap Nat) (p : Nat) (c : CacheLine) (l : List Nat) :
    (installLine s rem p c).regsOut l = s.regsOut l := by
  unfold installLine
  split <;> rfl

/-- A miss reads its line at the controllers. -/
theorem missRead_regsOut {p a line : Nat} (h : poisonedAt s a = false) :
    (((s.bump PC_CNT_MISSES 1 p).dirMark p line).chanRead a).regsOut (readCounts p) = s.regsOut (readCounts p) := by
  have hclean : poisonedAt ((s.bump PC_CNT_MISSES 1 p).dirMark p line) a = false :=
    (poisonedAt_of_unread ((dirMark_unread _ _ _).trans (unread_bump (countingFld_misses p))) a).trans h
  rw [chanRead_regsOut hclean, dirMark_regsOut, bump_regsOut readCountFld_misses]

/-! Walks. -/

theorem walkRead_regsOut {a : Nat} (h : poisonedAt s a = false) :
    (walkRead s p a).regsOut (readCounts p) = s.regsOut (readCounts p) := by
  unfold walkRead
  dsimp only
  split
  · exact missRead_regsOut h
  · split
    · simp
    · split
      · exact missRead_regsOut h
      · rw [installLine_regsOut, missRead_regsOut h]

/-- A walk reads only entries without an error. -/
@[simp] theorem walkEntry_regsOut (s : State) (p a : Nat) :
    (walkEntry s p a).2.regsOut (readCounts p) = s.regsOut (readCounts p) := by
  unfold walkEntry
  split
  · next hentry =>
    refine walkRead_regsOut ?_
    unfold tableEntry at hentry
    split at hentry
    · cases hentry
    · next hmain =>
      have hmain : areaOf a = .main := by simpa using hmain
      split at hentry
      · cases hentry
      · next hue =>
        simp only [ueAt, hmain, Bool.or_eq_true, not_or, Bool.not_eq_true] at hue
        exact hue.1
  · rfl

@[simp] theorem walkLeaf_regsOut (s : State) (p space va e1 : Nat) :
    (walkLeaf s p space va e1).2.regsOut (readCounts p) = s.regsOut (readCounts p) := by
  unfold walkLeaf
  split
  · rfl
  · split <;> rename_i h <;> simp [snd_regsOut h]

@[simp] theorem walkTable_regsOut (s : State) (p space va : Nat) :
    (walkTable s p space va).2.regsOut (readCounts p) = s.regsOut (readCounts p) := by
  unfold walkTable
  dsimp only
  split
  · rfl
  · cases (s.pond p).walk.find? (fun w => w.1 == space * 8192 + va / 2 ^ 30) with
    | some w =>
      dsimp only
      (repeat' split) <;> simp
    | none =>
      dsimp only
      split
      · rename_i h
        simp [snd_regsOut h]
      · rename_i h
        (repeat' split) <;> simp [snd_regsOut h]

@[simp] theorem translate_regsOut (s : State) (p space va : Nat) (wr : Bool) :
    (translate s p space va wr).2.regsOut (readCounts p) = s.regsOut (readCounts p) := by
  unfold translate
  dsimp only
  split
  · rfl
  · cases (s.pond p).tlb.find? (fun e => e.covers space va) with
    | some e => simp
    | none => rcases h : walkTable s p space va with ⟨_ | ⟨e, e1⟩, t⟩ <;> simp [snd_regsOut h]

@[simp] theorem resolve1_regsOut (s : State) (c : Ctx) (a : Nat) (wr : Bool) :
    (resolve1 s c a wr).2.regsOut (readCounts c.pond) = s.regsOut (readCounts c.pond) := by
  unfold resolve1
  split
  · exact translate_regsOut _ _ _ _ _
  · rfl

@[simp] theorem resolveParts_regsOut (s : State) (c : Ctx) (wr : Bool) (l : List (Nat × Nat)) :
    (resolveParts s c wr l).2.regsOut (readCounts c.pond) = s.regsOut (readCounts c.pond) := by
  induction l generalizing s with
  | nil => rfl
  | cons an l ih =>
    rw [resolveParts]
    split
    · rename_i h
      simp [snd_regsOut h]
    · rename_i h
      split
      · simp [snd_regsOut h]
      · simp [snd_regsOut h]
      · split <;> rename_i h2 <;> simp [snd_regsOut h2, ih, snd_regsOut h]

theorem resolve_regsOut (s : State) (c : Ctx) (a n : Nat) (wr : Bool) :
    (resolve s c a n wr).2.regsOut (readCounts c.pond) = s.regsOut (readCounts c.pond) := by
  simp [resolve]

/-! Prefetches and demand reads. -/

@[simp] theorem issuePrefetch_regsOut (s : State) (c : Ctx) (tag a : Nat) (st : Stream) :
    (issuePrefetch s c tag a st).2.regsOut (readCounts c.pond) = s.regsOut (readCounts c.pond) := by
  unfold issuePrefetch
  dsimp only
  (repeat' split) <;> simp

@[simp] theorem runAhead_regsOut (s : State) (c : Ctx) (tag last : Nat) (t : Tensor) (n : Nat) (st : Stream) :
    (runAhead s c tag last t n st).2.regsOut (readCounts c.pond) = s.regsOut (readCounts c.pond) := by
  induction n generalizing s st with
  | zero => rfl
  | succ n ih =>
    rw [runAhead]
    dsimp only
    split
    · rfl
    · split
      · rfl
      · split
        · rfl
        · rw [ih, issuePrefetch_regsOut]

@[simp] theorem advanceStream_regsOut (s : State) (c : Ctx) (tag a : Nat) :
    (advanceStream s c tag a).regsOut (readCounts c.pond) = s.regsOut (readCounts c.pond) := by
  simp [advanceStream]

@[simp] theorem tensorOf_regsOut (s : State) (p space a : Nat) (l : List Nat) :
    (tensorOf s p space a).2.regsOut l = s.regsOut l := by
  unfold tensorOf
  dsimp only
  (repeat' split) <;> rfl

theorem poisonedAt_tensorOf (s : State) (p space a x : Nat) :
    poisonedAt (tensorOf s p space a).2 x = poisonedAt s x := poisonedAt_of_unread (tensorOf_unread s p space a) x

theorem demandLine_regsOut {c : Ctx} {a pa : Nat} (h : poisonedAt s pa = false) :
    (demandLine s c a pa).2.regsOut (readCounts c.pond) = s.regsOut (readCounts c.pond) := by
  have hrem (t : State) (m : SMap Nat) : poisonedAt { t with rem := m } pa = poisonedAt t pa := rfl
  unfold demandLine
  dsimp only
  rw [advanceStream_regsOut]
  cases c.t && decide (a ≤ 0x5FFFFFFFFFF) with
  | true =>
    simp only [if_true]
    (repeat' split) <;> simp [missRead_regsOut, poisonedAt_tensorOf, hrem, h]
  | false =>
    simp only [Bool.false_eq_true, if_false]
    (repeat' split) <;> simp [missRead_regsOut, hrem, h]

/-- No line of main memory that a read of these ranges takes has an error. -/
def CleanParts (s : State) (parts : List (Nat × Nat)) : Prop :=
  ∀ r ∈ parts, areaOf r.1 = .main → r.2 ≠ 0 → ∀ k, k < (r.1 + r.2 - 1) / 128 - r.1 / 128 + 1 →
    poisonedAt s (r.1 - r.1 % 128 + 128 * k) = false

theorem CleanParts.of_unread {t : State} {parts : List (Nat × Nat)} (h : CleanParts s parts) (ht : t.unread = s.unread) :
    CleanParts t parts :=
  fun r hr hmain hne k hk => (poisonedAt_of_unread ht _).trans (h r hr hmain hne k hk)

/-- The lines of one range. -/
theorem foldl_demandLine_regsOut {c : Ctx} {β : Type} (f : β × State → Nat → β × State) (line : Nat → Nat × Nat)
    (hf : ∀ x k, (f x k).2 = (demandLine x.2 c (line k).1 (line k).2).2) (l : List Nat) (b : β)
    (h : ∀ k ∈ l, poisonedAt s (line k).2 = false) :
    (l.foldl f (b, s)).2.regsOut (readCounts c.pond) = s.regsOut (readCounts c.pond) := by
  induction l generalizing b s with
  | nil => rfl
  | cons k l ih =>
    have hs : (f (b, s) k).2 = (demandLine s c (line k).1 (line k).2).2 := hf _ _
    rw [List.foldl_cons, ← Prod.mk.eta (p := f (b, s) k), hs, ih]
    · exact demandLine_regsOut (h k (.head _))
    · exact fun x hx => (poisonedAt_of_unread (demandLine_unread s c _ _) _).trans (h x (.tail _ hx))

theorem demandParts_regsOut {c : Ctx} {parts : List (Nat × Nat)} (a : Nat) (h : CleanParts s parts) :
    (demandParts s c a parts).2.regsOut (readCounts c.pond) = s.regsOut (readCounts c.pond) := by
  induction parts generalizing s a with
  | nil => rfl
  | cons r parts ih =>
    obtain ⟨pa, n⟩ := r
    rw [demandParts]
    dsimp only
    rw [ih]
    · refine foldl_demandLine_regsOut _ (fun k => (if k = 0 then a else a - pa % 128 + 128 * k, pa - pa % 128 + 128 * k))
        ?_ _ _ fun k hk => ?_
      · intro _ _
        dsimp only
      split at hk
      · next hmain =>
        simp only [Bool.and_eq_true, beq_iff_eq, bne_iff_ne, ne_eq] at hmain
        exact h (pa, n) (.head _) hmain.1 hmain.2 k (List.mem_range.mp hk)
      · cases hk
    · refine CleanParts.of_unread (fun x hx => h x (.tail _ hx)) ?_
      exact foldl_snd_unread _ _ _ _ fun b t k => by simp

theorem directParts_regsOut {parts : List (Nat × Nat)} (h : CleanParts s parts) (l : List Nat) :
    (directParts s parts).regsOut l = s.regsOut l := by
  have hlines (ks : List Nat) (base : Nat) (t : State) (hks : ∀ k ∈ ks, poisonedAt t (base + 128 * k) = false) :
      (ks.foldl (fun s k => s.chanRead (base + 128 * k)) t).regsOut l = t.regsOut l := by
    induction ks generalizing t with
    | nil => rfl
    | cons k ks ih =>
      rw [List.foldl_cons, ih, chanRead_regsOut (hks k (.head _))]
      exact fun x hx => (poisonedAt_of_unread (chanRead_unread t _) _).trans (hks x (.tail _ hx))
  induction parts generalizing s with
  | nil => rfl
  | cons r parts ih =>
    have hunread : (directParts s [r]).unread = s.unread := directParts_unread s [r]
    have hfirst : (directParts s [r]).regsOut l = s.regsOut l := by
      simp only [directParts, List.foldl_cons, List.foldl_nil]
      split
      · next hmain =>
        simp only [Bool.and_eq_true, beq_iff_eq, bne_iff_ne, ne_eq] at hmain
        refine hlines _ _ _ fun k hk => ?_
        have := h r (.head _) hmain.1 hmain.2 k (List.mem_range.mp hk)
        rwa [show r.1 - r.1 % 128 = r.1 / 128 * 128 by omega] at this
      · rfl
    rw [← hfirst]
    exact ih (CleanParts.of_unread (fun x hx => h x (.tail _ hx)) hunread)

theorem touch_regsOut (s : State) (pa : Nat) (l : List Nat) : (touch s pa).regsOut l = s.regsOut l := by
  unfold touch wakePond
  split
  · dsimp only
    split <;> rfl
  · rfl

theorem touchAll_regsOut (s : State) (parts : List (Nat × Nat)) (l : List Nat) :
    (parts.foldl (fun s p => touch s p.1) s).regsOut l = s.regsOut l :=
  foldl_field (State.regsOut · l) (fun s p => touch_regsOut s p.1 l) parts s

end

/-! The ranges of an access. -/

theorem blockParts_le {sz a fuel n : Nat} {x l : Nat} (h : (x, l) ∈ blockParts sz a fuel n) : l ≤ sz := by
  induction fuel generalizing a n with
  | zero => cases h
  | succ f ih =>
    rw [blockParts] at h
    split at h
    · cases h
    · rcases List.mem_cons.mp h with h | h
      · simp only [Prod.mk.injEq] at h
        omega
      · exact ih h

/-- Both ends of a range that an access reached may be accessed. -/
theorem allowed_of_resolveParts {s t : State} {c : Ctx} {wr : Bool} {l parts : List (Nat × Nat)}
    (h : resolveParts s c wr l = (.ok parts, t)) :
    ∀ r ∈ parts, ∃ s' a, (a, r.2) ∈ l ∧ allowed s' c r.1 = .ok () ∧ allowed s' c (r.1 + r.2 - 1) = .ok () := by
  induction l generalizing s t parts with
  | nil =>
    simp only [resolveParts, Prod.mk.injEq, Except.ok.injEq] at h
    rw [← h.1]
    exact fun r hr => absurd hr List.not_mem_nil
  | cons an l ih =>
    obtain ⟨a, n⟩ := an
    rw [resolveParts] at h
    split at h
    · cases h
    · next pa s₁ _ =>
      split at h
      · cases h
      · cases h
      · next hfirst hlast =>
        split at h
        · cases h
        · next rest s₂ hrest =>
          simp only [Prod.mk.injEq, Except.ok.injEq] at h
          obtain ⟨rfl, -⟩ := h
          intro r hr
          rcases List.mem_cons.mp hr with rfl | hr
          · exact ⟨s₁, a, .head _, hfirst, hlast⟩
          · obtain ⟨s', a', hmem, hr'⟩ := ih hrest r hr
            exact ⟨s', a', .tail _ hmem, hr'⟩

/-- A range of at most 2 MiB that begins in main memory and may be accessed ends there. -/
theorem main_of_allowed {s : State} {c : Ctx} {a n : Nat} (hn : n ≤ 2 ^ 21) (ha : areaOf a = .main)
    (hlast : allowed s c (a + n - 1) = .ok ()) : a + n - 1 < 0x10E00000000 := by
  by_contra hout
  have hstart : a < 0x10E00000000 := by
    unfold areaOf at ha
    split at ha
    · assumption
    · (repeat' split at ha) <;> cases ha
  have harea : areaOf (a + n - 1) = .unassigned := by
    unfold areaOf
    rw [if_neg hout, if_neg (by omega), if_neg (by omega), if_neg (by omega)]
  rw [allowed, harea] at hlast
  cases hlast

/-- The lines of a range without an error have none. -/
theorem poisonedAt_line {s : State} {a n k : Nat} (hend : a + n - 1 < 0x10E00000000) (hn : n ≠ 0)
    (hue : ueRange s a n = false) (hk : k < (a + n - 1) / 128 - a / 128 + 1) :
    poisonedAt s (a - a % 128 + 128 * k) = false := by
  have hat (b : Nat) (hb : b < 0x10E00000000) (h : ueAt s b = false) : poisonedAt s b = false := by
    simp only [ueAt, areaOf_of_main hb, Bool.or_eq_false_iff] at h
    exact h.1
  simp only [ueRange, bne_iff_ne.mpr hn, Bool.true_and, Bool.or_eq_false_iff, List.any_eq_false, Bool.and_eq_true,
    decide_eq_true_eq, not_and, Bool.not_eq_true] at hue
  obtain ⟨hfirst, hlater⟩ := hue
  rcases Nat.eq_zero_or_pos k with rfl | hpos
  · have := hat a (by omega) hfirst
    rwa [poisonedAt, show (a - a % 128 + 128 * 0) / 256 = a / 256 by omega]
  · have hj := hlater ((a - a % 128 + 128 * k) / 64 - a / 64 - 1) (List.mem_range.mpr (by omega))
    rw [show (a / 64 + ((a - a % 128 + 128 * k) / 64 - a / 64 - 1) + 1) * 64 = a - a % 128 + 128 * k by omega] at hj
    exact hat _ (by omega) (hj (by omega))

/-- The parts of an access that ends, without an error in any of them, are clean. -/
theorem cleanParts_of_resolve {s t u : State} {c : Ctx} {a n : Nat} {wr : Bool} {parts : List (Nat × Nat)}
    (h : resolve s c a n wr = (.ok parts, t)) (hue : (parts.any fun r => ueRange u r.1 r.2) = false) :
    CleanParts u parts := by
  intro r hr hmain hne k hk
  obtain ⟨s', a', hmem, -, hlast⟩ := allowed_of_resolveParts h r hr
  refine poisonedAt_line (main_of_allowed (blockParts_le hmem) hmain hlast) hne ?_ hk
  simpa using (List.any_eq_false.mp hue) r hr

end Sys2Proof.Machine
end

section
/-! SUPPORT. What a unit's program that comes to its end leaves alone besides its effect: registers but the read counts,
queues, troughs and their messages. -/

namespace Sys2Proof.Machine

open Sys2Proof

variable {α β : Type}

/-- From one engine to the other no register changes but the read counts of the pond and those at the offsets in `l`, and no
queue, trough or trough message; where the program does not store, no write has failed. -/
structure Spares (stores : Bool) (l : List Nat) (e e' : Eng) : Prop where
  regs : regsBut (l ++ readCounts e.ctx.pond) e.s e'.s
  queues : e'.s.queues = e.s.queues
  troughs : e'.s.troughs = e.s.troughs
  tmsgs : e'.s.tmsgs = e.s.tmsgs
  ctx : e'.ctx = e.ctx
  seq : e'.cmd.seq = e.cmd.seq
  raw : e'.cmd.raw = e.cmd.raw
  bad : stores = false → e'.bad = e.bad

section
variable {b : Bool} {l : List Nat} {e e₁ e₂ : Eng}

theorem Spares.refl (b : Bool) (l : List Nat) (e : Eng) : Spares b l e e :=
  ⟨fun _ _ _ => rfl, rfl, rfl, rfl, rfl, rfl, rfl, fun _ => rfl⟩

theorem Spares.trans (h : Spares b l e e₁) (h' : Spares b l e₁ e₂) : Spares b l e e₂ :=
  ⟨fun o ho v => (h'.regs o (h.ctx.symm ▸ ho) v).trans (h.regs o ho v), h'.queues.trans h.queues,
    h'.troughs.trans h.troughs, h'.tmsgs.trans h.tmsgs, h'.ctx.trans h.ctx, h'.seq.trans h.seq, h'.raw.trans h.raw,
    fun hb => (h'.bad hb).trans (h.bad hb)⟩

/-- More may change. -/
theorem Spares.weaken (h : Spares false [] e e₁) (b : Bool) (l : List Nat) : Spares b l e e₁ :=
  ⟨fun o ho v => h.regs o (fun hm => ho (List.mem_append_right _ hm)) v, h.queues, h.troughs, h.tmsgs, h.ctx, h.seq, h.raw,
    fun _ => h.bad rfl⟩

/-- Where the run ends, it has spared them. -/
def SparesAt (b : Bool) (l : List Nat) (e : Eng) (m : EM α) : Prop := ∀ a e', m.run e = (.ok a, e') → Spares b l e e'

theorem SparesAt.pure (a : α) : SparesAt b l e (pure a : EM α) := by
  intro a' e' h
  obtain rfl : e = e' := congrArg Prod.snd h
  exact .refl b l e

theorem SparesAt.throw (stop : Stop) : SparesAt b l e (throw stop : EM α) := by
  intro a' e' h
  have : Except.error stop = Except.ok a' := congrArg Prod.fst h
  cases this

theorem SparesAt.emStop (n : Nat) : SparesAt b l e (emStop n : EM α) := .throw _

theorem SparesAt.bind {m : EM β} {f : β → EM α} (hm : SparesAt b l e m)
    (hf : ∀ x e', m.run e = (.ok x, e') → SparesAt b l e' (f x)) : SparesAt b l e (m >>= f) := by
  intro a e' h
  obtain ⟨x, e₁, hrun, hrest⟩ := run_bind_eq_ok h
  exact (hm x e₁ hrun).trans (hf x e₁ hrun a e' hrest)

theorem SparesAt.getBind {f : Eng → EM α} (h : SparesAt b l e (f e)) : SparesAt b l e (get >>= f) := h

theorem SparesAt.getsBind {γ : Type} {g : State → γ} {f : γ → EM α} (h : SparesAt b l e (f (g e.s))) :
    SparesAt b l e (gets g >>= f) := h

theorem SparesAt.modify {f : Eng → Eng} (h : Spares b l e (f e)) : SparesAt b l e (modify f : EM PUnit) := by
  intro a e' hrun
  obtain rfl : f e = e' := congrArg Prod.snd hrun
  exact h

theorem SparesAt.onC {f : Cmd → Cmd} (hseq : (f e.cmd).seq = e.cmd.seq) (hraw : (f e.cmd).raw = e.cmd.raw) :
    SparesAt b l e (onC f) :=
  .modify ⟨fun _ _ _ => rfl, rfl, rfl, rfl, rfl, hseq, hraw, fun _ => rfl⟩

theorem SparesAt.countC (i n : Nat) : SparesAt b l e (countC i n) := .onC rfl rfl

theorem SparesAt.ite {c : Prop} [Decidable c] {m n : EM α} (hm : c → SparesAt b l e m) (hn : ¬c → SparesAt b l e n) :
    SparesAt b l e (if c then m else n) := by
  split
  · exact hm ‹_›
  · exact hn ‹_›

theorem SparesAt.need (c : Bool) (n : Nat) : SparesAt b l e (need c n) :=
  .ite (fun _ => .pure _) fun _ => .emStop n

theorem SparesAt.forLoop {xs : List α} {y : β} {f : α → β → EM (ForInStep β)} (hf : ∀ x y e, SparesAt b l e (f x y)) :
    SparesAt b l e (forIn xs y f) := by
  induction xs generalizing y e with
  | nil => exact .pure y
  | cons x xs ih =>
    rw [List.forIn_cons]
    refine .bind (hf x y e) fun r e₁ _ => ?_
    cases r with
    | done y => exact .pure y
    | yield y => exact ih

theorem SparesAt.mapList {xs : List α} {f : α → EM β} (hf : ∀ x e, SparesAt b l e (f x)) : SparesAt b l e (xs.mapM f) := by
  induction xs generalizing e with
  | nil => exact .pure []
  | cons x xs ih =>
    rw [List.mapM_cons]
    exact .bind (hf x e) fun _ _ _ => .bind ih fun _ _ _ => .pure _

theorem SparesAt.weaken {m : EM α} (h : SparesAt false [] e m) (b : Bool) (l : List Nat) : SparesAt b l e m :=
  fun a e' hrun => (h a e' hrun).weaken b l

/-- A state with the same registers and parts. -/
theorem Spares.withState {t : State} (h : t.unread = e.s.unread)
    (hregs : t.regsOut (readCounts e.ctx.pond) = e.s.regsOut (readCounts e.ctx.pond)) : Spares b l e { e with s := t } :=
  Spares.weaken (e₁ := { e with s := t }) ⟨regsBut_iff.mpr hregs, congrArg (·.1.queues) h,
    congrArg (·.1.troughs) h, congrArg (·.1.tmsgs) h, rfl, rfl, rfl,
    fun _ => rfl⟩ b l

end

/-! Accesses. -/

section
variable {b : Bool} {l : List Nat} {e e' : Eng}

theorem ends_of_run {m : EM α} {Q : α → Eng → Prop} {a : α} (h : Ends m e Q) (hrun : m.run e = (.ok a, e')) : Q a e' := by
  obtain ⟨a', e₁, hrun', hQ⟩ := h
  rw [hrun] at hrun'
  cases hrun'
  exact hQ

theorem accStop_run (wr : Bool) (er : AccErr) (a : α) : (accStop wr er : EM α).run e ≠ (.ok a, e') := by
  intro h
  cases er <;> exact nomatch congrArg Prod.fst h

/-- Where an access can be placed, its ranges or its place in the host window are those that its address resolves to. -/
theorem place_eq_ok {a n : Nat} {wr : Bool} {r : List (Nat × Nat) ⊕ Nat} (h : (place a n wr).run e = (.ok r, e')) :
    e' = { e with s := (resolve e.s e.ctx a n wr).2 }
      ∧ (∀ parts, r = .inl parts → (resolve e.s e.ctx a n wr).1 = .ok parts)
      ∧ ∀ x, r = .inr x → (resolve e.s e.ctx a n wr).1 = .error (.hostWin x) := by
  unfold place at h
  rw [run_getBind] at h
  generalize resolve e.s e.ctx a n wr = x at h ⊢
  obtain ⟨res, t⟩ := x
  dsimp only at h
  rw [run_setBind] at h
  split at h
  · cases h
    exact ⟨rfl, fun parts hp => congrArg Except.ok (Sum.inl.inj hp), fun x hx => nomatch hx⟩
  · split at h
    · cases h
      exact ⟨rfl, fun parts hp => (nomatch hp), fun x hx => by rw [Sum.inr.inj hx]⟩
    · split at h
      · cases h
      · exact absurd h (accStop_run _ _ _)
  · exact absurd h (accStop_run _ _ _)

theorem place_spares (a n : Nat) (wr : Bool) : SparesAt b l e (place a n wr) := by
  intro r e' h
  obtain ⟨rfl, -⟩ := place_eq_ok h
  exact .withState (resolve_unread _ _ _ _ _) (resolve_regsOut _ _ _ _ _)

theorem ld_spares (a n : Nat) : SparesAt b l e (ld a n) := by
  unfold ld
  refine .ite (fun _ => .pure _) fun _ => .bind (place_spares a n false) fun r e₁ hplace => ?_
  obtain ⟨rfl, hparts, -⟩ := place_eq_ok hplace
  have hctx : ({ e with s := (resolve e.s e.ctx a n false).2 } : Eng).ctx = e.ctx := rfl
  generalize ({ e with s := (resolve e.s e.ctx a n false).2 } : Eng) = e₁ at hctx
  split
  · refine .getBind ?_
    split
    · exact .pure _
    · exact .throw _
  · next parts =>
    have hresolve : resolve e.s e.ctx a n false = (.ok parts, (resolve e.s e.ctx a n false).2) :=
      Prod.ext (hparts parts rfl) rfl
    refine .getBind ?_
    cases hue : parts.any fun p => ueRange e₁.s p.1 p.2 with
    | true =>
      rw [if_pos rfl]
      exact .bind (.emStop _) fun _ _ hrun => nomatch congrArg Prod.fst hrun
    | false =>
      simp only [Bool.false_eq_true, if_false]
      have hclean := cleanParts_of_resolve hresolve hue
      have ht := touchAll_unread e₁.s parts
      have hregs := touchAll_regsOut e₁.s parts (readCounts e₁.ctx.pond)
      have hclean' := hclean.of_unread ht
      split
      · refine .bind (m := set _) (.modify (f := fun _ => _) (.withState ((demandParts_unread _ _ _ _).trans ht)
          ((demandParts_regsOut a hclean').trans hregs))) fun _ _ _ => .bind (.onC rfl rfl) fun _ _ _ => .pure _
      · refine .bind (m := set _) (.modify (f := fun _ => _) (.withState ((directParts_unread _ _).trans ht)
          ((directParts_regsOut hclean' _).trans hregs))) fun _ _ _ => .bind (.onC rfl rfl) fun _ _ _ => .pure _

theorem ldN_spares (a n : Nat) : SparesAt b l e (ldN a n) := .bind (ld_spares a n) fun _ _ _ => .pure _

theorem ldDesc_spares (a : Nat) : SparesAt b l e (ldDesc a) := .bind (ldN_spares a 16) fun _ _ _ => .pure _

theorem ldEntries_spares (d : Desc) (a : Nat) : SparesAt b l e (ldEntries d a) := by
  unfold ldEntries
  exact .ite (fun _ => .pure _) fun _ => .bind (ld_spares _ _) fun _ _ _ => .pure _

theorem ldTile_spares (d : Desc) (a : Nat) : SparesAt b l e (ldTile d a) := by
  unfold ldTile
  refine .bind (ldEntries_spares d a) fun _ _ _ => .ite (fun _ => ?_) fun _ => ?_
  · exact .bind (ld_spares _ _) fun _ _ _ => .pure _
  · exact .bind (ld_spares _ _) fun _ _ _ => .bind (ldN_spares _ _) fun _ _ _ => .pure _

theorem ldLocal_spares (a n : Nat) : SparesAt b l e (ldLocal a n) := by
  intro d e' h
  unfold ldLocal at h
  rw [run_getBind, run_setBind] at h
  obtain ⟨d', e₁, hrun, hrest⟩ := run_bind_eq_ok h
  rw [run_modifyBind] at hrest
  obtain rfl : { e₁ with ctx := e.ctx } = e' := congrArg Prod.snd hrest
  obtain ⟨hregs, hqueues, htroughs, htmsgs, -, hseq, hraw, hbad⟩ := ld_spares (b := b) (l := l) a n d' e₁ hrun
  exact ⟨hregs, hqueues, htroughs, htmsgs, rfl, hseq, hraw, hbad⟩

theorem ldLocalN_spares (a n : Nat) : SparesAt b l e (ldLocalN a n) := .bind (ldLocal_spares a n) fun _ _ _ => .pure _

/-! Partitions and tables. -/

theorem partEntry_spares (part r : Nat) : SparesAt b l e (partEntry part r) :=
  .bind (ldN_spares _ _) fun _ _ _ => .pure _

theorem partBisect_spares (part nid n lo hi : Nat) (seen : List PartEnt) :
    SparesAt b l e (partBisect part nid n lo hi seen) := by
  induction n generalizing lo hi seen e with
  | zero => exact .pure _
  | succ n ih =>
    rw [partBisect]
    exact .ite (fun _ => .pure _) fun _ => .bind (partEntry_spares _ _) fun _ _ _ =>
      .bind (.need _ _) fun _ _ _ => .ite (fun _ => ih _ _ _) fun _ => ih _ _ _

theorem partLookup_spares (part ranges nid : Nat) : SparesAt b l e (partLookup part ranges nid) := by
  unfold partLookup
  refine .bind (partEntry_spares _ _) fun _ _ _ => .bind (.need _ _) fun _ _ _ =>
    .bind (partBisect_spares _ _ _ _ _ _) fun _ _ _ => ?_
  split
  · exact .pure _
  · exact .emStop _

/-- Loading a table writes memory and the table alone. -/
theorem loadTable_parts (s : State) (t : Nat) : (loadTable s t).regs = s.regs ∧ (loadTable s t).queues = s.queues
    ∧ (loadTable s t).troughs = s.troughs ∧ (loadTable s t).tmsgs = s.tmsgs := by
  have hsync (s : State) : (syncTable s t).regs = s.regs ∧ (syncTable s t).queues = s.queues
      ∧ (syncTable s t).troughs = s.troughs ∧ (syncTable s t).tmsgs = s.tmsgs := by
    unfold syncTable
    split
    · exact ⟨rfl, rfl, rfl, rfl⟩
    · next x _ =>
      dsimp only
      obtain ⟨⟨_, _, _, _, _, _, h₁⟩, -, -⟩ := wrLocal_wrote s (tableAddr s t)
        (leBytes 8 x.baseCur ++ leBytes 8 x.baseOld ++ leBytes 2 x.verCur ++ leBytes 2 x.verOld)
      generalize (s.wrLocal (tableAddr s t)
        (leBytes 8 x.baseCur ++ leBytes 8 x.baseOld ++ leBytes 2 x.verCur ++ leBytes 2 x.verOld)).1 = u at h₁ ⊢
      obtain ⟨⟨_, _, _, _, _, _, h₂⟩, -, -⟩ := wrLocal_wrote u (tableAddr s t + 21)
        (leBytes 1 (setBits (u.rdN (tableAddr s t + 21) 1) 1 1 (b2n x.oldLive)))
      rw [h₂, h₁]
      exact ⟨rfl, rfl, rfl, rfl⟩
  unfold loadTable
  split
  · split
    · exact hsync _
    · exact ⟨rfl, rfl, rfl, rfl⟩
  · exact ⟨rfl, rfl, rfl, rfl⟩

theorem useTable_spares (t : Nat) : SparesAt b l e (useTable t) := by
  unfold useTable
  refine .getsBind (.bind (ldLocalN_spares _ _) fun _ e₁ _ => .bind (.need _ _) fun _ e₂ _ => .bind ?_ fun _ _ _ => .pure _)
  obtain ⟨hregs, hqueues, htroughs, htmsgs⟩ := loadTable_parts e₂.s t
  refine .modify ⟨fun o _ v => ?_, hqueues, htroughs, htmsgs, rfl, rfl, rfl, fun _ => rfl⟩
  show (loadTable e₂.s t).regAt o v = _
  rw [State.regAt, hregs]
  rfl

/-! Stores. -/

theorem Spares.of_onlyMemory {t : State} (h : OnlyMemory e.s t) (bad : Bool) :
    Spares true l e { e with s := t, bad := bad } := by
  obtain ⟨_, _, _, _, _, _, rfl⟩ := h
  exact ⟨fun _ _ _ => rfl, rfl, rfl, rfl, rfl, rfl, rfl, fun h => nomatch h⟩

theorem sideOk_spares (a n : Nat) : SparesAt b l e (sideOk a n) := by
  refine .getBind ?_
  split
  · exact .pure _
  · exact .need _ _

theorem noteWrite_spares (a : Nat) (parts : List (Nat × Nat)) (d : List Byte) :
    SparesAt b l e (noteWrite a parts d) := by
  intro x e' h
  obtain ⟨c', rfl, hseq, hraw, -⟩ := ends_of_run (noteWrite_ends a parts d) h
  exact ⟨fun _ _ _ => rfl, rfl, rfl, rfl, rfl, hseq, hraw, fun _ => rfl⟩

theorem touch_onlyMemory (s : State) (a : Nat) : OnlyMemory s (touch s a) := by
  unfold touch wakePond
  split
  · dsimp only
    split
    · exact ⟨_, _, _, _, _, _, rfl⟩
    · exact .refl s
  · exact .refl s

theorem putParts_spares (parts : List (Nat × Nat)) (d : List Byte) : SparesAt true l e (putParts parts d) := by
  induction parts generalizing d e with
  | nil => exact .pure _
  | cons p parts ih =>
    obtain ⟨pa, n⟩ := p
    refine .bind (.modify (.of_onlyMemory ((touch_onlyMemory e.s pa).trans ?_) _)) fun _ _ _ => ih _
    exact (wrLocal_wrote _ pa (d.take n)).1

theorem hostStore_spares (h : Nat) (d : List Byte) : SparesAt b l e (hostStore h d) :=
  .modify ⟨fun _ _ _ => rfl, rfl, rfl, rfl, rfl, rfl, rfl, fun _ => rfl⟩

theorem noteHost_spares (a : Nat) (d : List Byte) : SparesAt b l e (noteHost a d) := by
  refine .modify ?_
  dsimp only
  split
  · exact .refl b l e
  · exact ⟨fun _ _ _ => rfl, rfl, rfl, rfl, rfl, rfl, rfl, fun _ => rfl⟩

theorem st_spares (a : Nat) (d : List Byte) : SparesAt true l e (st a d) := by
  unfold st
  refine .ite (fun _ => .pure _) fun _ => .bind (sideOk_spares _ _) fun _ _ _ => .bind (place_spares _ _ _) fun r _ _ => ?_
  split
  · exact .bind (noteHost_spares _ _) fun _ _ _ => hostStore_spares _ _
  · exact .bind (noteWrite_spares _ _ _) fun _ _ _ => putParts_spares _ _

end

/-! A command whose program has ended. -/

end Sys2Proof.Machine
end

section
/-! SUPPORT. TEXCH (R212): the messages that it sends, one per key that another device owns. -/

namespace Sys2Proof.Machine

open Sys2Proof

variable {α β : Type}

/-! What stays where registers stay but for read counts. -/

section
variable {s u : State} {p : Nat} (h : regsBut (readCounts p) s u)
include h

theorem rg_of_reads {r : Reg} {i j : Nat} (hr : ∀ p, r.off i j ≠ PC_CNT.off p ∧ r.off i j ≠ PF_CNT.off p) :
    u.rg r i j = s.rg r i j := by
  refine h _ (fun hm => ?_) _
  simp only [readCounts, List.mem_cons, List.not_mem_nil, or_false] at hm
  exact hm.elim (hr p).1 (hr p).2

/-- Registers below those of the ponds count no reads. -/
theorem rg_of_reads_of_low {r : Reg} (hr : r.off < 0x800610) : u.rg r = s.rg r := by
  refine rg_of_reads h fun p => ?_
  have h₁ := base_le_off PC_CNT p 0
  have h₂ := base_le_off PF_CNT p 0
  simp only [PC_CNT, PF_CNT] at h₁ h₂ ⊢
  omega

theorem me_of_reads : u.me = s.me := by
  have hstat : u.rg WD_STAT = s.rg WD_STAT := rg_of_reads_of_low h (by decide)
  have hself : u.rg WD_SELF = s.rg WD_SELF := rg_of_reads_of_low h (by decide)
  rw [State.me, State.me, State.flag, State.flag, State.get, State.get, State.get, State.get,
    show WD_STAT_DONE.reg = WD_STAT from rfl, show WD_SELF_DEVICE.reg = WD_SELF from rfl, hstat, hself]

theorem homeOf_of_reads (k : Nat) : homeOf u k = homeOf s k := by
  have h0 : u.get TRG_HOME0_PONDS = s.get TRG_HOME0_PONDS :=
    congrArg (fget TRG_HOME0_PONDS) (rg_of_reads_of_low (r := TRG_HOME0) h (by decide))
  have h1 : u.get TRG_HOME1_PONDS = s.get TRG_HOME1_PONDS :=
    congrArg (fget TRG_HOME1_PONDS) (rg_of_reads_of_low (r := TRG_HOME1) h (by decide))
  simp only [homeOf, troughHomes, h0, h1]

theorem homeOfQ_of_reads (hq : u.queues = s.queues) (q : Nat) : homeOfQ u q = homeOfQ s q := by
  have hcfg : u.rg QTAB_CFG (qtI q) (qtJ q) = s.rg QTAB_CFG (qtI q) (qtJ q) := by
    refine rg_of_reads h fun p => ⟨?_, ?_⟩ <;> simp only [Reg.off, QTAB_CFG, PC_CNT, PF_CNT] <;> omega
  have hcons : u.qget QTAB_CFG_CONSUMER q = s.qget QTAB_CFG_CONSUMER q := congrArg (fget QTAB_CFG_CONSUMER) hcfg
  simp only [homeOfQ, State.q, hq, hcons]

end

theorem trough_of_troughs {s u : State} (h : u.troughs = s.troughs) (p : Nat) : u.trough p = s.trough p := by
  rw [State.trough, State.trough, h]

/-! Programs over lists. -/

/-- Each result of a list's program is the result of one element's run, and all that runs before is spared. -/
theorem mapList_run {b : Bool} {l : List Nat} {xs : List α} {f : α → EM β} (hf : ∀ x e, SparesAt b l e (f x)) {e e' : Eng}
    {ys : List β} (h : (xs.mapM f).run e = (.ok ys, e')) :
    List.Forall₂ (fun x y => ∃ e₁ e₂, Spares b l e e₁ ∧ (f x).run e₁ = (.ok y, e₂)) xs ys := by
  induction xs generalizing e e' ys with
  | nil =>
    obtain rfl : [] = ys := Except.ok.inj (congrArg Prod.fst h)
    exact .nil
  | cons x xs ih =>
    rw [List.mapM_cons] at h
    obtain ⟨y, e₁, hy, h⟩ := run_bind_eq_ok h
    obtain ⟨ys', e₂, hys, h⟩ := run_bind_eq_ok h
    obtain rfl : y :: ys' = ys := Except.ok.inj (congrArg Prod.fst h)
    have hs := hf x e y e₁ hy
    refine .cons ⟨e, e₁, .refl b l e, hy⟩ ((ih hys).imp fun x y ⟨e₃, e₄, hs₃, hrun⟩ => ⟨e₃, e₄, hs.trans hs₃, hrun⟩)

theorem exists_of_mem_forall₂ {R : α → β → Prop} {xs : List α} {ys : List β} (h : List.Forall₂ R xs ys) {y : β}
    (hy : y ∈ ys) : ∃ x ∈ xs, R x y := by
  induction h with
  | nil => cases hy
  | cons hxy _ ih =>
    rcases List.mem_cons.mp hy with rfl | hy
    · exact ⟨_, .head _, hxy⟩
    · obtain ⟨x, hx, hR⟩ := ih hy
      exact ⟨x, .tail _ hx, hR⟩

/-! Commands that send messages. -/

/-- Messages are sent, and the command is changed and counts them. -/
def Eng.sends (e : Eng) (l : List TroughMsg) (f : Cmd → Cmd) : Eng :=
  { e with s := { e.s with tmsgs := e.s.tmsgs ++ l }, cmd := (f e.cmd).count 0 l.length }

/-- A command awaits an answer for each message of `l`, in stage 1. -/
structure Awaits (c d : Cmd) (l : List TroughMsg) : Prop where
  seq : d.seq = c.seq
  raw : d.raw = c.raw
  stage : d.stage = 1
  waits : d.waits = l.length

/-- The command as it stands after its program has ended well. -/
def Cmd.ended (c : Cmd) : Cmd :=
  if c.waits = 0 then { c with phase := .done 0 } else { c with phase := .running, fin := some 0 }

theorem finish_of_good {q : Nat} {e : Eng} (h : e.bad = false) : finish q e 0 = putCmd e.s q e.cmd.ended := by
  simp [finish, h, Cmd.ended]

/-- Only its phase and, where it awaits answers, its status are new. -/
theorem Cmd.ended_eq (c : Cmd) : ∃ p f, c.ended = { c with phase := p, fin := f } := by
  unfold Cmd.ended
  split <;> exact ⟨_, _, rfl⟩

theorem Cmd.ended_seq (c : Cmd) : c.ended.seq = c.seq := by
  obtain ⟨_, _, h⟩ := c.ended_eq
  rw [h]

theorem Cmd.ended_of_done {c : Cmd} (h : c.waits = 0) : c.ended.phase = .done 0 := by
  rw [Cmd.ended, if_pos h]

theorem Cmd.ended_of_waits {c : Cmd} (h : c.waits ≠ 0) : c.ended.phase = .running ∧ c.ended.fin = some 0 := by
  rw [Cmd.ended, if_neg h]
  exact ⟨rfl, rfl⟩

theorem findCmd_ended {s : State} {q opc : Nat} {c : Cmd} {e : Eng} (hcmd : unitCmd s q opc = some c)
    (hq : e.s.queues = s.queues) (hseq : e.cmd.seq = c.seq) (hbad : e.bad = false) :
    (finish q e 0).findCmd q c.seq = some e.cmd.ended := by
  have hstarted := started_of_unitCmd hcmd
  rw [finish_of_good hbad]
  refine findCmd_putCmd ?_ ((Cmd.ended_seq _).trans hseq)
  rwa [State.q, hq]

/-- From `s` to `u` command `c` of queue `q` has sent `l`, and `c'` awaits the answers. -/
structure SentRow (s : State) (q : Nat) (c : Cmd) (l : List TroughMsg) (u : State) (c' : Cmd) : Prop where
  tmsgs : u.tmsgs = s.tmsgs ++ l
  found : u.findCmd q c.seq = some c'
  raw : c'.raw = c.raw
  stage : c'.stage = 1
  waits : c'.waits = l.length
  done : l = [] → c'.phase = .done 0
  running : l ≠ [] → c'.phase = .running ∧ c'.fin = some 0
  troughs : u.troughs = s.troughs
  regs : regsBut (readCounts (pondOfQ s q)) s u

/-- The row of a command whose program, after reads, has sent `l`. -/
theorem sends_row {s : State} {q opc : Nat} {c : Cmd} {body : EM Unit} {e₁ : Eng} {l : List TroughMsg} {f : Cmd → Cmd}
    (hcmd : unitCmd s q opc = some c) (hend : bodyEnds s q c body (e₁.sends l f))
    (hs : Spares false [] ⟨s, c, ctxOfQ s q, false⟩ e₁) (hf : Awaits e₁.cmd (f e₁.cmd) l) :
    ∃ u c', runBody s q c body = u ∧ SentRow s q c l u c' ∧ c'.aux = (f e₁.cmd).aux ∧ ∀ b, u.rd8 b = e₁.s.rd8 b := by
  obtain ⟨hregs, hqueues, htroughs, htmsgs, -, hseq, hraw, hbad⟩ := hs
  obtain ⟨hfseq, hfraw, hstage, hwaits⟩ := hf
  have hfound : (finish q (e₁.sends l f) 0).findCmd q c.seq = some (e₁.sends l f).cmd.ended :=
    findCmd_ended hcmd hqueues (hfseq.trans hseq) (hbad rfl)
  have hfinish := finish_of_good (q := q) (e := e₁.sends l f) (hbad rfl)
  have hw : (e₁.sends l f).cmd.waits = l.length := hwaits
  obtain ⟨p, w, hended⟩ := (e₁.sends l f).cmd.ended_eq
  refine ⟨_, _, runBody_eq_finish hend, ⟨?_, hfound, ?_, ?_, ?_, fun h => ?_, fun h => ?_, ?_, ?_⟩, ?_, fun b => ?_⟩
  · rw [hfinish, ← htmsgs]
    rfl
  · rw [hended]
    exact hfraw.trans hraw
  · rw [hended]
    exact hstage
  · rw [hended]
    exact hwaits
  · exact Cmd.ended_of_done (by rw [hw, h]; rfl)
  · exact Cmd.ended_of_waits (by rw [hw]; exact fun h0 => h (List.length_eq_zero_iff.mp h0))
  · rw [hfinish]
    exact htroughs
  · rw [hfinish]
    exact hregs
  · rw [hended]
    rfl
  · rw [hfinish]
    rfl

/-! TEXCH. -/

/-- What TEXCH sends for a key to the device that owns it (R212). -/
def texchMsg (s : State) (q seq : Nat) (kind : TroughKind) (kd : Nat × Nat) : TroughMsg :=
  let p := hPond (homeOfQ s q)
  let t := keySum (s.trough p) kd.1
  ⟨kind, false, s.me, p, kd.2, 0, s.me, q, seq, kd.1, if kind == .efetch then 0 else t.e, kind != .efetch && t.nf,
    if kind == .asend then t.w else [], if kind == .asend then t.count else 1, false⟩

/-- The keys with their owners, of those that other devices own. -/
def farKeys (s : State) (owned : List (Nat × Nat)) : List (Nat × Nat) := owned.filter fun kd => kd.2 != s.me

/-- The command after it has sent its messages. -/
def texchCmd (s : State) (q : Nat) (kind : TroughKind) (far : List (Nat × Nat)) (l : List TroughMsg) (c : Cmd) : Cmd :=
  { c with stage := 1, waits := l.length, aux := []
           fx := if kind == .asend then c.fx ++ [.freeKeys (hPond (homeOfQ s q)) (far.map (·.1))] else c.fx }

/-- A committed key of the trough lies in memory with an error. -/
def keysBad (s : State) (p kind tgt : Nat) : Bool :=
  (committedKeys (s.trough p) kind tgt).any fun k =>
    (findEnt (s.trough p).slots k none).any (fun ie => ueRange s (slotPa s p ie.1) 512)
      || (findEnt (s.trough p).recs k none).any fun ie => ueRange s (recPa s p ie.1) 512

/-- The owner of each key. -/
def keyOwners (d : TDesc) (keys : List Nat) : EM (List (Nat × Nat)) := keys.mapM fun k => do
  let (dev, _) ← partLookup d.part d.ranges (keyIdx k)
  return (k, dev)

/-- TEXCH after its reads. -/
def texchSend (s : State) (q : Nat) (kind : TroughKind) (owned : List (Nat × Nat)) : EM Unit := do
  let seq := (← get).cmd.seq
  let l := (farKeys s owned).map (texchMsg s q seq kind)
  onS fun s => { s with tmsgs := s.tmsgs ++ l }
  onC (texchCmd s q kind (farKeys s owned) l)
  countC 0 l.length

theorem texchSend_run (s : State) (q : Nat) (kind : TroughKind) (owned : List (Nat × Nat)) (e : Eng) :
    let l := (farKeys s owned).map (texchMsg s q e.cmd.seq kind)
    (texchSend s q kind owned).run e = (.ok ⟨⟩, e.sends l (texchCmd s q kind (farKeys s owned) l)) := rfl

theorem texchBody_run (q : Nat) (kind : TroughKind) (e : Eng) :
    (texchBody q kind).run e = (do
      let d ← useTable (cf e.cmd.raw.toNat 18 0 12)
      let s ← gets id
      let keys := committedKeys (s.trough (hPond (homeOfQ s q))) 2 (cf e.cmd.raw.toNat 18 0 12)
      need (!keysBad s (hPond (homeOfQ s q)) 2 (cf e.cmd.raw.toNat 18 0 12)) 0x30
      let owned ← keyOwners d keys
      texchSend s q kind owned : EM Unit).run e := by
  unfold texchBody
  rw [run_fldBind]
  rfl

section
variable {b : Bool} {e e' : Eng} (h : Spares b [] e e')
include h

theorem Spares.homeOfQ (q : Nat) : homeOfQ e'.s q = Machine.homeOfQ e.s q := homeOfQ_of_reads h.regs h.queues q

theorem Spares.me : e'.s.me = e.s.me := me_of_reads h.regs

theorem Spares.trough (p : Nat) : e'.s.trough p = e.s.trough p := trough_of_troughs h.troughs p

theorem texchMsg_of_spares (q seq : Nat) (kind : TroughKind) : texchMsg e'.s q seq kind = texchMsg e.s q seq kind := by
  funext kd
  simp only [texchMsg, h.homeOfQ, h.me, h.trough]

theorem farKeys_of_spares (owned : List (Nat × Nat)) : farKeys e'.s owned = farKeys e.s owned := by
  simp only [farKeys, h.me]

theorem texchCmd_of_spares (q : Nat) (kind : TroughKind) : texchCmd e'.s q kind = texchCmd e.s q kind := by
  funext far l c
  simp only [texchCmd, h.homeOfQ]

end

theorem keyOwners_spares {b : Bool} {l : List Nat} {e : Eng} (d : TDesc) (keys : List Nat) :
    SparesAt b l e (keyOwners d keys) :=
  .mapList fun _ _ => .bind (partLookup_spares _ _ _) fun _ _ _ => .pure _

/-- The owners are those of the keys. -/
theorem keyOwners_keys {d : TDesc} {keys : List Nat} {owned : List (Nat × Nat)} {e e' : Eng}
    (h : (keyOwners d keys).run e = (.ok owned, e')) : ∀ kd ∈ owned, kd.1 ∈ keys := by
  have hall := mapList_run (b := true) (l := []) (fun k e => .bind (partLookup_spares _ _ _) fun _ _ _ => .pure _) h
  intro kd hkd
  obtain ⟨k, hk, e₁, e₂, -, hrun⟩ := exists_of_mem_forall₂ hall hkd
  obtain ⟨x, e₃, -, hret⟩ := run_bind_eq_ok hrun
  obtain rfl : (k, x.1) = kd := Except.ok.inj (congrArg Prod.fst hret)
  exact hk

/-- TEXCH that ends has read and then sent a message for each key of its trough that another device owns. -/
theorem texchBody_sends {q : Nat} {kind : TroughKind} {e e' : Eng} (h : (texchBody q kind).run e = (.ok ⟨⟩, e')) :
    ∃ e₁ owned l, Spares false [] e e₁
      ∧ (∀ kd ∈ owned, kd.1 ∈ committedKeys (e.s.trough (hPond (homeOfQ e.s q))) 2 (cf e.cmd.raw.toNat 18 0 12))
      ∧ l = (farKeys e.s owned).map (texchMsg e.s q e.cmd.seq kind)
      ∧ e' = e₁.sends l (texchCmd e.s q kind (farKeys e.s owned) l) := by
  rw [texchBody_run] at h
  obtain ⟨d, e₁, htable, h⟩ := run_bind_eq_ok h
  rw [run_getsBind] at h
  dsimp only [id] at h
  obtain ⟨⟨⟩, e₂, hneed, h⟩ := run_bind_eq_ok h
  obtain ⟨owned, e₃, howned, h⟩ := run_bind_eq_ok h
  have hs₁ : Spares false [] e e₁ := useTable_spares _ _ _ htable
  have hs₃ : Spares false [] e e₃ := (hs₁.trans (SparesAt.need _ _ _ _ hneed)).trans (keyOwners_spares _ _ _ _ howned)
  have hkeys := keyOwners_keys howned
  rw [texchSend_run, hs₃.seq, farKeys_of_spares hs₁, texchMsg_of_spares hs₁, texchCmd_of_spares hs₁] at h
  rw [hs₁.homeOfQ, hs₁.trough] at hkeys
  exact ⟨e₃, owned, _, hs₃, hkeys, rfl, (congrArg Prod.snd h).symm⟩

theorem awaits_texchCmd (s : State) (q : Nat) (kind : TroughKind) (far : List (Nat × Nat)) (l : List TroughMsg) (c : Cmd) :
    Awaits c (texchCmd s q kind far l c) l := ⟨rfl, rfl, rfl, rfl⟩

/-- What TEXCH sends. -/
theorem mem_texchMsgs {s : State} {q seq : Nat} {kind : TroughKind} {owned : List (Nat × Nat)} {m : TroughMsg}
    (h : m ∈ (farKeys s owned).map (texchMsg s q seq kind)) :
    ∃ kd ∈ owned, kd.2 ≠ s.me ∧ m = texchMsg s q seq kind kd := by
  obtain ⟨kd, hkd, rfl⟩ := List.mem_map.mp h
  obtain ⟨hkd, hfar⟩ := List.mem_filter.mp hkd
  exact ⟨kd, hkd, by simpa using hfar, rfl⟩

/-- The rows of TEXCH with their OP and what they send. -/
def texchRows : List (Nat × (Nat → Instr) × TroughKind) :=
  [(0, Instr.texchEsend, TroughKind.esend), (1, Instr.texchEfetch, TroughKind.efetch),
    (2, Instr.texchAsend, TroughKind.asend)]

theorem exec_texch {s : State} {q : Nat} {c : Cmd} {row : Nat × (Nat → Instr) × TroughKind} (hrow : row ∈ texchRows)
    (hcmd : unitCmd s q 0x82 = some c) (hop : cf c.raw.toNat 16 0 2 = row.1) :
    exec (row.2.1 q) s = .next (runBody s q c (texchBody q row.2.2)) := by
  have hrun (k : TroughKind) : runOp s q 0x82 2 row.1 (texchBody q k) = runBody s q c (texchBody q k) := by
    rw [runOp, hcmd]
    dsimp only
    rw [if_pos (beq_iff_eq.mpr hop)]
  simp only [texchRows, List.mem_cons, List.not_mem_nil, or_false] at hrow
  rcases hrow with rfl | rfl | rfl
  · exact congrArg Host.Outcome.next (hrun _)
  · exact congrArg Host.Outcome.next (hrun _)
  · exact congrArg Host.Outcome.next (hrun _)

/-- TEXCH that comes to its end (R212). -/
theorem texch_row {s : State} {q : Nat} {c : Cmd} {e : Eng} {row : Nat × (Nat → Instr) × TroughKind}
    (hrow : row ∈ texchRows) (hcmd : unitCmd s q 0x82 = some c) (hop : cf c.raw.toNat 16 0 2 = row.1)
    (hend : bodyEnds s q c (texchBody q row.2.2) e) :
    ∃ u l c', exec (row.2.1 q) s = .next u ∧ SentRow s q c l u c'
      ∧ ∀ m ∈ l, ∃ k dev, dev ≠ s.me ∧ m = texchMsg s q c.seq row.2.2 (k, dev)
        ∧ k ∈ committedKeys (s.trough (hPond (homeOfQ s q))) 2 (cf c.raw.toNat 18 0 12) := by
  obtain ⟨e₁, owned, l, hs, hkeys, hl, he⟩ := texchBody_sends hend
  subst he
  obtain ⟨u, c', hu, hsent, -⟩ := sends_row hcmd hend hs (awaits_texchCmd _ _ _ _ _ _)
  refine ⟨u, l, c', (exec_texch hrow hcmd hop).trans (congrArg _ hu), hsent, fun m hm => ?_⟩
  obtain ⟨kd, hkd, hfar, hm⟩ := mem_texchMsgs (hl ▸ hm)
  exact ⟨kd.1, kd.2, hfar, hm, hkeys kd hkd⟩

end Sys2Proof.Machine
end

section
/-! SUPPORT. TEXCH of a table of one range (R63, R212): its reads end, and tell who owns its keys. -/

namespace Sys2Proof.Machine

open Sys2Proof

variable {α : Type} {e : Eng}

theorem Ends.spares {b : Bool} {l : List Nat} {m : EM α} {Q : α → Eng → Prop} (h : Ends m e Q) (hm : SparesAt b l e m) :
    Ends m e fun a e' => Q a e' ∧ Spares b l e e' := by
  obtain ⟨a, e', hrun, hQ⟩ := h
  exact ⟨a, e', hrun, hQ, hm a e' hrun⟩

theorem rdN_of_unread {s u : State} (h : u.unread = s.unread) (a n : Nat) : u.rdN a n = s.rdN a n :=
  congrArg leNat (rdBytes_of_unread h a n)

/-- A local load, of an engine that uses local addresses. -/
theorem ldLocal_ends (hfree : FreeMain e) {a n : Nat} (h : inMain a n) :
    Ends (ldLocal a n) e fun d e' => d = e.s.rdBytes a n ∧ ReadsOnly e e' := by
  obtain ⟨d, e', hrun, hd, hr⟩ := ld_ends hfree h
  refine ⟨d, e', ?_, hd, hr⟩
  unfold ldLocal
  rw [run_getBind, run_setBind]
  have hctx : ({ e with ctx := { e.ctx with t := false } } : Eng) = e := by
    rw [← hfree.untranslated]
  rw [hctx, run_bind_of_ok hrun, run_modifyBind, ← hr.ctx]
  rfl

theorem ldLocalN_ends (hfree : FreeMain e) {a n : Nat} (h : inMain a n) :
    Ends (ldLocalN a n) e fun v e' => v = e.s.rdN a n ∧ ReadsOnly e e' :=
  .bind (ldLocal_ends hfree h) fun _ _ ⟨hd, hr⟩ => .pure ⟨hd ▸ rfl, hr⟩

/-- A table that is loaded already is only read. -/
theorem useTable_ends (hfree : FreeMain e) {t : Nat} {y : TableSt} (hloaded : look e.s.tables t = some y)
    (hmain : inMain (tableAddr e.s t) 64) (hok : (tdescOf (e.s.rdN (tableAddr e.s t) 64)).ok = true) :
    Ends (useTable t) e fun d e' => d = tdescOf (e.s.rdN (tableAddr e.s t) 64) ∧ ReadsOnly e e' := by
  unfold useTable
  refine .getsBind (.bind (ldLocalN_ends hfree hmain) fun v e₁ ⟨hv, hr⟩ => ?_)
  have hok' : (tdescOf v).ok = true := hv ▸ hok
  refine Ends.needBind hok' (.onSBind ?_)
  have hloaded₁ : look e₁.s.tables t = some y := (congrArg (fun x => look x.1.tables t) hr.state).trans hloaded
  have hload : loadTable e₁.s t = e₁.s := by
    unfold loadTable
    rw [hloaded₁]
  rw [hload]
  exact .pure ⟨congrArg tdescOf hv, hr⟩

/-- In a partition of one range its device owns every key. -/
theorem partLookup_ends (hfree : FreeMain e) {part ranges dev base nid : Nat} (h : oneOwner e.s part ranges dev base) :
    Ends (partLookup part ranges nid) e fun r e' => r.1 = dev ∧ ReadsOnly e e' := by
  obtain ⟨hranges, hmain, hstart, hdev, -⟩ := h
  subst hranges
  have hentry : Ends (partEntry part 0) e fun x e' =>
      x = ⟨0, 0, dev, bits (e.s.rdN part 16) 64 40⟩ ∧ ReadsOnly e e' := by
    refine .bind (ldN_ends hfree (a := part + 16 * 0) hmain) fun v e' ⟨hv, hr⟩ => .pure ⟨?_, hr⟩
    rw [hv, Nat.mul_zero, Nat.add_zero, hstart, hdev]
  unfold partLookup
  refine .bind hentry fun x e' ⟨hx, hr⟩ => ?_
  subst hx
  exact .needBind rfl ⟨_, _, rfl, rfl, hr⟩

theorem keyOwners_ends (hfree : FreeMain e) {d : TDesc} {dev base : Nat} (h : oneOwner e.s d.part d.ranges dev base)
    (keys : List Nat) :
    Ends (keyOwners d keys) e fun owned e' => owned = keys.map (·, dev) ∧ ReadsOnly e e' := by
  refine (Ends.mapList (I := ReadsOnly e) (R := fun k kd => kd = (k, dev)) ?_ (.refl e)).mono fun owned e' ⟨ho, hr⟩ =>
    ⟨eq_map_of_forall₂ ho, hr⟩
  intro k _ e₁ hr₁
  have howner : oneOwner e₁.s d.part d.ranges dev base := by
    rw [oneOwner, rdN_of_unread hr₁.state]
    exact h
  exact .bind (partLookup_ends (hfree.of_reads hr₁) howner) fun r e₂ ⟨hdev, hr₂⟩ =>
    .pure ⟨by rw [← hdev], hr₁.trans hr₂⟩

/-- Where memory has no error, no key lies in one. -/
theorem keysBad_of_free {s : State} {q : Nat} (h : freeMem s q) {u : State} (hu : u.unread = s.unread) (p kind tgt : Nat) :
    keysBad u p kind tgt = false := by
  obtain ⟨-, -, hpoison, hlines, hretired⟩ := h
  have hue (a : Nat) : ueAt u a = false := by
    rw [ueAt_of_unread hu, ueAt, poisonedAt, hpoison, hlines, hretired]
    split <;> rfl
  simp [keysBad, ueRange_of_free fun b _ _ => hue b]

/-- TEXCH of a loaded table of one range reads and sends. -/
theorem texchBody_ends {q : Nat} {kind : TroughKind} {s : State} {c : Cmd} {y : TableSt} {dev base tgt : Nat} {d : TDesc}
    (hmem : freeMem s q) (htgt : cf c.raw.toNat 18 0 12 = tgt) (hd : tdescOf (s.rdN (tableAddr s tgt) 64) = d)
    (hloaded : look s.tables tgt = some y) (hmain : inMain (tableAddr s tgt) 64) (hok : d.ok = true)
    (howner : oneOwner s d.part d.ranges dev base) :
    let far := farKeys s ((committedKeys (s.trough (hPond (homeOfQ s q))) 2 tgt).map (·, dev))
    let l := far.map (texchMsg s q c.seq kind)
    ∃ e₁, bodyEnds s q c (texchBody q kind) (e₁.sends l (texchCmd s q kind far l))
      ∧ Spares false [] ⟨s, c, ctxOfQ s q, false⟩ e₁ ∧ ReadsOnly ⟨s, c, ctxOfQ s q, false⟩ e₁ := by
  subst htgt hd
  have hfree := freeMain_of_freeMem c hmem
  obtain ⟨d, e₁, htable, ⟨hd, hr₁⟩, hs₁⟩ := (useTable_ends hfree hloaded hmain hok).spares (useTable_spares (b := false) (l := []) _)
  subst hd
  have howner₁ : oneOwner e₁.s (tdescOf (s.rdN (tableAddr s (cf c.raw.toNat 18 0 12)) 64)).part
      (tdescOf (s.rdN (tableAddr s (cf c.raw.toNat 18 0 12)) 64)).ranges dev base := by
    rw [oneOwner, rdN_of_unread hr₁.state]
    exact howner
  obtain ⟨owned, e₂, howned, ⟨ho, hr₂⟩, hs₂⟩ := (keyOwners_ends (hfree.of_reads hr₁) howner₁
    (committedKeys (e₁.s.trough (hPond (homeOfQ e₁.s q))) 2 (cf c.raw.toNat 18 0 12))).spares
    (keyOwners_spares (b := false) (l := []) _ _)
  have hs := hs₁.trans hs₂
  refine ⟨e₂, ?_, hs, hr₁.trans hr₂⟩
  rw [hs₁.homeOfQ, hs₁.trough] at ho howned
  subst ho
  show (texchBody q kind).run _ = _
  rw [texchBody_run, run_bind_of_ok htable, run_getsBind]
  dsimp only [id]
  rw [run_bind_of_ok (need_run (by rw [keysBad_of_free hmem hr₁.state]; rfl)), hs₁.homeOfQ, hs₁.trough,
    run_bind_of_ok howned, texchSend_run, hs.seq, farKeys_of_spares hs₁, texchMsg_of_spares hs₁, texchCmd_of_spares hs₁]

theorem farKeys_of_oneOwner (s : State) (keys : List Nat) (dev : Nat) :
    (farKeys s (keys.map (·, dev))).map Prod.fst = if dev = s.me then [] else keys := by
  unfold farKeys
  split
  · next h => simp [h]
  · next h =>
    rw [List.filter_eq_self.mpr, List.map_map]
    · exact List.map_id keys
    · intro kd hkd
      obtain ⟨k, -, rfl⟩ := List.mem_map.mp hkd
      exact bne_iff_ne.mpr h

/-- TEXCH of a loaded table of one range (R212). -/
theorem texch_row_of_oneOwner {s : State} {q : Nat} {c : Cmd} {y : TableSt} {dev base tgt : Nat} {d : TDesc}
    {row : Nat × (Nat → Instr) × TroughKind} (hrow : row ∈ texchRows) (hcmd : unitCmd s q 0x82 = some c)
    (hop : cf c.raw.toNat 16 0 2 = row.1) (hmem : freeMem s q) (htgt : cf c.raw.toNat 18 0 12 = tgt)
    (hd : tdescOf (s.rdN (tableAddr s tgt) 64) = d) (hloaded : look s.tables tgt = some y)
    (hmain : inMain (tableAddr s tgt) 64) (hok : d.ok = true) (howner : oneOwner s d.part d.ranges dev base) :
    ∃ u l c', exec (row.2.1 q) s = .next u ∧ SentRow s q c l u c'
      ∧ l.map (·.key) = (if dev = s.me then [] else committedKeys (s.trough (hPond (homeOfQ s q))) 2 tgt)
      ∧ (∀ m ∈ l, m.kind = row.2.2 ∧ m.dstDev = dev) ∧ memKept s u := by
  obtain ⟨e₁, hend, hs, hr⟩ := texchBody_ends (kind := row.2.2) hmem htgt hd hloaded hmain hok howner
  obtain ⟨u, c', hu, hsent, -, hbytes⟩ := sends_row hcmd hend hs (awaits_texchCmd _ _ _ _ _ _)
  refine ⟨u, _, c', (exec_texch hrow hcmd hop).trans (congrArg _ hu), hsent, ?_, fun m hm => ?_, fun b => ?_⟩
  · rw [← farKeys_of_oneOwner, List.map_map]
    rfl
  · obtain ⟨kd, hkd, -, rfl⟩ := mem_texchMsgs hm
    obtain ⟨k, -, rfl⟩ := List.mem_map.mp hkd
    exact ⟨rfl, rfl⟩
  · exact (hbytes b).trans (rd8_of_unread hr.state b)

end Sys2Proof.Machine
end

section
/-! SUPPORT. TSCAT (R211): the messages that it sends, one per segment of a row. -/

namespace Sys2Proof.Machine

open Sys2Proof

variable {α β : Type}

/-! Keys and bytes. -/

theorem keyKind_mkKey {kind : Nat} (h : kind < 16) (tgt idx seg : Nat) : keyKind (mkKey kind tgt idx seg) = kind := by
  simp only [keyKind, mkKey, bits, Nat.shiftRight_eq_div_pow]
  omega

theorem keyTgt_mkKey {tgt : Nat} (h : tgt < 4096) (kind idx seg : Nat) : keyTgt (mkKey kind tgt idx seg) = tgt := by
  simp only [keyTgt, mkKey, bits, Nat.shiftRight_eq_div_pow]
  omega

theorem mem_nubN {i : Nat} {l : List Nat} : i ∈ nubN l ↔ i ∈ l := by
  refine ⟨mem_of_mem_nubN, fun h => ?_⟩
  induction l with
  | nil => exact h
  | cons x l ih =>
    rw [nubN, List.mem_cons]
    rcases eq_or_ne i x with hx | hx
    · exact .inl hx
    · exact .inr (List.mem_filter.mpr ⟨ih ((List.mem_cons.mp h).resolve_left hx), bne_iff_ne.mpr hx⟩)

theorem length_rdBytes (s : State) (a n : Nat) : (s.rdBytes a n).length = n := by
  induction n generalizing a with
  | zero => rfl
  | succ n ih => rw [State.rdBytes, List.length_cons, ih]

/-- A number within bytes that have been read. -/
theorem byteN_rdBytes (s : State) (a : Nat) {m o n : Nat} (h : o + n ≤ m) :
    byteN (s.rdBytes a m) o n = s.rdN (a + o) n := by
  obtain ⟨r, rfl⟩ := Nat.exists_eq_add_of_le h
  rw [byteN, rdBytes_append, rdBytes_append, List.append_assoc, List.drop_left' (length_rdBytes s a o),
    List.take_left' (length_rdBytes s (a + o) n), State.rdN]

/-! The parts of the program. -/

/-- The rows that TSCAT contributes, with the rows of the target. -/
def tscatRows (raw : Nat) : EM (List (Nat × Nat)) :=
  let kind := cf raw 16 1 2
  let tgt := cf raw 18 0 12
  if kind = 2 then do
    let d ← useTable tgt
    need (cf raw 20 0 16 == d.elems) 0x10
    scatterCheck d tgt (← scatterRows kind (cf raw 16 3 2) (cf raw 36 0 32) (cf raw 40 0 43))
  else scatterRows kind (cf raw 16 3 2) (cf raw 36 0 32) (cf raw 40 0 43)

/-- Bytes from one source row to the next. -/
def tscatPitch (raw : Nat) : Nat :=
  if cf raw 32 0 32 = 0 then cf raw 20 0 16 * fmtBytes (cf raw 17 0 8) else cf raw 32 0 32

/-- The contributions of one row. -/
def tscatRow (q raw seq : Nat) (ik : Nat × Nat) : EM (List TroughMsg) := do
  let eb := fmtBytes (cf raw 17 0 8)
  let b ← ld (cf raw 24 0 43 + tscatPitch raw * ik.1) (cf raw 20 0 16 * eb)
  let els := (upto (cf raw 20 0 16)).map fun i => srcElem (cf raw 17 0 8) (byteN b (eb * i) eb)
  return rowMsgs (← gets id) q seq (cf raw 16 0 1 == 1) (cf raw 16 1 2) (cf raw 18 0 12) ik.2 els

/-- The command after it has sent its contributions: ADD counts them per home. -/
def tscatCmd (s : State) (raw : Nat) (l : List TroughMsg) (c : Cmd) : Cmd :=
  { c with
    stage := 1, waits := l.length
    aux := if cf raw 16 0 1 == 1 then
      (nubN (l.map (·.dst))).map fun p => (128 * s.me + p) * 2 ^ 32 + countOf (fun m : TroughMsg => m.dst == p) l else [] }

/-- TSCAT after its reads. -/
def tscatSend (raw : Nat) (l : List TroughMsg) : EM Unit := do
  onS fun s => { s with tmsgs := s.tmsgs ++ l }
  let me ← gets State.me
  let homes := nubN (l.map (·.dst))
  onC fun c => { c with
    stage := 1, waits := l.length
    aux := if cf raw 16 0 1 == 1 then
      homes.map fun p => (128 * me + p) * 2 ^ 32 + countOf (fun m : TroughMsg => m.dst == p) l else [] }
  countC 0 l.length

theorem tscatSend_run (raw : Nat) (l : List TroughMsg) (e : Eng) :
    (tscatSend raw l).run e = (.ok ⟨⟩, e.sends l (tscatCmd e.s raw l)) := rfl

theorem tscatBody_run (q : Nat) (e : Eng) :
    (tscatBody q).run e = (do
      let rows ← tscatRows e.cmd.raw.toNat
      let seq := (← get).cmd.seq
      let msgs ← rows.mapM (tscatRow q e.cmd.raw.toNat seq)
      tscatSend e.cmd.raw.toNat msgs.flatten : EM Unit).run e := by
  unfold tscatBody
  simp only [run_fldBind]
  rfl

/-! TSCAT that ends. -/

section
variable {b : Bool} {l : List Nat} {e e' : Eng}

theorem scatterRows_spares (kind imode count index : Nat) : SparesAt b l e (scatterRows kind imode count index) := by
  unfold scatterRows
  refine .ite (fun _ => .bind (ld_spares _ _) fun _ _ _ => .pure _) fun _ => .bind (ld_spares _ _) fun _ _ _ =>
    .bind (ld_spares _ _) fun _ _ _ => ?_
  dsimp only
  split
  · exact .bind (ld_spares _ _) fun _ _ _ => .pure _
  · exact .bind (.pure _) fun _ _ _ => .pure _

theorem scatterCheck_spares (d : TDesc) (t : Nat) (rows : List (Nat × Nat)) : SparesAt b l e (scatterCheck d t rows) := by
  induction rows generalizing e with
  | nil => exact .pure _
  | cons ik rows ih =>
    obtain ⟨i, k⟩ := ik
    rw [scatterCheck]
    exact .ite (fun _ => ih) fun _ => .bind (partLookup_spares _ _ _) fun _ _ _ => .getsBind <|
      .bind (.need _ _) fun _ _ _ => .bind ih fun _ _ _ => .pure _

theorem tscatRows_spares (raw : Nat) : SparesAt b l e (tscatRows raw) := by
  unfold tscatRows
  exact .ite (fun _ => .bind (useTable_spares _) fun _ _ _ => .bind (.need _ _) fun _ _ _ =>
    .bind (scatterRows_spares _ _ _ _) fun _ _ _ => scatterCheck_spares _ _ _) fun _ => scatterRows_spares _ _ _ _

theorem tscatRow_spares (q raw seq : Nat) (ik : Nat × Nat) : SparesAt b l e (tscatRow q raw seq ik) := by
  unfold tscatRow
  exact .bind (ld_spares _ _) fun _ _ _ => .getsBind (.pure _)

/-- The messages of a row tell no read. -/
theorem rowMsgs_of_spares (h : Spares b [] e e') (q seq : Nat) (add : Bool) (kind tgt idx : Nat) (els : List Nat) :
    rowMsgs e'.s q seq add kind tgt idx els = rowMsgs e.s q seq add kind tgt idx els := by
  have hhome (k : Nat) : homeOf e'.s k = homeOf e.s k := homeOf_of_reads h.regs k
  simp only [rowMsgs, segMsg, h.me, h.homeOfQ, hhome]

theorem tscatCmd_of_spares (h : Spares b [] e e') (raw : Nat) : tscatCmd e'.s raw = tscatCmd e.s raw := by
  funext l c
  simp only [tscatCmd, h.me]

end

/-- The messages of some row, for the command's target. -/
def isRowMsgs (s : State) (q raw seq : Nat) (l : List TroughMsg) : Prop :=
  ∃ idx els, l = rowMsgs s q seq (cf raw 16 0 1 == 1) (cf raw 16 1 2) (cf raw 18 0 12) idx els

theorem tscatRow_msgs {q raw seq : Nat} {ik : Nat × Nat} {e e' : Eng} {l : List TroughMsg}
    (h : (tscatRow q raw seq ik).run e = (.ok l, e')) : isRowMsgs e.s q raw seq l := by
  unfold tscatRow at h
  obtain ⟨bs, e₁, hld, h⟩ := run_bind_eq_ok h
  rw [run_getsBind] at h
  obtain rfl := Except.ok.inj (congrArg Prod.fst h)
  exact ⟨_, _, rowMsgs_of_spares (ld_spares (b := true) _ _ _ _ hld) _ _ _ _ _ _ _⟩

theorem isRowMsgs_of_spares {b : Bool} {e e' : Eng} (h : Spares b [] e e') {q raw seq : Nat} {l : List TroughMsg}
    (hl : isRowMsgs e'.s q raw seq l) : isRowMsgs e.s q raw seq l := by
  obtain ⟨idx, els, rfl⟩ := hl
  exact ⟨idx, els, rowMsgs_of_spares h _ _ _ _ _ _ _⟩

/-- TSCAT that ends has read and then sent the messages of some rows. -/
theorem tscatBody_sends {q : Nat} {e e' : Eng} (h : (tscatBody q).run e = (.ok ⟨⟩, e')) :
    ∃ (e₁ : Eng) (msgs : List (List TroughMsg)), Spares false [] e e₁ ∧ (∀ l ∈ msgs, isRowMsgs e.s q e.cmd.raw.toNat e.cmd.seq l)
      ∧ e' = e₁.sends msgs.flatten (tscatCmd e.s e.cmd.raw.toNat msgs.flatten) := by
  rw [tscatBody_run] at h
  obtain ⟨rows, e₁, hrows, h⟩ := run_bind_eq_ok h
  have hs₁ : Spares false [] e e₁ := tscatRows_spares _ _ _ hrows
  rw [run_getBind, hs₁.seq] at h
  obtain ⟨msgs, e₂, hmsgs, h⟩ := run_bind_eq_ok h
  have hs₂ : Spares false [] e₁ e₂ := SparesAt.mapList (fun ik e => tscatRow_spares _ _ _ ik) _ _ hmsgs
  have hs := hs₁.trans hs₂
  rw [tscatSend_run, tscatCmd_of_spares hs] at h
  refine ⟨e₂, msgs, hs, fun l hl => ?_, (congrArg Prod.snd h).symm⟩
  obtain ⟨ik, -, e₃, e₄, hs₃, hrun⟩ := exists_of_mem_forall₂
    (mapList_run (b := false) (l := []) (fun ik e => tscatRow_spares _ _ _ ik) hmsgs) hl
  exact isRowMsgs_of_spares (hs₁.trans hs₃) (tscatRow_msgs hrun)

theorem awaits_tscatCmd (s : State) (raw : Nat) (l : List TroughMsg) (c : Cmd) : Awaits c (tscatCmd s raw l c) l :=
  ⟨rfl, rfl, rfl, rfl⟩

/-- ADD notes each home once, with the number of its messages. -/
theorem mem_tscatCmd_aux {s : State} {raw : Nat} {l : List TroughMsg} {c : Cmd} (hadd : cf raw 16 0 1 = 1)
    (hl : l.length < 2 ^ 32) (p : Nat) :
    (∃ m ∈ l, m.dst = p) ↔ ∃ a ∈ (tscatCmd s raw l c).aux, a / 2 ^ 32 = 128 * s.me + p := by
  have hcount (p : Nat) : countOf (fun m : TroughMsg => m.dst == p) l < 2 ^ 32 := Nat.lt_of_le_of_lt (countOf_le l) hl
  have hdiv (p : Nat) : ((128 * s.me + p) * 2 ^ 32 + countOf (fun m : TroughMsg => m.dst == p) l) / 2 ^ 32
      = 128 * s.me + p := by
    have := hcount p
    omega
  simp only [tscatCmd, hadd, beq_self_eq_true, if_true, List.mem_map, mem_nubN, exists_exists_and_eq_and, hdiv]
  exact ⟨fun ⟨m, hm, hp⟩ => ⟨m, hm, by rw [hp]⟩, fun ⟨m, hm, hp⟩ => ⟨m, hm, by omega⟩⟩

/-- The rows of TSCAT with their OP and what they send. -/
def tscatRowsOf : List (Nat × (Nat → Instr) × TroughKind) :=
  [(0, Instr.tscatEmax, TroughKind.emax), (1, Instr.tscatAdd, TroughKind.add)]

theorem exec_tscat {s : State} {q : Nat} {c : Cmd} {row : Nat × (Nat → Instr) × TroughKind} (hrow : row ∈ tscatRowsOf)
    (hcmd : unitCmd s q 0x81 = some c) (hop : cf c.raw.toNat 16 0 1 = row.1) :
    exec (row.2.1 q) s = .next (runBody s q c (tscatBody q)) := by
  have hrun : runOp s q 0x81 1 row.1 (tscatBody q) = runBody s q c (tscatBody q) := by
    rw [runOp, hcmd]
    dsimp only
    rw [if_pos (beq_iff_eq.mpr hop)]
  simp only [tscatRowsOf, List.mem_cons, List.not_mem_nil, or_false] at hrow
  rcases hrow with rfl | rfl
  · exact congrArg Host.Outcome.next hrun
  · exact congrArg Host.Outcome.next hrun

/-- TSCAT that comes to its end (R211). -/
theorem tscat_row {s : State} {q : Nat} {c : Cmd} {e : Eng} {row : Nat × (Nat → Instr) × TroughKind}
    (hrow : row ∈ tscatRowsOf) (hcmd : unitCmd s q 0x81 = some c) (hop : cf c.raw.toNat 16 0 1 = row.1)
    (hend : bodyEnds s q c (tscatBody q) e) :
    ∃ u l c', exec (row.2.1 q) s = .next u ∧ SentRow s q c l u c'
      ∧ (∀ m ∈ l, ∃ idx g els, m = segMsg s q c.seq (row.1 == 1)
          (mkKey (cf c.raw.toNat 16 1 2) (cf c.raw.toNat 18 0 12) idx g) els)
      ∧ (row.1 = 1 → l.length < 2 ^ 32 → ∀ p, (∃ m ∈ l, m.dst = p) ↔ ∃ a ∈ c'.aux, a / 2 ^ 32 = 128 * s.me + p) := by
  obtain ⟨e₁, msgs, hs, hmsgs, he⟩ := tscatBody_sends hend
  subst he
  obtain ⟨u, c', hu, hsent, haux, -⟩ := sends_row hcmd hend hs (awaits_tscatCmd _ _ _ _)
  refine ⟨u, _, c', (exec_tscat hrow hcmd hop).trans (congrArg _ hu), hsent, fun m hm => ?_, fun hadd hlen p => ?_⟩
  · obtain ⟨l, hl, hm⟩ := List.mem_flatten.mp hm
    obtain ⟨idx, els, rfl⟩ := hmsgs l hl
    obtain ⟨g, -, rfl⟩ := List.mem_map.mp hm
    exact ⟨idx, g, _, by rw [← hop]⟩
  · rw [haux]
    exact mem_tscatCmd_aux (hop.trans hadd) hlen p

end Sys2Proof.Machine
end

section
/-! SUPPORT. TSCAT with an index list in main memory without an error (R211): the messages of its rows. -/

namespace Sys2Proof.Machine

open Sys2Proof

/-- The elements of source row `i`. -/
def tscatEls (s : State) (raw i : Nat) : List Nat :=
  let eb := fmtBytes (cf raw 17 0 8)
  (upto (cf raw 20 0 16)).map fun j =>
    srcElem (cf raw 17 0 8) (s.rdN (cf raw 24 0 43 + tscatPitch raw * i + eb * j) eb)

/-- The messages of source row `i`, for the row of the target that the index list names. -/
def tscatListed (s : State) (q raw seq i : Nat) : List TroughMsg :=
  rowMsgs s q seq (cf raw 16 0 1 == 1) (cf raw 16 1 2) (cf raw 18 0 12) (s.rdN (cf raw 40 0 43 + 5 * i) 5)
    (tscatEls s raw i)

/-- The source row of each row, with the row of the target. -/
def tscatIndex (s : State) (raw : Nat) : List (Nat × Nat) :=
  (upto (cf raw 36 0 32)).map fun i => (i, s.rdN (cf raw 40 0 43 + 5 * i) 5)

section
variable {e : Eng} {q raw : Nat}

theorem tscatRows_ends (hfree : FreeMain e) (hkind : cf raw 16 1 2 ≠ 2) (himode : cf raw 16 3 2 = 0)
    (hmain : inMain (cf raw 40 0 43) (5 * cf raw 36 0 32)) :
    Ends (tscatRows raw) e fun rows e' => rows = tscatIndex e.s raw ∧ ReadsOnly e e' := by
  unfold tscatRows
  dsimp only
  rw [if_neg hkind, scatterRows, if_pos himode]
  refine .bind (ld_ends hfree hmain) fun d e' ⟨hd, hr⟩ => .pure ⟨?_, hr⟩
  subst hd
  refine List.map_congr_left fun i hi => ?_
  have := List.mem_range.mp hi
  rw [byteN_rdBytes _ _ (by omega)]

theorem tscatRow_ends (hfree : FreeMain e) (seq : Nat) {ik : Nat × Nat}
    (hmain : inMain (cf raw 24 0 43 + tscatPitch raw * ik.1) (cf raw 20 0 16 * fmtBytes (cf raw 17 0 8))) :
    Ends (tscatRow q raw seq ik) e fun l e' => ReadsOnly e e' ∧
      l = rowMsgs e.s q seq (cf raw 16 0 1 == 1) (cf raw 16 1 2) (cf raw 18 0 12) ik.2 (tscatEls e.s raw ik.1) := by
  unfold tscatRow
  refine .bind ((ld_ends hfree hmain).spares (b := false) (l := []) (ld_spares _ _)) fun d e' ⟨⟨hd, hr⟩, hs⟩ =>
    .getsBind (.pure ⟨hr, ?_⟩)
  subst hd
  refine (rowMsgs_of_spares hs _ _ _ _ _ _ _).trans (congrArg _ (List.map_congr_left fun j hj => ?_))
  have hj : (j + 1) * fmtBytes (cf raw 17 0 8) ≤ cf raw 20 0 16 * fmtBytes (cf raw 17 0 8) :=
    Nat.mul_le_mul_right _ (List.mem_range.mp hj)
  rw [byteN_rdBytes _ _ (by rw [Nat.mul_comm]; rwa [Nat.add_mul, Nat.one_mul] at hj)]

theorem tscatEls_of_reads {e' : Eng} (hr : ReadsOnly e e') (i : Nat) : tscatEls e'.s raw i = tscatEls e.s raw i := by
  simp only [tscatEls, rdN_of_unread hr.state]

/-- TSCAT with an index list reads its rows and sends their messages. -/
theorem tscatBody_ends {s : State} {c : Cmd} (hmem : freeMem s q) (hkind : cf c.raw.toNat 16 1 2 ≠ 2)
    (himode : cf c.raw.toNat 16 3 2 = 0) (hindex : inMain (cf c.raw.toNat 40 0 43) (5 * cf c.raw.toNat 36 0 32))
    (hsrc : ∀ i, i < cf c.raw.toNat 36 0 32 → inMain (cf c.raw.toNat 24 0 43 + tscatPitch c.raw.toNat * i)
      (cf c.raw.toNat 20 0 16 * fmtBytes (cf c.raw.toNat 17 0 8))) :
    let l := (upto (cf c.raw.toNat 36 0 32)).flatMap (tscatListed s q c.raw.toNat c.seq)
    ∃ e₁, bodyEnds s q c (tscatBody q) (e₁.sends l (tscatCmd s c.raw.toNat l))
      ∧ Spares false [] ⟨s, c, ctxOfQ s q, false⟩ e₁ ∧ ReadsOnly ⟨s, c, ctxOfQ s q, false⟩ e₁ := by
  have hfree := freeMain_of_freeMem c hmem
  obtain ⟨rows, e₁, hrows, ⟨hidx, hr₁⟩, hs₁⟩ :=
    (tscatRows_ends hfree hkind himode hindex).spares (b := false) (l := []) (tscatRows_spares _)
  subst hidx
  have hmsgs : Ends ((tscatIndex s c.raw.toNat).mapM (tscatRow q c.raw.toNat c.seq)) e₁ fun msgs e' =>
      List.Forall₂ (fun ik l => l = rowMsgs s q c.seq (cf c.raw.toNat 16 0 1 == 1) (cf c.raw.toNat 16 1 2)
        (cf c.raw.toNat 18 0 12) ik.2 (tscatEls s c.raw.toNat ik.1)) (tscatIndex s c.raw.toNat) msgs
        ∧ ReadsOnly ⟨s, c, ctxOfQ s q, false⟩ e' ∧ Spares false [] ⟨s, c, ctxOfQ s q, false⟩ e' := by
    refine Ends.mapList (I := fun e' => ReadsOnly ⟨s, c, ctxOfQ s q, false⟩ e'
      ∧ Spares false [] ⟨s, c, ctxOfQ s q, false⟩ e') ?_ ⟨hr₁, hs₁⟩
    rintro ik hik e ⟨hr, hs⟩
    obtain ⟨i, hi, rfl⟩ := List.mem_map.mp hik
    refine ((tscatRow_ends (hfree.of_reads hr) c.seq (hsrc i (List.mem_range.mp hi))).spares (b := false) (l := [])
      (tscatRow_spares _ _ _ _)).mono fun l e' ⟨⟨hr', hl⟩, hs'⟩ => ⟨?_, hr.trans hr', hs.trans hs'⟩
    rw [hl, tscatEls_of_reads hr]
    exact rowMsgs_of_spares hs _ _ _ _ _ _ _
  obtain ⟨msgs, e₂, hrun, hall, hr₂, hs₂⟩ := hmsgs
  have hflat : msgs.flatten = (upto (cf c.raw.toNat 36 0 32)).flatMap (tscatListed s q c.raw.toNat c.seq) := by
    rw [eq_map_of_forall₂ hall, tscatIndex, List.map_map, List.flatMap_def]
    rfl
  refine ⟨e₂, ?_, hs₂, hr₂⟩
  show (tscatBody q).run _ = _
  rw [tscatBody_run, run_bind_of_ok hrows, run_getBind, hs₁.seq, run_bind_of_ok hrun, tscatSend_run, hflat,
    tscatCmd_of_spares hs₂]

end

/-- TSCAT with an index list in main memory without an error (R211). -/
theorem tscat_row_of_list {s : State} {q : Nat} {c : Cmd} (hcmd : unitCmd s q 0x81 = some c) (hmem : freeMem s q)
    (hkind : cf c.raw.toNat 16 1 2 ≠ 2) (himode : cf c.raw.toNat 16 3 2 = 0)
    (hindex : inMain (cf c.raw.toNat 40 0 43) (5 * cf c.raw.toNat 36 0 32))
    (hsrc : ∀ i, i < cf c.raw.toNat 36 0 32 → inMain (cf c.raw.toNat 24 0 43 + tscatPitch c.raw.toNat * i)
      (cf c.raw.toNat 20 0 16 * fmtBytes (cf c.raw.toNat 17 0 8))) :
    ∃ u c', exec (if cf c.raw.toNat 16 0 1 = 1 then .tscatAdd q else .tscatEmax q) s = .next u
      ∧ SentRow s q c ((upto (cf c.raw.toNat 36 0 32)).flatMap (tscatListed s q c.raw.toNat c.seq)) u c' ∧ memKept s u := by
  obtain ⟨e₁, hend, hs, hr⟩ := tscatBody_ends hmem hkind himode hindex hsrc
  obtain ⟨u, c', hu, hsent, -, hbytes⟩ := sends_row hcmd hend hs (awaits_tscatCmd _ _ _ _)
  refine ⟨u, c', ?_, hsent, fun b => (hbytes b).trans (rd8_of_unread hr.state b)⟩
  split
  · next hadd =>
    exact (exec_tscat (row := (1, Instr.tscatAdd, TroughKind.add)) (.tail _ (.head _)) hcmd hadd).trans (congrArg _ hu)
  · next hemax =>
    have hop : cf c.raw.toNat 16 0 1 = 0 := by
      have : cf c.raw.toNat 16 0 1 < 2 := Nat.mod_lt _ (by decide)
      omega
    exact (exec_tscat (row := (0, Instr.tscatEmax, TroughKind.emax)) (.head _) hcmd hop).trans (congrArg _ hu)

end Sys2Proof.Machine
end

section
/-! SUPPORT. TRESET (R210): the empty trough, its cleared spill area, and its slab (R317). -/

namespace Sys2Proof.Machine

open Sys2Proof

/-! Cleared and unspecified memory. -/

theorem look_filter_key {α : Type} (m : SMap α) (g : Nat → Bool) (c : Nat) :
    look (m.filter fun x => g x.1) c = if g c then look m c else none := by
  induction m with
  | nil => simp [look]
  | cons x m ih =>
    rw [List.filter_cons]
    split
    · next hg =>
      rw [look, look, ih]
      split
      · next hx =>
        subst hx
        rw [if_pos hg]
      · rfl
    · next hg =>
      rw [ih, look]
      split
      · next hc =>
        rw [if_neg]
        rintro rfl
        exact hg hc
      · rfl

theorem staleAt_cutRange_inside {a b c : Nat} (l : List (Nat × Nat × Nat)) (hc : a ≤ c ∧ c < b) :
    staleAt (l.flatMap (cutRange a b)) c = none := by
  induction l with
  | nil => rfl
  | cons r l ih =>
    obtain ⟨lo, hi, n⟩ := r
    rw [List.flatMap_cons, cutRange]
    split <;> split <;> simp only [List.cons_append, List.nil_append, staleAt, ih] <;> grind

theorem rd8_clearMain (s : State) (a b c : Nat) :
    (s.clearMain a b).rd8 c = if a ≤ c ∧ c < b then 0 else s.rd8 c := by
  rw [State.rd8, State.clearMain]
  dsimp only
  rw [look_filter_key s.mem (fun k => !(a ≤ k && k < b)) c, unlisted]
  split
  · next hout =>
    have hout : ¬(a ≤ c ∧ c < b) := by
      simp only [Bool.not_eq_true', Bool.and_eq_false_iff, decide_eq_false_iff_not] at hout
      omega
    rw [if_neg hout, staleAt_flatMap_cutRange _ hout]
    rfl
  · next hin =>
    have hin : a ≤ c ∧ c < b := by simpa using hin
    rw [if_pos hin, staleAt_cutRange_inside _ hin]
    rfl

theorem rd8_makeStale (s : State) {lo hi c : Nat} (h : c < lo) : (s.makeStale lo hi).rd8 c = s.rd8 c := by
  rw [State.rd8, State.makeStale]
  dsimp only
  have hkept : (!(decide (lo ≤ c) && decide (c < hi))) = true := by
    simp only [Bool.not_eq_true', Bool.and_eq_false_iff, decide_eq_false_iff_not]
    omega
  rw [look_filter_key s.mem (fun k => !(lo ≤ k && k < hi)) c, if_pos hkept, unlisted, staleAt, if_neg (by omega)]
  rfl

/-! The slab. -/

/-- From `s` to `u` queues, troughs, main memory, and registers but those of the slab stay. -/
structure SlabFrame (p : Nat) (s u : State) : Prop where
  queues : u.queues = s.queues
  troughs : u.troughs = s.troughs
  regs : regsBut [SLAB_STAT.off p, HOT_STAT.off, TRC_PTR.off p] s u
  mem : ∀ b, b < 0x10E00000000 → u.rd8 b = s.rd8 b

section
variable {p : Nat} {s t u : State}

theorem SlabFrame.refl (p : Nat) (s : State) : SlabFrame p s s := ⟨rfl, rfl, fun _ _ _ => rfl, fun _ _ => rfl⟩

theorem SlabFrame.trans (h : SlabFrame p s t) (h' : SlabFrame p t u) : SlabFrame p s u :=
  ⟨h'.queues.trans h.queues, h'.troughs.trans h.troughs, fun o ho v => (h'.regs o ho v).trans (h.regs o ho v),
    fun b hb => (h'.mem b hb).trans (h.mem b hb)⟩

theorem SlabFrame.set (s : State) {f : Fld} (n : Nat) {i : Nat}
    (h : f.reg.off i ∈ [SLAB_STAT.off p, HOT_STAT.off, TRC_PTR.off p]) : SlabFrame p s (s.set f n i) :=
  ⟨rfl, rfl, fun _ ho v => regAt_set_ne s f n i 0 v fun he => ho (he ▸ h), fun _ _ => rfl⟩

theorem SlabFrame.makeStale (s : State) {lo hi : Nat} (h : scratchBase p ≤ lo) : SlabFrame p s (s.makeStale lo hi) := by
  refine ⟨rfl, rfl, fun _ _ _ => rfl, fun b hb => rd8_makeStale s ?_⟩
  unfold scratchBase at h
  omega

theorem SlabFrame.makeStales (ms : List Nat) (lo hi : Nat → Nat) (h : ∀ m, scratchBase p ≤ lo m) (s : State) :
    SlabFrame p s (ms.foldl (fun s m => s.makeStale (lo m) (hi m)) s) := by
  induction ms generalizing s with
  | nil => exact .refl p s
  | cons m ms ih => exact (SlabFrame.makeStale s (h m)).trans (ih _)

theorem slabSizes_facts (s : State) (p cache trg hot trace : Nat) :
    SlabFrame p s (slabSizes s p cache trg hot trace) ∧ ((slabSizes s p cache trg hot trace).pond p).trgSize = trg := by
  have hset (s : State) (f : Fld) (n : Nat) (h : f.reg = SLAB_STAT) : SlabFrame p s (s.set f n p) :=
    .set s n (by rw [h]; exact .head _)
  have hpond (s : State) (x : PondSt) : SlabFrame p s (s.setPond p x) :=
    ⟨rfl, rfl, fun _ _ _ => rfl, fun _ _ => rfl⟩
  unfold slabSizes
  split
  extract_lets x s₁ s₂ s₃ s₄
  have h₁ : SlabFrame p s s₁ := hpond _ _
  have h₄ : SlabFrame p s s₄ := (((((h₁.trans (hset _ _ _ rfl)).trans (hset _ _ _ rfl)).trans (hset _ _ _ rfl)).trans
    (hset _ _ _ rfl)).trans (hset _ _ _ rfl))
  have htrg : (s₄.pond p).trgSize = trg := by
    show (lookD (ins s.ponds p _) p PondSt.init).trgSize = trg
    rw [lookD_ins_self]
  split
  · exact ⟨h₄.trans (hset _ _ _ rfl), htrg⟩
  · exact ⟨h₄, htrg⟩

theorem slabApply_facts (s : State) (p cache trg hot trace : Nat) :
    SlabFrame p s (slabApply s p cache trg hot trace) ∧ ((slabApply s p cache trg hot trace).pond p).trgSize = trg := by
  unfold slabApply
  split
  next c' t' h' r' _ =>
  extract_lets old moved x s₁ s₂ s₃ traced s₄ s₅
  have h₁ : SlabFrame p s s₁ := ⟨rfl, rfl, fun _ _ _ => rfl, fun _ _ => rfl⟩
  have h₂ : SlabFrame p s s₂ := by
    unfold s₂
    split
    · exact h₁
    · have hhot : SlabFrame p s₁ { s₁ with hot := ⟨[], [], s₁.hot.ready⟩ } := ⟨rfl, rfl, fun _ _ _ => rfl, fun _ _ => rfl⟩
      exact (h₁.trans hhot).trans (.set _ 0 (.tail _ (.head _)))
  have h₃ : SlabFrame p s s₃ := h₂.trans (SlabFrame.makeStales moved _ _ (fun m => Nat.le_add_right _ _) s₂)
  obtain ⟨hsizes, htrg⟩ := slabSizes_facts s₃ p cache trg hot trace
  have h₄ : SlabFrame p s s₄ := h₃.trans hsizes
  split
  · exact ⟨h₄, htrg⟩
  · refine ⟨h₄.trans ?_, htrg⟩
    refine (SlabFrame.set s₄ 0 (.tail _ (.tail _ (.head _)))).trans ((SlabFrame.set _ 0 (.tail _ (.tail _ (.head _)))).trans
      (.makeStale _ ?_))
    exact Nat.le_add_right _ _

end

/-! The row. -/

/-- A trough that holds nothing. -/
def TroughSt.cleared (x : TroughSt) : TroughSt := { x with slots := [], recs := [], resv := [], applied := [] }

/-- What TRESET makes of the state before its slab. -/
def tresetCleared (s : State) (p : Nat) : State :=
  let t := s.setTrough p (s.trough p).cleared
  t.clearMain (recPa t p 0) (recPa t p (spillN t p))

/-- What TRESET makes of the state. -/
def tresetState (s : State) (p : Nat) : State :=
  let t := tresetCleared s p
  slabApply t p (t.pond p).cacheSize (min 8 (t.get TRG_CFG_SIZE_MIB p)) (t.pond p).hotSize (t.pond p).traceSize

section
variable {s : State} {p : Nat}

/-- The registers that place a trough's entries and tell its size stay when it is cleared. -/
theorem rg_of_trgStat {u : State} (h : regsBut [TRG_STAT.off p] s u) {r : Reg} (hs : r.s1 = TRG_STAT.s1)
    (hb : r.base ≠ TRG_STAT.base) : u.rg r p = s.rg r p :=
  h _ (fun hm => off_ne_of_base r TRG_STAT hs hb p (List.mem_singleton.mp hm)) _

/-- A byte of main memory in no old record keeps its value while a trough is stored that holds nothing. -/
theorem clearOfBoth_cleared {b : Nat} (hb : b < 0x10E00000000)
    (hrecs : ∀ ie ∈ (s.trough p).recs, b < recPa s p ie.1 ∨ recPa s p ie.1 + 512 ≤ b) :
    clearOfBoth s p (s.trough p).cleared b := by
  refine ⟨⟨fun ie _ => .inl ?_, hrecs⟩, fun _ h => absurd h List.not_mem_nil, fun _ h => absurd h List.not_mem_nil⟩
  unfold slotPa scratchBase
  omega

theorem tresetCleared_facts (s : State) (p : Nat) :
    (tresetCleared s p).queues = s.queues ∧ (tresetCleared s p).trough p = (s.trough p).cleared
      ∧ (∀ k, k ≠ p → (tresetCleared s p).trough k = s.trough k) ∧ regsBut [TRG_STAT.off p] s (tresetCleared s p)
      ∧ (∀ b, recPa s p 0 ≤ b → b < recPa s p (spillN s p) → (tresetCleared s p).rd8 b = 0)
      ∧ ∀ b, b < 0x10E00000000 → (b < recPa s p 0 ∨ recPa s p (spillN s p) ≤ b) →
          (∀ ie ∈ (s.trough p).recs, b < recPa s p ie.1 ∨ recPa s p ie.1 + 512 ≤ b) →
          (tresetCleared s p).rd8 b = s.rd8 b := by
  have hframe : TroughFrame p [TRG_STAT.off p] (clearOfBoth s p (s.trough p).cleared) s
      (s.setTrough p (s.trough p).cleared) :=
    .setTrough s _ (.head _) (fun h => trgSpill_notMem_troughRegs p (.tail _ h)) fun _ hb => hb
  have hspill := rg_of_trgStat hframe.regs (r := TRG_SPILL) rfl (by decide)
  have hrec := recPa_of_regs hspill
  have hn : spillN (s.setTrough p (s.trough p).cleared) p = spillN s p := by
    rw [spillN, spillN, State.get, State.get, show TRG_SPILL_LOG2N.reg = TRG_SPILL from rfl, hspill]
  have htrough := trough_setTrough s p (s.trough p).cleared
  unfold tresetCleared
  dsimp only
  rw [hrec, hn]
  refine ⟨hframe.queues, htrough, hframe.troughs, hframe.regs, fun b h0 h1 => ?_, fun b hb hout hrecs => ?_⟩ <;>
    rw [rd8_clearMain]
  · rw [if_pos ⟨h0, h1⟩]
  · rw [if_neg (by omega)]
    exact hframe.mem b (clearOfBoth_cleared hb hrecs)

end

/-- TRESET of a trough with no stage live (R210). -/
theorem treset_row {s : State} {q p : Nat} {c : Cmd} (hcmd : unitCmd s q 0x80 = some c) (hp : hPond (homeOfQ s q) = p)
    (hlive : anyLive (s.trough p) = false) (hwaits : c.waits = 0) :
    ∃ u, exec (.treset q) s = .next u ∧ commandDone u q c 0 ∧ u.trough p = (s.trough p).cleared
      ∧ (u.pond p).trgSize = min 8 (s.get TRG_CFG_SIZE_MIB p) ∧ (∀ k, k ≠ p → u.trough k = s.trough k)
      ∧ (∀ b, b < 0x10E00000000 → recPa s p 0 ≤ b → b < recPa s p (spillN s p) → u.rd8 b = 0)
      ∧ (∀ b, b < 0x10E00000000 → (b < recPa s p 0 ∨ recPa s p (spillN s p) ≤ b) →
          (∀ ie ∈ (s.trough p).recs, b < recPa s p ie.1 ∨ recPa s p ie.1 + 512 ≤ b) → u.rd8 b = s.rd8 b)
      ∧ regsBut [SLAB_STAT.off p, HOT_STAT.off, TRC_PTR.off p, TRG_STAT.off p] s u := by
  subst hp
  have hend : bodyEnds s q c (tresetBody q) ⟨tresetState s (hPond (homeOfQ s q)), c, ctxOfQ s q, false⟩ := by
    show (tresetBody q).run _ = _
    unfold tresetBody
    rw [run_getsBind]
    dsimp only [id]
    rw [run_bind_of_ok (need_run (by rw [hlive]; rfl))]
    rfl
  generalize hPond (homeOfQ s q) = p at hend hlive
  obtain ⟨hqueues, htrough, hothers, hregs, hzero, hkept⟩ := tresetCleared_facts s p
  obtain ⟨hslab, hsize⟩ : SlabFrame p (tresetCleared s p) (tresetState s p)
      ∧ ((tresetState s p).pond p).trgSize = min 8 ((tresetCleared s p).get TRG_CFG_SIZE_MIB p) := slabApply_facts _ p _ _ _ _
  generalize tresetState s p = w at hend hslab hsize
  have hcfg : (tresetCleared s p).get TRG_CFG_SIZE_MIB p = s.get TRG_CFG_SIZE_MIB p :=
    congrArg (fget TRG_CFG_SIZE_MIB) (rg_of_trgStat hregs (r := TRG_CFG) rfl (by decide))
  rw [hcfg] at hsize
  have hexec : exec (.treset q) s = .next (runBody s q c (tresetBody q)) := by
    show Host.Outcome.next (runUnit s q 0x80 (tresetBody q)) = _
    rw [runUnit, hcmd]
  have hdone := commandDone_of_bodyEnds hcmd hend
    (congrArg (fun m => lookD m q QState.init) (hslab.queues.trans hqueues)) (.refl c) hwaits rfl
  rw [runBody_eq_finish hend] at hexec hdone
  refine ⟨_, hexec, hdone, ?_, hsize, fun k hk => ?_, fun b hb h0 h1 => ?_, fun b hb hout hrecs => ?_, fun o ho v => ?_⟩
  · exact (trough_of_troughs hslab.troughs p).trans htrough
  · exact (trough_of_troughs hslab.troughs k).trans (hothers k hk)
  · exact (hslab.mem b hb).trans (hzero b h0 h1)
  · exact (hslab.mem b hb).trans (hkept b hb hout hrecs)
  · have hsplit : o ∉ [SLAB_STAT.off p, HOT_STAT.off, TRC_PTR.off p] ∧ o ∉ [TRG_STAT.off p] :=
      ⟨fun h => ho (List.mem_append_left [TRG_STAT.off p] h),
        fun h => ho (List.mem_append_right [SLAB_STAT.off p, HOT_STAT.off, TRC_PTR.off p] h)⟩
    exact (hslab.regs o hsplit.1 v).trans (hregs o hsplit.2 v)

/-- TRESET of a trough with a live stage is refused (R210). -/
theorem treset_row_of_live {s : State} {q : Nat} {c : Cmd} (hcmd : unitCmd s q 0x80 = some c)
    (hlive : anyLive (s.trough (hPond (homeOfQ s q))) = true) (hwaits : c.waits = 0) :
    ∃ u, exec (.treset q) s = .next u ∧ commandDone u q c 0x10 ∧ { u with queues := s.queues } = s := by
  have hrun : (tresetBody q).run ⟨s, c, ctxOfQ s q, false⟩ = (.error (.status 0x10), ⟨s, c, ctxOfQ s q, false⟩) := by
    unfold tresetBody
    rw [run_getsBind]
    dsimp only [id]
    rw [hlive]
    rfl
  have hfinish : finish q ⟨s, c, ctxOfQ s q, false⟩ 0x10 = putCmd s q { c with phase := .done 0x10 } := by
    simp [finish, hwaits]
  refine ⟨putCmd s q { c with phase := .done 0x10 }, ?_, ?_, rfl⟩
  · show Host.Outcome.next (runUnit s q 0x80 (tresetBody q)) = _
    rw [runUnit, hcmd]
    dsimp only
    rw [runBody, hrun]
    exact congrArg _ hfinish
  · exact ⟨_, findCmd_putCmd (started_of_unitCmd hcmd) rfl, rfl, rfl⟩

end Sys2Proof.Machine
end

section
/-! SUPPORT. TMERGE (R213, R214): what it stores, and the keys that leave its trough when it retires. -/

namespace Sys2Proof.Machine

open Sys2Proof

/-- The keys that TMERGE merges. -/
def mergeKeys (s : State) (q raw : Nat) : List Nat :=
  committedKeys (s.trough (hPond (homeOfQ s q))) (cf raw 16 0 2) (cf raw 18 0 12)

/-- The rows of the keys. -/
def mergeIdxs (s : State) (q raw : Nat) : List Nat := nubN ((mergeKeys s q raw).map keyIdx)

/-- The keys of some rows. -/
def mergeFreed (s : State) (q raw : Nat) (is : List Nat) : List Nat :=
  (mergeKeys s q raw).filter fun k => is.contains (keyIdx k)

/-- Format, bytes of an element, and bytes from row to row of a dense merge. -/
def mergeFmt (raw : Nat) : Fmt := if cf raw 16 2 1 = 1 then bf16 else fp32
def mergeEb (raw : Nat) : Nat := if cf raw 16 2 1 = 1 then 2 else 4
def mergePitch (raw : Nat) : Nat := if cf raw 32 0 32 = 0 then cf raw 20 0 16 * mergeEb raw else cf raw 32 0 32

/-- Where row `i` of a dense merge goes. -/
def mergeAt (raw i : Nat) : Nat := cf raw 24 0 43 + mergePitch raw * i

/-- The end of TMERGE: its keys leave at its retirement. -/
def mergeEnd (p : Nat) (ks : List Nat) : EM Unit := do
  onC fun c => { c with fx := c.fx ++ [.freeKeys p ks] }
  countC 5 ks.length

/-- TMERGE of dense rows. -/
def mergeDense (s : State) (q raw : Nat) : EM Unit := do
  for i in mergeIdxs s q raw do
    let (v, nf) := mergeRow (s.trough (hPond (homeOfQ s q))) (mergeFmt raw) 1 (cf raw 18 0 12) i (cf raw 20 0 16)
    if nf then onS noteNF
    st (mergeAt raw i) (v.flatMap (leBytes (mergeEb raw)))
  if cf raw 16 3 1 = 1 then
    for i in (upto (cf raw 36 0 32)).filter fun i => !(mergeIdxs s q raw).contains i do
      st (mergeAt raw i) (List.replicate (cf raw 20 0 16 * mergeEb raw) 0)
  mergeEnd (hPond (homeOfQ s q)) (mergeFreed s q raw (mergeIdxs s q raw))

/-- TMERGE into a list. -/
def mergeList (s : State) (q raw : Nat) : EM Unit := do
  let p := hPond (homeOfQ s q)
  let tgt := cf raw 18 0 12
  let dest := cf raw 24 0 43
  let rows := cf raw 36 0 32
  let d ← useTable tgt
  need (dest % 16 == 0) 0x10
  let owned ← (mergeIdxs s q raw).mapM fun i => do
    let (dev, row) ← partLookup d.part d.ranges i
    return (i, dev, row)
  let mine := owned.filter fun o => o.2.1 == s.me
  let esz := 16 + 16 * ((d.elems + 3) / 4)
  if mine.length > rows then
    onS (·.stick TRG_STAT_LIST_FULL p)
    staleJob dest (esz * rows)
    emStop 0x10
  for oi in mine.zipIdx do
    let (v, nf) := mergeRow (s.trough p) fp32 2 tgt oi.1.1 d.elems
    if nf then onS noteNF
    let head := leBytes 5 oi.1.2.2 ++ leBytes 5 oi.1.1 ++ leBytes 2 tgt ++ leBytes 1 (b2n nf) ++ leBytes 3 0
    st (dest + esz * oi.2) (((head ++ v.flatMap (leBytes 4)) ++ List.replicate 16 0).take esz)
  let fr := mergeFreed s q raw (mine.map (·.1))
  bytesAtRetire (cf raw 40 0 43) (leBytes 8 mine.length)
  mergeEnd p fr

theorem tmergeBody_run (q : Nat) (e : Eng) :
    (tmergeBody q).run e = (do
      need (!keysBad e.s (hPond (homeOfQ e.s q)) (cf e.cmd.raw.toNat 16 0 2) (cf e.cmd.raw.toNat 18 0 12)) 0x30
      if cf e.cmd.raw.toNat 16 0 2 = 1 then mergeDense e.s q e.cmd.raw.toNat
      else mergeList e.s q e.cmd.raw.toNat : EM Unit).run e := by
  unfold tmergeBody
  simp only [run_fldBind, run_getsBind]
  rfl

/-! TMERGE that ends. -/

/-- The registers that TMERGE of trough `p` writes besides read counts. -/
def mergeRegs (p : Nat) : List Nat := [NUM_STAT.off, UPD_STEP.off, TRG_STAT.off p]

/-- The command has noted that the keys `ks` leave trough `p`. -/
def Eng.merged (e : Eng) (p : Nat) (ks : List Nat) : Eng :=
  { e with cmd := ({ e.cmd with fx := e.cmd.fx ++ [RetFx.freeKeys p ks] }).count 5 ks.length }

theorem mergeEnd_run (p : Nat) (ks : List Nat) (e : Eng) : (mergeEnd p ks).run e = (.ok ⟨⟩, e.merged p ks) := rfl

section
variable {e e' : Eng} {p : Nat}

theorem noteNF_spares : SparesAt true (mergeRegs p) e (onS noteNF) := by
  have hset (s : State) (f : Fld) (h : f.reg.off ∈ mergeRegs p) :
      regsBut (mergeRegs p ++ readCounts e.ctx.pond) s (s.stick f) :=
    fun _ ho v => regAt_set_ne s f 1 0 0 v fun he => ho (he ▸ List.mem_append_left _ h)
  refine .modify ?_
  have hnf : NUM_STAT_WIN_NF.reg.off ∈ mergeRegs p := .head _
  have hlnf : UPD_STEP_LNF.reg.off ∈ mergeRegs p := .tail _ (.head _)
  unfold noteNF
  dsimp only
  split
  · exact ⟨hset _ _ hnf, rfl, rfl, rfl, rfl, rfl, rfl, fun h => nomatch h⟩
  · exact ⟨fun o ho v => (hset _ _ hlnf o ho v).trans (hset _ _ hnf o ho v), rfl, rfl, rfl, rfl, rfl, rfl, fun h => nomatch h⟩

theorem bytesAtRetire_spares {l : List Nat} (a : Nat) (d : List Byte) : SparesAt true l e (bytesAtRetire a d) := by
  unfold bytesAtRetire
  refine .bind (sideOk_spares _ _) fun _ _ _ => .bind (place_spares _ _ _) fun r _ _ => ?_
  split
  · exact .bind (noteWrite_spares _ _ _) fun _ _ _ => .onC rfl rfl
  · exact .bind (noteHost_spares _ _) fun _ _ _ => hostStore_spares _ _

theorem mergeFreed_subset {s : State} {q raw : Nat} {is : List Nat} {k : Nat} (h : k ∈ mergeFreed s q raw is) :
    k ∈ mergeKeys s q raw := List.mem_of_mem_filter h

theorem mergeDense_merged {s : State} {q raw : Nat} (h : (mergeDense s q raw).run e = (.ok ⟨⟩, e')) :
    ∃ e₁ ks, Spares true (mergeRegs (hPond (homeOfQ s q))) e e₁ ∧ (∀ k ∈ ks, k ∈ mergeKeys s q raw)
      ∧ e' = e₁.merged (hPond (homeOfQ s q)) ks := by
  unfold mergeDense at h
  obtain ⟨_, e₁, hrows, h⟩ := run_bind_eq_ok h
  have hs₁ : Spares true (mergeRegs (hPond (homeOfQ s q))) e e₁ := by
    refine SparesAt.forLoop (fun i _ e => ?_) _ _ hrows
    dsimp only
    split
    · exact .bind noteNF_spares fun _ _ _ => .bind (st_spares _ _) fun _ _ _ => .pure _
    · exact .bind (st_spares _ _) fun _ _ _ => .pure _
  dsimp only at h
  split at h
  · obtain ⟨_, e₂, hzero, h⟩ := run_bind_eq_ok h
    have hs₂ : Spares true (mergeRegs (hPond (homeOfQ s q))) e₁ e₂ :=
      SparesAt.forLoop (fun i _ e => .bind (st_spares _ _) fun _ _ _ => .pure _) _ _ hzero
    exact ⟨e₂, _, hs₁.trans hs₂, fun _ => mergeFreed_subset, (congrArg Prod.snd h).symm⟩
  · exact ⟨e₁, _, hs₁, fun _ => mergeFreed_subset, (congrArg Prod.snd h).symm⟩

theorem mergeList_merged {s : State} {q raw : Nat} (h : (mergeList s q raw).run e = (.ok ⟨⟩, e')) :
    ∃ e₁ ks, Spares true (mergeRegs (hPond (homeOfQ s q))) e e₁ ∧ (∀ k ∈ ks, k ∈ mergeKeys s q raw)
      ∧ e' = e₁.merged (hPond (homeOfQ s q)) ks := by
  unfold mergeList at h
  dsimp only at h
  obtain ⟨d, e₁, htable, h⟩ := run_bind_eq_ok h
  obtain ⟨_, e₂, hneed, h⟩ := run_bind_eq_ok h
  obtain ⟨owned, e₃, howned, h⟩ := run_bind_eq_ok h
  have hs₃ : Spares true (mergeRegs (hPond (homeOfQ s q))) e e₃ :=
    ((useTable_spares _ _ _ htable).trans (SparesAt.need _ _ _ _ hneed)).trans
      (SparesAt.mapList (fun _ _ => .bind (partLookup_spares _ _ _) fun _ _ _ => .pure _) _ _ howned)
  split at h
  · obtain ⟨_, e₄, _, h⟩ := run_bind_eq_ok h
    obtain ⟨_, e₅, _, h⟩ := run_bind_eq_ok h
    obtain ⟨_, e₆, hstop, -⟩ := run_bind_eq_ok h
    exact nomatch congrArg Prod.fst hstop
  · obtain ⟨_, e₄, hrows, h⟩ := run_bind_eq_ok h
    obtain ⟨_, e₅, hcount, h⟩ := run_bind_eq_ok h
    have hs₄ : Spares true (mergeRegs (hPond (homeOfQ s q))) e₃ e₄ := by
      refine SparesAt.forLoop (fun oi _ e => ?_) _ _ hrows
      split
      · exact .bind noteNF_spares fun _ _ _ => .bind (st_spares _ _) fun _ _ _ => .pure _
      · exact .bind (st_spares _ _) fun _ _ _ => .pure _
    exact ⟨e₅, _, (hs₃.trans hs₄).trans (bytesAtRetire_spares _ _ _ _ hcount), fun _ => mergeFreed_subset,
      (congrArg Prod.snd h).symm⟩

theorem tmergeBody_merged {q : Nat} (h : (tmergeBody q).run e = (.ok ⟨⟩, e')) :
    ∃ e₁ ks, Spares true (mergeRegs (hPond (homeOfQ e.s q))) e e₁ ∧ (∀ k ∈ ks, k ∈ mergeKeys e.s q e.cmd.raw.toNat)
      ∧ e' = e₁.merged (hPond (homeOfQ e.s q)) ks := by
  rw [tmergeBody_run] at h
  obtain ⟨_, e₁, hneed, h⟩ := run_bind_eq_ok h
  have hs := SparesAt.need (b := true) (l := mergeRegs (hPond (homeOfQ e.s q))) _ _ _ _ hneed
  split at h
  · obtain ⟨e₂, ks, hs₂, hks, he⟩ := mergeDense_merged h
    exact ⟨e₂, ks, hs.trans hs₂, hks, he⟩
  · obtain ⟨e₂, ks, hs₂, hks, he⟩ := mergeList_merged h
    exact ⟨e₂, ks, hs.trans hs₂, hks, he⟩

end

theorem exec_tmerge {s : State} {q : Nat} {c : Cmd} (hcmd : unitCmd s q 0x83 = some c) :
    exec (.tmerge q) s = .next (runBody s q c (tmergeBody q)) := by
  show Host.Outcome.next (runUnit s q 0x83 (tmergeBody q)) = _
  rw [runUnit, hcmd]

/-- TMERGE that comes to its end (R213). -/
theorem tmerge_row {s : State} {q : Nat} {c : Cmd} {e : Eng} (hcmd : unitCmd s q 0x83 = some c)
    (hend : bodyEnds s q c (tmergeBody q) e) (hbad : e.bad = false) (hwaits : e.cmd.waits = 0) :
    ∃ c' ks, exec (.tmerge q) s = .next (finish q e 0) ∧ (finish q e 0).findCmd q c.seq = some c' ∧ c' = e.cmd.ended
      ∧ c'.raw = c.raw ∧ c'.phase = .done 0
      ∧ RetFx.freeKeys (hPond (homeOfQ s q)) ks ∈ c'.fx ∧ (∀ k ∈ ks, k ∈ mergeKeys s q c.raw.toNat)
      ∧ (finish q e 0).troughs = s.troughs
      ∧ regsBut (mergeRegs (hPond (homeOfQ s q)) ++ readCounts (pondOfQ s q)) s (finish q e 0) := by
  obtain ⟨e₁, ks, hs, hks, he⟩ := tmergeBody_merged hend
  subst he
  have hexec := exec_tmerge hcmd
  rw [runBody_eq_finish hend] at hexec
  have hended : (e₁.merged (hPond (homeOfQ s q)) ks).cmd.ended
      = { (e₁.merged (hPond (homeOfQ s q)) ks).cmd with phase := .done 0 } := if_pos hwaits
  refine ⟨_, ks, hexec, findCmd_ended hcmd hs.queues hs.seq hbad, rfl, ?_, ?_, ?_, hks, hs.troughs, hs.regs⟩ <;> rw [hended]
  · exact hs.raw
  · exact List.mem_append_right _ (.head _)

end Sys2Proof.Machine
end

section
/-! SUPPORT. Rows of stores to sound main memory, between which a program may do other things. -/

namespace Sys2Proof.Machine

open Sys2Proof

variable {α : Type} {e e₁ e' : Eng} {a : Nat} {d : List Byte}

/-- The engine uses local addresses, no replay confines its stores, and no byte has an error. -/
structure Storable (e : Eng) : Prop where
  untranslated : e.ctx.t = false
  noReplay : e.s.replay = none
  sound : ∀ a n, SoundRange e.s a n

theorem storable_of_freeMem {s : State} {q : Nat} (c : Cmd) (h : freeMem s q) : Storable ⟨s, c, ctxOfQ s q, false⟩ := by
  obtain ⟨ht, hreplay, hpoison, -, hretired⟩ := h
  refine ⟨ht, hreplay, fun _ _ b _ _ => ⟨?_, hretired b⟩⟩
  show s.poison.contains (b / 256) = false
  rw [hpoison]
  rfl

theorem Storable.freeMain (h : Storable e) : FreeMain e := by
  refine ⟨h.untranslated, fun a ha => ?_⟩
  obtain ⟨hp, hr⟩ := h.sound a 1 a (Nat.le_refl a) (by omega)
  rw [ueAt, areaOf_of_main ha, hp, hr]
  rfl

theorem retiredAt_of_unread {s u : State} (h : u.unread = s.unread) (a : Nat) : retiredAt u a = retiredAt s a := by
  have hretired : (u.chan (chanOf a)).retired = (s.chan (chanOf a)).retired := congrArg (fun x => x.2.2 (chanOf a)) h
  rw [retiredAt, retiredAt, hretired]

theorem Storable.of_reads (h : Storable e) (hr : ReadsOnly e e') : Storable e' :=
  ⟨hr.ctx ▸ h.untranslated, (congrArg (·.1.replay) hr.state).trans h.noReplay, fun a n b hb hb' => by
    obtain ⟨hp, hre⟩ := h.sound a n b hb hb'
    exact ⟨(poisonedAt_of_unread hr.state b).trans hp, (retiredAt_of_unread hr.state b).trans hre⟩⟩

/-- From one engine to the other `d` has been put at `a` in memory; no answer is awaited for it. -/
structure RowStored (a : Nat) (d : List Byte) (e e' : Eng) : Prop where
  bytes : ∀ b, e'.s.rd8 b = if a ≤ b ∧ b < a + d.length then (d[b - a]?).getD 0 else e.s.rd8 b
  storable : Storable e'
  cmd : SameCmd e.cmd e'.cmd
  bad : e'.bad = e.bad

/-- Nothing has been put yet: memory reads as before. -/
theorem RowStored.nil (hq : Storable e') (hbytes : ∀ b, e'.s.rd8 b = e.s.rd8 b) (hcmd : SameCmd e.cmd e'.cmd)
    (hbad : e'.bad = e.bad) : RowStored a [] e e' :=
  ⟨fun b => by rw [hbytes, if_neg (by rw [List.length_nil]; omega)], hq, hcmd, hbad⟩

theorem RowStored.of_reads (hq : Storable e) (hr : ReadsOnly e e') : RowStored a [] e e' :=
  .nil (hq.of_reads hr) (fun b => rd8_of_unread hr.state b) hr.cmd hr.bad

/-- What has put nothing before. -/
theorem RowStored.after (h : RowStored a [] e e₁) (h' : RowStored a d e₁ e') : RowStored a d e e' :=
  ⟨fun b => by rw [h'.bytes, h.bytes, if_neg (c := a ≤ b ∧ b < a + ([] : List Byte).length) (by rw [List.length_nil]; omega)],
    h'.storable, h.cmd.trans h'.cmd, h'.bad.trans h.bad⟩

theorem st_rowStored (hq : Storable e) (hmain : inMain a d.length) :
    Ends (st a d) e fun _ e' => RowStored a d e e' := by
  refine (st_ends hq.untranslated hq.noReplay hmain (hq.sound _ _)).mono fun _ e' ⟨hput, hcmd, hctx, hbad⟩ =>
    ⟨hput.bytes, ⟨hctx ▸ hq.untranslated, ?_, fun x n => hput.sound x n (hq.sound x n)⟩, hcmd, hbad⟩
  obtain ⟨_, _, _, _, _, _, hs⟩ := hput.rest
  rw [hs]
  exact hq.noReplay

/-- A turn of a loop that stores one row. -/
theorem stTurn_ends {R : List Byte → Prop} (hq : Storable e) (hmain : inMain a d.length) (hR : R d) :
    Ends (st a d >>= fun _ => pure (ForInStep.yield PUnit.unit)) e fun r e' =>
      r = .yield ⟨⟩ ∧ ∃ d, R d ∧ RowStored a d e e' :=
  .bind (st_rowStored hq hmain) fun _ _ h => .pure ⟨rfl, d, hR, h⟩

/-- From one engine to the other each row of `l` has got bytes at `addr`, at most `size` of them, as `R` says. -/
structure RowsStored (addr : Nat → Nat) (size : Nat) (R : Nat → List Byte → Prop) (l : List Nat) (e e' : Eng) : Prop where
  rows : ∀ i ∈ l, ∃ d, R i d ∧ memHolds (addr i) d e'.s
  outside : ∀ b, (∀ i ∈ l, b < addr i ∨ addr i + size ≤ b) → e'.s.rd8 b = e.s.rd8 b
  storable : Storable e'
  cmd : SameCmd e.cmd e'.cmd
  bad : e'.bad = e.bad

/-- A loop each of whose turns puts its row, where the rows lie apart; what holds at `K` no row touches. -/
theorem rows_ends {addr : Nat → Nat} {size : Nat} {R : Nat → List Byte → Prop} {K : Nat → Prop} {t : State}
    {f : Nat → PUnit → EM (ForInStep PUnit)} {l : List Nat}
    (hapart : l.Pairwise fun i j => apart (addr i) size (addr j) size)
    (hK : ∀ i ∈ l, ∀ b, K b → b < addr i ∨ addr i + size ≤ b) (hsize : ∀ i ∈ l, ∀ d, R i d → d.length ≤ size)
    (hf : ∀ i ∈ l, ∀ e, Storable e → (∀ b, K b → e.s.rd8 b = t.rd8 b) →
      Ends (f i ⟨⟩) e fun r e' => r = .yield ⟨⟩ ∧ ∃ d, R i d ∧ RowStored (addr i) d e e')
    (hq : Storable e) (ht : ∀ b, K b → e.s.rd8 b = t.rd8 b) :
    Ends (forIn l ⟨⟩ f) e fun _ e' => RowsStored addr size R l e e' := by
  induction l generalizing e with
  | nil => exact .pure ⟨fun _ h => absurd h List.not_mem_nil, fun _ _ => rfl, hq, .refl _, rfl⟩
  | cons i l ih =>
    obtain ⟨hi, hl⟩ := List.pairwise_cons.mp hapart
    rw [List.forIn_cons]
    refine .bind (hf i (.head _) e hq ht) fun r e₁ ⟨hr, d, hR, hput⟩ => ?_
    subst hr
    have hd := hsize i (.head _) d hR
    have hkept (b : Nat) (hb : b < addr i ∨ addr i + size ≤ b) : e₁.s.rd8 b = e.s.rd8 b := by
      rw [hput.bytes, if_neg (by omega)]
    have ht₁ (b : Nat) (hb : K b) : e₁.s.rd8 b = t.rd8 b := (hkept b (hK i (.head _) b hb)).trans (ht b hb)
    refine (ih hl (fun j hj => hK j (.tail _ hj)) (fun j hj => hsize j (.tail _ hj)) (fun j hj => hf j (.tail _ hj))
      hput.storable ht₁).mono fun _ e' hrest => ?_
    refine ⟨fun j hj => ?_, fun b hb => ?_, hrest.storable, hput.cmd.trans hrest.cmd, hrest.bad.trans hput.bad⟩
    · rcases List.mem_cons.mp hj with rfl | hj
      · refine ⟨d, hR, fun k hk => ?_⟩
        rw [hrest.outside _ fun x hx => by have := hi x hx; omega, hput.bytes, if_pos (by omega), Nat.add_sub_cancel_left]
      · exact hrest.rows j hj
    · obtain ⟨hb₁, hb₂⟩ := List.forall_mem_cons.mp hb
      exact (hrest.outside b hb₂).trans (hkept b hb₁)

end Sys2Proof.Machine
end

section
/-! SUPPORT. TMERGE of dense rows (R213, R214): the rows that it stores. -/

namespace Sys2Proof.Machine

open Sys2Proof

variable {e e' : Eng} {s : State} {q raw : Nat}

theorem nodup_nubN (l : List Nat) : (nubN l).Nodup := by
  induction l with
  | nil => exact .nil
  | cons x l ih =>
    rw [nubN, List.nodup_cons]
    exact ⟨by simp, ih.filter _⟩

/-- A row of a dense merge has all its elements. -/
theorem length_mergeRow (x : TroughSt) (f : Fmt) (kind tgt i elems : Nat) :
    (mergeRow x f kind tgt i elems).1.length = elems := by
  simp only [mergeRow, List.length_take]
  rw [length_flatMap_of_const (w := 32), List.length_map, upto_length]
  · omega
  · intro seg hseg
    obtain ⟨g, -, rfl⟩ := List.mem_map.mp hseg
    rw [List.length_map, List.length_map, upto_length]

/-- The bytes of row `i` of a dense merge. -/
def mergeBytes (s : State) (q raw i : Nat) : List Byte :=
  (mergeRow (s.trough (hPond (homeOfQ s q))) (mergeFmt raw) 1 (cf raw 18 0 12) i (cf raw 20 0 16)).1.flatMap (leBytes (mergeEb raw))

theorem length_mergeBytes (s : State) (q raw i : Nat) : (mergeBytes s q raw i).length = cf raw 20 0 16 * mergeEb raw := by
  rw [mergeBytes, length_flatMap_of_const fun _ _ => leBytes_length _ _, length_mergeRow, Nat.mul_comm]

/-- The rows that ZFILL has filled with zeros. -/
def zeroRows (s : State) (q raw : Nat) : List Nat :=
  (upto (cf raw 36 0 32)).filter fun i => !(mergeIdxs s q raw).contains i

theorem mem_zeroRows {i : Nat} : i ∈ zeroRows s q raw ↔ i < cf raw 36 0 32 ∧ i ∉ mergeIdxs s q raw := by
  simp [zeroRows, upto]

theorem nodup_zeroRows : (zeroRows s q raw).Nodup := List.nodup_range.filter _

/-- Rows do not overlap where their pitch has room for one. -/
theorem mergeAt_apart {n : Nat} (hroom : n ≤ mergePitch raw) {l : List Nat} (hl : l.Nodup) :
    l.Pairwise fun i j => apart (mergeAt raw i) n (mergeAt raw j) n := by
  refine hl.imp fun {i j} hij => ?_
  have hstep {i j : Nat} (h : i < j) : mergeAt raw i + n ≤ mergeAt raw j := by
    have := Nat.mul_le_mul_left (mergePitch raw) (Nat.succ_le_of_lt h)
    rw [Nat.mul_succ] at this
    unfold mergeAt
    omega
  exact (Nat.lt_or_gt_of_ne hij).imp hstep hstep

/-- A converted window that has NF is noted in registers alone. -/
theorem noteNF_rowStored (h : Storable e) (a : Nat) : Ends (onS noteNF) e fun _ e' => RowStored a [] e e' := by
  refine ⟨_, _, rfl, .nil ⟨h.untranslated, ?_, ?_⟩ (fun b => ?_) (.refl _) rfl⟩
  all_goals
    dsimp only
    unfold noteNF
    dsimp only
    split
  · exact h.noReplay
  · exact h.noReplay
  · exact h.sound
  · exact h.sound
  · rfl
  · rfl

/-- What a dense merge has stored from `e` to `e'`. -/
structure MergedRows (s : State) (q raw : Nat) (e e' : Eng) : Prop where
  rows : ∀ i ∈ mergeIdxs s q raw, memHolds (mergeAt raw i) (mergeBytes s q raw i) e'.s
  zeros : cf raw 16 3 1 = 1 → ∀ i ∈ zeroRows s q raw,
    memHolds (mergeAt raw i) (List.replicate (cf raw 20 0 16 * mergeEb raw) 0) e'.s
  outside : ∀ b, (∀ i, i ∈ mergeIdxs s q raw ∨ (cf raw 16 3 1 = 1 ∧ i < cf raw 36 0 32) →
    b < mergeAt raw i ∨ mergeAt raw i + cf raw 20 0 16 * mergeEb raw ≤ b) → e'.s.rd8 b = e.s.rd8 b
  cmd : SameCmd e.cmd e'.cmd
  bad : e'.bad = e.bad

theorem mergeDense_ends (hq : Storable e) (hroom : cf raw 20 0 16 * mergeEb raw ≤ mergePitch raw)
    (hmain : ∀ i, i ∈ mergeIdxs s q raw ∨ (cf raw 16 3 1 = 1 ∧ i < cf raw 36 0 32) →
      inMain (mergeAt raw i) (cf raw 20 0 16 * mergeEb raw)) :
    Ends (mergeDense s q raw) e fun _ e' => ∃ e₁, MergedRows s q raw e e₁
      ∧ e' = e₁.merged (hPond (homeOfQ s q)) (mergeFreed s q raw (mergeIdxs s q raw)) := by
  unfold mergeDense
  refine .bind (R := fun _ e' => RowsStored (mergeAt raw) (cf raw 20 0 16 * mergeEb raw)
      (fun i d => d = mergeBytes s q raw i) (mergeIdxs s q raw) e e')
    (rows_ends (K := fun _ => False) (t := s) (mergeAt_apart hroom (nodup_nubN _)) (fun _ _ _ h => h.elim)
      (fun i _ d hd => hd ▸ (length_mergeBytes s q raw i).le) (fun i hi e hq _ => ?_) hq fun _ h => h.elim) fun _ e₁ h₁ => ?_
  · have hroom : inMain (mergeAt raw i) (mergeBytes s q raw i).length := by
      rw [length_mergeBytes]
      exact hmain i (.inl hi)
    dsimp only
    split
    · exact .bind (noteNF_rowStored hq _) fun _ e₁ h₁ => (stTurn_ends (R := (· = mergeBytes s q raw i)) h₁.storable hroom rfl).mono
        fun _ _ ⟨hr, d, hd, h⟩ => ⟨hr, d, hd, h₁.after h⟩
    · exact stTurn_ends hq hroom rfl
  · dsimp only
    split
    · next hz =>
      refine .bind (R := fun _ e' => RowsStored (mergeAt raw) (cf raw 20 0 16 * mergeEb raw)
          (fun _ d => d = List.replicate (cf raw 20 0 16 * mergeEb raw) 0) (zeroRows s q raw) e₁ e')
        (rows_ends (K := fun _ => False) (t := s) (mergeAt_apart hroom nodup_zeroRows) (fun _ _ _ h => h.elim)
          (fun i _ d hd => hd ▸ List.length_replicate.le) (fun i hi e hq _ => ?_) h₁.storable fun _ h => h.elim)
        fun _ e₂ h₂ => ?_
      · have := hmain i (.inr ⟨hz, (mem_zeroRows.mp hi).1⟩)
        exact stTurn_ends hq (by rwa [List.length_replicate]) rfl
      · refine ⟨_, _, mergeEnd_run _ _ _, e₂, ⟨fun i hi => ?_, fun _ i hi => ?_, fun b hb => ?_, h₁.cmd.trans h₂.cmd,
          h₂.bad.trans h₁.bad⟩, rfl⟩
        · obtain ⟨_, rfl, hrow⟩ := h₁.rows i hi
          intro k hk
          rw [h₂.outside _ fun j hj => ?_]
          · exact hrow k hk
          · have hne : i ≠ j := fun h => (mem_zeroRows.mp hj).2 (h ▸ hi)
            rw [length_mergeBytes] at hk
            have := List.pairwise_pair.mp (mergeAt_apart (l := [i, j]) hroom (by simpa using hne))
            omega
        · obtain ⟨_, rfl, hrow⟩ := h₂.rows i hi
          exact hrow
        · rw [h₂.outside b fun j hj => hb j (.inr ⟨hz, (mem_zeroRows.mp hj).1⟩), h₁.outside b fun j hj => hb j (.inl hj)]
    · next hz =>
      refine ⟨_, _, mergeEnd_run _ _ _, e₁, ⟨fun i hi => ?_, fun h => absurd h hz, fun b hb => ?_, h₁.cmd, h₁.bad⟩, rfl⟩
      · obtain ⟨_, rfl, hrow⟩ := h₁.rows i hi
        exact hrow
      · exact h₁.outside b fun j hj => hb j (.inl hj)

/-- All keys of a dense merge leave. -/
theorem mergeFreed_all (s : State) (q raw : Nat) : mergeFreed s q raw (mergeIdxs s q raw) = mergeKeys s q raw := by
  refine List.filter_eq_self.mpr fun k hk => ?_
  rw [List.contains_iff_mem]
  exact mem_nubN.mpr (List.mem_map_of_mem hk)

/-- TMERGE of dense rows on error-free memory (R213, R214). -/
theorem tmerge_row_of_dense {c : Cmd} (hcmd : unitCmd s q 0x83 = some c) (hwaits : c.waits = 0) (hmem : freeMem s q)
    (hraw : c.raw.toNat = raw) (hdense : cf raw 16 0 2 = 1) (hroom : cf raw 20 0 16 * mergeEb raw ≤ mergePitch raw)
    (hmain : ∀ i, i ∈ mergeIdxs s q raw ∨ (cf raw 16 3 1 = 1 ∧ i < cf raw 36 0 32) →
      inMain (mergeAt raw i) (cf raw 20 0 16 * mergeEb raw)) :
    ∃ u c' e₁, exec (.tmerge q) s = .next u ∧ u.findCmd q c.seq = some c' ∧ c'.raw = c.raw ∧ c'.phase = .done 0
      ∧ RetFx.freeKeys (hPond (homeOfQ s q)) (mergeKeys s q raw) ∈ c'.fx ∧ u.troughs = s.troughs
      ∧ MergedRows s q raw ⟨s, c, ctxOfQ s q, false⟩ e₁ ∧ ∀ b, u.rd8 b = e₁.s.rd8 b := by
  obtain ⟨⟨⟩, e, hrun, e₁, hrows, he⟩ :=
    mergeDense_ends (e := ⟨s, c, ctxOfQ s q, false⟩) (storable_of_freeMem c hmem) hroom hmain
  have hend : bodyEnds s q c (tmergeBody q) e := by
    show (tmergeBody q).run _ = _
    rw [tmergeBody_run]
    dsimp only
    rw [hraw, run_bind_of_ok (need_run (by rw [keysBad_of_free hmem rfl]; rfl)), if_pos hdense]
    exact hrun
  subst he
  rw [mergeFreed_all] at hend
  obtain ⟨c', _, hexec, hfound, hended, hc', hphase, -, -, htroughs, -⟩ :=
    tmerge_row hcmd hend hrows.bad (hrows.cmd.waits.trans hwaits)
  refine ⟨_, c', e₁, hexec, hfound, hc', hphase, ?_, htroughs, hrows, fun _ => rfl⟩
  obtain ⟨_, _, hfx⟩ := Cmd.ended_eq (e₁.merged (hPond (homeOfQ s q)) (mergeKeys s q raw)).cmd
  rw [hended, hfx]
  exact List.mem_append_right _ (.head _)

end Sys2Proof.Machine
end

section
/-! SUPPORT. TCODEC (R222 to R224): the forms of a tile, and its run on error-free main memory. -/

namespace Sys2Proof.Machine

open Sys2Proof

variable {e e' : Eng}

/-! The two forms of a tile. -/

theorem length_descBytes (d : Desc) (dense : Bool) : (descBytes d dense).length = 16 := leBytes_length _ _

/-- A tile as it has been read with descriptor `d`. -/
structure TileOf (d : Desc) (r : RawTile) : Prop where
  desc : r.d = d
  ents : r.ents.length = d.nv

theorem length_entryBytes {d : Desc} {ents : List BlockEntry} (h : ents.length = d.nv) :
    (entryBytes d ents).length = d.entries := by
  unfold entryBytes Desc.entries
  split
  · rw [length_flatMap_of_const fun _ _ => leBytes_length 4 _, h]
  · rfl

theorem length_denseBytes_le {d : Desc} {r : RawTile} (h : TileOf d r) : (denseBytes r).length ≤ d.size := by
  obtain ⟨rfl, hents⟩ := h
  have hvecs : r.d.slot * (r.ents.zip r.codes).length ≤ r.d.nv * r.d.slot := by
    rw [Nat.mul_comm, List.length_zip, hents]
    exact Nat.mul_le_mul_right _ (Nat.min_le_left _ _)
  rw [denseBytes, List.length_append, List.length_append, length_descBytes, length_entryBytes hents,
    length_flatMap_of_const fun _ _ => leBytes_length _ _, Desc.size]
  omega

/-- The compressed form is the dense one or shorter. -/
theorem compressBytes_cases (r : RawTile) : compressBytes r = denseBytes r
    ∨ (∃ l, compressBytes r = descBytes r.d false ++ l) ∧ (compressBytes r).length < r.d.size := by
  unfold compressBytes
  dsimp only
  split
  · exact .inl rfl
  · next h => exact .inr ⟨⟨_, by simp only [List.append_assoc]; rfl⟩, Nat.lt_of_not_ge h⟩

theorem denseBytes_eq (r : RawTile) : ∃ l, denseBytes r = descBytes r.d true ++ l :=
  ⟨_, List.append_assoc _ _ _⟩

/-- What TCODEC stores for a tile. -/
def codecBytes (op : Nat) (r : RawTile) : List Byte := if op = 0 then compressBytes r else denseBytes r

theorem length_codecBytes_le {op : Nat} {d : Desc} {r : RawTile} (h : TileOf d r) : (codecBytes op r).length ≤ d.size := by
  have hdense := length_denseBytes_le h
  unfold codecBytes
  split
  · rcases compressBytes_cases r with hc | ⟨-, hc⟩
    · rwa [hc]
    · exact h.desc ▸ hc.le
  · exact hdense

theorem memHolds_of_append {a : Nat} {d l : List Byte} {u : State} (h : memHolds a (d ++ l) u) : memHolds a d u := by
  intro k hk
  rw [h k (by rw [List.length_append]; omega), List.getElem?_append_left hk]

theorem memHolds_descBytes_of_dense {a : Nat} {r : RawTile} {u : State} (h : memHolds a (denseBytes r) u) :
    memHolds a (descBytes r.d true) u := by
  obtain ⟨l, hl⟩ := denseBytes_eq r
  exact memHolds_of_append (hl ▸ h)

theorem memHolds_descBytes_of_compressed {a : Nat} {r : RawTile} {u : State} (h : memHolds a (compressBytes r) u) :
    memHolds a (descBytes r.d false) u ∨ memHolds a (descBytes r.d true) u := by
  rcases compressBytes_cases r with hc | ⟨⟨l, hl⟩, -⟩
  · exact .inr (memHolds_descBytes_of_dense (hc ▸ h))
  · exact .inl (memHolds_of_append (hl ▸ h))

/-! The tile that a load answers. -/

theorem length_ldEntries {d : Desc} {a : Nat} {l : List BlockEntry} (h : (ldEntries d a).run e = (.ok l, e')) :
    l.length = d.nv := by
  unfold ldEntries at h
  split at h
  · obtain rfl := Except.ok.inj (congrArg Prod.fst h)
    exact List.length_replicate
  · obtain ⟨b, e₁, -, h⟩ := run_bind_eq_ok h
    obtain rfl := Except.ok.inj (congrArg Prod.fst h)
    rw [List.length_map, upto_length]

theorem tileOf_ldTile {d : Desc} {a : Nat} {r : RawTile} (h : (ldTile d a).run e = (.ok r, e')) : TileOf d r := by
  unfold ldTile at h
  obtain ⟨ents, e₁, hents, h⟩ := run_bind_eq_ok h
  split at h
  · obtain ⟨b, e₂, -, h⟩ := run_bind_eq_ok h
    obtain rfl := Except.ok.inj (congrArg Prod.fst h)
    exact ⟨rfl, length_ldEntries hents⟩
  · obtain ⟨bm, e₂, -, h⟩ := run_bind_eq_ok h
    obtain ⟨stream, e₃, -, h⟩ := run_bind_eq_ok h
    obtain rfl := Except.ok.inj (congrArg Prod.fst h)
    exact ⟨rfl, length_ldEntries hents⟩

/-! The program in its two passes. -/

/-- A descriptor that TCODEC takes into tiles of `ds` bytes. -/
def codecOk (op ds : Nat) (d : Desc) : Bool := d.ok && !d.sp && fmtBase d.fmt != 0 && (op == 1 || d.dense) && d.size ≤ ds

/-- The descriptors are checked. -/
def codecChecks (op ds n : Nat) (src : Nat → Nat) : EM Unit := do
  for i in upto n do
    let d ← ldDesc (src i)
    need (codecOk op ds d) 0x10

/-- A tile is read and stored in its other form. -/
def codecTile (op src dst : Nat) : EM Unit := do
  let d ← ldDesc src
  let r ← ldTile d src
  st dst (codecBytes op r)

def codecTiles (op ds n dst : Nat) (src : Nat → Nat) : EM Unit := do
  for i in upto n do codecTile op (src i) (dst + ds * i)

/-- Where the source tiles of a TCODEC lie. -/
def codecSrc (raw i : Nat) : Nat := cf raw 24 0 43 + cf raw 32 0 32 * i

theorem tcodecBody_run (e : Eng) :
    tcodecBody.run e = (do
      codecChecks (cf e.cmd.raw.toNat 16 0 1) (cf e.cmd.raw.toNat 36 0 32) (cf e.cmd.raw.toNat 20 0 32)
        (codecSrc e.cmd.raw.toNat)
      codecTiles (cf e.cmd.raw.toNat 16 0 1) (cf e.cmd.raw.toNat 36 0 32) (cf e.cmd.raw.toNat 20 0 32)
        (cf e.cmd.raw.toNat 40 0 43) (codecSrc e.cmd.raw.toNat) : EM Unit).run e := by
  unfold tcodecBody
  simp only [run_fldBind, codecChecks, codecTiles, codecTile, bind_assoc, pure_bind]
  rfl

theorem exec_tcodec {s : State} {q : Nat} {c : Cmd} (hcmd : unitCmd s q 0x90 = some c) :
    exec (.tcodec q) s = .next (runBody s q c tcodecBody) := by
  show Host.Outcome.next (runUnit s q 0x90 tcodecBody) = _
  rw [runUnit, hcmd]

/-! TCODEC on error-free main memory. -/

theorem rdBytes_congr {s t : State} {a n : Nat} (h : ∀ b, a ≤ b → b < a + n → t.rd8 b = s.rd8 b) :
    t.rdBytes a n = s.rdBytes a n := by
  induction n generalizing a with
  | zero => rfl
  | succ n ih =>
    rw [State.rdBytes, State.rdBytes, h a (Nat.le_refl a) (by omega), ih fun b hb hb' => h b (by omega) (by omega)]

theorem codecChecks_ends {op ds n : Nat} {src : Nat → Nat} (hfree : FreeMain e)
    (h : ∀ i, i < n → inMain (src i) 16 ∧ codecOk op ds (descOf (e.s.rdN (src i) 16)) = true) :
    Ends (codecChecks op ds n src) e fun _ e' => ReadsOnly e e' := by
  unfold codecChecks
  refine Ends.bind (R := fun _ e' => ReadsOnly e e') (Ends.forLoop (fun i hi _ e₁ hr => ?_) (.refl e)) fun _ _ h => .pure h
  obtain ⟨hmain, hok⟩ := h i (List.mem_range.mp hi)
  refine .bind (ldDesc_ends (hfree.of_reads hr) hmain) fun d e₂ ⟨hd, hr₂⟩ => .needBind ?_ (.pure ⟨_, rfl, hr.trans hr₂⟩)
  rw [hd, rdN_of_unread hr.state]
  exact hok

theorem codecTile_ends {op ds src dst : Nat} {d : Desc} (hq : Storable e) (hd : descOf (e.s.rdN src 16) = d)
    (hok : codecOk op ds d = true) (hsrc : inMain src (d.size + 128)) (hdst : inMain dst ds) :
    Ends (codecTile op src dst) e fun _ e' =>
      ∃ r, TileOf d r ∧ RowStored dst (codecBytes op r) e e' := by
  have hsize : d.size ≤ ds ∧ d.ok = true := by
    simp only [codecOk, Bool.and_eq_true, decide_eq_true_eq] at hok
    exact ⟨hok.2, hok.1.1.1.1⟩
  have hentries := d.entries_le
  unfold codecTile
  refine .bind (ldDesc_ends hq.freeMain (by omega)) fun d' e₁ ⟨hd', hr₁⟩ => ?_
  rw [hd] at hd'
  subst hd'
  have hvec : d'.vec ≤ d'.nv := by
    rw [← hd] at hsize ⊢
    exact Desc.vec_le_nv hsize.2
  have hroom : inMain src (d'.size + if d'.dense then 0 else 128) := by split <;> omega
  obtain ⟨r, e₂, hrun, -, hr₂⟩ := ldTile_ends (hq.of_reads hr₁).freeMain hvec hroom
  have htile := tileOf_ldTile hrun
  have hlen := length_codecBytes_le (op := op) htile
  have hput := RowStored.of_reads (a := dst) hq (hr₁.trans hr₂)
  rw [Ends, run_bind_of_ok hrun]
  exact (st_rowStored hput.storable (by omega)).mono fun _ e' h => ⟨r, htile, hput.after h⟩

/-- TCODEC whose tiles lie in error-free main memory (R222 to R224). -/
theorem tcodecBody_ends {s : State} {q : Nat} {c : Cmd} {op ds n dst : Nat} {src : Nat → Nat} {d : Nat → Desc}
    (hmem : freeMem s q) (hd : ∀ i, descOf (s.rdN (src i) 16) = d i)
    (hfit : ∀ i, i < n → codecOk op ds (d i) = true ∧ inMain (src i) ((d i).size + 128) ∧ apart (src i) 16 dst (ds * n))
    (hdst : inMain dst (ds * n)) :
    Ends (codecChecks op ds n src >>= fun _ => codecTiles op ds n dst src) ⟨s, c, ctxOfQ s q, false⟩ fun _ e' =>
      RowsStored (fun i => dst + ds * i) ds (fun i l => ∃ r, TileOf (d i) r ∧ l = codecBytes op r) (upto n)
        ⟨s, c, ctxOfQ s q, false⟩ e' := by
  have hq := storable_of_freeMem c hmem
  have hchecks : ∀ i, i < n → inMain (src i) 16 ∧ codecOk op ds (descOf (s.rdN (src i) 16)) = true := fun i hi => by
    obtain ⟨hok, hroom, -⟩ := hfit i hi
    have := (d i).entries_le
    exact ⟨by omega, hd i ▸ hok⟩
  have hstep {i j : Nat} (h : i < j) : ds * i + ds ≤ ds * j := by
    rw [← Nat.mul_succ]
    exact Nat.mul_le_mul_left _ h
  refine .bind (codecChecks_ends hq.freeMain hchecks) fun _ e₁ hr => ?_
  unfold codecTiles
  refine Ends.bind ((rows_ends (addr := fun i => dst + ds * i) (size := ds)
    (R := fun i l => ∃ r, TileOf (d i) r ∧ l = codecBytes op r) (K := fun b => b < dst ∨ dst + ds * n ≤ b) (t := s)
    ?_ ?_ ?_ ?_ (hq.of_reads hr) fun b _ => rd8_of_unread hr.state b)) fun _ e' h => .pure ⟨h.rows, fun b hb => ?_, h.storable, hr.cmd.trans h.cmd,
      h.bad.trans hr.bad⟩
  · exact List.pairwise_lt_range.imp fun hij => .inl (by have := hstep hij; omega)
  · intro i hi b hb
    have := hstep (List.mem_range.mp hi)
    omega
  · rintro i hi _ ⟨r, hr, rfl⟩
    have hok := (hfit i (List.mem_range.mp hi)).1
    simp only [codecOk, Bool.and_eq_true, decide_eq_true_eq] at hok
    exact (length_codecBytes_le hr).trans hok.2
  · intro i hi e₂ hq₂ hkept
    have hi := List.mem_range.mp hi
    obtain ⟨hok, hroom, hapart⟩ := hfit i hi
    have := hstep hi
    refine .bind (codecTile_ends hq₂ ?_ hok hroom (by omega)) fun _ e₃ ⟨r, hr, hput⟩ => .pure ⟨rfl, _, ⟨r, hr, rfl⟩, hput⟩
    rw [← hd i, State.rdN, rdBytes_congr fun b hb hb' => hkept b (by omega)]
    rfl
  · exact (h.outside b hb).trans (rd8_of_unread hr.state b)

end Sys2Proof.Machine
end

section
/-! SUPPORT. Untranslated accesses wherever they lie (R331): what a load answers, and what a store leaves alone. -/

namespace Sys2Proof.Machine

open Sys2Proof

variable {α β : Type} {e e₁ e' : Eng} {a n : Nat}

/-! Untranslated ranges. -/

theorem parts_of_local {s t : State} {c : Ctx} (ht : c.t = false) {wr : Bool} {l parts : List (Nat × Nat)}
    (h : resolveParts s c wr l = (.ok parts, t)) : parts = l ∧ t = s := by
  induction l generalizing parts t with
  | nil =>
    cases h
    exact ⟨rfl, rfl⟩
  | cons p l ih =>
    obtain ⟨a, n⟩ := p
    simp only [resolveParts, resolve1, ht, Bool.false_and, Bool.false_eq_true, if_false] at h
    split at h
    · cases h
    · cases h
    · split at h
      · cases h
      · next hrest =>
        obtain ⟨rfl, rfl⟩ := ih hrest
        cases h
        exact ⟨rfl, rfl⟩

/-- Where an untranslated address lies depends on what its agent may access alone. -/
theorem resolve_congr {s t : State} {c : Ctx} (ht : c.t = false) (h : allowed t c = allowed s c) (a n : Nat) (wr : Bool) :
    (resolve t c a n wr).1 = (resolve s c a n wr).1 := by
  unfold resolve
  induction blockParts (2 ^ 21) a (n / 2 ^ 21 + 2) n with
  | nil => rfl
  | cons p l ih =>
    obtain ⟨a, n⟩ := p
    simp only [resolveParts, resolve1, ht, Bool.false_and, Bool.false_eq_true, if_false, h]
    split
    · rfl
    · rfl
    · rcases hs : resolveParts s c wr l with ⟨r, s'⟩
      rcases hu : resolveParts t c wr l with ⟨r', t'⟩
      rw [hs, hu] at ih
      dsimp only at ih ⊢
      subst ih
      cases r' <;> rfl

theorem allowed_of_reads {s t : State} {p : Nat} (h : regsBut (readCounts p) s t) (c : Ctx) : allowed t c = allowed s c := by
  have hslab (k : Nat) : t.rg SLAB_STAT k = s.rg SLAB_STAT k := by
    refine rg_of_reads h fun p => ⟨?_, ?_⟩ <;> simp only [Reg.off, SLAB_STAT, PC_CNT, PF_CNT] <;> omega
  have huser : inUser t = inUser s := by
    funext k o
    rw [inUser, inUser, userNow, userNow, State.get, State.get, show SLAB_STAT_USER_NOW.reg = SLAB_STAT from rfl, hslab]
  have hscratch : inScratch t = inScratch s := by
    funext k o
    rw [inScratch, inScratch, scratchNow, scratchNow, cacheNow, cacheNow, State.get, State.get,
      show SLAB_STAT_CACHE_NOW.reg = SLAB_STAT from rfl, hslab]
  funext x
  unfold allowed
  rw [huser, hscratch]

/-! Loads. -/

/-- What a load answers: the host's bytes where it lies in the host window, else those of memory. -/
def Eng.loaded (e : Eng) (a n : Nat) : List Byte :=
  match (resolve e.s e.ctx a n false).1 with
  | .error (.hostWin x) => (look e.cmd.buf (hostKey x n)).getD []
  | _ => e.s.rdBytes a n

/-- An untranslated load that ends: its bytes, and that the command's buffers stay. -/
theorem ld_eq_ok (ht : e.ctx.t = false) (hn : n ≠ 0) {d : List Byte} (h : (ld a n).run e = (.ok d, e')) :
    d = e.loaded a n ∧ e'.cmd.buf = e.cmd.buf := by
  unfold ld at h
  rw [if_neg hn] at h
  obtain ⟨r, e₁, hplace, h⟩ := run_bind_eq_ok h
  obtain ⟨rfl, hparts, hhost⟩ := place_eq_ok hplace
  cases r with
  | inr x =>
    rw [Eng.loaded, hhost x rfl]
    dsimp only at h ⊢
    rw [run_getBind] at h
    dsimp only at h
    split at h
    · next hd =>
      cases h
      exact ⟨by rw [hd]; rfl, rfl⟩
    · exact nomatch congrArg Prod.fst h
  | inl parts =>
    have hresolve := hparts parts rfl
    obtain ⟨hlocal, -⟩ := parts_of_local (s := e.s) (t := (resolve e.s e.ctx a n false).2) ht (Prod.ext hresolve rfl)
    rw [Eng.loaded, hresolve]
    dsimp only at h ⊢
    rw [run_getBind] at h
    have hread {t : State} (hu : t.unread = e.s.unread) : (parts.flatMap fun p => t.rdBytes p.1 p.2) = e.s.rdBytes a n := by
      simp only [rdBytes_of_unread hu, hlocal]
      exact flatMap_rdBytes_blockParts _ (by decide) (pageParts_fuel _ _ (by decide))
    have htouch := (touchAll_unread (resolve e.s e.ctx a n false).2 parts).trans (resolve_unread e.s e.ctx a n false)
    generalize (resolve e.s e.ctx a n false).2 = t at h htouch
    dsimp only at h
    split at h
    · obtain ⟨_, _, hstop, -⟩ := run_bind_eq_ok h
      exact nomatch congrArg Prod.fst hstop
    · split at h
      · cases h
        exact ⟨hread ((demandParts_unread _ _ _ _).trans htouch), rfl⟩
      · cases h
        exact ⟨hread ((directParts_unread _ _).trans htouch), rfl⟩

end Sys2Proof.Machine
end

section
/-! SUPPORT. TCODEC (R222 to R224): it comes to its end, wherever its tiles lie. -/

namespace Sys2Proof.Machine

open Sys2Proof

variable {α β : Type} {e e₁ e' : Eng} {a n : Nat}

/-- From one engine to the other registers and troughs are spared; and no byte outside the `n` at `a` changes, where no answer
of the host is awaited in the end. -/
structure StoresIn (a n : Nat) (e e' : Eng) : Prop where
  spares : Spares true [] e e'
  buf : e'.cmd.buf = e.cmd.buf
  waits : e.cmd.waits ≤ e'.cmd.waits
  mem : e'.cmd.waits = 0 → ∀ b, b < a ∨ a + n ≤ b → e'.s.rd8 b = e.s.rd8 b

theorem StoresIn.refl (a n : Nat) (e : Eng) : StoresIn a n e e := ⟨.refl _ _ _, rfl, Nat.le_refl _, fun _ _ _ => rfl⟩

theorem StoresIn.trans (h : StoresIn a n e e₁) (h' : StoresIn a n e₁ e') : StoresIn a n e e' :=
  ⟨h.spares.trans h'.spares, h'.buf.trans h.buf, h.waits.trans h'.waits, fun hw b hb =>
    (h'.mem hw b hb).trans (h.mem (by have := h'.waits; omega) b hb)⟩

theorem StoresIn.widen (h : StoresIn a n e e') {x m : Nat} (hx : x ≤ a) (hm : a + n ≤ x + m) : StoresIn x m e e' :=
  ⟨h.spares, h.buf, h.waits, fun hw b hb => h.mem hw b (by omega)⟩

/-- Where no byte changes, it may lie anywhere. -/
theorem StoresIn.empty (h : StoresIn a 0 e e') (x : Nat) : StoresIn x 0 e e' :=
  ⟨h.spares, h.buf, h.waits, fun hw b _ => h.mem hw b (by omega)⟩

/-- Loads store nothing. -/
theorem StoresIn.of_reads (hs : Spares true [] e e') (hr : ReadsOnly e e') (hb : e'.cmd.buf = e.cmd.buf) (a n : Nat) :
    StoresIn a n e e' := ⟨hs, hb, hr.cmd.waits.ge, fun _ b _ => rd8_of_unread hr.state b⟩

/-! Stores. -/

theorem noteWrite_buf (a : Nat) (l : List (Nat × Nat)) (d : List Byte) (h : (noteWrite a l d).run e = (.ok ⟨⟩, e')) :
    e'.cmd.buf = e.cmd.buf := by
  induction l generalizing a d e with
  | nil =>
    cases h
    rfl
  | cons p l ih =>
    rw [noteWrite, run_modifyBind] at h
    refine (ih _ _ h).trans ?_
    split <;> rfl

theorem rd8_touch (s : State) (x b : Nat) : (touch s x).rd8 b = s.rd8 b := by
  unfold touch wakePond
  split
  · dsimp only
    split <;> rfl
  · rfl

theorem putParts_storesIn {parts : List (Nat × Nat)} {d : List Byte} (hparts : ∀ p ∈ parts, a ≤ p.1 ∧ p.1 + p.2 ≤ a + n)
    (h : (putParts parts d).run e = (.ok ⟨⟩, e')) : StoresIn a n e e' := by
  induction parts generalizing d e with
  | nil =>
    cases h
    exact .refl _ _ _
  | cons p parts ih =>
    obtain ⟨pa, m⟩ := p
    obtain ⟨hlo, hhi⟩ := hparts (pa, m) (.head _)
    have hw := wrLocal_wrote (touch e.s pa) pa (d.take m)
    have hlen : (d.take m).length ≤ m := List.length_take_le _ _
    rw [putParts, run_modifyBind] at h
    refine StoresIn.trans ⟨.of_onlyMemory ((touch_onlyMemory e.s pa).trans hw.1) _, rfl, Nat.le_refl _, fun _ b hb => ?_⟩
      (ih (fun p hp => hparts p (.tail _ hp)) h)
    dsimp only at hlo hhi
    exact (hw.2.1 b (by omega)).trans (rd8_touch _ _ _)

theorem noteWrite_storesIn {x : Nat} {l : List (Nat × Nat)} {d : List Byte}
    (h : (noteWrite x l d).run e = (.ok ⟨⟩, e')) : StoresIn a n e e' := by
  have hs := noteWrite_spares (b := true) (l := []) _ _ _ _ _ h
  have hb := noteWrite_buf x l d h
  obtain ⟨c', rfl, -, -, hwaits⟩ := ends_of_run (noteWrite_ends x l d) h
  exact ⟨hs, hb, hwaits.ge, fun _ _ _ => rfl⟩

theorem noteHost_ends (x : Nat) (d : List Byte) : Ends (noteHost x d) e fun _ e' =>
    ∃ c', e' = { e with cmd := c' } ∧ c'.buf = e.cmd.buf ∧ c'.waits = e.cmd.waits := by
  refine ⟨_, _, rfl, ?_⟩
  beta_reduce
  split
  · exact ⟨e.cmd, rfl, rfl, rfl⟩
  · exact ⟨_, rfl, rfl, rfl⟩

theorem noteHost_storesIn {x : Nat} {d : List Byte} (h : (noteHost x d).run e = (.ok ⟨⟩, e')) : StoresIn a n e e' := by
  have hs := noteHost_spares (b := true) (l := []) x d _ _ h
  obtain ⟨c', rfl, hbuf, hwaits⟩ := ends_of_run (noteHost_ends x d) h
  exact ⟨hs, hbuf, hwaits.ge, fun _ _ _ => rfl⟩

theorem sideOk_run_eq {a n : Nat} (h : (sideOk a n).run e = (.ok ⟨⟩, e')) : e' = e := by
  unfold sideOk need at h
  rw [run_getBind] at h
  split at h
  · exact (congrArg Prod.snd h).symm
  · dsimp only at h
    split at h
    · exact (congrArg Prod.snd h).symm
    · exact nomatch congrArg Prod.fst h

/-- A store that ends keeps to its range, or awaits the host's answer. -/
theorem st_storesIn (ht : e.ctx.t = false) {d : List Byte} (h : (st a d).run e = (.ok ⟨⟩, e')) :
    StoresIn a d.length e e' := by
  unfold st at h
  split at h
  · cases h
    exact .refl _ _ _
  · obtain ⟨_, e₁, hside, hrest⟩ := run_bind_eq_ok h
    obtain rfl := sideOk_run_eq hside
    obtain ⟨r, e₂, hplace, h⟩ := run_bind_eq_ok hrest
    have hs₂ := place_spares (b := true) (l := []) _ _ _ _ _ hplace
    obtain ⟨rfl, hparts, -⟩ := place_eq_ok hplace
    have h₂ := StoresIn.of_reads hs₂ ⟨resolve_unread _ _ _ _ _, .refl _, rfl, rfl⟩ rfl a d.length
    cases r with
    | inr x =>
      obtain ⟨_, e₃, hnote, h⟩ := run_bind_eq_ok h
      refine h₂.trans ((noteHost_storesIn hnote).trans ?_)
      have hs := hostStore_spares (b := true) (l := []) x d _ _ h
      obtain rfl := congrArg Prod.snd h
      exact ⟨hs, rfl, Nat.le_succ _, fun hw => nomatch hw⟩
    | inl parts =>
      obtain ⟨_, e₃, hnote, h⟩ := run_bind_eq_ok h
      obtain ⟨rfl, -⟩ := parts_of_local (t := (resolve e₁.s e₁.ctx a d.length true).2) ht (Prod.ext (hparts _ rfl) rfl)
      exact h₂.trans ((noteWrite_storesIn hnote).trans (putParts_storesIn (fun p hp => blockParts_mem hp) h))

/-! Loads. -/

theorem ld_storesIn (ht : e.ctx.t = false) {x m : Nat} {d : List Byte} (h : (ld x m).run e = (.ok d, e')) :
    StoresIn a n e e' := by
  refine .of_reads (ld_spares x m _ _ h) (readsOnly_of_run (ld_onlyReads x m) h) ?_ a n
  rcases Nat.eq_zero_or_pos m with rfl | hm
  · cases h
    rfl
  · exact (ld_eq_ok ht (by omega) h).2

theorem ldDesc_eq_ok (ht : e.ctx.t = false) {x : Nat} {d : Desc} (h : (ldDesc x).run e = (.ok d, e')) :
    d = descOf (leNat (e.loaded x 16)) ∧ StoresIn a n e e' := by
  unfold ldDesc ldN at h
  obtain ⟨v, e₁, h, hd⟩ := run_bind_eq_ok h
  obtain ⟨l, e₂, hl, hv⟩ := run_bind_eq_ok h
  have hs := ld_storesIn (a := a) (n := n) ht hl
  obtain ⟨rfl, -⟩ := ld_eq_ok ht (by decide) hl
  cases hv
  cases hd
  exact ⟨rfl, hs⟩

theorem ldEntries_storesIn (ht : e.ctx.t = false) {d : Desc} {x : Nat} {l : List BlockEntry}
    (h : (ldEntries d x).run e = (.ok l, e')) : StoresIn a n e e' := by
  unfold ldEntries at h
  split at h
  · cases h
    exact .refl _ _ _
  · obtain ⟨b, e₁, hb, h⟩ := run_bind_eq_ok h
    have hs := ld_storesIn (a := a) (n := n) ht hb
    cases h
    exact hs

theorem ldTile_storesIn (ht : e.ctx.t = false) {d : Desc} {x : Nat} {r : RawTile}
    (h : (ldTile d x).run e = (.ok r, e')) : StoresIn a n e e' := by
  unfold ldTile at h
  obtain ⟨ents, e₁, hents, h⟩ := run_bind_eq_ok h
  have h₁ := ldEntries_storesIn (a := a) (n := n) ht hents
  have ht₁ : e₁.ctx.t = false := h₁.spares.ctx ▸ ht
  split at h
  · obtain ⟨b, e₂, hb, h⟩ := run_bind_eq_ok h
    have h₂ := h₁.trans (ld_storesIn ht₁ hb)
    cases h
    exact h₂
  · obtain ⟨bm, e₂, hbm, h⟩ := run_bind_eq_ok h
    have h₂ := h₁.trans (ld_storesIn ht₁ hbm)
    obtain ⟨stream, e₃, hstream, h⟩ := run_bind_eq_ok h
    obtain ⟨l, e₄, hl, hv⟩ := run_bind_eq_ok hstream
    have h₃ := h₂.trans (ld_storesIn (h₂.spares.ctx ▸ ht) hl)
    cases hv
    cases h
    exact h₃

/-- A load answers the same bytes after stores elsewhere. -/
theorem loaded_of_storesIn (h : StoresIn a n e e') (ht : e.ctx.t = false) (hw : e'.cmd.waits = 0) {x m : Nat}
    (hapart : apart x m a n) : e'.loaded x m = e.loaded x m := by
  have hbytes : e'.s.rdBytes x m = e.s.rdBytes x m := rdBytes_congr fun b hb hb' => h.mem hw b (by omega)
  rw [Eng.loaded, Eng.loaded, h.spares.ctx, resolve_congr ht (allowed_of_reads h.spares.regs e.ctx), h.buf, hbytes]

/-! The two passes. -/

/-- A loop that ends: each turn has kept `I`, and told `P` of its index. -/
theorem forIn_eq_ok {I : Eng → Prop} {P : Nat → Prop} {l : List Nat} {f : Nat → PUnit → EM (ForInStep PUnit)}
    (hf : ∀ i ∈ l, ∀ e e' r, I e → (f i ⟨⟩).run e = (.ok r, e') → r = .yield ⟨⟩ ∧ I e' ∧ P i) (hI : I e)
    (h : (forIn l ⟨⟩ f).run e = (.ok ⟨⟩, e')) : I e' ∧ ∀ i ∈ l, P i := by
  induction l generalizing e with
  | nil =>
    cases h
    exact ⟨hI, fun _ h => absurd h List.not_mem_nil⟩
  | cons i l ih =>
    rw [List.forIn_cons] at h
    obtain ⟨r, e₁, hr, h⟩ := run_bind_eq_ok h
    obtain ⟨rfl, hI₁, hP⟩ := hf i (.head _) e e₁ r hI hr
    obtain ⟨hI', hrest⟩ := ih (fun j hj => hf j (.tail _ hj)) hI₁ h
    exact ⟨hI', List.forall_mem_cons.mpr ⟨hP, hrest⟩⟩

/-- The first pass: it stores nothing, and each descriptor is one that TCODEC takes. -/
theorem codecChecks_eq_ok {op ds m : Nat} {src : Nat → Nat} (ht : e.ctx.t = false)
    (h : (codecChecks op ds m src).run e = (.ok ⟨⟩, e')) : StoresIn a 0 e e'
      ∧ (e.cmd.waits = 0 → ∀ i, i < m → codecOk op ds (descOf (leNat (e.loaded (src i) 16))) = true) := by
  unfold codecChecks at h
  obtain ⟨_, e₁, hloop, hend⟩ := run_bind_eq_ok h
  obtain rfl : e₁ = e' := congrArg Prod.snd hend
  refine (forIn_eq_ok (I := fun e' => StoresIn a 0 e e' ∧ e'.cmd.waits = e.cmd.waits)
    (P := fun i => e.cmd.waits = 0 → codecOk op ds (descOf (leNat (e.loaded (src i) 16))) = true)
    (fun i _ e₂ e₃ r ⟨hs, hw⟩ hturn => ?_) ⟨.refl _ _ _, rfl⟩ hloop).imp And.left
    fun hP hw i hi => hP i (List.mem_range.mpr hi) hw
  obtain ⟨d, e₄, hd, hrest⟩ := run_bind_eq_ok hturn
  have hr := readsOnly_of_run (ldDesc_onlyReads (src i)) hd
  obtain ⟨hdesc, hs₄⟩ := ldDesc_eq_ok (a := a) (n := 0) (hs.spares.ctx ▸ ht) hd
  obtain ⟨_, e₅, hneed, hyield⟩ := run_bind_eq_ok hrest
  cases hyield
  unfold need at hneed
  split at hneed
  · next hok =>
    cases hneed
    refine ⟨rfl, ⟨hs.trans hs₄, hr.cmd.waits.trans hw⟩, fun hzero => ?_⟩
    rwa [hdesc, loaded_of_storesIn (hs.empty (src i + 16)) ht (hw.trans hzero) (.inl (Nat.le_refl _))] at hok
  · exact nomatch congrArg Prod.fst hneed

/-- One tile: what it stores lies in its place where the descriptor has been checked. -/
theorem codecTile_storesIn {op ds src dst : Nat} (ht : e.ctx.t = false)
    (hok : e.cmd.waits = 0 → codecOk op ds (descOf (leNat (e.loaded src 16))) = true)
    (h : (codecTile op src dst).run e = (.ok ⟨⟩, e')) : StoresIn dst ds e e' := by
  unfold codecTile at h
  obtain ⟨d, e₁, hd, h⟩ := run_bind_eq_ok h
  obtain ⟨r, e₂, hr, h⟩ := run_bind_eq_ok h
  obtain ⟨hdesc, h₁⟩ := ldDesc_eq_ok (a := dst) (n := ds) ht hd
  have h₂ := h₁.trans (ldTile_storesIn (h₁.spares.ctx ▸ ht) hr)
  have h₃ := st_storesIn (h₂.spares.ctx ▸ ht) h
  refine ⟨h₂.spares.trans h₃.spares, h₃.buf.trans h₂.buf, h₂.waits.trans h₃.waits, fun hw => ?_⟩
  have hw₂ : e₂.cmd.waits = 0 := by have := h₃.waits; omega
  have hsize : d.size ≤ ds := by
    have hok := hok (by have := h₂.waits; omega)
    rw [← hdesc] at hok
    simp only [codecOk, Bool.and_eq_true, decide_eq_true_eq] at hok
    exact hok.2
  have hlen := length_codecBytes_le (op := op) (tileOf_ldTile hr)
  exact (h₂.trans (h₃.widen (Nat.le_refl _) (by omega))).mem hw

/-- Both passes: nothing but the destination tiles changes, where the descriptors lie apart from them. -/
theorem codec_storesIn {op ds m dst : Nat} {src : Nat → Nat} (ht : e.ctx.t = false)
    (hapart : ∀ i, i < m → apart (src i) 16 dst (ds * m))
    (h : (codecChecks op ds m src >>= fun _ => codecTiles op ds m dst src).run e = (.ok ⟨⟩, e')) :
    StoresIn dst (ds * m) e e' := by
  obtain ⟨_, e₁, hchecks, h⟩ := run_bind_eq_ok h
  obtain ⟨hs, hok⟩ := codecChecks_eq_ok (a := dst) ht hchecks
  unfold codecTiles at h
  obtain ⟨_, e₂, hloop, hend⟩ := run_bind_eq_ok h
  obtain rfl : e₂ = e' := congrArg Prod.snd hend
  refine (forIn_eq_ok (I := StoresIn dst (ds * m) e) (P := fun _ => True) (fun i hi e₃ e₄ r hs hturn => ?_)
    (hs.widen (Nat.le_refl _) (by omega)) hloop).1
  have hi := List.mem_range.mp hi
  obtain ⟨_, e₅, htile, hturn⟩ := run_bind_eq_ok hturn
  cases hturn
  have hend : ds * i + ds ≤ ds * m := by
    rw [← Nat.mul_succ]
    exact Nat.mul_le_mul_left _ hi
  have htile := codecTile_storesIn (ds := ds) (hs.spares.ctx ▸ ht) (fun hw => ?_) htile
  · exact ⟨rfl, hs.trans (htile.widen (by omega) (by omega)), trivial⟩
  rw [loaded_of_storesIn hs ht hw (hapart i hi)]
  exact hok (by have := hs.waits; omega) i hi

/-! What TCODEC leaves. -/

theorem tcodecBody_spares : SparesAt true [] e tcodecBody := by
  intro x e' h
  rw [tcodecBody_run] at h
  refine SparesAt.bind (.bind (.forLoop fun i _ e => ?_) fun _ _ _ => .pure _) (fun _ e _ => .bind (.forLoop fun i _ e => ?_)
    fun _ _ _ => .pure _) x e' h
  · exact .bind (ldDesc_spares _) fun _ _ _ => .bind (.need _ _) fun _ _ _ => .pure _
  · exact .bind (.bind (ldDesc_spares _) fun _ _ _ => .bind (ldTile_spares _ _) fun _ _ _ => st_spares _ _)
      fun _ _ _ => .pure _

/-- TCODEC that comes to its end (R222 to R224). -/
theorem tcodec_row {s : State} {q raw : Nat} {c : Cmd} {e : Eng} (hcmd : unitCmd s q 0x90 = some c)
    (hraw : c.raw.toNat = raw) (hend : bodyEnds s q c tcodecBody e) (hbad : e.bad = false) (hwaits : e.cmd.waits = 0) :
    exec (.tcodec q) s = .next (finish q e 0) ∧ commandDone (finish q e 0) q c 0
      ∧ regsBut (readCounts (pondOfQ s q)) s (finish q e 0) ∧ (finish q e 0).troughs = s.troughs
      ∧ (transOfQ s q = false →
          (∀ i, i < cf raw 20 0 32 → apart (codecSrc raw i) 16 (cf raw 40 0 43) (cf raw 36 0 32 * cf raw 20 0 32)) →
          memBut (cf raw 40 0 43) (cf raw 36 0 32 * cf raw 20 0 32) s (finish q e 0)) := by
  have hs := tcodecBody_spares _ _ hend
  have hexec := exec_tcodec hcmd
  rw [runBody_eq_finish hend] at hexec
  refine ⟨hexec, ⟨_, findCmd_ended hcmd hs.queues hs.seq hbad, ?_, Cmd.ended_of_done hwaits⟩, hs.regs, hs.troughs,
    fun ht hapart => ?_⟩
  · obtain ⟨_, _, hended⟩ := e.cmd.ended_eq
    rw [hended]
    exact hs.raw
  · subst hraw
    rw [bodyEnds, tcodecBody_run] at hend
    exact (codec_storesIn ht hapart hend).mem hwaits

/-- TCODEC on error-free main memory (R222 to R224). -/
theorem tcodec_row_of_fits {s : State} {q raw : Nat} {c : Cmd} {d : Nat → Desc} (hcmd : unitCmd s q 0x90 = some c)
    (hraw : c.raw.toNat = raw) (hwaits : c.waits = 0) (hmem : freeMem s q) (hd : ∀ i, descOf (s.rdN (codecSrc raw i) 16) = d i)
    (hfit : ∀ i, i < cf raw 20 0 32 → codecOk (cf raw 16 0 1) (cf raw 36 0 32) (d i) = true
      ∧ inMain (codecSrc raw i) ((d i).size + 128)
      ∧ apart (codecSrc raw i) 16 (cf raw 40 0 43) (cf raw 36 0 32 * cf raw 20 0 32))
    (hdst : inMain (cf raw 40 0 43) (cf raw 36 0 32 * cf raw 20 0 32)) :
    ∃ u, exec (.tcodec q) s = .next u ∧ commandDone u q c 0
      ∧ memBut (cf raw 40 0 43) (cf raw 36 0 32 * cf raw 20 0 32) s u ∧ u.troughs = s.troughs
      ∧ ∀ i, i < cf raw 20 0 32 → ∃ r, TileOf (d i) r
          ∧ memHolds (cf raw 40 0 43 + cf raw 36 0 32 * i) (codecBytes (cf raw 16 0 1) r) u := by
  obtain ⟨⟨⟩, e, hrun, hrows⟩ := tcodecBody_ends (c := c) hmem hd hfit hdst
  have hend : bodyEnds s q c tcodecBody e := by
    subst hraw
    exact (tcodecBody_run _).trans hrun
  obtain ⟨hexec, hdone, -, htroughs, hbytes⟩ :=
    tcodec_row hcmd hraw hend hrows.bad (hrows.cmd.waits.trans hwaits)
  refine ⟨_, hexec, hdone, hbytes hmem.1 fun i hi => (hfit i hi).2.2, htroughs, fun i hi => ?_⟩
  obtain ⟨_, ⟨r, hr, rfl⟩, hheld⟩ := hrows.rows i (List.mem_range.mpr hi)
  exact ⟨r, hr, hheld⟩

end Sys2Proof.Machine
end

section
/-! The statement about the trough's commands. -/

namespace Sys2Proof.Machine

open Sys2Proof

/-- What the messages of the three forms of TEXCH carry. -/
theorem texchMsg_carries (s : State) (q seq k dev : Nat) {row : Nat × (Nat → Instr) × TroughKind} (hrow : row ∈ texchRows) :
    let m := texchMsg s q seq row.2.2 (k, dev)
    let x := s.trough (hPond (homeOfQ s q))
    (row.1 ≠ 1 → m.e = (keySum x k).e ∧ m.nf = (keySum x k).nf)
      ∧ (row.1 = 2 → m.w = (keySum x k).w ∧ m.count = (keySum x k).count) := by
  simp only [texchRows, List.mem_cons, List.not_mem_nil, or_false] at hrow
  rcases hrow with rfl | rfl | rfl
  · exact ⟨fun _ => ⟨rfl, rfl⟩, fun h => nomatch h⟩
  · exact ⟨fun h => absurd rfl h, fun h => nomatch h⟩
  · exact ⟨fun _ => ⟨rfl, rfl⟩, fun _ => ⟨rfl, rfl⟩⟩

/-- The two forms of TSCAT send what their messages' kinds name. -/
theorem segMsg_kind (s : State) (q seq key : Nat) (els : List Nat) {row : Nat × (Nat → Instr) × TroughKind}
    (hrow : row ∈ tscatRowsOf) : (segMsg s q seq (row.1 == 1) key els).kind = row.2.2 := by
  simp only [tscatRowsOf, List.mem_cons, List.not_mem_nil, or_false] at hrow
  rcases hrow with rfl | rfl <;> rfl

/-- Settles O36: TRESET empties its trough, TSCAT and TEXCH send a message per segment or remote key and await its answer,
TMERGE stores its rows and leaves its keys to its retirement, and TCODEC keeps to its destination tiles; on error-free main
memory each program comes to its end. -/
theorem troughCommands : Obligations.TroughCommands := by
  unfold Obligations.TroughCommands
  refine ⟨?_, ?_, ?_, ?_, ?_, ?_, ?_, ?_, ?_⟩
  · intro s q c hcmd p
    refine ⟨fun hlive hwaits => ?_, fun hlive hwaits => treset_row_of_live hcmd hlive hwaits⟩
    obtain ⟨u, hexec, hdone, htrough, hrest⟩ := treset_row hcmd rfl hlive hwaits
    refine ⟨u, hexec, hdone, ?_, ?_, ?_, ?_, hrest⟩ <;> rw [htrough] <;> rfl
  · intro s q c e hcmd hend row hrow hop
    obtain ⟨u, l, c', hexec, hsent, hmsgs, haux⟩ := tscat_row hrow hcmd hop hend
    refine ⟨u, l, c', hexec, hsent.tmsgs, hsent.found, hsent.raw, fun m hm => ?_, hsent.stage, hsent.waits, hsent.done,
      hsent.running, haux, hsent.troughs, hsent.regs⟩
    obtain ⟨idx, g, els, rfl⟩ := hmsgs m hm
    have hkind : cf c.raw.toNat 16 1 2 < 2 ^ 2 := Nat.mod_lt _ (by decide)
    exact ⟨segMsg_kind _ _ _ _ _ hrow, rfl, rfl, rfl, rfl, rfl, rfl, rfl, keyKind_mkKey (by omega) _ _ _,
      keyTgt_mkKey (Nat.mod_lt _ (by decide)) _ _ _⟩
  · intro s q c e row hrow hcmd hop hend x
    obtain ⟨u, l, c', hexec, hsent, hmsgs⟩ := texch_row hrow hcmd hop hend
    refine ⟨u, l, c', hexec, hsent.tmsgs, hsent.found, hsent.raw, fun m hm => ?_, hsent.stage, hsent.waits, hsent.done,
      fun h => (hsent.running h).1, hsent.troughs, hsent.regs⟩
    obtain ⟨k, dev, hfar, rfl, hk⟩ := hmsgs m hm
    exact ⟨rfl, rfl, rfl, rfl, rfl, hfar, hk, texchMsg_carries s q c.seq k dev hrow⟩
  · intro s q c e hcmd hend hbad hwaits p
    obtain ⟨c', ks, hexec, hfound, -, hraw, hphase, hfx, hks, htroughs, hregs⟩ := tmerge_row hcmd hend hbad hwaits
    exact ⟨_, c', ks, hexec, hfound, hraw, hphase, hfx, hks, htroughs, hregs⟩
  · intro s q c e hcmd hend hbad hwaits n src ss ds dst
    obtain ⟨hexec, hdone, hregs, htroughs, hbytes⟩ := tcodec_row hcmd rfl hend hbad hwaits
    refine ⟨_, hexec, hdone, hregs, htroughs, fun ht hapart => hbytes ht fun i hi => ?_⟩
    have hstep : ss * i ≤ ss * n := Nat.mul_le_mul_left _ (Nat.le_of_lt hi)
    exact hapart.imp (fun h => by show src + ss * i + 16 ≤ dst; omega) fun h => by show dst + ds * n ≤ src + ss * i; omega
  · intro s q c hcmd _ hmem raw kind eb elems pitch n src l hkind himode hindex hsrc
    obtain ⟨u, c', hexec, hsent, hkept⟩ := tscat_row_of_list hcmd hmem hkind himode hindex hsrc
    exact ⟨u, c', hexec, hsent.tmsgs, hsent.found, hsent.raw, hsent.stage, hsent.waits, hsent.done,
      fun h => (hsent.running h).1, hsent.troughs, hkept⟩
  · intro s q c y dev base hcmd _ hmem row hrow tgt d hop hloaded hmain hok howner
    obtain ⟨u, l, c', hexec, hsent, hkeys, hmsgs, hkept⟩ :=
      texch_row_of_oneOwner hrow hcmd hop hmem rfl rfl hloaded hmain hok howner
    exact ⟨u, l, c', hexec, hsent.tmsgs, hsent.found, hsent.raw, hkeys, hmsgs, hsent.stage, hsent.waits, hsent.done,
      fun h => (hsent.running h).1, hsent.troughs, hkept⟩
  · intro s q c hcmd hwaits hmem raw p f eb tgt elems pitch zfill at_ idxs hdense hroom hmain
    have hkeys : mergeKeys s q raw = committedKeys (s.trough p) 1 tgt := by rw [mergeKeys, hdense]
    have hidx (i : Nat) : i ∈ mergeIdxs s q raw ↔ i ∈ idxs := by rw [mergeIdxs, mem_nubN, hkeys]
    obtain ⟨u, c', e₁, hexec, hfound, hraw, hphase, hfx, htroughs, hrows, hbytes⟩ := tmerge_row_of_dense hcmd hwaits hmem
      rfl hdense hroom fun i hi => hmain i (hi.imp_left (hidx i).mp)
    rw [hkeys] at hfx
    refine ⟨u, c', hexec, hfound, hraw, hphase, hfx, fun i hi k hk => ?_, fun i hz hn hi k hk => ?_, fun b hb => ?_, htroughs⟩
    · exact (hbytes _).trans (hrows.rows i ((hidx i).mpr hi) k hk)
    · exact (hbytes _).trans (hrows.zeros hz i (mem_zeroRows.mpr ⟨hn, mt (hidx i).mp hi⟩) k hk)
    · exact (hbytes b).trans (hrows.outside b fun i hi => hb i (hi.imp_left (hidx i).mp))
  · intro s q c hcmd hwaits hmem raw n src ds dst d hfit hdst
    have htaken (i : Nat) (hi : i < n) : codecOk (cf raw 16 0 1) ds (d i) = true ∧ inMain (src i) ((d i).size + 128)
        ∧ apart (src i) 16 dst (ds * n) := by
      obtain ⟨hok, hsp, hbase, hform, hsize, hmain, hapart⟩ := hfit i hi
      refine ⟨?_, hmain, hapart⟩
      simpa [codecOk, hok, hsp, hbase] using ⟨hform, hsize⟩
    obtain ⟨u, hexec, hdone, hbytes, htroughs, htiles⟩ :=
      tcodec_row_of_fits (d := d) hcmd rfl hwaits hmem (fun _ => rfl) htaken hdst
    refine ⟨u, hexec, hdone, hbytes, htroughs, fun hop i hi => ?_, fun hop i hi => ?_⟩
    all_goals
      obtain ⟨r, hr, hheld⟩ := htiles i hi
      rw [hop] at hheld
    · exact hr.desc ▸ memHolds_descBytes_of_dense hheld
    · exact hr.desc ▸ memHolds_descBytes_of_compressed hheld

end Sys2Proof.Machine
end
